-- ==== Sys2Proof/Word.lean ====
section
/-! DEFINITION. The words of the Garath Celut: bytes, 32-bit register words and 64-bit words (R5, R6),
and the index types of the parts the package holds (R9, R10, R19, R25). -/

namespace Sys2Proof

/-- One byte (R6). -/
abbrev Byte := BitVec 8

/-- A 32-bit register word (R475). -/
abbrev Word := BitVec 32

/-- A 64-bit word. -/
abbrev Word64 := BitVec 64

/-- A clock region: 0 Q0W, 1 Q0E, ..., 7 Q3E (R10, R47). -/
abbrev Region := Fin 8

/-- A compute die Q0 to Q3 (R20). -/
abbrev Die := Fin 4

/-- A site number i = 1,440 d + 36 y + x (R475). -/
abbrev SiteIx := Fin 5760

/-- An HBM stack (R19, R25). -/
abbrev StackIx := Fin 8

/-- A Vexlink port (R25, R331). -/
abbrev PortIx := Fin 12

/-- A host command ring or completion ring (R381). -/
abbrev RingIx := Fin 16

end Sys2Proof
end

