-- ==== Sys2Proof/Syntax.lean ====
section
/-! DEFINITION. The commands of the block: one constructor of `Instr` for each row of spec/opcode_table.json,
in the table's order. A row that a host packet carries takes the packet's ring and SEQ; a row that a unit, a pilot or
a port carries out takes the place. Operands of events carry what the environment found. -/

namespace Sys2Proof

/-- A command packet, by its command ring and sequence number (R390). -/
structure CmdId where
  ring : RingIx
  seq : Word
  deriving DecidableEq, Repr

/-- The three networks of the switch fabric (R67). -/
inductive Net where
  | vector | scalar | control
  deriving DecidableEq, Repr

/-- A store that a row scrubber reads (R273, R379, R465). -/
inductive ScrubStore where
  | unit (u : SiteIx)
  | ringSram
  | logbook
  deriving DecidableEq, Repr

/-- What a plane scrubber reads (R444): plane 0 unit active, 1 unit idle, 2 switch active, 3 switch idle of a site,
or the plane store or program store of a region. -/
inductive PlaneStore where
  | plane (u : SiteIx) (which : Fin 4)
  | planeStore (r : Region)
  | programStore (r : Region)
  deriving DecidableEq, Repr

/-- What both ends of a link bring to training, and what it finds (R334, R335, R366). -/
structure Training where
  modes : BitVec 3
  versions : BitVec 2
  good : BitVec 4
  reversed : Bool
  polarity : BitVec 4
  delayPs : Word
  deriving DecidableEq, Repr

/-- Why an ON port retrains (R337). -/
inductive RetrainCause where
  | lostLock | replaysFailed | fecErrors (codewords : Nat)
  deriving DecidableEq, Repr

/-- The link header of an arriving frame, and what its receiver finds (R338, R339): whether it passed FEC and CRC; which
of a bulk transaction's flits come with it, a first one and how many, or all of them; how many codewords the FEC has
corrected or found uncorrectable in it; and whether its TYPE is a reserved code. `lseq` is that of the first flit. -/
structure FrameHdr where
  hops : BitVec 8
  dest : BitVec 18
  src : BitVec 18
  lseq : BitVec 12
  good : Bool
  part : Option (Nat × Nat)
  corrected : Nat
  uncorrectable : Nat
  reserved : Bool
  deriving DecidableEq, Repr

/-- The answer to a placement (R302, R363). -/
inductive PlaceResult where
  | ok | nak | closed | size
  deriving DecidableEq, Repr

/-- A bulk transaction: the header of R340 and its data bytes (LEN is their number). -/
structure Txn where
  tid : Word64
  address : Word64
  op : BitVec 8
  xfer : Word
  poison : Word64
  data : List Byte
  deriving DecidableEq, Repr

/-- What the power sequencer measures before it enables a rail (R490): rails found SHORT, the two reference clocks
in kHz, and diodes in FAULT (bits 3:0 dies, bit 4 hub). -/
structure PowerUp where
  short : BitVec 19
  khz0 : Nat
  khz1 : Nat
  diodeFault : BitVec 5
  deriving DecidableEq, Repr

/-- The commands of the block, one for each row of spec/opcode_table.json. -/
inductive Instr where
  /-- HWR (R376). The host writes 4 to 256 bytes at a window offset, and the hub applies the writes in arrival order. -/
  | hwr (off : Nat) (bytes : List Byte)
  /-- HRD (R376). The host reads a window range; the hub returns an HRD_CPL that includes every earlier HWR, or zeros with UNMAPPED. -/
  | hrd (off : Nat) (len : Nat) (tag : Fin 256)
  /-- HOST_TIME_READ (R410). A read of HOST_TIME_LO returns bits 31:0 of hub time and latches bits 63:32 into HOST_TIME_HI. -/
  | hostTimeRead (tag : Fin 256)
  /-- DOORBELL (R383). A write to HOST_CMD_TAIL stores the new tail if the ring is ON and the value is below ENTRIES; otherwise it is ignored and counted. -/
  | doorbell (q : RingIx) (v : Word)
  /-- CPL_HEAD_WRITE (R384). The host writes a completion ring's head, which frees entries; a value of ENTRIES or more is ignored and counted as a doorbell error. -/
  | cplHeadWrite (q : RingIx) (v : Word)
  /-- RESUME (R390). Writing 1 to RESUME while a ring is held sets its head to NEW_HEAD and clears HELD; it is ignored if NEW_HEAD is too large. -/
  | resume (q : RingIx) (v : Word)
  /-- REGISTER_WRITE (R11). A write to any other register field takes effect by its access type: RW, W1C, W1S or RWL. -/
  | registerWrite (off : Nat) (v : Word)
  /-- DRD_CPL (R377). The host returns data for a device read; ABORT fails the issuing command with MEM_HOST_ABORT. -/
  | drdCpl (tag : Fin 512) (abort : Bool) (bytes : List Byte)
  /-- DRD_TIMEOUT (R377). No DRD_CPL arrives within 1 ms of its DRD, so the issuing command fails with MEM_HOST_ABORT. -/
  | drdTimeout (tag : Fin 512)
  /-- UCIE_TRAIN (R374). A UCIe module finishes training after reset or after a drop, with the width and rate recorded in HOST_LINK, and overdue notifications are sent. -/
  | ucieTrain (m : Fin 2) (full : Bool) (rate : Fin 7) (partner : Fin 4)
  /-- UCIE_MODULE_DROP (R374). A module drops out; copies to or from host memory fail with MEM_HOST_ABORT, and the module starts retraining. -/
  | ucieModuleDrop (m : Fin 2)
  /-- PACKET_TAKE (R390). On a visit to a ring that is ON and not held, the device takes one packet: it checks the header and CRC, advances the head and sorts the packet by SEQ. -/
  | packetTake (q : RingIx)
  /-- COMMAND_START (R392). A taken command starts once the exclusivity, family and FENCE rules allow, and firmware runs the checks of R391. -/
  | commandStart (id : CmdId)
  /-- COMPLETION_WRITE (R384). The device writes a waiting completion once the completion ring has room, enters it in the cache and updates the tail. -/
  | completionWrite (q : RingIx)
  /-- NOTIFY_INTERVAL_END (R386). A ring's INTERVAL ends after packets arrived during it, so the device sends the NOTIFY that it held back. -/
  | notifyIntervalEnd (q : RingIx)
  /-- HELLO (R398). Agrees the highest protocol version that both sides support and returns the stepping, release and identity. -/
  | hello (id : CmdId)
  /-- STATUS (R401). Returns the loader, the comb set and tick state, the power state and the halt information. -/
  | status (id : CmdId)
  /-- FACTORY_MAP (R32). Returns the 776-byte factory map. -/
  | factoryMap (id : CmdId)
  /-- ROM_READ (R402). Returns bytes of an activation table or a function ROM table. -/
  | romRead (id : CmdId)
  /-- HRING_CREATE (R408). Creates a command or completion ring in the free area and sets its head, tail, NEXT or phase. -/
  | hringCreate (id : CmdId)
  /-- HRING_DESTROY (R408). Moves a host ring to STOPPING; the command completes once the ring reaches OFF. -/
  | hringDestroy (id : CmdId)
  /-- HRING_OFF (R408). A stopping host ring reaches OFF after its commands or waiting completions are done, and any pending create opens the ring. -/
  | hringOff (cpl : Bool) (q : RingIx)
  /-- EVENT_ROUTE (R404). Selects which events are posted as unsolicited packets, and on which ring. -/
  | eventRoute (id : CmdId)
  /-- DEV_RESET (R403). With the right CONFIRM value, writes its completion and schedules a reset 1 ms later. -/
  | devReset (id : CmdId)
  /-- DEVICE_RESET (R403). 1 ms after DEV_RESET, the device resets as a RESET_N pulse does and abandons every command. -/
  | deviceReset
  /-- MEM_COPY (R405). Copies data between host memory, ring SRAM, HBM and chart addresses, and propagates poison. -/
  | memCopy (id : CmdId)
  /-- MEM_FILL (R405). Fills ring SRAM or HBM with a repeating pattern. -/
  | memFill (id : CmdId)
  /-- COMB_LOAD (R45). Checks a comb set image in the order of R500 and R45, then loads its plane stores and measures it. -/
  | combLoad (id : CmdId)
  /-- COMB_VERIFY (R45). Makes every load-time check on an image and loads nothing. -/
  | combVerify (id : CmdId)
  /-- COMB_ACTIVATE (R43). Clears flags, barriers, counters, channels and shape registers, loads the ENTRY comb and makes the set ACTIVE. -/
  | combActivate (id : CmdId)
  /-- COMB_UNLOAD (R44). Empties the comb set where its state allows it. -/
  | combUnload (id : CmdId)
  /-- COMB_STATUS (R44). Returns the comb set state, the active comb and the halting region. -/
  | combStatus (id : CmdId)
  /-- TICK_CONFIG (R50). Sets the tick period, source, window, overrun policy and report ring. -/
  | tickConfig (id : CmdId)
  /-- TICK_START (R54). Moves the tick from OFF to STARTING, or accepts the start as pending during STOPPING. -/
  | tickStart (id : CmdId)
  /-- TICK_STOP (R54). Moves the tick to STOPPING, or to OFF at once in STARTING; the command completes at OFF. -/
  | tickStop (id : CmdId)
  /-- TICK_STAGE (R56). Stages shape-register values for a named tick. -/
  | tickStage (id : CmdId)
  /-- TICK_STATUS (R54). Returns the tick state, the tick number and the tick counters. -/
  | tickStatus (id : CmdId)
  /-- FLAG_WRITE (R285). Sets or clears one flag from the host, and completes once the change is visible on every die. -/
  | flagWrite (id : CmdId)
  /-- BARRIER_CONFIG (R286). Configures or disables a barrier group, and clears its flags and round count. -/
  | barrierConfig (id : CmdId)
  /-- COUNTER_CONFIG (R290). Configures or disables an event counter. -/
  | counterConfig (id : CmdId)
  /-- RING_CREATE (R306). Creates a message receive ring with its inbox, or accepts the create as pending. -/
  | ringCreate (id : CmdId)
  /-- RING_DESTROY (R306). Moves a message ring to STOPPING; the command completes at OFF. -/
  | ringDestroy (id : CmdId)
  /-- CHAN_OPEN (R306). Opens a message endpoint, or accepts the open as pending. -/
  | chanOpen (id : CmdId)
  /-- CHAN_CLOSE (R306). Moves an endpoint to STOPPING and cancels any pending retry; the command completes at OFF. -/
  | chanClose (id : CmdId)
  /-- CHAN_STATUS (R306). Returns the record and registers of one endpoint or ring. -/
  | chanStatus (id : CmdId)
  /-- ENDPOINT_OFF (R306). A stopping endpoint reaches OFF once its operation in progress completes, and any pending open takes effect. -/
  | endpointOff (d : Die) (e : Fin 64)
  /-- RING_OFF (R306). A stopping message ring reaches OFF once its copies complete and its messages are discarded, and any pending create takes effect. -/
  | ringOff (d : Die) (g : Fin 64)
  /-- LEEWAY_SET (R417). Sets the leeway L and makes the target state shallower if needed. -/
  | leewaySet (id : CmdId)
  /-- PWR_STATE (R417). Sets the target power state T within the leeway, and completes once the device reaches the selected state. -/
  | pwrState (id : CmdId)
  /-- PWR_REGION (R418). Sets a region's frequency ceiling, which stops or starts the region. -/
  | pwrRegion (id : CmdId)
  /-- PWR_STATUS (R494). Returns the power registers and the rail, clock and diode status. -/
  | pwrStatus (id : CmdId)
  /-- PWR_LIMIT (R427). Sets the package power limit that triggers the emergency. -/
  | pwrLimit (id : CmdId)
  /-- HLT_READ (R425). Returns the thermal, voltage or process monitor readout. -/
  | hltRead (id : CmdId)
  /-- DEVCARD_LOAD (R437). Checks and applies a deviation card, and updates its measurement. -/
  | devcardLoad (id : CmdId)
  /-- WATCHDOG_SET (R236). Sets the stall and wait watchdog limits of the named regions from the next strike. -/
  | watchdogSet (id : CmdId)
  /-- INPUT_CLEAR (R433). Clears INPUT_STUCK latches for inputs that are deasserted. -/
  | inputClear (id : CmdId)
  /-- HLT_THRESH (R426). Sets the thermal, droop and HBM thresholds. -/
  | hltThresh (id : CmdId)
  /-- FW_LOAD (R456). Copies, verifies and possibly commits a signed firmware image, then starts it or fails into the recovery loader. -/
  | fwLoad (id : CmdId)
  /-- ATTEST (R461). Returns a signed attestation report over the measurement registers and the nonce. -/
  | attest (id : CmdId)
  /-- CERT_READ (R459). Returns part of a stored certificate. -/
  | certRead (id : CmdId)
  /-- SEC_STATUS (R462). Returns the release, rollback counter, image flags, fuse state and record count. -/
  | secStatus (id : CmdId)
  /-- VXL_PORT_CONFIG (R336). Sets the allowed lane modes, offered versions and minimum width of an OFF port. -/
  | vxlPortConfig (id : CmdId)
  /-- VXL_PORT_ENABLE (R336). Moves a port to STARTING so that it trains, or accepts the enable as pending. -/
  | vxlPortEnable (id : CmdId)
  /-- VXL_PORT_DISABLE (R336). Moves a port to STOPPING; it waits for acknowledgements and then drops the link. -/
  | vxlPortDisable (id : CmdId)
  /-- PORT_OFF (R336). A stopping port has its frames acknowledged, or its 10 µs run out, so it drops the link, goes OFF and starts any pending enable. -/
  | portOff (p : PortIx)
  /-- VXL_SET_ID (R343). Gives the device its device number while every port is OFF. -/
  | vxlSetId (id : CmdId)
  /-- VXL_BEARING_SET (R346). Writes bearing table entries. -/
  | vxlBearingSet (id : CmdId)
  /-- VXL_MCAST_SET (R359). Records a multicast alias and its receivers in a group. -/
  | vxlMcastSet (id : CmdId)
  /-- VXL_MCAST_COPY (R362). Runs a multicast transfer from local HBM to an alias, and completes with OK, PARTIAL or VXL_ALL_PRUNED. -/
  | vxlMcastCopy (id : CmdId)
  /-- VXL_E2E_CONFIG (R353). Sets TIMEOUT, RETRIES, GRANT_LIMIT and MCAST_LAG. -/
  | vxlE2eConfig (id : CmdId)
  /-- VXL_STATUS (R400). Returns the VXL_ registers. -/
  | vxlStatus (id : CmdId)
  /-- VXL_TICK_ROLE (R367). Sets the device's role in swarm tick distribution. -/
  | vxlTickRole (id : CmdId)
  /-- LOG_READ (R472). Copies a logbook range to host memory, and stops if the writer overtakes it. -/
  | logRead (id : CmdId)
  /-- LOG_STREAM (R474). Starts or stops streaming the logbook to an HBM range. -/
  | logStream (id : CmdId)
  /-- COUNTER_READ (R475). Returns words of the counter space, each sampled whole. -/
  | counterRead (id : CmdId)
  /-- LOG_STATUS (R473). Returns the logbook positions, the drop counts and the stream state. -/
  | logStatus (id : CmdId)
  /-- TICK_TIMER_STRIKE (R50). The hub's tick timer expires in INTERNAL mode, so the tick strikes, is skipped or is held under the overrun policy. -/
  | tickTimerStrike
  /-- TICK_IN_EDGE (R52). A filtered rising edge on TICK_IN strikes inside the window, or is counted in TICK_EARLY if it comes before the window. -/
  | tickInEdge
  /-- FALLBACK_STRIKE (R52). The window closes with no edge or swarm strike, so the device strikes from its timer and counts TICK_MISSING. -/
  | fallbackStrike
  /-- PILOT_STRIKE (R51). A strike reaches a pilot, which loads staged values and starts the ENTRY comb's program at its next clk edge. -/
  | pilotStrike (r : Region)
  /-- CAUGHT_UP_TICK_START (R62). A strike held under CATCH_UP starts its tick once the end-of-tick swap completes, with the started-late flag set. -/
  | caughtUpTickStart
  /-- MASTER_STRIKE (R367). A swarm master strikes at T + LEAD after sending STRIKE frames on its DOWN ports. -/
  | masterStrike
  /-- EOC_MARKER (R57). An end-of-comb marker reaches the pilot; once it holds all of them and has reached SWAP, the pilot sets its drain flag. -/
  | eocMarker (u : SiteIx)
  /-- SWAP_TARGET (R228). A swap target and EOT arrive on the pilot ring; the pilot compares them or learns the target, and a mismatch stops its region. -/
  | swapTarget (r : Region)
  /-- SWAP_ISSUE (R57). A pilot holds every drain flag it needs and its plane load has finished, so it issues the swap and its queues close and discard. -/
  | swapIssue (r : Region)
  /-- SWAP_COMPLETE (R57). At the stamped switch clk, every unit switches planes, the epoch changes and the state of R42 takes effect. -/
  | swapComplete (r : Region)
  /-- PLANE_LOAD_DONE (R41). A region's plane loader finishes writing the next comb into the idle planes, which releases a waiting swap. -/
  | planeLoadDone (r : Region)
  /-- WORD_SEND (R72). A switch output sends one word, or an in-network sum, from the inputs that its route entry selects, when heads and a credit are present. -/
  | wordSend (u : SiteIx) (net : Net) (out : Fin 6) (lane : Fin 4)
  /-- SEAM_ARRIVAL (R82). A word or token finishes crossing a seam and enters the receiving buffer or the hold buffer. -/
  | seamArrival (u : SiteIx) (port : Fin 6) (net : Net) (v : Fin 8)
  /-- SEAM_RELOCK_DONE (R83). After an emergency frequency change, seam links finish relocking and continue in the new mode. -/
  | seamRelockDone (d : Die)
  /-- BRIDGE_WORD_ARRIVAL (R87). A bridge word arrives at the receiving IOU and is checked; a failure requests a retry, and four failures declare the channel failed. -/
  | bridgeWordArrival (u : SiteIx) (port : Fin 6) (net : Net) (v : Fin 8) (ok : Bool)
  /-- STEP (R94). A STEP token raises a unit counter, which takes its bound action at its bound. -/
  | step (u : SiteIx) (lane : Fin 4)
  /-- BOUND (R95). A BOUND token sets a counter's bound from its next test. -/
  | bound (u : SiteIx) (lane : Fin 4)
  /-- DONE (R253). A DONE token ends a unit loop level, or completes an SU or IOU context's descriptor at its next packet boundary. -/
  | done (u : SiteIx) (lane : Fin 4)
  /-- BRANCH (R94). A BRANCH token moves a unit to a branch-table entry, or is discarded if the entry is unused. -/
  | branchTok (u : SiteIx) (lane : Fin 4)
  /-- ROUTE (R96). A ROUTE token makes a switch change its active bank from the next clk. -/
  | route (u : SiteIx) (lane : Fin 4)
  /-- STALL_WATCHDOG (R103). A region's stall count reaches its limit, so a stall snapshot is recorded and the region stops. -/
  | stallWatchdog (r : Region)
  /-- HALT_REPORT (R64). Once every region has stopped, firmware posts a tick report with TICK_HALTED. -/
  | haltReport
  /-- MMA (R131). Runs the issue checks and issues a native tile product, claiming a range-table entry; a failing check faults the MU. -/
  | mma (u : SiteIx)
  /-- VMMA (R145). Issues a Vex-menu tile product as an MMA on an accumulator slot. -/
  | vmma (u : SiteIx)
  /-- DRAIN (R136). Checks and starts draining an accumulator range through the output stage. -/
  | drain (u : SiteIx)
  /-- FENCE (R134). Holds the issue stage until every MMA has retired and no entry is draining. -/
  | fence (u : SiteIx)
  /-- LOOP (R117). Raises counters and branches to TARGET until CNT reaches its bound. -/
  | loop (u : SiteIx)
  /-- VEC (R118). Starts the MU vector program at an entry, and can wait for it to end. -/
  | vec (u : SiteIx)
  /-- END (R119). Waits for all MMAs, drains and the vector program to finish, then sends the end-of-comb marker. -/
  | endOp (u : SiteIx)
  /-- MU_NOP (R116). Takes one clk of the MU issue stage. -/
  | muNop (u : SiteIx)
  /-- MMA_RETIRE (R112). The last accumulator writeback of an MMA, with its residue check, retires the MMA. -/
  | mmaRetire (u : SiteIx)
  /-- DRAIN_COMPLETE (R138). The last word of a drain is written or accepted, the entry is freed and the flags are ORed into MU_FLAGS. -/
  | drainComplete (u : SiteIx)
  /-- VADD (R192). Lane-wise add. -/
  | vadd (u : SiteIx)
  /-- VSUB (R192). Lane-wise subtract. -/
  | vsub (u : SiteIx)
  /-- VMUL (R192). Lane-wise multiply. -/
  | vmul (u : SiteIx)
  /-- VFMA (R192). Lane-wise fused multiply-add into D. -/
  | vfma (u : SiteIx)
  /-- VMAX (R161). Lane-wise maximum. -/
  | vmax (u : SiteIx)
  /-- VMIN (R161). Lane-wise minimum. -/
  | vmin (u : SiteIx)
  /-- VABS (R192). Lane-wise absolute value. -/
  | vabs (u : SiteIx)
  /-- VNEG (R192). Lane-wise negation. -/
  | vneg (u : SiteIx)
  /-- VCMP (R199). Lane-wise comparison that writes 1 or 0. -/
  | vcmp (u : SiteIx)
  /-- VSEL (R192). Lane-wise select of B where A is not 0. -/
  | vsel (u : SiteIx)
  /-- VMOV (R192). Copies a register. -/
  | vmov (u : SiteIx)
  /-- VCVT (R199). Converts lanes between F32, I32 and U32. -/
  | vcvt (u : SiteIx)
  /-- VSHL (R192). Shifts lane bits left. -/
  | vshl (u : SiteIx)
  /-- VSHR (R192). Shifts lane bits right. -/
  | vshr (u : SiteIx)
  /-- VIOTA (R192). Writes each lane's index. -/
  | viota (u : SiteIx)
  /-- VBCAST (R192). Broadcasts a scalar to every lane. -/
  | vbcast (u : SiteIx)
  /-- VEXT (R192). Extracts one lane into a scalar register. -/
  | vext (u : SiteIx)
  /-- VFN (R204). Computes a special function on F32 lanes in a function pipeline. -/
  | vfn (u : SiteIx)
  /-- VRED (R200). Reduces the lanes into scalar registers by SUM, SUMSQ, MAX, MIN, COUNT, ARGMAX, ARGMIN or TOPK. -/
  | vred (u : SiteIx)
  /-- SARG (R202). Merges value and index pairs by ARGMAX or ARGMIN. -/
  | sarg (u : SiteIx)
  /-- SOP (R192). Scalar add, subtract, multiply, maximum or minimum. -/
  | sop (u : SiteIx)
  /-- VQNT (R205). Converts lanes through a scale slot and gathers the pass statistics. -/
  | vqnt (u : SiteIx)
  /-- SCLOSE (R206). Closes a slot's pass: a member sends its report, and a leader waits for the reports. -/
  | sclose (u : SiteIx)
  /-- SCALE_REPORT (R176). A member's four-word report arrives at its leader slot. -/
  | scaleReport (u : SiteIx) (slot : Fin 16)
  /-- SCALE_MESSAGE (R176). A PENDING or REDO scale message arrives at a member slot, which stores or adopts the scale. -/
  | scaleMessage (u : SiteIx) (slot : Fin 16)
  /-- SSCALE (R192). Reads a slot's active scale into a scalar register. -/
  | sscale (u : SiteIx)
  /-- VBQ (R207). Block-quantises 64 lanes and writes the scale byte. -/
  | vbq (u : SiteIx)
  /-- VBX (R207). Expands block-quantised lanes by their scale byte, or poisons the result for a reserved scale byte. -/
  | vbx (u : SiteIx)
  /-- VSUM (R208). Sends a scalar as a summary to the pilot. -/
  | vsum (u : SiteIx)
  /-- VLD (R193). Loads a vector from memory, widening its format. -/
  | vld (u : SiteIx)
  /-- VST (R193). Stores a vector to memory, packing its format. -/
  | vst (u : SiteIx)
  /-- SLD (R193). Loads N scalar words from memory. -/
  | sld (u : SiteIx)
  /-- SST (R193). Stores N scalar words to memory. -/
  | sst (u : SiteIx)
  /-- VRECV (R195). Receives a vector from the vector network. -/
  | vrecv (u : SiteIx)
  /-- VSEND (R195). Sends a vector to the vector network. -/
  | vsend (u : SiteIx)
  /-- SRECV (R194). Receives N scalar words from the scalar network. -/
  | srecv (u : SiteIx)
  /-- SSEND (R194). Sends scalar words to the scalar network. -/
  | ssend (u : SiteIx)
  /-- SLI (R192). Loads an immediate into a scalar register. -/
  | sli (u : SiteIx)
  /-- VLOOP (R189). Loop instruction of the vector program. -/
  | vloop (u : SiteIx)
  /-- SETVL (R184). Sets the vector length in one of three modes. -/
  | setvl (u : SiteIx)
  /-- SETIDX (R192). Sets the index base IDX. -/
  | setidx (u : SiteIx)
  /-- VNOP (R192). Takes one clk of the issue stage. -/
  | vnop (u : SiteIx)
  /-- VEND (R190). Ends the vector program once outstanding work completes; an SFU then sends its end-of-comb marker. -/
  | vend (u : SiteIx)
  /-- SETSH (R222). Writes a shape register from an immediate, a summary value or a summary count. -/
  | setsh (r : Region)
  /-- WAITF (R225). Starts waiting for a flag to hold SENSE. -/
  | waitf (r : Region)
  /-- WAITF_END (R218). The awaited flag holds SENSE at the pilot, so the wait ends and the next instruction issues. -/
  | waitfEnd (r : Region)
  /-- SETF (R216). Sets or clears a flag. -/
  | setf (r : Region)
  /-- WAITS (R218). Starts waiting for a summary register's count to reach COUNT. -/
  | waits (r : Region)
  /-- WAITS_END (R218). The summary count reaches COUNT, so the wait ends. -/
  | waitsEnd (r : Region)
  /-- BR (R226). Branches on a summary register comparison, with a LIMIT on backward branches. -/
  | br (r : Region)
  /-- LOOPP (R223). Raises a pilot loop counter and branches until its bound, clamping the bound if needed. -/
  | loopp (r : Region)
  /-- TOKEN (R224). Sends a control token on the system lane. -/
  | token (r : Region)
  /-- EVENT (R231). Raises a user event. -/
  | event (r : Region)
  /-- PUB (R220). Publishes a summary register to other pilots. -/
  | pub (r : Region)
  /-- CLRS (R220). Clears a range of summary registers. -/
  | clrs (r : Region)
  /-- WAITC (R218). Waits COUNT clk. -/
  | waitc (r : Region)
  /-- WAITC_END (R218). The WAITC count expires, so the next instruction issues. -/
  | waitcEnd (r : Region)
  /-- SWAP (R228). Waits for the end-of-comb markers, then sends the target on the pilot ring and sets the drain flag. -/
  | swap (r : Region)
  /-- PILOT_NOP (R216). Takes one clk of the pilot issue stage. -/
  | pilotNop (r : Region)
  /-- SUMMARY_ARRIVAL (R221). A summary from a VSUM, an SCLOSE or a PUB reaches a register and combines by its operation. -/
  | summaryArrival (r : Region)
  /-- LOCKSTEP (R234). The two copies of a pilot differ, so no output leaves, the mismatch is recorded and the region stops. -/
  | lockstep (r : Region) (groups : BitVec 8)
  /-- EVENT_RECEIVE (R231). The hub receives an event, records it in the logbook, counts it in the tick report and posts it if routed. -/
  | eventReceive (src : Fin 9)
  /-- FLAG_CHANGE (R280). In a home clk, the home applies the clears and then the sets that arrived, and evaluates barriers and counters. -/
  | flagChange (d : Die)
  /-- WAIT_WATCHDOG (R294). A wait reaches its limit, so a wait record is written and the region stops. -/
  | waitWatchdog (r : Region)
  /-- HOME_STOP (R295). After a halt, a home applies its outstanding changes and stops within 80 ns of the last region stop. -/
  | homeStop (d : Die)
  /-- CHAN_SEND (R301). The engine takes up a send, reads the outbox header and attempts placement, which ends in delivery, failure or a NAK. -/
  | chanSend (d : Die) (e : Fin 64)
  /-- SEND_RETRY (R301). A send's backoff ends, so the engine attempts placement again. -/
  | sendRetry (d : Die) (e : Fin 64)
  /-- PLACEMENT_REQUEST (R296). A placement request from another die arrives at the engine that holds the ring. -/
  | placementRequest (d : Die)
  /-- PLACEMENT_REPLY (R304). The reply to a placement request from another die arrives at the sending engine. -/
  | placementReply (d : Die)
  /-- MESSAGE_COPY_DONE (R304). The last row of a message is written, so the message becomes deliverable and the sender's DONE is set. -/
  | messageCopyDone (d : Die)
  /-- RING_RELEASE (R303). The engine sees RELEASE, clears it and advances HEAD, or counts a misuse if the inbox is not full. -/
  | ringRelease (d : Die) (g : Fin 64)
  /-- PLACEMENT_TIMEOUT (R363). The rows of a remote placement are not written within 1 ms, so the header is poisoned and the message becomes deliverable. -/
  | placementTimeout (d : Die) (g : Fin 64)
  /-- DESCRIPTOR_START (R252). A context takes up a descriptor and checks its extent, or starts waiting on its WAIT_FLAG. -/
  | descriptorStart (u : SiteIx) (c : Fin 8)
  /-- DESCRIPTOR_WAIT_END (R252). A descriptor's wait flag holds SENSE, so it starts and may clear the flag. -/
  | descriptorWaitEnd (u : SiteIx) (c : Fin 8)
  /-- DESCRIPTOR_FETCH (R241). A descriptor fetched from SRAM arrives and is checked; a bad one takes DESC_FORMAT. -/
  | descriptorFetch (u : SiteIx) (c : Fin 8)
  /-- STREAM_READ (R242). Path A reads a row for a READ context and sends it as a word. -/
  | streamRead (u : SiteIx) (c : Fin 8)
  /-- STREAM_WRITE (R242). Path A writes an arriving word for a WRITE context. -/
  | streamWrite (u : SiteIx) (c : Fin 8)
  /-- STREAM_COPY (R241). Path B reads a COPY source row and writes its destination. -/
  | streamCopy (u : SiteIx) (c : Fin 8)
  /-- DESCRIPTOR_COMPLETE (R252). A descriptor moves its last element, sets DONE_FLAG and starts NEXT or ends its chain. -/
  | descriptorComplete (u : SiteIx) (c : Fin 8)
  /-- LANDING_PACKET (R262). A LAND context writes a landing packet's rows, and sets its flag on FINAL or counts an error. -/
  | landingPacket (u : SiteIx) (c : Fin 8)
  /-- WINDOW_RELEASE (R260). A Vexlink IOU sees a window's RELEASE flag set, clears it and frees the window. -/
  | windowRelease (u : SiteIx) (w : Fin 8)
  /-- PACKING_WRITE (R268). A 64-byte or narrow write enters a packing queue's open word, and a full word closes. -/
  | packingWrite (u : SiteIx) (v : Fin 8)
  /-- PACKING_READ (R271). The read side delivers a closed word and poisons it on a parity failure. -/
  | packingRead (u : SiteIx) (v : Fin 8) (toGrid : Bool)
  /-- SCRUB_READ (R273). A scrubber reads its next row in a free bank slot and corrects or records errors. -/
  | scrubRead (w : ScrubStore)
  /-- SCRUB_WRITEBACK (R274). A corrected row is written back in the first free write slot, unless the row has been rewritten. -/
  | scrubWriteback (w : ScrubStore)
  /-- PLANE_SCRUB_READ (R445). A plane or store scrubber reads a row and corrects it, reloads the plane, records the error or halts. -/
  | planeScrubRead (w : PlaneStore)
  /-- HBM_READ_RETURN (R324). A read burst returns clean, corrected, uncorrectable or poison-pattern data. -/
  | hbmReadReturn (k : StackIx)
  /-- HBM_WRITE_ACCEPT (R320). The controller accepts a write burst, merged for a partial write, which then counts as written. -/
  | hbmWriteAccept (k : StackIx)
  /-- PATROL_SCRUB (R326). The patrol scrub reads the next burst in an idle slot and rewrites it if corrected. -/
  | patrolScrub (k : StackIx)
  /-- INNER_COUNT_READ (R326). Every 10 ms, the controller adds the stack's correction count to HBM_INNER. -/
  | innerCountRead (k : StackIx) (n : Word)
  /-- HBM_TEMP_READ (R421). Every 1 ms, the power manager reads a stack's temperature, which may double refresh. -/
  | hbmTempRead (k : StackIx) (temp : BitVec 8)
  /-- SELF_REFRESH_ENTRY (R328). When its queues are empty, a controller puts its stack into self-refresh. -/
  | selfRefreshEntry (k : StackIx)
  /-- SELF_REFRESH_EXIT (R328). A stack finishes retraining after Deep and takes accesses again. -/
  | selfRefreshExit (k : StackIx)
  /-- HBM_TRAIN (R329). At boot, a stack trains, is checked and zeroed, and becomes ready or offline. -/
  | hbmTrain (k : StackIx) (ok : Bool)
  /-- PORT_TRAINED (R334). A port finishes training with its agreed mode, width and version, and goes ON. -/
  | portTrained (p : PortIx) (t : Training)
  /-- PORT_RETRAIN (R337). An ON port loses lock, fails 16 replays or exceeds the FEC limit, so it retrains. -/
  | portRetrain (p : PortIx) (cause : RetrainCause)
  /-- RETRAIN_DONE (R337). A retrain succeeds and the port replays from its oldest unacknowledged frame. -/
  | retrainDone (p : PortIx) (t : Training)
  /-- RETRAIN_TIMEOUT (R337). A retrain fails for 100 ms, so the port drops its buffers, returns to STARTING and raises VXL_PORT_DOWN. -/
  | retrainTimeout (p : PortIx)
  /-- REPLAY_TIMEOUT (R338). No LINK_ACK covers a frame within 1 µs, so the sender replays. -/
  | replayTimeout (p : PortIx)
  /-- LINK_ACK (R338). A cumulative acknowledgement frees the replay buffer, or a replay request makes the sender replay. -/
  | linkAck (p : PortIx) (h : FrameHdr) (lseq : BitVec 12) (replay : Bool)
  /-- STRIKE (R367). A member takes a STRIKE frame from its UP port, strikes after LEAD_REM and forwards the frame. -/
  | strike (p : PortIx) (h : FrameHdr) (tick : Word) (leadRem : Word) (fallback : Bool) (residence : List Nat)
  /-- FLAG (R356). A remote flag write arrives and is applied at the die's home, or is refused. -/
  | flag (p : PortIx) (h : FrameHdr) (tid : BitVec 64) (chart : BitVec 64) (value : Bool)
  /-- ACK (R352). A transaction's acknowledgement arrives at its originator. -/
  | ack (p : PortIx) (h : FrameHdr) (tid : BitVec 64)
  /-- NAK (R352). A negative acknowledgement arrives, and the sender resends or fails the transaction. -/
  | nak (p : PortIx) (h : FrameHdr) (tid : BitVec 64) (reason : BitVec 8) (xfer : Word)
  /-- GRANT (R355). A credit grant, full or queued, arrives for a scratchpad write. -/
  | grant (p : PortIx) (h : FrameHdr) (tid : BitVec 64) (queued : Bool)
  /-- PRUNE (R361). A receiver is told that it was pruned from a multicast transfer, and discards that transfer. -/
  | prune (p : PortIx) (h : FrameHdr) (xfer : Word)
  /-- PLACE_RESP (R363). A remote placement result arrives, and the sending engine writes the rows. -/
  | placeResp (p : PortIx) (h : FrameHdr) (tid : BitVec 64) (result : PlaceResult) (row : BitVec 16)
  /-- READ_REQ (R344). A remote read request is answered with READ_DATA or a NAK. -/
  | readReq (p : PortIx) (h : FrameHdr) (tid : BitVec 64) (chart : BitVec 64) (len : BitVec 16)
  /-- CREDIT_REQ (R260). A window credit request is granted, queued or refused. -/
  | creditReq (p : PortIx) (h : FrameHdr) (tid : BitVec 64) (chart : BitVec 64) (rows : BitVec 16)
  /-- WITHDRAW (R355). A credit request is removed from the window's queue. -/
  | withdraw (p : PortIx) (h : FrameHdr) (tid : BitVec 64)
  /-- PLACE_REQ (R363). A remote placement request is placed, or answered from the kept result. -/
  | placeReq (p : PortIx) (h : FrameHdr) (tid : BitVec 64) (die : Die) (ring : Fin 64) (rows : BitVec 8)
  /-- REG_READ (R344). A remote register read is answered with REG_DATA. -/
  | regRead (p : PortIx) (h : FrameHdr) (tid : BitVec 64) (chart : BitVec 64) (len : BitVec 16)
  /-- WRITE (R354). A bulk write transaction is deduplicated and carried out into HBM, a landing window or flags, then acknowledged. -/
  | writeTxn (p : PortIx) (h : FrameHdr) (t : Txn)
  /-- READ_DATA (R357). Read data arrives and is delivered into the grid, or discarded if no longer outstanding. -/
  | readData (p : PortIx) (h : FrameHdr) (t : Txn)
  /-- REG_DATA (R339). Register data answering a remote register read arrives. -/
  | regData (p : PortIx) (h : FrameHdr) (t : Txn)
  /-- FORWARD_HOLD_EXPIRY (R347). A frame has waited 100 µs without a usable port, so it is discarded with UNREACHABLE. -/
  | forwardHoldExpiry (p : PortIx)
  /-- E2E_TIMEOUT (R353). No answer arrives within TIMEOUT, so the transaction is resent or abandoned. -/
  | e2eTimeout (tid : BitVec 64)
  /-- GRANT_LIMIT_EXPIRY (R355). No full grant arrives within GRANT_LIMIT, so the IOU sends WITHDRAW and fails with NO_GRANT. -/
  | grantLimitExpiry (tid : BitVec 64)
  /-- MCAST_LAG_EXPIRY (R361). A receiver alone has held a transfer for MCAST_LAG, so it is pruned. -/
  | mcastLagExpiry (xfer : Word) (dev : BitVec 18)
  /-- SOURCE_ENTRY_EXPIRY (R354). A source-table entry that has heard nothing for 1 ms is freed. -/
  | sourceEntryExpiry (dev : BitVec 18) (orig : BitVec 5)
  /-- DELAY_MEASURE (R366). Every 1 ms, a port measures its link's one-way delay. -/
  | delayMeasure (p : PortIx) (ps : Word)
  /-- SENSOR_READ (R421). Every 100 µs, the power manager reads the sensors and evaluates the warning, emergency and trip thresholds. -/
  | sensorRead (readings : List (Option (BitVec 16)))
  /-- TRIP_CLEAR (R430). Every sensor stays low for 100 ms, so TRIP clears and FAULT_N deasserts. -/
  | tripClear
  /-- EMERGENCY_STEP (R428). Within 2 µs of a first trigger, and every 1 ms while one holds, a die's regions step down one code. -/
  | emergencyStep (d : Die)
  /-- EMERGENCY_END (R429). The triggers stay clear for 1 ms, so the emergency ends. -/
  | emergencyEnd (d : Die)
  /-- PACKAGE_POWER_SAMPLE (R424). The 1 ms package power average is updated and compared with the limit. -/
  | packagePowerSample (deciwatts : Word)
  /-- VOLT_DROOP (R423). A supply excursion is counted, and logged with VOLT_LIMIT if it reaches DROOP_LIMIT. -/
  | voltDroop (r : Region) (lowest : BitVec 16)
  /-- OSCILLATOR_SAMPLE (R424). Every 10 ms, a region's ring-oscillator count is recorded. -/
  | oscillatorSample (r : Region) (count : Word)
  /-- GATING_END (R415). In Tick-idle, the gating ends at the time before the earliest next strike. -/
  | gatingEnd
  /-- WAKE_COMPLETE (R414). A wake from a power state ends, and waiting commands start. -/
  | wakeComplete
  /-- REGION_START (R418). A stopped region finishes starting after its ceiling is raised. -/
  | regionStart (r : Region)
  /-- TICK_IN (R432). An edge on TICK_IN passes the filter and rate limit. -/
  | tickInPin (high : Bool) (ns : Nat)
  /-- THROTTLE_N (R427). A filtered assertion or deassertion of THROTTLE_N starts or clears the external trigger. -/
  | throttleN (low : Bool) (ns : Nat)
  /-- WAKE (R434). An accepted WAKE assertion sets the target to Tick-idle. -/
  | wakePin (high : Bool) (ns : Nat)
  /-- INPUT_STUCK (R433). An input stays asserted past its stuck limit and is latched as deasserted. -/
  | inputStuck (i : Fin 3)
  /-- RESET_N_ASSERT (R497). RESET_N is asserted, which resets the device and may rerun power-up. -/
  | resetNAssert (ns : Nat)
  /-- RESET_N_DEASSERT (R452). RESET_N is deasserted, and the boot loader runs the boot sequence. -/
  | resetNDeassert (ns : Nat)
  /-- PWR_EN_ASSERT (R490). With VDD_AON valid, PWR_EN starts the power-up sequence of checks and enables. -/
  | pwrEnAssert (m : PowerUp)
  /-- DIODE_READY (R490). A die diode reads within range, so that die's rails are enabled. -/
  | diodeReady (i : Fin 4)
  /-- RAIL_ENABLE_CHECK (R490). 2 ms after an enable, a rail is within 3 % of its setpoint or is marked WINDOW. -/
  | railEnableCheck (k : Fin 19) (ok : Bool)
  /-- PWR_EN_DEASSERT (R496). PWR_EN deasserts, so the job halts and the rails power down in reverse order. -/
  | pwrEnDeassert
  /-- RAIL_OFF_STEP (R496). During power-down, the next rail turns off once the previous one falls or 5 ms pass. -/
  | railOffStep
  /-- RAIL_FAULT (R495). A rail stays out of window for 20 µs, or its regulator reports a fault, so it is turned off with its functions. -/
  | railFault (k : Fin 19)
  /-- PMB_ALERT (R495). PMB_ALERT_N is asserted, so the sequencer reads STATUS_WORD. -/
  | pmbAlert (k : Fin 19) (statusWord : BitVec 16)
  /-- CLOCK_RECOUNT (R491). Every 1 ms, the sequencer counts the reference clocks again and releases functions whose clock is good. -/
  | clockRecount (khz0 : Nat) (khz1 : Nat)
  /-- PLL_LOCK_LOSS (R447). A region PLL loses lock, so the job halts and CLOCK_LOSS is recorded. -/
  | pllLockLoss (r : Region)
  /-- REFCLK_LOSS (R447). A reference clock stops, so the hub moves to its oscillator, halts the job and asserts FAULT_N. -/
  | refclkLoss (i : Fin 2)
  /-- CLOCK_RECOVERED (R447). A clock runs without loss for 1 ms, and the refused commands are allowed again. -/
  | clockRecovered (src : Fin 3) (r : Region)
  /-- CP_LOCKSTEP (R448). The command processor or security pair disagrees, so the job halts and the command processor restarts in the recovery loader. -/
  | cpLockstep
  /-- CP_WATCHDOG (R448). The command-processor watchdog has not been serviced for 10 ms, so the restart follows. -/
  | cpWatchdog
  /-- LOG_ENTRY_WRITE (R467). The hub writes the next logbook entry from its queue, or drops it and later writes a lost marker. -/
  | logEntryWrite
  /-- LOG_STREAM_ROW (R474). The hub streams a complete logbook row to HBM in an idle slot, handling laps and the stop. -/
  | logStreamRow
  /-- HUB_LEAVES_RESET (R497). When RESET_N was deasserted before PWR_OK + 100 µs, the hub leaves reset at PWR_OK + 100 µs and the boot sequence of R452 starts then. -/
  | hubLeavesReset
  /-- VDD_AON_VALID (R490). VDD_AON has stayed within its range for 1 ms while PWR_EN is asserted, so the power-up sequence starts and SEQ_STATUS leaves 0x0. -/
  | vddAonValid (m : PowerUp)
  /-- FALLBACK_STRIKE_SEND (R369). A swarm member that will strike from its fallback timer sends its own STRIKE with FALLBACK set on its DOWN ports LEAD before that fallback strike. -/
  | fallbackStrikeSend
  deriving DecidableEq, Repr

end Sys2Proof
end

