-- ==== Sys2Proof/WellFormed.lean ====
section
/-! DEFINITION. Commands that the protocols allow: a host message follows R375, a trained module has a rate and a
partner of R372, a register offset lies in the HOST_
block, and a bulk transaction carries at most 4,032 bytes (R340). -/

namespace Sys2Proof

/-- HWR and HRD: 4 to 256 bytes, 4-byte aligned, not crossing a 256-byte boundary (R375). -/
def hostRangeOk (off len : Nat) : Bool :=
  off % 4 == 0 && len % 4 == 0 && decide (4 ≤ len) && decide (off % 256 + len ≤ 256)

/-- Data of a bulk transaction, and an OP that R340 gives its kind. -/
def Txn.wellFormed (t : Txn) (ops : List (BitVec 8)) : Bool :=
  decide (1 ≤ t.data.length) && decide (t.data.length ≤ 4032) && ops.contains t.op

/-- The flits that come with a bulk transaction of `bytes` data bytes are some of its own (R340). -/
def FrameHdr.partOk (h : FrameHdr) (bytes : Nat) : Bool :=
  match h.part with
  | none => true
  | some (first, n) => decide (1 ≤ n) && decide (first + n ≤ 1 + (bytes - 192 + 255) / 256)

/-- The operands of a command are those that its protocol admits. -/
def Instr.wellFormed : Instr → Bool
  | .hwr off bytes => hostRangeOk off bytes.length
  | .hrd off len _ => hostRangeOk off len
  | .registerWrite off _ => off % 4 == 0 && decide (off < 0x1000)
  | .drdCpl _ _ bytes => decide (bytes.length ≤ 256)
  | .ucieTrain _ _ rate partner => decide (1 ≤ rate.val) && decide (1 ≤ partner.val)
  | .writeTxn _ h t => t.wellFormed [1, 2] && h.partOk t.data.length
  | .readData _ h t => t.wellFormed [3] && h.partOk t.data.length
  | .regData _ h t => t.wellFormed [4] && h.partOk t.data.length
  | _ => true

end Sys2Proof
end

