-- ==== Sys2Proof/Machine/State.lean ====
section
/-! DEFINITION. The state of the Garath Celut as plain data: every register, store, queue and mode the spec gives the
part, and the queue of commands that wait. Arrays are tables sorted by index in which a missing index reads as that
part's reset value; stores are byte lists in canonical form. Bit widths are those of the register maps. -/

namespace Sys2Proof.Machine

/-- Why the machine stops with a fault. No command does: what the spec calls a fault of the part is an effect on the state
(a status, a record, an event, a stopped region), so this type has no constructor. -/
inductive Fault where
  deriving DecidableEq, Repr

/-- Why a command has no meaning. -/
inductive Refusal where
  /-- A row of the table that the model does not give a meaning. Safe: the run stops. -/
  | notModelled (mnemonic : String)
  /-- Raised by a command that fails `Instr.wellFormed` (WellFormed.lean): a message or frame that the protocol of
  R339, R340, R375 does not allow, so that the spec gives it no effect. Safe: the run stops. -/
  | illFormed
  deriving DecidableEq, Repr

/-- A table: index and value, indices rising; a missing index holds the part's default. -/
abbrev Tab (α : Type) := List (Nat × α)

/-- What the check bits of a 64-byte row or burst say of it (R238, R323): poison pattern, an error that the code
corrects, or one that it only detects. A row with no mark is clean. -/
inductive RowMark where
  | poison | correctable | uncorrectable
  deriving DecidableEq, Repr

/-- A store of bytes in 64-byte rows: the bytes that are not 0, addresses rising, and the rows that are not clean. -/
structure Mem where
  cells : List Host.Cell
  marks : Tab RowMark
  deriving DecidableEq, Repr

/-- A store right after boot: every byte 0 and every row clean (R379, R452, R465). -/
def Mem.reset : Mem := { cells := [], marks := [] }

/-! ### Words on the networks -/

/-- A word of the vector or scalar network or a control token, with its sideband (R68). A scalar word uses data bits
31:0 and a token bits 15:0, and their one parity bit is `parD` bit 0. -/
structure Item where
  data : BitVec 512
  epoch : BitVec 4
  vc : BitVec 3
  last : Bool
  poison : Bool
  ovf : Bool
  inv : Bool
  unf : Bool
  parD : BitVec 8
  parS : Bool
  deriving DecidableEq, Repr

/-- An input buffer of a switch, seam, bridge or tap port, or a queue, by network, port code and virtual channel or
lane (R71). -/
structure BufKey where
  net : Net
  port : Nat
  vc : Nat
  deriving DecidableEq, Repr

/-- One buffer: what it holds, the hold buffer beside it (R84), and the route entries that have taken its head (R72). -/
structure Buf where
  items : List Item
  hold : List Item
  taken : List Nat
  deriving DecidableEq, Repr

def Buf.reset : Buf := { items := [], hold := [], taken := [] }

/-- One of the four planes of a site (R40, R73): the unit image it holds, and what the check bits of its 64-byte rows say,
by row (R444, R445). -/
structure Plane where
  comb : Option Nat
  image : List Byte
  marks : Tab RowMark
  deriving DecidableEq, Repr

def Plane.reset : Plane := { comb := none, image := [], marks := [] }

/-- The switch of a site, its configuration planes and its LOG_SW_ registers (R67 to R77, R477). -/
structure Switch where
  active : Plane
  idle : Plane
  /-- What the check bits of the switch planes' rows say, by row (R444). -/
  swActive : Tab RowMark
  swIdle : Tab RowMark
  idleReload : Bool
  bank : Bool
  bufs : List (BufKey × Buf)
  /-- Next token of the region's system lane that the switch has not yet seen (R96). -/
  laneNext : Nat
  parity : BitVec 16
  framing : BitVec 16
  stale : BitVec 16
  sent : Tab Word
  holds : Tab Word
  holdsCtl : Tab Word
  /-- The clk, plus 1, in which an output last sent, by network and output: at most one word a clk (R70). -/
  lastSent : Tab Nat
  /-- The bank that becomes active in the next clk (R96). -/
  bankNext : Option Bool
  /-- Delay lines of vector entries, by entry: the clk in which each word entered and the word, oldest first (R75, R78). -/
  lines : Tab (List (Nat × Item))
  /-- ROUTE tokens at the L output that have not yet acted, each with its lane (R94). -/
  routeAt : List (Nat × Item)
  /-- Buffers that accept nothing more in this comb, since a packet has ended there after the swap was issued (R57). -/
  closed : List BufKey
  /-- The row that the plane scrubber reads next, by plane: 0 unit active, 1 unit idle, 2 switch active, 3 switch idle
  (R444). -/
  scrubRows : Tab Nat
  deriving DecidableEq, Repr

def Switch.reset : Switch :=
  { active := .reset, idle := .reset, swActive := [], swIdle := [], idleReload := false, bank := false, bufs := [],
    laneNext := 0, parity := 0, framing := 0, stale := 0, sent := [], holds := [], holdsCtl := [],
    lastSent := [], bankNext := none, lines := [], routeAt := [], closed := [], scrubRows := [] }

/-- An item that crosses a seam or a bridge (R82, R86): the receiving site, port and channel. `tries` counts the
failed attempts of a bridge word (R87). -/
structure Crossing where
  bridge : Bool
  site : Nat
  port : Nat
  net : Net
  vc : Nat
  tries : Nat
  item : Item
  deriving DecidableEq, Repr

/-! ### Units -/

/-- A unit counter CNT0 to CNT7: its value and the bound in force (R95, R114). -/
structure Counter where
  value : Word
  bound : Word
  deriving DecidableEq, Repr

def Counter.reset : Counter := { value := 0, bound := 0 }

/-- What every unit has beside its own kind (R71, R94, R105). -/
structure Unit where
  /-- Input queues of 16 words, or 8 tokens, by network and channel. -/
  inq : List (BufKey × List Item)
  /-- Words that wait to enter the switch's L buffer, each with its network, oldest first. -/
  out : List (Net × Item)
  /-- Consecutive words sent on each virtual channel since a LAST (R69). -/
  run : Tab Nat
  cnt : Tab Counter
  /-- Loop levels whose DONE token has arrived (R94, R117). -/
  doneLevels : List Nat
  /-- Branch entry to continue at, from the latest BRANCH token (R94). -/
  branch : Option Nat
  laneNext : Nat
  eocSent : Bool
  /-- Queues that accept nothing more in this comb (R57). -/
  closed : List BufKey
  /-- Counters raised in this clk: as they stood before, and who has raised them, 0 a token, 1 the program, 2 the vector
  program (R95). -/
  raises : Tab (Counter × List Nat)
  /-- Loops that have gone back in this clk: which program, the counter, and the instruction behind the loop. -/
  loops : List (Nat × Nat × Nat)
  starve : Word
  block : Word
  stale : BitVec 16
  errTokens : BitVec 16
  deriving DecidableEq, Repr

def Unit.reset : Unit :=
  { inq := [], out := [], run := [], cnt := [], doneLevels := [], branch := none, laneNext := 0, eocSent := false,
    closed := [], raises := [], loops := [], starve := 0, block := 0, stale := 0, errTokens := 0 }

/-- A vector register of 64 lanes with its poison bit (R180, R182). -/
structure VReg where
  lanes : Tab Word
  poison : Bool
  deriving DecidableEq, Repr

def VReg.reset : VReg := { lanes := [], poison := false }

/-- A scalar register with its poison bit (R180, R182). -/
structure SReg where
  val : Word
  poison : Bool
  deriving DecidableEq, Repr

def SReg.reset : SReg := { val := 0, poison := false }

/-- A receive that holds the receive port until its words have come (R187): the instruction's offset, its network and
channel, the words still to come and those taken, and the vector length of its issue. -/
structure RecvJob where
  instr : Nat
  net : Net
  vc : Nat
  left : Nat
  got : List Item
  vl : Nat
  deriving DecidableEq, Repr

/-- A vector engine (R180). `pc` counts 4-byte units of the vector program. `upset` marks that the next result will
differ from its prediction (R446, log 5). -/
structure Engine where
  v : Tab VReg
  s : Tab SReg
  vl : BitVec 7
  idx : Word
  pc : Nat
  running : Bool
  recv : Option RecvJob
  upset : Bool
  deriving DecidableEq, Repr

def Engine.reset : Engine :=
  { v := [], s := [], vl := 64, idx := 0, pc := 0, running := false, recv := none, upset := false }

/-- The states of a range-table entry other than Free (R132). -/
inductive RangeState where
  | accumulating | resident | draining
  deriving DecidableEq, Repr

/-- The sticky flags of a tile (R153). -/
structure Flags where
  ovf : Bool
  inv : Bool
  unf : Bool
  deriving DecidableEq, Repr

def Flags.none : Flags := { ovf := false, inv := false, unf := false }

/-- A range-table entry (R132); `fp32` is the word type of its latest MMA (R162). -/
structure RangeEntry where
  base : Nat
  m : Nat
  n : Nat
  state : RangeState
  flags : Flags
  poison : Bool
  fp32 : Bool
  deriving DecidableEq, Repr

/-- One operand of an MMA in flight: where it lies, how many stream words are still to come, and the bytes read
(R112, R122, R140). -/
structure OperandJob where
  desc : Word64
  first : Nat
  /-- Scratchpad rows, in order, that stream words still have to fill. -/
  fill : List Nat
  bytes : List Byte
  deriving DecidableEq, Repr

/-- An MMA or VMMA that has issued and not retired (R112). -/
structure MmaJob where
  instr : Nat
  fmt : Nat
  group : Nat
  m : Nat
  n : Nat
  k : Nat
  bm : Nat
  bn : Nat
  bk : Nat
  base : Nat
  overwrite : Bool
  a : OperandJob
  b : OperandJob
  table : List Byte
  ready : Bool
  /-- The tile has taken a poisoned operand (R140). -/
  poison : Bool
  deriving DecidableEq, Repr

/-- A packed word of a drain that has not been written or accepted: its scratchpad row, its bytes, and LAST (R138). -/
structure DrainWord where
  row : Nat
  bytes : List Byte
  last : Bool
  deriving DecidableEq, Repr

/-- The drain in progress (R135, R138): whether the output stage has begun, with the scale and bias vectors it has read,
the accumulator row and column that it reads next, the elements of the word that it packs with that word's place in its
row, and the word that has still to leave. -/
structure DrainJob where
  instr : Nat
  ocfg : Nat
  m : Nat
  n : Nat
  bm : Nat
  bn : Nat
  base : Nat
  toNet : Bool
  vc : Nat
  first : Nat
  pitch : Nat
  begun : Bool
  scale : List Byte
  bias : List Byte
  row : Nat
  col : Nat
  part : List (Nat × Flags)
  place : Nat
  word : Option DrainWord
  deriving DecidableEq, Repr

/-- An MU (R106) with its MU_ registers (R146). -/
structure Mu where
  unit : Unit
  engine : Engine
  state : BitVec 3
  pc : Nat
  /-- The VEC instruction that started the vector run, and whether the issue stage waits for its end (R118). -/
  vecInstr : Nat
  vecWait : Bool
  acc : Tab Word
  /-- Stored mod-3 residues of the accumulator words; 3 marks a word that has saturated (R106, R141). -/
  residue : Tab Nat
  /-- The accumulator word whose next writeback by the array will be in error (R141, log 5). -/
  arrayUpset : Option Nat
  scratch : Mem
  /-- Of the present clk: the scratchpad banks read and written (R107), the rows written as they stood (R108), and whether
  an access has lost its bank. -/
  readers : List Nat
  writers : List Nat
  before : Tab (List Byte × Option RowMark)
  lost : Bool
  ranges : List RangeEntry
  jobs : List MmaJob
  drains : List DrainJob
  outUpset : Bool
  faultCode : BitVec 4
  faultReason : BitVec 4
  faultInstr : BitVec 16
  faultValue : Word
  flags : BitVec 5
  tiles : Word
  drainCount : Word
  residueErr : BitVec 16
  poisonTiles : BitVec 16
  scratchUncorr : BitVec 16
  scratchCorr : BitVec 16
  scrubRow : Nat
  scrubBack : Option Nat
  deriving DecidableEq, Repr

def Mu.reset : Mu :=
  { unit := .reset, engine := .reset, state := 0, pc := 0, vecInstr := 0, vecWait := false, acc := [],
    residue := [], arrayUpset := none, scratch := .reset, readers := [], writers := [], before := [], lost := false,
    ranges := [], jobs := [], drains := [], outUpset := false, faultCode := 0, faultReason := 0, faultInstr := 0,
    faultValue := 0, flags := 0, tiles := 0, drainCount := 0, residueErr := 0, poisonTiles := 0, scratchUncorr := 0,
    scratchCorr := 0, scrubRow := 0, scrubBack := none }

/-- Statistics of a pass through a scale slot (R175, R176). -/
structure PassStats where
  n : Nat
  m : Word
  c : Nat
  z : Nat
  deriving DecidableEq, Repr

def PassStats.reset : PassStats := { n := 0, m := 0, c := 0, z := 0 }

/-- A scale slot (R174 to R178). `used` is the MODE and FMT of the comb that last used it; `reports` are the member
reports that have arrived; `hist` is H of that comb's record; `closing` is an SCLOSE that waits (R206), with its summary
index, WAIT and clk waited. -/
structure Slot where
  scale : Word
  hist : Nat
  recip : Word
  pending : Word
  history : List Word
  cur : Word
  redoUsed : Bool
  closedInTick : Bool
  used : Option (Nat × Nat)
  stats : PassStats
  reports : List PassStats
  closing : Option Nat
  waitMsg : Bool
  waitClk : Nat
  deriving DecidableEq, Repr

def Slot.reset : Slot :=
  { scale := 0, hist := 4, recip := 0, pending := 0, history := [], cur := 0, redoUsed := false, closedInTick := false,
    used := none, stats := .reset, reports := [], closing := none, waitMsg := false, waitClk := 0 }

/-- An SFU (R180) with its SFU_ registers (R210). -/
structure Sfu where
  unit : Unit
  engine : Engine
  state : BitVec 3
  sram : Mem
  /-- Of the present clk: the SRAM banks read and written, and the rows written as they stood (R197). -/
  readers : List Nat
  writers : List Nat
  before : Tab (List Byte × Option RowMark)
  slots : Tab Slot
  faultReason : BitVec 4
  faultCode : BitVec 4
  faultInstr : BitVec 16
  faultValue : Word
  flags : BitVec 4
  wide : BitVec 16
  miss : BitVec 16
  poison : BitVec 16
  sramUncorr : BitVec 16
  sramCorr : BitVec 16
  summaries : Word
  scrubRow : Nat
  scrubBack : Option Nat
  deriving DecidableEq, Repr

def Sfu.reset : Sfu :=
  { unit := .reset, engine := .reset, state := 0, sram := .reset, readers := [], writers := [], before := [],
    slots := [], faultReason := 0, faultCode := 0, faultInstr := 0, faultValue := 0, flags := 0, wide := 0, miss := 0,
    poison := 0, sramUncorr := 0, sramCorr := 0, summaries := 0, scrubRow := 0, scrubBack := none }

/-- The states of a stream context (SU_CTX.STATE, IOU_CTX.STATE): `between` is a context whose next descriptor has
not been taken up (R253). -/
inductive CtxState where
  | disabled | between | waiting | running | ended | faulted | fetching
  deriving DecidableEq, Repr

/-- A stream context of an SU or IOU with its current descriptor (R247 to R253): `total` elements, `moved` of them
moved. -/
structure Ctx where
  state : CtxState
  inSram : Bool
  desc : Nat
  bytes : List Byte
  total : Nat
  moved : Nat
  /-- The flag it waits for: die, index and SENSE (R252). -/
  await : Option (Nat × Nat × Bool)
  seen : Bool
  waitClk : Nat
  finish : Bool
  lastSent : Bool
  /-- Scalar words of a narrow element that have arrived (R265). -/
  part : List Byte
  /-- COPY rows read and not yet written, oldest first: the clk of the write, the row, its bytes, poison (R241). -/
  copyPipe : List (Nat × Nat × List Byte × Bool)
  /-- The clk from which a COPY may read its next row (R244). -/
  readAt : Nat
  /-- The rest of a landing packet: next row, rows left, FINAL, discard up to LAST (R262). -/
  land : Option (Nat × Nat × Bool × Bool)
  landTid : Word64
  /-- A Vexlink WRITE: the credit (0 none, 1 asked for, 2 granted, 3 failed) and the bytes that the next transaction
  groups, from a chart address on (R351, R355). -/
  credit : BitVec 2
  /-- Why the credit failed (R352, R355). -/
  reason : BitVec 8
  group : Option (Word64 × List (Byte × Bool))
  /-- A Vexlink READ: bytes of the next element already asked for, and those of an element that have come, where the
  element straddles a boundary (R351). -/
  asked : Nat
  half : List (Byte × Bool)
  elems : Word
  deriving DecidableEq, Repr

def Ctx.reset : Ctx :=
  { state := .disabled, inSram := false, desc := 0, bytes := [], total := 0, moved := 0, await := none, seen := false,
    waitClk := 0, finish := false, lastSent := false, part := [], copyPipe := [], readAt := 0, land := none,
    landTid := 0, credit := 0, reason := 0, group := none, asked := 0, half := [], elems := 0 }

/-- A row that path B has written in the present clk, and what it replaced: a conflict with path A moves it (R244). -/
structure CopyWrite where
  ctx : Nat
  due : Nat
  bytes : List Byte
  poison : Bool
  oldBytes : List Byte
  oldMark : Option RowMark
  deriving DecidableEq, Repr

/-- An SU (R237) with its SU_ registers (R276). Of the present clk: `bankRead` and `bankWrite`, the banks that path A
used; `copyRead`, the bank that path B read, and `copyReader`, the context for which it did; `copyWrite`, the row it
wrote, and `copyWas`, how (R244); `lostB`, an access of path B that another one kept waiting (R242); `before`, the rows
written, as they stood (R243). -/
structure Su where
  unit : Unit
  state : BitVec 3
  sram : Mem
  ctx : Tab Ctx
  bankRead : Option Nat
  bankWrite : Option Nat
  copyRead : Option Nat
  copyReader : Option Nat
  copyWrite : Option Nat
  copyWas : Option CopyWrite
  lostB : Bool
  before : Tab (List Byte × Option RowMark)
  faultCode : BitVec 4
  faultReason : BitVec 4
  faultCtx : BitVec 3
  faultDesc : BitVec 16
  faultValue : Word
  errUncorr : BitVec 16
  errCorr : BitVec 16
  poisonReads : BitVec 16
  conflict : BitVec 16
  confComb : BitVec 4
  confBank : BitVec 4
  confWrite : Bool
  confClk : Word
  scrubPasses : BitVec 16
  scrubRow : Nat
  scrubUncorr : BitVec 16
  scrubCorr : BitVec 16
  landErr : BitVec 16
  scrubBack : Option Nat
  deriving DecidableEq, Repr

def Su.reset : Su :=
  { unit := .reset, state := 0, sram := .reset, ctx := [], bankRead := none, bankWrite := none, copyRead := none,
    copyReader := none, copyWrite := none, copyWas := none, lostB := false, before := [], faultCode := 0,
    faultReason := 0, faultCtx := 0, faultDesc := 0, faultValue := 0, errUncorr := 0, errCorr := 0, poisonReads := 0,
    conflict := 0, confComb := 0, confBank := 0, confWrite := false, confClk := 0, scrubPasses := 0, scrubRow := 0,
    scrubUncorr := 0, scrubCorr := 0, landErr := 0, scrubBack := none }

/-- A word of a packing queue (R267): data, valid bytes, poison, whether its stored parity still holds (R271), and
where it goes: the context that sent it and the outside address of its first byte. -/
structure PackWord where
  bytes : List Byte
  count : Nat
  last : Bool
  tag : Bool
  poison : Bool
  parityOk : Bool
  ctx : Nat
  address : Nat
  deriving DecidableEq, Repr

/-- A packing queue (R267 to R270): closed words, the open word, and the count of the last flushed word. -/
structure PackQueue where
  closed : List PackWord
  openWord : Option PackWord
  lastCount : BitVec 7
  inPacket : Bool
  deriving DecidableEq, Repr

def PackQueue.reset : PackQueue := { closed := [], openWord := none, lastCount := 0, inPacket := false }

/-- A landing window (R259, R260): state 0 FREE, 1 GRANTED, 2 FILLED; the grantee; requests that wait, each a device
and TID, and whether it was addressed to a multicast number; whether the grant answered such a request, and the transfer
whose writes it takes, 0 before the first (R361); the record it came from. -/
structure Window where
  state : BitVec 2
  grantee : BitVec 18
  queue : List (BitVec 18 × Word64 × Bool)
  multi : Bool
  xfer : Word
  record : List Byte
  deriving DecidableEq, Repr

def Window.reset : Window := { state := 0, grantee := 0, queue := [], multi := false, xfer := 0, record := [] }

/-- An IOU (R264) with its IOU_ registers (R277). Contexts 8 and above are descriptors that a swap has carried from
context k mod 8 (R266). -/
structure Iou where
  unit : Unit
  state : BitVec 3
  ctx : Tab Ctx
  /-- Grid to outside, by virtual channel. -/
  outQ : Tab PackQueue
  /-- Outside to grid, by virtual channel. -/
  inQ : Tab PackQueue
  windows : Tab Window
  /-- Devices to which a context sends no more FLAG frames in this comb (R357). -/
  withheld : List (Nat × BitVec 18)
  faultCode : BitVec 4
  faultReason : BitVec 4
  faultCtx : BitVec 3
  faultDesc : BitVec 16
  faultLo : Word
  faultHi : Word
  parity : BitVec 16
  bridgeRetry : Word
  landErr : BitVec 16
  deriving DecidableEq, Repr

def Iou.reset : Iou :=
  { unit := .reset, state := 0, ctx := [], outQ := [], inQ := [], windows := [], withheld := [],
    faultCode := 0, faultReason := 0, faultCtx := 0, faultDesc := 0, faultLo := 0, faultHi := 0, parity := 0,
    bridgeRetry := 0, landErr := 0 }

/-! ### Pilots -/

/-- A summary register (R220). -/
structure Summary where
  val : Word
  ty : BitVec 2
  poison : Bool
  count : BitVec 16
  deriving DecidableEq, Repr

def Summary.reset : Summary := { val := 0, ty := 2, poison := false, count := 0 }

/-- A summary on its way to a pilot (R208, R211, R221): whether a PUB has sent it, the place of the SFU (36 y + x) or the
region of the pilot that has, and the hub times (1/24 ns) at which it was sent and at which it is due. -/
structure SummaryMsg where
  pub : Bool
  src : Nat
  sent : Nat
  due : Nat
  idx : Nat
  op : Nat
  ty : BitVec 2
  val : Word
  poison : Bool
  epoch : BitVec 4
  deriving DecidableEq, Repr

/-- An event (R231, R406). -/
structure EventRec where
  code : BitVec 16
  region : Byte
  comb : Byte
  clk : Word
  tick : Word64
  arg : Word
  deriving DecidableEq, Repr

/-- What a pilot waits for (R218). -/
inductive WaitFor where
  | flag (die : Nat) (flag : Nat) (sense : Bool)
  | summary (sum : Nat) (count : Nat)
  deriving DecidableEq, Repr

/-- A wait of a pilot: what for, clk waited (R293), and whether a flag has held SENSE since it began (R282). -/
structure PilotWait where
  what : WaitFor
  clk : Nat
  seen : Bool
  deriving DecidableEq, Repr

/-- A shape register whose new value has not reached the shape bus: what the bus still carries, and the clk left (R95,
R218). -/
structure ShapeDue where
  reg : Nat
  old : Word
  left : Nat
  deriving DecidableEq, Repr

/-- A swap target on the pilot ring (R228), with the number of the swap that it is for, counted from the activation. -/
structure SwapTarget where
  target : Nat
  eot : Bool
  no : Nat
  deriving DecidableEq, Repr

/-- A pilot (R211 to R236): PLT_ registers, its side of the swap, its buses and the watchdogs of its region. -/
structure Pilot where
  state : BitVec 3
  comb : BitVec 4
  pc : BitVec 9
  drain : Bool
  stopX : Byte
  stopY : Byte
  cause : BitVec 4
  stallLog2 : BitVec 5
  stallNext : Option (BitVec 5)
  /-- Clk since the active comb's first; PLT_COMB_CLK shows it saturated. -/
  combClk : Nat
  tick : Word
  evLost : BitVec 16
  evRaised : BitVec 16
  lockGroups : BitVec 8
  lockClk : Word
  storeUncorr : BitVec 16
  storeCorr : BitVec 16
  swaps : Word
  cnt : Tab Word
  shape : Tab Word
  /-- Writes on their way to the shape bus, oldest first. -/
  shapeDue : List ShapeDue
  sums : Tab Summary
  /-- Times each backward BR has been taken in this run of the comb (R227). -/
  taken : Tab Nat
  wait : Option PilotWait
  waitc : Word
  /-- Clk, this one included, in which the issue stage is taken (R218). -/
  busy : Nat
  /-- Sites whose end-of-comb marker the pilot holds (R57). -/
  markers : List Nat
  target : Option SwapTarget
  ownTarget : Bool
  issued : Bool
  /-- Swaps that the pilot has completed since the activation, and the target of the last of them (R228, R229). -/
  swapNo : Nat
  lastTarget : Option SwapTarget
  /-- Swaps completed while the region was parked or stopped (R229). -/
  missed : Bool
  /-- Clk left to the switch clk of the swap that the pilot has issued (R57, R59). -/
  switchClk : Nat
  /-- A unit of the region has reloaded its image in this swap (R59). -/
  reloaded : Bool
  /-- Swap targets on the pilot ring that have not arrived (R228). -/
  ringIn : List SwapTarget
  /-- Summaries on the summary bus and the pilot ring that have not arrived (R221). -/
  sumBus : List SummaryMsg
  /-- Summaries that have arrived in this clk, in order: a clear in the same clk comes before them (R220). -/
  arrived : List SummaryMsg
  /-- Events that have not left for the hub, at most 64 (R231). -/
  events : List EventRec
  /-- Event codes passed on in this tick (R231). -/
  once : List (BitVec 16)
  staleInTick : Bool
  /-- Tokens sent on the system lane in this comb (R79, R213). -/
  tokens : List (BitVec 16)
  /-- Comb that the plane loader writes into the idle planes, and whether it has finished (R41). -/
  loading : Option Nat
  loaded : Bool
  /-- The region takes its first clk of the ENTRY comb at the strike (R230). -/
  idleUntilStrike : Bool
  strikeDue : Bool
  stall : Nat
  progress : Bool
  deriving DecidableEq, Repr

def Pilot.reset : Pilot :=
  { state := 0, comb := 0, pc := 0, drain := false, stopX := 0, stopY := 0, cause := 0, stallLog2 := 16,
    stallNext := none, combClk := 0, tick := 0, evLost := 0, evRaised := 0, lockGroups := 0, lockClk := 0,
    storeUncorr := 0, storeCorr := 0, swaps := 0, cnt := [], shape := [], shapeDue := [], sums := [], taken := [],
    wait := none, waitc := 0, busy := 0, markers := [], target := none, ownTarget := false, issued := false,
    swapNo := 0, lastTarget := none, missed := false, switchClk := 64, reloaded := false, ringIn := [], sumBus := [],
    arrived := [], events := [], once := [], staleInTick := false, tokens := [], loading := none, loaded := false,
    idleUntilStrike := false, strikeDue := false, stall := 0, progress := false }

/-! ### Waggle homes and message engines -/

/-- A flag change request that has arrived at its home (R280), with whether its parity holds (R307). -/
structure FlagReq where
  flag : Nat
  value : Bool
  parityOk : Bool
  /-- Who issued it: 0 to 5,759 the unit of that site, 6,000 + r a pilot, 7,000 the host, 7,001 + p port p, 7,100 + d
  the home of die d. -/
  src : Nat
  /-- Commands FLAG_WRITE and remote flag writes to answer once it is visible (R285, R352). -/
  cmd : Option CmdId
  tid : Option (BitVec 18 × Word64)
  deriving DecidableEq, Repr

/-- A barrier group (R286 to R289). -/
structure Barrier where
  en : Bool
  n : BitVec 7
  base : BitVec 12
  release : BitVec 12
  misuseFlag : BitVec 16
  misuse : BitVec 8
  rounds : BitVec 16
  deriving DecidableEq, Repr

def Barrier.reset : Barrier :=
  { en := false, n := 0, base := 0, release := 0, misuseFlag := 0, misuse := 0, rounds := 0 }

/-- An event counter (R290 to R292). -/
structure EvCounter where
  en : Bool
  saturated : Bool
  src : BitVec 12
  clr : BitVec 12
  out : BitVec 12
  thresh : BitVec 16
  count : BitVec 16
  misuseFlag : BitVec 16
  deriving DecidableEq, Repr

def EvCounter.reset : EvCounter :=
  { en := false, saturated := false, src := 0, clr := 0, out := 0, thresh := 0, count := 0, misuseFlag := 0 }

/-- The life cycle of R407. -/
inductive Life where
  | off | starting | on | stopping
  deriving DecidableEq, Repr

/-- What a send's message engine has still to act on once it can (R296, R301): how the send ends, or the result of a
placement at another device. -/
inductive Owed where
  | ends (status : Nat)
  | placed (device : BitVec 18) (result : PlaceResult) (row : Nat)
  deriving DecidableEq, Repr

/-- A message endpoint (R298, R301, R306). `tries` counts the NAKs of the current send; `rows` is n of R301; `waitReply`
is set while a placement request is out; `due` while a retry waits for its backoff; `owed` is an answer from another
device that the engine has not acted on yet. -/
structure Endpoint where
  state : Life
  record : List Byte
  pendingOpen : Option (List Byte)
  busy : Bool
  last : BitVec 4
  tries : BitVec 8
  naks : BitVec 16
  seq : Word
  rows : Nat
  waitReply : Bool
  due : Bool
  copying : Bool
  owed : Option Owed
  closeCmd : Option CmdId
  deriving DecidableEq, Repr

def Endpoint.reset : Endpoint :=
  { state := .off, record := [], pendingOpen := none, busy := false, last := 0, tries := 0, naks := 0, seq := 0,
    rows := 0, waitReply := false, due := false, copying := false, owed := none, closeCmd := none }

/-- A message placed in a ring (R300, R302): its first row relative to BASE, its rows, and whether its last row has
been written. A wrap marker has rows 0. `remote` is the device that writes it, `fill` the rows still to come. -/
structure RingMsg where
  row : Nat
  rows : Nat
  endpoint : Byte
  len : BitVec 16
  seq : Word
  deliverable : Bool
  wrap : Bool
  remote : Option (BitVec 18)
  fill : Nat
  deriving DecidableEq, Repr

/-- A message receive ring (R297, R302, R303, R306). -/
structure MsgRing where
  state : Life
  record : List Byte
  pendingCreate : Option (List Byte)
  head : Nat
  tail : Nat
  used : Nat
  msgs : List RingMsg
  inboxFull : Bool
  destroyCmd : Option CmdId
  deriving DecidableEq, Repr

def MsgRing.reset : MsgRing :=
  { state := .off, record := [], pendingCreate := none, head := 0, tail := 0, used := 0, msgs := [],
    inboxFull := false, destroyCmd := none }

/-- A placement request from another die or device (R296, R363). -/
structure PlaceReq where
  fromDie : Nat
  device : BitVec 18
  tid : Option Word64
  endpoint : Nat
  ring : Nat
  rows : Nat
  deriving DecidableEq, Repr

/-- The reply to a placement request, on its way to the sending engine (R304). -/
structure PlaceReply where
  endpoint : Nat
  die : Nat
  ring : Nat
  result : PlaceResult
  row : Nat
  deriving DecidableEq, Repr

/-- A message copy in progress (R301): from the outbox of an endpoint to the reserved rows of a ring. -/
structure CopyJob where
  endpoint : Nat
  die : Nat
  ring : Nat
  row : Nat
  rows : Nat
  deriving DecidableEq, Repr

/-- The waggle home of a die and its message engine (R278, R296) with the WAG_ registers (R308). `flags` lists the
flags that are set, rising. -/
structure Home where
  flags : List Nat
  reqs : List FlagReq
  bars : Tab Barrier
  cnts : Tab EvCounter
  collide : BitVec 16
  halted : Bool
  misParity : BitVec 8
  misRing : BitVec 8
  misCounter : BitVec 8
  misBarrier : BitVec 8
  waitLog2W : BitVec 6
  waitLog2E : BitVec 6
  waitNextW : Option (BitVec 6)
  waitNextE : Option (BitVec 6)
  waitMaxW : Word
  waitMaxE : Word
  /-- The latest operation of the engine: release or delivery, and its endpoint or ring (WAG_ENGINE). -/
  kind : Bool
  index : BitVec 6
  eps : Tab Endpoint
  rings : Tab MsgRing
  requests : List PlaceReq
  replies : List PlaceReply
  copies : List CopyJob
  /-- Results of the last 64 placements made for other devices (R363). -/
  kept : List (Word64 × PlaceResult × Nat)
  deriving DecidableEq, Repr

def Home.reset : Home :=
  { flags := [], reqs := [], bars := [], cnts := [], collide := 0, halted := false, misParity := 0, misRing := 0,
    misCounter := 0, misBarrier := 0, waitLog2W := 21, waitLog2E := 21, waitNextW := none, waitNextE := none,
    waitMaxW := 0, waitMaxE := 0, kind := false, index := 0, eps := [], rings := [], requests := [],
    replies := [], copies := [], kept := [] }

/-! ### HBM -/

/-- A read burst that an IOU or the side port has issued and that has not returned (R320): the IOU site and context,
the byte offset, how many of its bytes the element takes, and whether the element ends a word with LAST (R250). -/
structure HbmRead where
  site : Nat
  ctx : Nat
  offset : Nat
  bytes : Nat
  last : Bool
  deriving DecidableEq, Repr

/-- A write that the side port has made: its time, offset, bytes and poison (R321). -/
structure SideWrite where
  time : Nat
  offset : Nat
  bytes : List Byte
  poison : Bool
  deriving DecidableEq, Repr

/-- A write burst that waits for the controller (R320): when it was issued, site, context, offset, valid bytes, poison. -/
structure HbmWrite where
  time : Nat
  site : Nat
  ctx : Nat
  offset : Nat
  bytes : List Byte
  poison : Bool
  deriving DecidableEq, Repr

/-- The controller of one stack with its HBM_ registers (R309, R330). `keep` says that its contents survive the coming
training, as after a command-processor restart (R448, R452). -/
structure Stack where
  state : BitVec 3
  split : BitVec 2
  hot : Bool
  temp : BitVec 8
  uncorr : BitVec 16
  corr : BitVec 16
  inner : Word
  poisonReads : BitVec 16
  errAddr : BitVec 40
  rd : Word
  wr : Word
  rem : Word
  scrub : Word
  lastMs : BitVec 16
  passes : BitVec 16
  scrubStart : Nat
  reads : List HbmRead
  writes : List HbmWrite
  /-- Writes of the side port in the present cycle, latest first (R321). -/
  side : List SideWrite
  keep : Bool
  deriving DecidableEq, Repr

def Stack.reset : Stack :=
  { state := 0, split := 0, hot := false, temp := 0, uncorr := 0, corr := 0, inner := 0, poisonReads := 0,
    errAddr := 0, rd := 0, wr := 0, rem := 0, scrub := 0, lastMs := 0, passes := 0, scrubStart := 0, reads := [],
    writes := [], side := [], keep := false }

/-! ### The comb set -/

/-- A comb descriptor of the loaded set (R37). -/
structure CombDesc where
  successor : Nat
  minfreq : Word
  budget : Nat
  /-- The regions the comb uses. -/
  regions : List Nat
  deriving DecidableEq, Repr

/-- A shape-maximum entry (R37): region mask, register, largest value. -/
structure ShapeMax where
  mask : Byte
  reg : Nat
  max : Word
  deriving DecidableEq, Repr

/-- The loaded comb set (R35 to R37). -/
structure CombSet where
  entry : Nat
  split : BitVec 2
  tmin : Nat
  combs : List CombDesc
  shapeMax : List ShapeMax
  deriving DecidableEq, Repr

/-- One slot of a region's plane store and program store (R40, R214): the unit images by site, and the program block. -/
structure StoreSlot where
  units : Tab (List Byte)
  program : List Byte
  unitMarks : Tab RowMark
  progMarks : Tab RowMark
  deriving DecidableEq, Repr

def StoreSlot.reset : StoreSlot := { units := [], program := [], unitMarks := [], progMarks := [] }

/-- The comb set states (R44). -/
inductive CombState where
  | empty | loaded | active | halted
  deriving DecidableEq, Repr

/-- A swap in progress: the old comb with the start of its run (R63), the target, hub times (1/24 ns) of the first and the
latest completion among the regions that take part (R58, R469), and the reload that the record names (R59). -/
structure SwapRun where
  old : Nat
  target : SwapTarget
  began : Option Nat
  first : Option Nat
  last : Nat
  reload : Option (Nat × Nat × Nat × Nat)
  deriving DecidableEq, Repr

/-- The comb group: set, plane stores (index 16 r + slot), the active comb, the run in progress and the swap in
progress (R34 to R65, R469). -/
structure Comb where
  state : CombState
  set : Option CombSet
  store : Tab StoreSlot
  storeScrub : Tab Nat
  active : Option Nat
  haltRegion : Byte
  combAtHalt : Byte
  /-- Hub time (1/24 ns) of the active comb's first clk in the earliest region (R63). -/
  runStart : Option Nat
  /-- Swaps of the device since the activation, and those in progress by their number (R57, R469). -/
  swapNo : Nat
  swaps : Tab SwapRun
  halting : Bool
  haltReported : Bool
  haltTime : Nat
  deriving DecidableEq, Repr

def Comb.reset : Comb :=
  { state := .empty, set := none, store := [], storeScrub := [], active := none, haltRegion := 0xFF,
    combAtHalt := 0xFF, runStart := none, swapNo := 0, swaps := [],
    halting := false, haltReported := false, haltTime := 0 }

/-! ### The tick -/

/-- The tick sources (R50). -/
inductive Source where
  | internal | external | swarm
  deriving DecidableEq, Repr

/-- What TICK_CONFIG sets (R50). -/
structure TickCfg where
  period : Nat
  source : Source
  catchUp : Bool
  cpl : Nat
  window : Nat
  deriving DecidableEq, Repr

/-- A staged shape-register value (R56); `later` says that it was staged while the tick was OFF or STOPPING, for the next
TICK_START. -/
structure Staged where
  later : Bool
  tick : Nat
  region : Nat
  reg : Nat
  value : Word
  deriving DecidableEq, Repr

/-- A strike: its tick number, hub time (1/24 ns) and whether it came from the fallback timer. -/
structure Strike where
  number : Nat
  time : Nat
  fallback : Bool
  deriving DecidableEq, Repr

/-- The tick (R50 to R65). `cfg` times the next strike and `next` every strike after it (R55). -/
structure Tick where
  life : Life
  pendingStart : Bool
  configured : Bool
  cfg : TickCfg
  next : Option TickCfg
  number : Nat
  /-- Number that the next strike carries. -/
  coming : Nat
  strike0 : Nat
  prevStrike : Nat
  /-- The running tick's strike; none between an end-of-tick swap and the next strike. -/
  running : Option Strike
  held : Option Strike
  firstClk : Option Nat
  startDelay : Nat
  /-- The strike found the units gated (R415). -/
  woken : Bool
  late : Bool
  overrun : Bool
  early : Word
  missing : Word
  skippedAll : Word
  skipped : BitVec 16
  events : Byte
  flags : BitVec 16
  staged : List Staged
  deriving DecidableEq, Repr

def TickCfg.reset : TickCfg :=
  { period := 50000, source := .internal, catchUp := true, cpl := 0, window := 0 }

def Tick.reset : Tick :=
  { life := .off, pendingStart := false, configured := false, cfg := .reset, next := none, number := 0, coming := 0,
    strike0 := 0, prevStrike := 0, running := none, held := none, firstClk := none, startDelay := 0, woken := false,
    late := false, overrun := false, early := 0, missing := 0, skippedAll := 0, skipped := 0, events := 0, flags := 0,
    staged := [] }

/-! ### The host port -/

/-- Messages from the device to the host (R375). -/
inductive HostMsg where
  | hrdCpl (tag : Nat) (bytes : List Byte) (unmapped : Bool) (poison : BitVec 4)
  | dwr (addr : Word64) (bytes : List Byte) (poison : BitVec 4)
  | drd (addr : Word64) (len : Nat) (tag : Nat)
  | notify (ring : Nat)
  deriving DecidableEq, Repr

/-- A completion, unsolicited or skip packet before it is placed in a ring (R387). `ring` is the command ring of a
completion. -/
structure Packet where
  opcode : BitVec 16
  kind : Byte
  flags : Byte
  seq : Word
  status : BitVec 16
  ring : Byte
  tag : Word64
  detail : Word
  payload : List Byte
  /-- The command it completes, entered in the cache when it is written (R395). -/
  cache : Bool
  deriving DecidableEq, Repr

/-- A command in progress (R390 to R392): from its taking to the writing of its completion. `started` once checks 1 to
4 of R391 have passed, `ran` once its own row has acted, `posted` once its completion waits to be written. -/
structure Cmd where
  id : CmdId
  opcode : BitVec 16
  flags : Byte
  tag : Word64
  params : List Byte
  started : Bool
  ran : Bool
  posted : Bool
  replay : Nat
  /-- MEM_COPY in progress: bytes moved and poisoned units. -/
  moved : Nat
  poisoned : Nat
  /-- ATTEST: what it reports, as it stood when it started (R460). -/
  front : List Byte
  deriving DecidableEq, Repr

/-- A read of host memory that has not been answered (R377): its command and its bytes. -/
structure Drd where
  tag : Nat
  cmd : CmdId
  len : Nat
  deriving DecidableEq, Repr

/-- What HRING_CREATE names (R400). -/
structure RingParams where
  entries : Nat
  base : Nat
  interval : Nat
  cpl : Nat
  startSeq : Word
  deriving DecidableEq, Repr

/-- A command ring (R381 to R383, R390, R408). -/
structure CmdRing where
  life : Life
  entries : Nat
  base : Nat
  cpl : Nat
  head : BitVec 16
  tail : BitVec 16
  next : Word
  held : Bool
  newHead : BitVec 16
  /-- RESUME reads 1 in the clk after the write (R410). -/
  resume : Bool
  pending : Option RingParams
  destroyCmd : Option CmdId
  deriving DecidableEq, Repr

def CmdRing.reset : CmdRing :=
  { life := .off, entries := 0, base := 0, cpl := 0, head := 0, tail := 0, next := 0, held := false, newHead := 0,
    resume := false, pending := none, destroyCmd := none }

/-- Command ring 0 after reset (R381). -/
def CmdRing.reset0 : CmdRing := { CmdRing.reset with life := .on, entries := 256, base := 0x1000 }

/-- A completion ring (R384 to R386, R408). `quiet` is set while its INTERVAL runs after a NOTIFY, `owed` when a
notification is held back. -/
structure CplRing where
  life : Life
  entries : Nat
  base : Nat
  interval : Nat
  head : BitVec 16
  tail : BitVec 16
  phase : Bool
  dropped : BitVec 16
  unsol : Word
  quiet : Bool
  owed : Bool
  pending : Option RingParams
  destroyCmd : Option CmdId
  /-- Completions that wait for room, oldest first (R385). -/
  waiting : List Packet
  deriving DecidableEq, Repr

def CplRing.reset : CplRing :=
  { life := .off, entries := 0, base := 0, interval := 0, head := 0, tail := 0, phase := false, dropped := 0,
    unsol := 0, quiet := false, owed := false, pending := none, destroyCmd := none, waiting := [] }

/-- Completion ring 0 after reset (R381, R386). -/
def CplRing.reset0 : CplRing :=
  { CplRing.reset with life := .on, entries := 256, base := 0x5000, phase := true }

/-- The host port with its HOST_ registers (R372 to R410). `m0`, `m1` are the module states of HOST_LINK. `freshIrq` and
`freshErr` are the bits of HOST_IRQ_PENDING and HOST_ERR that the hardware has set at hub time `freshAt` (R12), and
`nextVisit` the command ring that the device visits next (R390). -/
structure HostPort where
  m0 : BitVec 2
  m1 : BitVec 2
  rate : BitVec 4
  partner : BitVec 4
  retrains : BitVec 16
  loader : Byte
  version : Byte
  timeHi : Word
  irqPending : BitVec 16
  irqMask : BitVec 16
  err : BitVec 4
  errDoorbell : BitVec 16
  errWindow : BitVec 16
  lostEvents : BitVec 16
  lostReports : BitVec 16
  replays : BitVec 16
  cache : List Packet
  cmdRings : Tab CmdRing
  cplRings : Tab CplRing
  cmds : List Cmd
  drds : List Drd
  toHost : List HostMsg
  routeMode : Byte
  routeCpl : Nat
  resetDue : Bool
  freshAt : Nat
  freshIrq : BitVec 16
  freshErr : BitVec 4
  nextVisit : Nat
  deriving DecidableEq, Repr

def HostPort.reset : HostPort :=
  { m0 := 0, m1 := 0, rate := 0, partner := 0, retrains := 0, loader := 0, version := 0, timeHi := 0, irqPending := 0,
    irqMask := 1, err := 0, errDoorbell := 0, errWindow := 0, lostEvents := 0, lostReports := 0, replays := 0,
    cache := [], cmdRings := [(0, .reset0)], cplRings := [(0, .reset0)], cmds := [], drds := [], toHost := [],
    routeMode := 0, routeCpl := 0, resetDue := false, freshAt := 0, freshIrq := 0, freshErr := 0, nextVisit := 0 }

/-! ### Vexlink -/

/-- Frame kinds of R339 that a device sends. -/
inductive FrameBody where
  | linkAck (lseq : BitVec 12) (replay : Bool)
  | strike (tick : Word) (leadRem : Word) (fallback : Bool)
  | flag (tid : Word64) (chart : Word64) (value : Bool)
  | ack (tid : Word64)
  | nak (tid : Word64) (reason : BitVec 8) (xfer : Word)
  | grant (tid : Word64) (queued : Bool)
  | prune (xfer : Word)
  | placeResp (tid : Word64) (result : PlaceResult) (row : BitVec 16)
  | readReq (tid : Word64) (chart : Word64) (len : BitVec 16)
  | creditReq (tid : Word64) (chart : Word64) (rows : BitVec 16)
  | withdraw (tid : Word64)
  | placeReq (tid : Word64) (die : Nat) (ring : Nat) (rows : BitVec 8)
  | regRead (tid : Word64) (chart : Word64) (len : BitVec 16)
  | write (t : Txn)
  | readData (t : Txn)
  | regData (t : Txn)
  deriving DecidableEq, Repr

/-- A frame that the device sends or forwards (R338). Of a bulk transaction, an entry of a replay buffer is one flit, and
`flit` its number; in a queue, `flit` is the first still to be sent, and `time` when the frame came to wait. -/
structure Frame where
  flit : Nat
  time : Nat
  hops : BitVec 8
  dest : BitVec 18
  src : BitVec 18
  lseq : BitVec 12
  body : FrameBody
  deriving DecidableEq, Repr

/-- A Vexlink port (R331 to R342) with its registers (R371) and configuration (R336). `sent` is the replay buffer, flit by
flit, oldest first; `held` are frames that wait to leave (R341, R347); `acks` are the LINK_ACK frames sent, oldest first.
`tries` counts the consecutive replays of the oldest frame (R337); `requestTurn` says that a request frame's turn comes
next (R341); `rxPart` is a bulk transaction that has come in part, with its flits so far; `fecTimes` are the uncorrectable
codewords of the last 1 ms, and `corrSum` the corrected ones that make no unit yet (R371). -/
structure VxlPort where
  life : Life
  pendingEnable : Bool
  retrain : Bool
  version : BitVec 2
  rate : BitVec 2
  width : BitVec 2
  reversed : Bool
  polarity : BitVec 4
  good : BitVec 4
  bad : BitVec 8
  uncorr : BitVec 12
  corr : BitVec 12
  retrains : BitVec 16
  replays : BitVec 16
  delay : Word
  ctrlWait : Word
  modes : BitVec 3
  versions : BitVec 2
  minWidth : Nat
  txSeq : BitVec 12
  rxSeq : BitVec 12
  sent : List Frame
  held : List Frame
  acks : List (BitVec 12 × Bool)
  tries : Nat
  requestTurn : Bool
  rxPart : Option (Nat × FrameBody)
  fecTimes : List (Nat × Nat)
  corrSum : Nat
  disableCmd : Option CmdId
  deriving DecidableEq, Repr

def VxlPort.reset : VxlPort :=
  { life := .off, pendingEnable := false, retrain := false, version := 0, rate := 0, width := 0, reversed := false,
    polarity := 0, good := 0, bad := 0, uncorr := 0, corr := 0, retrains := 0, replays := 0, delay := 0,
    ctrlWait := 0, modes := 7, versions := 3, minWidth := 1, txSeq := 0, rxSeq := 0, sent := [], held := [],
    acks := [], tries := 0, requestTurn := false, rxPart := none, fecTimes := [], corrSum := 0, disableCmd := none }

/-- A source-table entry (R354): the originating device and originator, the largest sequence number seen, and the
numbers of its window whose transaction has been carried out, each with its placement result if it has one. -/
structure SrcEntry where
  device : BitVec 18
  orig : BitVec 5
  top : Nat
  done : List Nat
  /-- Numbers whose transaction is still being carried out. -/
  doing : List Nat
  deriving DecidableEq, Repr

/-- What an outstanding transaction is (R350 to R357, R363). -/
inductive TxnKind where
  | write | flag | read | credit | placement (die : Nat) (endpoint : Nat) | rows (die : Nat) (endpoint : Nat) (last : Bool)
  | mcast
  deriving DecidableEq, Repr

/-- A transaction that the device has originated and that has not been answered. `waiting` says that it has not been sent
yet (R355, R356). -/
structure Outstanding where
  tid : Word64
  dest : BitVec 18
  kind : TxnKind
  frame : FrameBody
  waiting : Bool
  /-- A GRANT with QUEUED has come (R355). -/
  queued : Bool
  resends : Nat
  /-- RETRIES when it started (R353). -/
  retries : Nat
  /-- Originating IOU site and context, or the command. -/
  site : Option (Nat × Nat)
  cmd : Option CmdId
  /-- For a read: whether each element ends a word with LAST, and the data once they have arrived. -/
  lasts : List Bool
  data : Option (List (Byte × Bool))
  deriving DecidableEq, Repr

/-- A multicast transfer in progress (R359 to R362). `sent` lists the transactions not yet acknowledged by every
receiver, oldest first: number in the transfer, TID, and the receivers that have; `granted` the receivers whose GRANT
has come. A copy command reads its
data from HBM offset `src`; a descriptor queues its transactions in `txns` until it is `closed`. -/
structure Transfer where
  xfer : Word
  orig : Nat
  dest : BitVec 18
  receivers : List (BitVec 18)
  pruned : List (BitVec 18)
  sentCount : Nat
  sent : List (Nat × Word64 × List (BitVec 18))
  /-- TID of the CREDIT_REQ, if the transfer needs grants. -/
  credit : Option Word64
  granted : List (BitVec 18)
  src : Nat
  dst : Word64
  len : Nat
  moved : Nat
  /-- Transactions, or FLAG frames with a TID of 0, still to be sent (R351). -/
  txns : List FrameBody
  /-- TIDs of FLAG frames among those sent (R356). -/
  flags : List Word64
  closed : Bool
  cmd : Option CmdId
  site : Option (Nat × Nat)
  deriving DecidableEq, Repr

/-- A write that a LAND context or a home has not finished, to acknowledge then (R352). -/
structure LandWait where
  site : Nat
  tid : Word64
  src : BitVec 18
  deriving DecidableEq, Repr

/-- Vexlink as the hub holds it: device number, tables, transactions and the VXL_ registers (R343 to R371). -/
structure Vxl where
  valid : Bool
  device : BitVec 18
  role : BitVec 2
  up : BitVec 4
  down : BitVec 12
  lead : Word
  late : BitVec 16
  ignored : BitVec 16
  swarmTick : Word
  lastMaster : Option Word
  /-- Master tick numbers that a member has struck since its tick last left OFF (R369). -/
  struckNos : List Word
  srcBusy : BitVec 16
  src : List SrcEntry
  dupStale : BitVec 16
  dups : BitVec 16
  timeouts : BitVec 16
  resends : BitVec 16
  fail : Word
  failReason : BitVec 8
  failOrig : BitVec 5
  failDevice : BitVec 18
  prunes : BitVec 16
  transfers : BitVec 16
  mcastLast : BitVec 18
  fwdHold : BitVec 16
  fwdRoute : BitVec 16
  retries : BitVec 2
  mcastLag : BitVec 10
  grantLimit : BitVec 10
  timeout : BitVec 8
  ports : Tab VxlPort
  bearings : Tab Word64
  groups : Tab (BitVec 18 × List (BitVec 18))
  out : List Outstanding
  seqs : Tab Nat
  running : List Transfer
  xferNext : Word
  /-- Transfers from which this device has been pruned (R361). -/
  prunedFrom : List (BitVec 18 × Word)
  landWaits : List LandWait
  /-- Remote transactions for a stack that takes no access now, oldest first (R365). -/
  parked : List Frame
  /-- Strikes announced and not yet due (R366, R367), oldest first: the master tick, the hub time, and whether the
  strike comes from a fallback timer. -/
  announced : List (Nat × Nat × Bool)
  /-- A member has sent its own STRIKE for the fallback strike to come (R369). -/
  fallbackSent : Bool
  /-- Frames that the device has made or accepted and not yet routed, oldest first. -/
  outbox : List Frame
  deriving DecidableEq, Repr

def Vxl.reset : Vxl :=
  { valid := false, device := 0, role := 0, up := 0xF, down := 0, lead := 4000, late := 0, ignored := 0,
    swarmTick := 0, lastMaster := none, struckNos := [], srcBusy := 0, src := [], dupStale := 0, dups := 0,
    timeouts := 0, resends := 0, fail := 0, failReason := 0, failOrig := 0, failDevice := 0, prunes := 0,
    transfers := 0, mcastLast := 0, fwdHold := 0, fwdRoute := 0, retries := 3, mcastLag := 50, grantLimit := 100,
    timeout := 50, ports := [], bearings := [], groups := [], out := [], seqs := [], running := [], xferNext := 1,
    prunedFrom := [], landWaits := [], parked := [], announced := [], fallbackSent := false, outbox := [] }

/-! ### Power, health, security, logbook, sequencer -/

/-- A region as the power manager holds it (R418 to R420, R438). `mv` is the present voltage in mV, `lowest` the
lowest sampled since the previous readout (0xFFFF: none). -/
structure PwrRegion where
  ceiling : BitVec 4
  setMin : BitVec 4
  freq : BitVec 4
  mode : BitVec 3
  /-- A halt holds the clock (R64). -/
  halted : Bool
  mv : BitVec 16
  lowest : BitVec 16
  droopWarn : BitVec 16
  droopLimit : BitVec 16
  oscillator : Word
  /-- The region PLL has lost lock (R447). -/
  unlocked : Bool
  /-- Held off by a failed rail, diode or clock (R493). -/
  heldOff : Bool
  startCmd : Option CmdId
  deriving DecidableEq, Repr

def PwrRegion.reset : PwrRegion :=
  { ceiling := 4, setMin := 0, freq := 1, mode := 0, halted := false, mv := 0, lowest := 0xFFFF, droopWarn := 0,
    droopLimit := 0, oscillator := 0, unlocked := false, heldOff := false, startCmd := none }

/-- The triggers of a die's thermal emergency and whether it holds (R427). -/
structure Emergency where
  thermal : Bool
  hbm : Bool
  external : Bool
  power : Bool
  holds : Bool
  /-- The triggers have been clear, since this hub time, if they are. -/
  clearSince : Option Nat
  deriving DecidableEq, Repr

def Emergency.reset : Emergency :=
  { thermal := false, hbm := false, external := false, power := false, holds := false, clearSince := none }

/-- The power manager (R411 to R431) with its PWR_ registers (R438). -/
structure Power where
  leeway : Word
  target : BitVec 3
  state : BitVec 3
  wakeTo : Option (BitVec 3)
  limit : BitVec 16
  power : BitVec 16
  powerDeci : Word
  emergCount : BitVec 16
  emerg : Tab Emergency
  regions : Tab PwrRegion
  stateCmd : Option CmdId
  deriving DecidableEq, Repr

def Power.reset : Power :=
  { leeway := 0, target := 0, state := 0, wakeTo := none, limit := 2000, power := 0, powerDeci := 0, emergCount := 0,
    emerg := [], regions := [], stateCmd := none }

/-- A pin input behind its filter (R432, R433). -/
structure Input where
  level : Bool
  /-- Hub time at which the present level was taken (1/24 ns). -/
  since : Nat
  stuck : Bool
  lastAssert : Option Nat
  ignored : Bool
  glitch : BitVec 16
  rate : BitVec 16
  /-- An accepted assertion that its user has not taken. -/
  edge : Bool
  deriving DecidableEq, Repr

def Input.reset : Input :=
  { level := false, since := 0, stuck := false, lastAssert := none, ignored := false, glitch := 0, rate := 0,
    edge := false }

/-- The thresholds of HLT_THRESH (R426), in 1/16 degC and mV. -/
structure Thresholds where
  warn : BitVec 16
  emerg : BitVec 16
  trip : BitVec 16
  hyst : BitVec 16
  droopWarn : BitVec 16
  droopLimit : BitVec 16
  hbmEmerg : BitVec 16
  deriving DecidableEq, Repr

/-- The monitors (R421 to R437) with their HLT_ registers (R439). Sensors: die d sensor i at 64 d + i, hub sensor i at
256 + i, in 1/16 degC. `threshNext` are thresholds accepted since the last sensor read (R426). -/
structure Health where
  trip : Bool
  sensors : Tab (BitVec 16)
  failed : List Nat
  emergMask : BitVec 4
  warnMask : BitVec 4
  warned : BitVec 4
  maxSensor : Tab (BitVec 8)
  maxTemp : Tab (BitVec 16)
  coolSince : Option Nat
  tWarn : BitVec 16
  tEmerg : BitVec 16
  tTrip : BitVec 16
  hyst : BitVec 16
  droopWarn : BitVec 16
  droopLimit : BitVec 16
  hbmEmerg : BitVec 16
  threshNext : Option Thresholds
  inputs : Tab Input
  card : Option (List Byte)
  refused : BitVec 16
  deriving DecidableEq, Repr

def Health.reset : Health :=
  { trip := false, sensors := [], failed := [], emergMask := 0, warnMask := 0, warned := 0, maxSensor := [],
    maxTemp := [], coolSince := none, tWarn := 0x05A0, tEmerg := 0x0690, tTrip := 0x0730, hyst := 0x0050,
    droopWarn := 40, droopLimit := 80, hbmEmerg := 0x05F0, threshNext := none, inputs := [], card := none, refused := 0 }

/-- The fuse banks that carry a CRC-32 of their own (R453). -/
inductive FuseBank where
  | serial | factoryMap | calibration | keyHash | identityKey | testLock
  deriving DecidableEq, Repr

/-- The fuses (R453, R458). `failedSites` is the factory map: the sites that failed test (R29, R32), of which only those
of MUs, SFUs and SUs count. `roll0` to `roll2` are the three copies of the 63 rollback bits, and `weak` the bits that do
not read back when they are blown (R456). `crcBad` lists the banks whose contents do not match their fused CRC; the
banks' own layout is not in the manual. `fuseOk` is what the boot loader has found. `identityKey` is the sealed private
key. -/
structure Fuses where
  serial : Word64
  failedSites : List Nat
  keyHash : BitVec 256
  roll0 : BitVec 63
  roll1 : BitVec 63
  roll2 : BitVec 63
  weak : BitVec 63
  crcBad : List FuseBank
  identityKey : BitVec 256
  testLock : Bool
  fuseOk : Bool
  keySet : Bool
  /-- Voltage setpoint in mV of region r at code c, at 5 r + c (code 0 retention). -/
  setpoints : Tab (BitVec 16)
  /-- Sensor offsets in 1/16 degC, by sensor; ring-oscillator counts and droop trims by region. -/
  sensorOffsets : Tab (BitVec 8)
  oscillators : Tab Word
  droopTrims : Tab (BitVec 8)
  certs : Tab (List Byte)
  deriving DecidableEq, Repr

def Fuses.reset : Fuses :=
  { serial := 0, failedSites := [], keyHash := 0, roll0 := 0, roll1 := 0, roll2 := 0, weak := 0, crcBad := [],
    identityKey := 1, testLock := true, fuseOk := true,
    keySet := true, setpoints := [], sensorOffsets := [], oscillators := [], droopTrims := [], certs := [] }

/-- The security block and the fault machinery of the hub (R447 to R463) with the SEC_ registers. -/
structure Security where
  fuses : Fuses
  flags : BitVec 16
  release : Word
  fwFail : BitVec 24
  fwLast : Byte
  restartLock : BitVec 16
  restartDog : BitVec 16
  planeUncorr : BitVec 16
  planeCorr : BitVec 16
  records : Word
  fwHash : BitVec 256
  combHash : BitVec 256
  cardHash : BitVec 256
  /-- FAULT_N is held since a command-processor restart, until a new image starts (R448). -/
  restarted : Bool
  /-- Reference clocks that have stopped (R447). -/
  refLost0 : Bool
  refLost1 : Bool
  deriving DecidableEq, Repr

/-- SHA-256 of 4,096 zero bytes, which SEC_CARD_HASH holds after reset (R437, R460, R463). -/
def emptyCardHash : BitVec 256 := 0xad7facb2586fc6e966c004d7d1d16b024f5805ff7cb47c7a85dabd8b48892ca7

def Security.reset : Security :=
  { fuses := .reset, flags := 0, release := 0, fwFail := 0, fwLast := 0, restartLock := 0, restartDog := 0,
    planeUncorr := 0, planeCorr := 0, records := 0, fwHash := 0, combHash := 0, cardHash := emptyCardHash,
    restarted := false, refLost0 := false, refLost1 := false }

/-- A whole entry that waits in the logbook queue: the hub clk at which it arrived, its source (regions 0 to 7, the
waggle homes of dies 0 to 3 as 8 to 11, the hub as 12), its kind and its payload (R467). -/
structure LogItem where
  clk : Nat
  source : Nat
  kind : Nat
  payload : List Byte
  deriving DecidableEq, Repr

/-- The logbook (R465 to R478) with its LOG_ registers. `starts` lists the positions of the entries that are still
whole, oldest first; `queue` the entries not yet written, each a kind and payload. -/
structure Logbook where
  mem : Mem
  p : Nat
  seq : Nat
  starts : List Nat
  queue : List LogItem
  dropped : BitVec 16
  unmarked : Word
  posHi : Word
  stream : Life
  streamBase : Nat
  streamLen : Nat
  streamPos : Nat
  lapped : BitVec 16
  streamCmd : Option CmdId
  /-- Base and length of an enable that waits for OFF (R407). -/
  streamPending : Option (Nat × Nat)
  scrubRow : Nat
  scrubBack : Option Nat
  deriving DecidableEq, Repr

def Logbook.reset : Logbook :=
  { mem := .reset, p := 0, seq := 0, starts := [], queue := [], dropped := 0, unmarked := 0, posHi := 0,
    stream := .off, streamBase := 0, streamLen := 0, streamPos := 0, lapped := 0, streamCmd := none,
    streamPending := none, scrubRow := 0, scrubBack := none }

/-- The power sequencer (R490 to R497). `plan` lists the steps still to take: rails to enable, by index. -/
structure Sequencer where
  aonValid : Bool
  pwrEn : Bool
  pwrOk : Bool
  status : BitVec 4
  railsOn : BitVec 19
  railsShort : BitVec 19
  railsWindow : BitVec 19
  ref0 : Bool
  ref1 : Bool
  swapped : Bool
  diodeFault : BitVec 5
  /-- The rail whose enable is being checked, and the steps that follow: `inl d` waits for die d's diode. -/
  checking : Option Nat
  plan : List (Nat ⊕ Nat)
  offPlan : List Nat
  resetLow : Bool
  /-- The checks of R490 are to run again (R495). -/
  rerun : Bool
  /-- The hub is held in reset until PWR_OK + 100 us (R497). -/
  hubHeld : Bool
  /-- Hub time at which PWR_OK rose; none if that is 100 us ago or more. -/
  okSince : Option Nat
  deriving DecidableEq, Repr

/-- The sequencer after a complete power-up (R492 code 0x2). -/
def Sequencer.reset : Sequencer :=
  { aonValid := true, pwrEn := true, pwrOk := true, status := 2, railsOn := 0x7FFFF, railsShort := 0, railsWindow := 0,
    ref0 := true, ref1 := true, swapped := false, diodeFault := 0, checking := none, plan := [], offPlan := [],
    resetLow := false, rerun := false, hubHeld := false, okSince := none }

/-! ### The device -/

/-- Everything but the command queue. `now` is hub time in units of 1/24 ns; `free` counts the free values drawn
(log 6); `hubEvents` are events that reach the hub directly and have not been received (R370, R431). -/
structure Device where
  now : Nat
  free : Nat
  host : HostPort
  ring : Mem
  ringScrub : Nat
  ringBack : Option Nat
  hbm : Mem
  comb : Comb
  tick : Tick
  pilots : Tab Pilot
  /-- Each pilot as it stood when its present clk began: what LOCKSTEP goes back to (R234). -/
  clkPilots : Tab Pilot
  switches : Tab Switch
  mus : Tab Mu
  sfus : Tab Sfu
  sus : Tab Su
  ious : Tab Iou
  crossings : List Crossing
  relock : List Nat
  homes : Tab Home
  hbmStacks : Tab Stack
  vxl : Vxl
  pwr : Power
  hlt : Health
  sec : Security
  log : Logbook
  seq : Sequencer
  hubEvents : List EventRec
  deriving DecidableEq, Repr

/-- The device right after reset (R14, R452): RESET_N has just been deasserted with every rail on. -/
def Device.reset : Device :=
  { now := 0, free := 0, host := .reset, ring := .reset, ringScrub := 0, ringBack := none, hbm := .reset,
    comb := .reset, tick := .reset, pilots := [], clkPilots := [], switches := [], mus := [], sfus := [], sus := [],
    ious := [], crossings := [], relock := [], homes := [], hbmStacks := [], vxl := .reset, pwr := .reset,
    hlt := .reset, sec := .reset, log := .reset, seq := .reset, hubEvents := [] }

/-- The machine: the commands that wait, first in first out, and the device. -/
structure State where
  pending : List Instr
  dev : Device
  deriving DecidableEq, Repr

/-- The machine right after reset (R14, R452), with no command waiting. -/
def State.reset : State := { pending := [], dev := .reset }

end Sys2Proof.Machine
end

