-- ==== Sys2Proof/Machine/Bits.lean ====
section
/-! DEFINITION. Bit fields, byte order, tables, byte stores and the places of the sites: the plain helpers that the
meanings share. Multi-byte values are little-endian everywhere (R6). -/

namespace Sys2Proof.Machine

/-! ### Bits and bytes -/

/-- Bits hi:lo of a number (R5). -/
def bitsNat (w hi lo : Nat) : Nat := (w >>> lo) % 2 ^ (hi + 1 - lo)

/-- The value of a byte list, least significant byte first (R6). -/
def le : List Byte → Nat
  | [] => 0
  | b :: bs => b.toNat + 256 * le bs

/-- The low `n` bytes of a number, least significant byte first (R6). -/
def leBytes : Nat → Nat → List Byte
  | 0, _ => []
  | n + 1, v => BitVec.ofNat 8 v :: leBytes n (v / 256)

/-- The field of `n` bytes at offset `off` of a structure in memory (R6); bytes beyond its end read 0. -/
def fieldAt (bs : List Byte) (off n : Nat) : Nat := le ((bs.drop off).take n)

/-- `n` bytes at offset `off`, padded with zeros. -/
def sliceAt (bs : List Byte) (off n : Nat) : List Byte :=
  let s := (bs.drop off).take n
  s ++ List.replicate (n - s.length) 0

/-- A byte string as a number, most significant byte first (R454). -/
def beNat : List Byte → Nat
  | [] => 0
  | b :: bs => b.toNat * 256 ^ bs.length + beNat bs

/-- A number as `n` bytes, most significant byte first (R454). -/
def beBytes (n v : Nat) : List Byte := (leBytes n v).reverse

/-- Counters saturate at their largest value: one more. -/
def satInc {n : Nat} (w : BitVec n) : BitVec n := if w = BitVec.allOnes n then w else w + 1

/-- Counters saturate at their largest value: `k` more. -/
def satAdd {n : Nat} (w : BitVec n) (k : Nat) : BitVec n := BitVec.ofNat n (min (w.toNat + k) (2 ^ n - 1))

def natOfBool (b : Bool) : Nat := if b then 1 else 0

/-- The bytes are all 0 (reserved fields). -/
def allZero (bs : List Byte) : Bool := bs.all (· == 0)

/-! ### Tables -/

/-- The entry of index `i`, or the default. -/
def Tab.getD {α : Type} : Tab α → Nat → α → α
  | [], _, dflt => dflt
  | (j, a) :: t, i, dflt => if i = j then a else Tab.getD t i dflt

/-- The entry of index `i`, if there is one. -/
def Tab.find {α : Type} : Tab α → Nat → Option α
  | [], _ => none
  | (j, a) :: t, i => if i = j then some a else Tab.find t i

/-- Puts an entry in its place; indices stay rising. -/
def Tab.put {α : Type} : Tab α → Nat → α → Tab α
  | [], i, a => [(i, a)]
  | (j, b) :: t, i, a =>
    if i < j then (i, a) :: (j, b) :: t else if i = j then (i, a) :: t else (j, b) :: Tab.put t i a

/-- Removes the entry of index `i`. -/
def Tab.del {α : Type} : Tab α → Nat → Tab α
  | [], _ => []
  | (j, b) :: t, i => if i = j then t else (j, b) :: Tab.del t i

/-- Changes the entry of index `i`, starting from the default. -/
def Tab.upd {α : Type} (t : Tab α) (i : Nat) (dflt : α) (f : α → α) : Tab α := t.put i (f (t.getD i dflt))

/-- Changes every entry that stands in the table. -/
def Tab.mapAll {α : Type} (t : Tab α) (f : Nat → α → α) : Tab α := List.map (fun p => (p.1, f p.1 p.2)) t

/-! ### Byte stores (R238) -/

/-- The byte at an address; an unlisted address reads 0. -/
def Mem.byte (m : Mem) (a : Nat) : Byte := Tab.getD m.cells a 0

/-- One byte written: a zero is not listed, so that equal stores are equal data. -/
def Mem.putByte (m : Mem) (a : Nat) (b : Byte) : Mem :=
  { m with cells := if b = 0 then Tab.del m.cells a else Tab.put m.cells a b }

/-- `n` bytes from address `a`. -/
def Mem.bytes (m : Mem) (a n : Nat) : List Byte := (List.range n).map fun i => m.byte (a + i)

/-- Bytes written from address `a` on, whatever the marks. -/
def Mem.putBytes (m : Mem) (a : Nat) : List Byte → Mem
  | [] => m
  | b :: bs => (m.putByte a b).putBytes (a + 1) bs

/-- What the check bits of a row say of it; none for a clean row. -/
def Mem.mark (m : Mem) (row : Nat) : Option RowMark := Tab.find m.marks row

/-- Sets or clears the mark of a row. -/
def Mem.setMark (m : Mem) (row : Nat) (k : Option RowMark) : Mem :=
  { m with marks := match k with | none => Tab.del m.marks row | some k => Tab.put m.marks row k }

/-- A row reads as poisoned if it holds the poison pattern or cannot be corrected (R238, R239). -/
def Mem.rowBad (m : Mem) (row : Nat) : Bool :=
  match m.mark row with
  | some .poison => true
  | some .uncorrectable => true
  | _ => false

/-- Some row under `n` bytes from `a` reads as poisoned. -/
def Mem.rangeBad (m : Mem) (a n : Nat) : Bool :=
  if n = 0 then false
  else (List.range ((a + n - 1) / 64 - a / 64 + 1)).any fun i => m.rowBad (a / 64 + i)

/-- A write into one row, `off` bytes from its start (R238): a write of all 64 bytes sets a new code; a part merges with
the row as corrected, and a row that reads as poisoned is then written with the poison pattern. -/
def Mem.writeRow (m : Mem) (row off : Nat) (bs : List Byte) (poison : Bool) : Mem :=
  let whole := off == 0 && bs.length == 64
  let bad := poison || (!whole && m.rowBad row)
  (m.putBytes (64 * row + off) bs).setMark row (if bad then some .poison else none)

/-- Bytes written over the rows from address `a` on, at most `fuel` rows. -/
def Mem.writeAux (m : Mem) (poison : Bool) : Nat → Nat → List Byte → Mem
  | 0, _, _ => m
  | fuel + 1, a, bs =>
    if bs.isEmpty then m
    else
      let k := 64 - a % 64
      (m.writeRow (a / 64) (a % 64) (bs.take k) poison).writeAux poison fuel (a + (bs.take k).length) (bs.drop k)

/-- Bytes written from address `a` on, row by row (R238). -/
def Mem.write (m : Mem) (a : Nat) (bs : List Byte) (poison : Bool := false) : Mem :=
  m.writeAux poison (bs.length + 1) a bs

/-- Indices rise strictly from `lo` on. -/
def Tab.rises {α : Type} : Nat → Tab α → Bool
  | _, [] => true
  | lo, (j, _) :: t => decide (lo ≤ j) && Tab.rises (j + 1) t

/-- The canonical form of a store: addresses strictly rising, no byte listed that reads 0, marks rising. -/
def Mem.wf (m : Mem) : Bool := Tab.rises 0 m.cells && m.cells.all (fun c => c.2 != 0) && Tab.rises 0 m.marks

/-! ### Sites (R9, R10, R20 to R25) -/

inductive UnitKind where
  | mu | sfu | su | iou
  deriving DecidableEq, Repr

/-- What an IOU serves (R23 to R25): a stack, a Vexlink port, the hub, or the bridge to a die. -/
inductive Duty where
  | hbm (stack : Nat) | port (p : Nat) | hub | bridge (die : Nat)
  deriving DecidableEq, Repr

def siteDie (i : Nat) : Nat := i / 1440
def siteY (i : Nat) : Nat := i % 1440 / 36
def siteX (i : Nat) : Nat := i % 36

/-- The number of site die:(x,y) (R475). -/
def siteOf (die x y : Nat) : Nat := 1440 * die + 36 * y + x

/-- The clock region of a site (R10). -/
def siteRegion (i : Nat) : Nat := 2 * siteDie i + (if 18 ≤ siteX i then 1 else 0)

/-- The site's coordinates as reflected into Q0 (R24). -/
def reflectX (i : Nat) : Nat := if siteDie i % 2 = 1 then 35 - siteX i else siteX i
def reflectY (i : Nat) : Nat := if 2 ≤ siteDie i then 39 - siteY i else siteY i

/-- The duty of a site, if it is an IOU site (R23 to R25). -/
def siteDuty (i : Nat) : Option Duty :=
  let x := reflectX i
  let y := reflectY i
  let d := siteDie i
  let r := siteRegion i
  if y = 0 then
    if [0, 2, 3, 5, 6, 8, 9, 11, 24, 26, 27, 29, 30, 32, 33, 35].contains x then some (.hbm r)
    else if [12, 14, 21, 23].contains x then some (.port (3 * d + r % 2))
    else if x = 15 ∨ x = 20 then some .hub
    else none
  else if x = 0 ∧ (y = 19 ∨ y = 20) then some (.port (3 * d + 2))
  else if x = 35 ∧ 18 ≤ y ∧ y ≤ 21 then some (.bridge (d ^^^ 1))
  else if y = 39 ∧ [8, 9, 26, 27].contains x then some (.bridge (d ^^^ 2))
  else none

/-- The unit at a site (R22, R23). -/
def siteKind (i : Nat) : UnitKind :=
  match siteDuty i with
  | some _ => .iou
  | none =>
    let y := siteY i
    if siteX i % 3 = 1 ∧ 4 ≤ y ∧ y ≤ 35 then (if y % 2 = 0 then .sfu else .su) else .mu

/-- The sites of a region, by ascending y and then x (R38, R470). -/
def regionSites (r : Nat) : List Nat :=
  (List.range 720).map fun k => siteOf (r / 2) (18 * (r % 2) + k % 18) (k / 18)

/-- A stack's capacity in bytes (R309): 72 × 10^9. -/
def stackBytes : Nat := 72000000000

end Sys2Proof.Machine
end

