-- ==== Sys2Proof/Machine/Crypto.lean ====
section
/-! DEFINITION. The published functions the spec names: CRC-32 with the IEEE 802.3 polynomial (R387, R453), SHA-256 of
FIPS 180-4 and ECDSA P-256 verification of FIPS 186-5 (R456). They compute on natural numbers. -/

namespace Sys2Proof.Machine

/-! ### CRC-32 (R387) -/

def crcBit (c : Nat) : Nat := if c % 2 = 1 then (c >>> 1) ^^^ 0xEDB88320 else c >>> 1

def crcByte (c : Nat) (b : Byte) : Nat :=
  crcBit (crcBit (crcBit (crcBit (crcBit (crcBit (crcBit (crcBit (c ^^^ b.toNat))))))))

/-- CRC-32 with the IEEE 802.3 polynomial, bits reflected, initial value and final complement as that standard has. -/
def crc32 (bs : List Byte) : Nat := bs.foldl crcByte 0xFFFFFFFF ^^^ 0xFFFFFFFF

/-- The last four bytes are the CRC-32 of those before them. -/
def crcEndOk (bs : List Byte) : Bool := 4 ≤ bs.length && crc32 (bs.take (bs.length - 4)) == fieldAt bs (bs.length - 4) 4

/-! ### SHA-256 (FIPS 180-4) -/

/-- The largest number with at most `n` more bits than `acc` whose `k`-th power is at most `v`, bit by bit from the top. -/
def rootBits (k v : Nat) : Nat → Nat → Nat
  | 0, acc => acc
  | n + 1, acc => rootBits k v n (if (acc + 2 ^ n) ^ k ≤ v then acc + 2 ^ n else acc)

/-- The first 32 bits of the fractional part of the `k`-th root of a number below 2^12. -/
def rootFraction (k p : Nat) : Nat := rootBits k (p * 2 ^ (32 * k)) 38 0 % 2 ^ 32

/-- The first 64 primes: no prime up to 17 divides a larger one of them. -/
def shaPrimes : List Nat :=
  (List.range 312).filter fun n => 2 ≤ n && [2, 3, 5, 7, 11, 13, 17].all fun q => n == q || n % q != 0

/-- The constants of the rounds: fractions of the cube roots of the first 64 primes. -/
def shaK : List Nat := shaPrimes.map (rootFraction 3)

def rotr (x n : Nat) : Nat := (x >>> n) ||| (x <<< (32 - n)) % 2 ^ 32

/-- The message schedule, latest word first. -/
def shaSchedule : Nat → List Nat → List Nat
  | 0, ws => ws
  | fuel + 1, ws =>
    let w2 := ws.getD 1 0
    let w7 := ws.getD 6 0
    let w15 := ws.getD 14 0
    let w16 := ws.getD 15 0
    let s0 := (rotr w15 7 ^^^ rotr w15 18) ^^^ (w15 >>> 3)
    let s1 := (rotr w2 17 ^^^ rotr w2 19) ^^^ (w2 >>> 10)
    shaSchedule fuel ((w16 + s0 + w7 + s1) % 2 ^ 32 :: ws)

/-- The eight working variables. -/
structure ShaVars where
  a : Nat
  b : Nat
  c : Nat
  d : Nat
  e : Nat
  f : Nat
  g : Nat
  h : Nat
  deriving DecidableEq, Repr

def shaRound (v : ShaVars) (kw : Nat × Nat) : ShaVars :=
  let s1 := (rotr v.e 6 ^^^ rotr v.e 11) ^^^ rotr v.e 25
  let ch := (v.e &&& v.f) ^^^ ((v.e ^^^ 0xFFFFFFFF) &&& v.g)
  let t1 := v.h + s1 + ch + kw.1 + kw.2
  let s0 := (rotr v.a 2 ^^^ rotr v.a 13) ^^^ rotr v.a 22
  let maj := ((v.a &&& v.b) ^^^ (v.a &&& v.c)) ^^^ (v.b &&& v.c)
  { a := (t1 + s0 + maj) % 2 ^ 32, b := v.a, c := v.b, d := v.c, e := (v.d + t1) % 2 ^ 32, f := v.e, g := v.f,
    h := v.g }

def shaBlock (v : ShaVars) (words : List Nat) : ShaVars :=
  let ws := (shaSchedule 48 words.reverse).reverse
  let w := (shaK.zip ws).foldl shaRound v
  { a := (v.a + w.a) % 2 ^ 32, b := (v.b + w.b) % 2 ^ 32, c := (v.c + w.c) % 2 ^ 32, d := (v.d + w.d) % 2 ^ 32,
    e := (v.e + w.e) % 2 ^ 32, f := (v.f + w.f) % 2 ^ 32, g := (v.g + w.g) % 2 ^ 32, h := (v.h + w.h) % 2 ^ 32 }

/-- The 16 big-endian words at the front of a byte list. -/
def shaWords : Nat → List Byte → List Nat
  | 0, _ => []
  | n + 1, bs => beNat (bs.take 4) :: shaWords n (bs.drop 4)

def shaBlocks : Nat → ShaVars → List Byte → ShaVars
  | 0, v, _ => v
  | n + 1, v, bs => shaBlocks n (shaBlock v (shaWords 16 (bs.take 64))) (bs.drop 64)

/-- The initial values: fractions of the square roots of the first eight primes. -/
def shaInit : ShaVars :=
  let h (i : Nat) : Nat := rootFraction 2 (shaPrimes.getD i 0)
  { a := h 0, b := h 1, c := h 2, d := h 3, e := h 4, f := h 5, g := h 6, h := h 7 }

def shaPad (bs : List Byte) : List Byte :=
  bs ++ [0x80] ++ List.replicate ((119 - bs.length % 64) % 64) 0 ++ beBytes 8 (8 * bs.length)

/-- SHA-256, as a number read most significant byte first (R454). -/
def sha256Nat (bs : List Byte) : Nat :=
  let p := shaPad bs
  let v := shaBlocks (p.length / 64) shaInit p
  ((((((v.a * 2 ^ 32 + v.b) * 2 ^ 32 + v.c) * 2 ^ 32 + v.d) * 2 ^ 32 + v.e) * 2 ^ 32 + v.f) * 2 ^ 32 + v.g) * 2 ^ 32 +
    v.h

def sha256 (bs : List Byte) : BitVec 256 := BitVec.ofNat 256 (sha256Nat bs)

/-! ### ECDSA P-256 (FIPS 186-5) -/

def p256P : Nat := 0xffffffff00000001000000000000000000000000ffffffffffffffffffffffff
def p256N : Nat := 0xffffffff00000000ffffffffffffffffbce6faada7179e84f3b9cac2fc632551
def p256B : Nat := 0x5ac635d8aa3a93e7b3ebbd55769886bc651d06b0cc53b0f63bce3c3e27d2604b
def p256X : Nat := 0x6b17d1f2e12c4247f8bce6e563a440f277037d812deb33a0f4a13945d898c296
def p256Y : Nat := 0x4fe342e2fe1a7f9b8ee7eb4a7c0f9e162bce33576b315ececbb6406837bf51f5

/-- `b ^ e` mod `m` over the low `fuel` bits of `e`. -/
def powMod (m : Nat) : Nat → Nat → Nat → Nat
  | 0, _, _ => 1 % m
  | fuel + 1, b, e =>
    let q := powMod m fuel (b * b % m) (e / 2)
    if e % 2 = 1 then b * q % m else q

/-- The inverse modulo a prime of 256 bits. -/
def invMod (m a : Nat) : Nat := powMod m 256 (a % m) (m - 2)

/-- A point (X : Y : Z) in Jacobian coordinates; Z = 0 is the point at infinity. -/
structure JPoint where
  x : Nat
  y : Nat
  z : Nat
  deriving DecidableEq, Repr

def JPoint.inf : JPoint := { x := 1, y := 1, z := 0 }

/-- a - b modulo p, for a, b below p. -/
def subP (a b : Nat) : Nat := (a + p256P - b) % p256P

def JPoint.double (q : JPoint) : JPoint :=
  if q.z = 0 then q
  else
    let z2 := q.z * q.z % p256P
    let y2 := q.y * q.y % p256P
    let s := 4 * q.x * y2 % p256P
    let m := 3 * (subP q.x z2) * (q.x + z2) % p256P
    let x := subP (m * m % p256P) (2 * s % p256P)
    { x := x, y := subP (m * subP s x % p256P) (8 * (y2 * y2 % p256P) % p256P), z := 2 * q.y * q.z % p256P }

def JPoint.add (p q : JPoint) : JPoint :=
  if p.z = 0 then q
  else if q.z = 0 then p
  else
    let z1 := p.z * p.z % p256P
    let z2 := q.z * q.z % p256P
    let u1 := p.x * z2 % p256P
    let u2 := q.x * z1 % p256P
    let s1 := p.y * (q.z * z2 % p256P) % p256P
    let s2 := q.y * (p.z * z1 % p256P) % p256P
    if u1 = u2 then (if s1 = s2 then p.double else .inf)
    else
      let h := subP u2 u1
      let r := subP s2 s1
      let h2 := h * h % p256P
      let h3 := h * h2 % p256P
      let v := u1 * h2 % p256P
      let x := subP (subP (r * r % p256P) h3) (2 * v % p256P)
      { x := x, y := subP (r * subP v x % p256P) (s1 * h3 % p256P), z := h * (p.z * q.z % p256P) % p256P }

/-- u · p + v · q over the low `fuel` bits of both, most significant bit first. -/
def mulAdd (p q pq : JPoint) (u v : Nat) : Nat → JPoint
  | 0 => .inf
  | fuel + 1 =>
    let acc := mulAddStep p q pq (u.testBit 0) (v.testBit 0) (mulAdd p q pq (u / 2) (v / 2) fuel)
    acc
where
  /-- Doubles, and adds what the present bits name. -/
  mulAddStep (p q pq : JPoint) (a b : Bool) (acc : JPoint) : JPoint :=
    let t := acc.double
    if a && b then t.add pq else if a then t.add p else if b then t.add q else t

/-- The public key is a point of the curve with coordinates in range. -/
def p256OnCurve (x y : Nat) : Bool :=
  decide (x < p256P) && decide (y < p256P) &&
    y * y % p256P == (x * x % p256P * x + (p256P - 3) * x + p256B) % p256P

/-- ECDSA P-256 verification of (r, s) over a digest with the public key (x, y) (R456). -/
def ecdsaVerify (digest x y r s : Nat) : Bool :=
  if r = 0 ∨ p256N ≤ r ∨ s = 0 ∨ p256N ≤ s ∨ !p256OnCurve x y then false
  else
    let w := invMod p256N s
    let g : JPoint := { x := p256X, y := p256Y, z := 1 }
    let q : JPoint := { x := x, y := y, z := 1 }
    let pt := mulAdd g q (g.add q) (digest * w % p256N) (r * w % p256N) 256
    if pt.z = 0 then false
    else
      let zi := invMod p256P pt.z
      pt.x * (zi * zi % p256P) % p256P % p256N == r

/-- The signature (r, s) of a digest by private key `key` with the random number drawn, which is brought into 1 to the
order less 1 (R458, R461). -/
def ecdsaSign (digest key draw : Nat) : Nat × Nat :=
  let k := draw % (p256N - 1) + 1
  let g : JPoint := { x := p256X, y := p256Y, z := 1 }
  let pt := mulAdd g .inf g k 0 256
  let zi := invMod p256P pt.z
  let r := pt.x * (zi * zi % p256P) % p256P % p256N
  (r, invMod p256N k * ((digest + r * key) % p256N) % p256N)

/-- The public key (x, y) of a private key (R458). -/
def p256Public (key : Nat) : Nat × Nat :=
  let g : JPoint := { x := p256X, y := p256Y, z := 1 }
  let pt := mulAdd g .inf g key 0 256
  let zi := invMod p256P pt.z
  (pt.x * (zi * zi % p256P) % p256P, pt.y * (zi * zi % p256P * zi % p256P) % p256P)

end Sys2Proof.Machine
end

