-- ==== Sys2Proof/Config.lean ====
section
/-! DEFINITION. What the spec fixes outside itself or leaves open: free values, none of which has a body,
so that nothing proved can rest on a choice (assumption log 6). -/

namespace Sys2Proof.Config

/-- Coefficient `k` of segment `n` of activation table `t` (1 to 3): the ROM is fixed in silicon and its contents
are not in the manual (R165, R402). -/
opaque actCoef (t n k : Nat) : Word

/-- DEGREE (k = 0), LO (1) and WIDTH (2) of activation table 0, which has no segments (R402). -/
opaque table0Field (k : Nat) : Word

/-- What function pipeline `x` returns for an input inside its range, where R204 gives an error bound only. -/
opaque vfn (x : Nat) (input : Word) : Word

/-- SEGMENTS of function ROM table 16 + `x` (R402). -/
opaque fnSegments (x : Nat) : BitVec 16

/-- DEGREE of function ROM table 16 + `x` (R402). -/
opaque fnDegree (x : Nat) : Byte

/-- LO and WIDTH of function ROM table 16 + `x`, in that order for `w` = 0 and 1 (R402). -/
opaque fnRange (x w : Nat) : Word

/-- Coefficient `k` of segment `n` of function ROM table 16 + `x` (R402). -/
opaque fnCoef (x n k : Nat) : Word

/-- The random number of the security block for its `n`-th signature (R458, R461). -/
opaque signNonce (n : Nat) : BitVec 256

/-- The bytes of every fuse bank but the sealed one, in bank order (R460): the banks' layout is not in the manual. The
calibration is the setpoints, the sensor offsets, the oscillator counts and the droop trims (R435), by index. -/
opaque fuseBanks (serial : Word64) (failedSites : List Nat) (keyHash : BitVec 256) (rollback : Nat) (testLock : Bool)
  (setpoints sensorOffsets oscillators droopTrims : List (Nat × Nat)) : List Byte

/-- A value that the manual does not state, the `n`-th drawn (assumption log 6). -/
opaque freeWord (n : Nat) : Word

/-- A byte of a value that the manual does not state, the `n`-th drawn (assumption log 6). -/
opaque freeByte (n : Nat) : Byte

end Sys2Proof.Config
end

