-- ==== Sys2Proof/Machine/Ops.lean ====
section
/-! DEFINITION. The named operations on the device that the meanings share: access to each part, hub time, the logbook
queue, error records, events, the completion of host commands, flag changes, and the stop of a region with the halt
that follows it. -/

namespace Sys2Proof.Machine

/-! ### Status codes (R409) -/

def Status.ok : Nat := 0x0000
def Status.acceptedPending : Nat := 0x0001
def Status.partial_ : Nat := 0x4001
def Status.hbmPoisonData : Nat := 0x4280
def Status.tickOverrun : Nat := 0x4401
def Status.tickStale : Nat := 0x4402
def Status.badOpcode : Nat := 0x8001
def Status.noHello : Nat := 0x8002
def Status.recoveryOnly : Nat := 0x8003
def Status.badHeader : Nat := 0x8004
def Status.badLength : Nat := 0x8005
def Status.badParam : Nat := 0x8006
def Status.badCrc : Nat := 0x8007
def Status.seqStale : Nat := 0x8008
def Status.seqGap : Nat := 0x8009
def Status.badRing : Nat := 0x800A
def Status.version : Nat := 0x800C
def Status.hringRange : Nat := 0x8101
def Status.hringBusy : Nat := 0x8102
def Status.romRange : Nat := 0x8103
def Status.memHostAbort : Nat := 0x8201
def Status.memRemote : Nat := 0x8202
def Status.memKind : Nat := 0x8203
def Status.hbmOffline : Nat := 0x8280
def Status.hbmRange : Nat := 0x8281
def Status.combFormat : Nat := 0x8301
def Status.combTarget : Nat := 0x8302
def Status.combResource : Nat := 0x8303
def Status.combBisection : Nat := 0x8304
def Status.combBudget : Nat := 0x8305
def Status.combFrequency : Nat := 0x8306
def Status.combState : Nat := 0x8307
def Status.tickPeriod : Nat := 0x8401
def Status.tickSource : Nat := 0x8402
def Status.tickNoJob : Nat := 0x8403
def Status.shapeRange : Nat := 0x8404
def Status.tickHalted : Nat := 0x8405
def Status.tickState : Nat := 0x8406
def Status.tickStageLate : Nat := 0x8407
def Status.tickStageFull : Nat := 0x8408
def Status.wagRange : Nat := 0x8501
def Status.wagBusy : Nat := 0x8502
def Status.wagState : Nat := 0x8503
def Status.wagSite : Nat := 0x8504
def Status.pwrLeeway : Nat := 0x8601
def Status.pwrState : Nat := 0x8602
def Status.pwrRange : Nat := 0x8603
def Status.hltRange : Nat := 0x8701
def Status.devcardFormat : Nat := 0x8702
def Status.hltState : Nat := 0x8703
def Status.fwVerify : Nat := 0x8801
def Status.fwRollback : Nat := 0x8802
def Status.fwState : Nat := 0x8803
def Status.secRange : Nat := 0x8804
def Status.vxlState : Nat := 0x8901
def Status.vxlRange : Nat := 0x8902
def Status.vxlNoId : Nat := 0x8903
def Status.vxlPort : Nat := 0x8904
def Status.vxlAllPruned : Nat := 0x8905
def Status.logRange : Nat := 0x8A01
def Status.logState : Nat := 0x8A02

/-- The state that PWR_STATE.STATE shows: 4 while the device wakes. -/
def Power.shown (p : Power) : Nat := if p.wakeTo.isSome then 4 else p.state.toNat

/-- The hub runs: its rails are on and nothing holds it in reset (R490, R495, R497). -/
def Device.up (d : Device) : Bool :=
  d.seq.railsOn.getLsbD 0 && d.seq.railsOn.getLsbD 1 && !d.seq.resetLow && !d.seq.hubHeld

/-- Units of 1/24 ns in a clk at a frequency code. -/
def clkUnits (code : Nat) : Nat := 60 / code

/-! ### Parts of the device -/

/-- Every meaning changes the device and leaves the queue of commands as it stands. -/
def State.liftAny (f : Device → Device) (s : State) : Host.Outcome State Fault Refusal :=
  .next { s with dev := f s.dev }

/-- A meaning that the hub, or a part that the hub's power and reset govern, carries out: nothing happens while the hub
is off or in reset (R497). -/
def State.lift (f : Device → Device) (s : State) : Host.Outcome State Fault Refusal :=
  s.liftAny fun d => if d.up then f d else d

def Device.pilot (d : Device) (r : Nat) : Pilot := d.pilots.getD r .reset
def Device.modPilot (d : Device) (r : Nat) (f : Pilot → Pilot) : Device := { d with pilots := d.pilots.upd r .reset f }
def Device.switch (d : Device) (u : Nat) : Switch := d.switches.getD u .reset
def Device.modSwitch (d : Device) (u : Nat) (f : Switch → Switch) : Device :=
  { d with switches := d.switches.upd u .reset f }
def Device.mu (d : Device) (u : Nat) : Mu := d.mus.getD u .reset
def Device.modMu (d : Device) (u : Nat) (f : Mu → Mu) : Device := { d with mus := d.mus.upd u .reset f }
def Device.sfu (d : Device) (u : Nat) : Sfu := d.sfus.getD u .reset
def Device.modSfu (d : Device) (u : Nat) (f : Sfu → Sfu) : Device := { d with sfus := d.sfus.upd u .reset f }
def Device.su (d : Device) (u : Nat) : Su := d.sus.getD u .reset
def Device.modSu (d : Device) (u : Nat) (f : Su → Su) : Device := { d with sus := d.sus.upd u .reset f }
def Device.iou (d : Device) (u : Nat) : Iou := d.ious.getD u .reset
def Device.modIou (d : Device) (u : Nat) (f : Iou → Iou) : Device := { d with ious := d.ious.upd u .reset f }
def Device.home (d : Device) (k : Nat) : Home := d.homes.getD k .reset
def Device.modHome (d : Device) (k : Nat) (f : Home → Home) : Device := { d with homes := d.homes.upd k .reset f }
def Device.stack (d : Device) (k : Nat) : Stack := d.hbmStacks.getD k .reset
def Device.modStack (d : Device) (k : Nat) (f : Stack → Stack) : Device :=
  { d with hbmStacks := d.hbmStacks.upd k .reset f }
def Device.modHost (d : Device) (f : HostPort → HostPort) : Device := { d with host := f d.host }
def Device.modTick (d : Device) (f : Tick → Tick) : Device := { d with tick := f d.tick }
def Device.modComb (d : Device) (f : Comb → Comb) : Device := { d with comb := f d.comb }
def Device.modVxl (d : Device) (f : Vxl → Vxl) : Device := { d with vxl := f d.vxl }
def Device.modPwr (d : Device) (f : Power → Power) : Device := { d with pwr := f d.pwr }
def Device.modHlt (d : Device) (f : Health → Health) : Device := { d with hlt := f d.hlt }
def Device.modSec (d : Device) (f : Security → Security) : Device := { d with sec := f d.sec }
def Device.modLog (d : Device) (f : Logbook → Logbook) : Device := { d with log := f d.log }
def Device.modSeq (d : Device) (f : Sequencer → Sequencer) : Device := { d with seq := f d.seq }

def Device.pwrRegion (d : Device) (r : Nat) : PwrRegion := d.pwr.regions.getD r .reset
def Device.modPwrRegion (d : Device) (r : Nat) (f : PwrRegion → PwrRegion) : Device :=
  d.modPwr fun p => { p with regions := p.regions.upd r .reset f }
def Device.port (d : Device) (p : Nat) : VxlPort := d.vxl.ports.getD p .reset
def Device.modPort (d : Device) (p : Nat) (f : VxlPort → VxlPort) : Device :=
  d.modVxl fun v => { v with ports := v.ports.upd p .reset f }
def Device.cmdRing (d : Device) (q : Nat) : CmdRing := d.host.cmdRings.getD q .reset
def Device.modCmdRing (d : Device) (q : Nat) (f : CmdRing → CmdRing) : Device :=
  d.modHost fun h => { h with cmdRings := h.cmdRings.upd q .reset f }
def Device.cplRing (d : Device) (q : Nat) : CplRing := d.host.cplRings.getD q .reset
def Device.modCplRing (d : Device) (q : Nat) (f : CplRing → CplRing) : Device :=
  d.modHost fun h => { h with cplRings := h.cplRings.upd q .reset f }

/-- What every unit has, whatever its kind. -/
def Device.unit (d : Device) (u : Nat) : Unit :=
  match siteKind u with
  | .mu => (d.mu u).unit
  | .sfu => (d.sfu u).unit
  | .su => (d.su u).unit
  | .iou => (d.iou u).unit

def Device.modUnit (d : Device) (u : Nat) (f : Unit → Unit) : Device :=
  match siteKind u with
  | .mu => d.modMu u fun m => { m with unit := f m.unit }
  | .sfu => d.modSfu u fun m => { m with unit := f m.unit }
  | .su => d.modSu u fun m => { m with unit := f m.unit }
  | .iou => d.modIou u fun m => { m with unit := f m.unit }

/-- A site in the factory map (R29, R30, R32): an IOU site always counts as usable. -/
def Device.usable (d : Device) (u : Nat) : Bool := siteKind u == .iou || !d.sec.fuses.failedSites.contains u

/-- A number that the manual does not state; each draw is a value of its own (log 6). -/
def Device.drawWord (d : Device) : Word × Device := (Config.freeWord d.free, { d with free := d.free + 1 })

/-! ### Time -/

/-- Hub time in ns since reset (R387, R410); the state counts units of 1/24 ns. -/
def Device.hubNs (d : Device) : Nat := d.now / 24

/-- A region's clock runs: the region is not stopped, parked or retained (R418), and no halt holds it (R64). -/
def Device.clockRuns (d : Device) (r : Nat) : Bool := (d.pwrRegion r).freq != 0 && !(d.pwrRegion r).halted

/-- A region's pilot and units carry out its comb: the clock runs and the region has not stopped (R235). -/
def Device.live (d : Device) (r : Nat) : Bool := d.clockRuns r && (d.pilot r).state != 6

/-- The region has taken its first clk of the active comb: after an end-of-tick swap and after activation, that clk is
the one at which the next strike is taken (R51, R230). -/
def Device.started (d : Device) (r : Nat) : Bool := d.live r && !(d.pilot r).idleUntilStrike

/-- The comb number that a region's units run, from its pilot (R57). -/
def Device.combOf (d : Device) (r : Nat) : Nat := (d.pilot r).comb.toNat

/-- A shape register as the shape bus carries it: a write is on the bus 4 clk later (R95, R218). -/
def Pilot.onBus (p : Pilot) (k : Nat) : Word :=
  match p.shapeDue.find? fun e => e.reg == k with
  | some e => e.old
  | none => p.shape.getD k 0

/-- A shape register as the bus of a site's region carries it. -/
def Device.shapeReg (d : Device) (u k : Nat) : Word := (d.pilot (siteRegion u)).onBus k

/-! ### The logbook queue (R466, R467) -/

/-- Bytes of an entry with `n` payload bytes: header, payload, padding to 16 bytes (R466). -/
def logSize (n : Nat) : Nat := 16 + (n + 15) / 16 * 16

/-- Bytes that the queue holds. -/
def Logbook.queued (l : Logbook) : Nat := (l.queue.map fun e => logSize e.payload.length).sum

/-- An entry takes its place in arrival order; entries of one hub clk stand in ascending order of source, and those of
one source as it raised them (R467). -/
def LogItem.insert (e : LogItem) (q : List LogItem) : List LogItem :=
  let later (k : LogItem) : Bool := k.clk == e.clk && decide (e.source < k.source)
  q.filter (fun k => !later k) ++ e :: q.filter later

/-- Hands a whole entry to the queue of 64 KiB; one that does not fit is dropped and counted (R467). -/
def Logbook.enter (l : Logbook) (e : LogItem) : Logbook :=
  if l.queued + logSize e.payload.length ≤ 65536 then { l with queue := e.insert l.queue }
  else { l with dropped := satInc l.dropped, unmarked := satInc l.unmarked }

/-- The hub as a source of logbook entries. -/
def hubSource : Nat := 12

/-- Source `src` hands an entry to the queue. A hub clk takes 15 units of `now`. -/
def Device.logEnter (d : Device) (src kind : Nat) (payload : List Byte) : Device :=
  d.modLog (·.enter { clk := d.now / 15, source := src, kind := kind, payload := payload })

/-- Where a detection took place, for the record header of R449; 0xFF for what does not apply. -/
structure RecPlace where
  region : Nat
  x : Nat
  y : Nat
  comb : Nat
  clk : Nat
  deriving DecidableEq, Repr

/-- PLT_COMB_CLK. -/
def Pilot.clkWord (p : Pilot) : Word := BitVec.ofNat 32 (min p.combClk 0xFFFFFFFF)

/-- A place with the comb and clk of its region, which apply while a comb set is ACTIVE or HALTED. -/
def Device.placeAt (d : Device) (r x y : Nat) : RecPlace :=
  let p := d.pilot r
  if d.comb.state = .active ∨ d.comb.state = .halted then
    { region := r, x := x, y := y, comb := p.comb.toNat, clk := p.clkWord.toNat }
  else { region := r, x := x, y := y, comb := 0xFF, clk := 0xFFFFFFFF }

/-- The place of a site. -/
def Device.atSite (d : Device) (u : Nat) : RecPlace := d.placeAt (siteRegion u) (siteX u) (siteY u)

/-- The place of a region. -/
def Device.atRegion (d : Device) (r : Nat) : RecPlace := d.placeAt r 0xFF 0xFF

/-- No place on the grid. -/
def RecPlace.hub : RecPlace := { region := 0xFF, x := 0xFF, y := 0xFF, comb := 0xFF, clk := 0xFFFFFFFF }

/-- The tick number of a record (R449): all ones unless a tick runs, or ticks are ON and one has started. -/
def Tick.recorded (t : Tick) : Nat :=
  if t.running.isSome ∨ t.life = .on ∨ t.life = .stopping then t.number else 0xFFFFFFFFFFFFFFFF

/-- The 64 bytes of an error record (R449). -/
def recordBytes (d : Device) (cls sev : Nat) (w : RecPlace) (detail : List Byte) : List Byte :=
  leBytes 2 cls ++ leBytes 1 sev ++ leBytes 1 w.region ++ leBytes 1 w.x ++ leBytes 1 w.y ++ leBytes 1 w.comb ++
    leBytes 1 0 ++ leBytes 8 d.tick.recorded ++ leBytes 4 w.clk ++ leBytes 4 0 ++ leBytes 8 d.hubNs ++
    sliceAt detail 0 32

/-- The source that raises a record at a place: its region, or the hub. -/
def RecPlace.source (w : RecPlace) : Nat := if w.region < 8 then w.region else hubSource

/-- Writes an error record to the logbook and counts it in SEC_RECORDS (R449, R450). -/
def Device.record (d : Device) (cls sev : Nat) (w : RecPlace) (detail : List Byte) (src : Nat := w.source) : Device :=
  (d.logEnter src 4 (recordBytes d cls sev w detail)).modSec fun s => { s with records := satInc s.records }

/-! ### Events (R231, R232, R370, R431) -/

/-- The pilot of a region counts an event and sends it to the hub, through a buffer of 64 (R231). -/
def Pilot.raise (p : Pilot) (e : EventRec) : Pilot :=
  let p := { p with evRaised := satInc p.evRaised }
  if p.events.length < 64 then { p with events := p.events ++ [e] } else { p with evLost := satInc p.evLost }

/-- The event record of a region now (R231). -/
def Device.eventOf (d : Device) (r code : Nat) (arg : Word) : EventRec :=
  let p := d.pilot r
  { code := BitVec.ofNat 16 code, region := BitVec.ofNat 8 r, comb := p.comb.setWidth 8, clk := p.clkWord,
    tick := BitVec.ofNat 64 d.tick.number, arg := arg }

/-- Raises an event in a region. -/
def Device.raise (d : Device) (r code : Nat) (arg : Word) : Device :=
  d.modPilot r (·.raise (d.eventOf r code arg))

/-- Raises an event whose chapter says "once per tick": the pilot passes on only the first of each code in a tick and
counts every one (R231). -/
def Device.raiseOnce (d : Device) (r code : Nat) (arg : Word) : Device :=
  d.modPilot r fun p =>
    if p.once.contains (BitVec.ofNat 16 code) then { p with evRaised := satInc p.evRaised }
    else { p.raise (d.eventOf r code arg) with once := BitVec.ofNat 16 code :: p.once }

/-- An event that reaches the hub directly (R370, R431). Its comb and clk are not stated (log 6). -/
def Device.raiseHub (d : Device) (region code : Nat) (arg : Word) : Device :=
  let e : EventRec :=
    { code := BitVec.ofNat 16 code, region := BitVec.ofNat 8 region, comb := Config.freeByte d.free,
      clk := Config.freeWord d.free, tick := BitVec.ofNat 64 d.tick.number, arg := arg }
  { d with hubEvents := d.hubEvents ++ [e], free := d.free + 1 }

/-- The halting events (R471). -/
def haltingEvent (code : Nat) : Bool :=
  (decide (0x20 ≤ code) && decide (code ≤ 0x2B)) || [0x43, 0x4A, 0x73, 0x83].contains code

/-! ### Host commands (R391 to R396) -/

def Device.findCmd (d : Device) (id : CmdId) : Option Cmd := d.host.cmds.find? (·.id == id)

def Device.modCmd (d : Device) (id : CmdId) (f : Cmd → Cmd) : Device :=
  d.modHost fun h => { h with cmds := h.cmds.map fun c => if c.id == id then f c else c }

/-- A command is running from its start to its completion (R392). -/
def Cmd.running (c : Cmd) : Bool := c.started && !c.posted

/-- Queues a packet on a completion ring; it waits there for room (R384, R385). -/
def Device.queuePacket (d : Device) (cpl : Nat) (p : Packet) : Device :=
  d.modCplRing cpl fun r => { r with waiting := r.waiting ++ [p] }

/-- The completion packet of a command (R387, R388): OPCODE, SEQ, TAG, NOTIFY and FENCE come from the command. -/
def Cmd.packet (c : Cmd) (status : Nat) (detail : Word) (payload : List Byte) : Packet :=
  { opcode := c.opcode, kind := 2, flags := c.flags &&& 3, seq := c.id.seq, status := BitVec.ofNat 16 status,
    ring := BitVec.ofNat 8 c.id.ring.val, tag := c.tag, detail := detail, payload := payload, cache := true }

/-- A command completes: its completion waits to be written on the ring paired with its command ring. -/
def Device.complete (d : Device) (id : CmdId) (status : Nat) (payload : List Byte := []) (detail : Word := 0) :
    Device :=
  match d.findCmd id with
  | none => d
  | some c =>
    if c.posted then d
    else (d.modCmd id fun c => { c with posted := true }).queuePacket (d.cmdRing id.ring.val).cpl
      (c.packet status detail payload)

/-- Runs a command's own row once, if the command is the one that has started (R391, R392). -/
def Device.runCmd (d : Device) (op : Nat) (id : CmdId) (body : List Byte → Device → Device) : Device :=
  match d.findCmd id with
  | none => d
  | some c =>
    if c.started && !c.ran && !c.posted && c.opcode == BitVec.ofNat 16 op then
      body c.params (d.modCmd id fun c => { c with ran := true })
    else d

/-! ### Flags (R280) -/

/-- A change request that arrives at a home; every arrival is applied at the home's next clk. -/
def Device.flagReq (d : Device) (src die flag : Nat) (value : Bool) (cmd : Option CmdId := none)
    (tid : Option (BitVec 18 × Word64) := none) : Device :=
  d.modHome die fun h =>
    { h with reqs := h.reqs ++
        [{ flag := flag, value := value, parityOk := true, src := src, cmd := cmd, tid := tid }] }

/-- A flag as its home holds it. -/
def Device.flagVal (d : Device) (die flag : Nat) : Bool := (d.home die).flags.contains flag

/-! ### The stop of a region and the halt of the job (R64, R235) -/

/-- A pilot stops with a cause (R235). -/
def Pilot.stop (p : Pilot) (x y : Nat) (cause : Nat) : Pilot :=
  { p with state := 6, stopX := BitVec.ofNat 8 x, stopY := BitVec.ofNat 8 y, cause := BitVec.ofNat 4 cause }

/-- Every region that has not stopped stops with cause `c` (R64, R235, R447). -/
def Device.stopAll (d : Device) (c : Nat) : Device :=
  (List.range 8).foldl (fun d r =>
    (d.modPilot r fun p => if p.state = 6 then p else p.stop 0xFF 0xFF c).modPwrRegion r fun g =>
      { g with halted := true }) d

/-- The tick goes OFF at a halt; staged values and a pending start are dropped, and a TICK_STOP completes (R56, R64,
R394). -/
def Device.haltTick (d : Device) : Device :=
  let ids := (d.host.cmds.filter fun c => c.running && c.ran && c.opcode == 0x0403).map (·.id)
  let d := d.modTick fun t => { t with life := .off, pendingStart := false, staged := [], held := none }
  ids.foldl (fun d id => d.complete id Status.ok) d

/-- Firmware halts the job: every region stops, the set is HALTED, and the report is owed (R64). `region` is the halting
region of the STATUS reply. -/
def Device.haltJob (d : Device) (region : Nat) (cause : Nat) : Device :=
  let d := d.stopAll cause
  if d.comb.state = .active then
    let d := d.modComb fun c =>
      { c with state := .halted, haltRegion := BitVec.ofNat 8 region, haltTime := d.now, halting := true,
               haltReported := false,
               combAtHalt := match c.active with | some a => BitVec.ofNat 8 a | none => 0xFF }
    d.haltTick
  else d

/-- A region stops with a cause at a place, and R64 applies. A region that has stopped already keeps its cause. -/
def Device.stopRegion (d : Device) (r x y cause : Nat) : Device :=
  if (d.pilot r).state = 6 then d
  else (d.modPilot r (·.stop x y cause)).haltJob r 10

end Sys2Proof.Machine
end

