-- ==== Sys2Proof/Machine/HostPort.lean ====
section
/-! DEFINITION. The host port (R372 to R399, R406, R410): the window, the HOST_ registers, the rings, the taking of
packets, the start and the completion of commands. -/

namespace Sys2Proof.Machine

/-- A command whose operands the protocol does not allow has no meaning (log 3). -/
def State.liftIf (i : Instr) (f : Device → Device) (s : State) : Host.Outcome State Fault Refusal :=
  if i.wellFormed then s.lift f else .refused .illFormed

def Device.sendHost (d : Device) (m : HostMsg) : Device := d.modHost fun h => { h with toHost := h.toHost ++ [m] }

/-- The link to the host is up while at least one module is (R374). -/
def HostPort.linkUp (h : HostPort) : Bool := decide (2 ≤ h.m0.toNat) || decide (2 ≤ h.m1.toNat)

/-! ### Errors of the window and of doorbells (R378, R383) -/

/-- The W1C bits that the hardware has set in this clk; two accesses fall in one clk if hub time has not moved between
them (R12, log 9). -/
def HostPort.fresh (h : HostPort) (now : Nat) : HostPort :=
  if h.freshAt = now then h else { h with freshAt := now, freshIrq := 0, freshErr := 0 }

/-- The hardware sets bits of HOST_ERR. -/
def HostPort.setErr (h : HostPort) (now : Nat) (bits : BitVec 4) : HostPort :=
  let h := h.fresh now
  { h with err := h.err ||| bits, freshErr := h.freshErr ||| bits }

/-- The hardware sets bit `q` of HOST_IRQ_PENDING. -/
def HostPort.setIrq (h : HostPort) (now q : Nat) : HostPort :=
  let h := h.fresh now
  { h with irqPending := h.irqPending ||| BitVec.ofNat 16 (2 ^ q), freshIrq := h.freshIrq ||| BitVec.ofNat 16 (2 ^ q) }

/-- A write of HOST_ERR and of HOST_IRQ_PENDING clears the bits written 1, but those set in the same clk (R11, R12). -/
def HostPort.clearErr (h : HostPort) (now : Nat) (v : BitVec 4) : HostPort :=
  let h := h.fresh now
  { h with err := h.err &&& ~~~v ||| h.freshErr }

def HostPort.clearIrq (h : HostPort) (now : Nat) (v : BitVec 16) : HostPort :=
  let h := h.fresh now
  { h with irqPending := h.irqPending &&& ~~~v ||| h.freshIrq }

def Device.windowError (d : Device) : Device :=
  d.modHost fun h => { h.setErr d.now 1 with errWindow := satInc h.errWindow }
def Device.doorbellError (d : Device) : Device :=
  d.modHost fun h => { h.setErr d.now 2 with errDoorbell := satInc h.errDoorbell }

/-! ### Registers (R410) -/

def Life.code : Life → Nat
  | .off => 0
  | .starting => 1
  | .on => 2
  | .stopping => 3

/-- Family 0x02 commands running (HOST_INFLIGHT.COPIES). -/
def HostPort.copies (h : HostPort) : Nat := (h.cmds.filter fun c => c.running && c.opcode.toNat / 256 == 2).length

/-- A word of a command ring's register block; registers of a ring that is OFF read 0. -/
def CmdRing.reg (r : CmdRing) (w : Nat) : Nat :=
  if r.life = .off then 0
  else match w with
    | 0 => r.tail.toNat
    | 1 => r.head.toNat
    | 2 => r.life.code * 2 ^ 30 + natOfBool r.pending.isSome * 2 ^ 29 + natOfBool r.held * 2 ^ 28 +
        natOfBool r.resume * 2 ^ 16 + r.newHead.toNat
    | _ => r.next.toNat

/-- A word of a completion ring's register block. -/
def CplRing.reg (r : CplRing) (w : Nat) : Nat :=
  if r.life = .off then 0
  else match w with
    | 0 => r.tail.toNat
    | 1 => r.head.toNat
    | 2 => r.life.code * 2 ^ 30 + natOfBool r.pending.isSome * 2 ^ 29 + natOfBool r.phase * 2 ^ 28 + r.dropped.toNat
    | _ => 0

/-- A HOST_ register; reserved offsets read 0. -/
def Device.hostReg (d : Device) (off : Nat) : Nat :=
  let h := d.host
  match off with
  | 0x000 => 0x1000C000
  | 0x004 => h.m1.toNat * 2 ^ 30 + h.m0.toNat * 2 ^ 28 + h.rate.toNat * 2 ^ 24 + h.partner.toNat * 2 ^ 20 +
      h.retrains.toNat
  | 0x008 => h.loader.toNat * 2 ^ 16 + h.version.toNat
  | 0x00C => d.hubNs % 2 ^ 32
  | 0x010 => h.timeHi.toNat
  | 0x014 => h.irqPending.toNat
  | 0x018 => h.irqMask.toNat
  | 0x01C => h.err.toNat
  | 0x020 => h.errDoorbell.toNat * 2 ^ 16 + h.errWindow.toNat
  | 0x024 => h.lostEvents.toNat * 2 ^ 16 + h.lostReports.toNat
  | 0x028 => h.replays.toNat * 2 ^ 16 + h.cache.length
  | 0x02C => h.copies * 2 ^ 8 + h.cmds.length
  | _ =>
    if off % 4 ≠ 0 then 0
    else if 0x100 ≤ off ∧ off < 0x200 then (d.cmdRing ((off - 0x100) / 16)).reg (off / 4 % 4)
    else if 0x200 ≤ off ∧ off < 0x300 then (d.cplRing ((off - 0x200) / 16)).reg (off / 4 % 4)
    else 0

/-- Reading HOST_TIME_LO latches bits 63:32 of hub time into HOST_TIME_HI. -/
def Device.hostRegLatch (d : Device) (off : Nat) : Device :=
  if off = 0x00C then d.modHost fun h => { h with timeHi := BitVec.ofNat 32 (d.hubNs / 2 ^ 32) } else d

/-- A doorbell (R383): stored only if the ring is ON and the value is below ENTRIES. -/
def Device.ringDoorbell (d : Device) (q : Nat) (v : Word) : Device :=
  let r := d.cmdRing q
  let t := v.toNat % 65536
  if r.life = .on ∧ t < r.entries then d.modCmdRing q fun r => { r with tail := BitVec.ofNat 16 t }
  else d.doorbellError

/-- A completion-ring head write (R384). -/
def Device.writeCplHead (d : Device) (q : Nat) (v : Word) : Device :=
  let t := v.toNat % 65536
  if t < (d.cplRing q).entries then d.modCplRing q fun r => { r with head := BitVec.ofNat 16 t }
  else d.doorbellError

/-- A write to HOST_CMD_CTRL (R390, R410): NEW_HEAD is stored; RESUME acts only while the ring is held, and is a
doorbell error if NEW_HEAD is not below ENTRIES. -/
def Device.writeCtrl (d : Device) (q : Nat) (v : Word) : Device :=
  let r := d.cmdRing q
  if r.life = .off then d
  else
    let nh := BitVec.ofNat 16 v.toNat
    let d := d.modCmdRing q fun r => { r with newHead := nh }
    if v.getLsbD 16 && r.held then
      if nh.toNat < r.entries then
        d.modCmdRing q fun r => { r with head := nh, held := false, resume := true }
      else d.doorbellError
    else d

/-- A write to a HOST_ register by its access type (R11, R12, R410); a write to a read-only or reserved offset does
nothing. -/
def Device.writeHostReg (d : Device) (off : Nat) (v : Word) : Device :=
  if off = 0x014 then d.modHost (·.clearIrq d.now (BitVec.ofNat 16 v.toNat))
  else if off = 0x018 then d.modHost fun h => { h with irqMask := BitVec.ofNat 16 v.toNat }
  else if off = 0x01C then d.modHost (·.clearErr d.now (BitVec.ofNat 4 v.toNat))
  else if 0x100 ≤ off ∧ off < 0x200 ∧ off % 16 = 0 then d.ringDoorbell ((off - 0x100) / 16) v
  else if 0x100 ≤ off ∧ off < 0x200 ∧ off % 16 = 8 then d.writeCtrl ((off - 0x100) / 16) v
  else if 0x200 ≤ off ∧ off < 0x300 ∧ off % 16 = 4 then d.writeCplHead ((off - 0x200) / 16) v
  else d

/-! ### The window (R375 to R379) -/

def ringSramBytes : Nat := 0x800000
def hostRegBase : Nat := 0x800000

/-- A write to ring SRAM: below 0x1000 it is ignored (R379). -/
def Device.writeRing (d : Device) (off : Nat) (bs : List Byte) (poison : Bool := false) : Device :=
  if off < 0x1000 then d else { d with ring := d.ring.write off bs poison }

/-- An HWR (R376, R378). -/
def Device.hwr (off : Nat) (bs : List Byte) (d : Device) : Device :=
  if off + bs.length ≤ ringSramBytes then d.writeRing off bs
  else if hostRegBase ≤ off ∧ off < hostRegBase + 0x1000 ∧ bs.length = 4 then
    d.writeHostReg (off - hostRegBase) (BitVec.ofNat 32 (le bs))
  else d.windowError

/-- The poison mask of an answer: one bit for each 64 bytes of the data (R375). -/
def poisonMask (flags : List Bool) : BitVec 4 :=
  BitVec.ofNat 4 ((List.range 4).foldl (fun m k => m + natOfBool (((flags.drop (64 * k)).take 64).any id) * 2 ^ k) 0)

/-- For each of `n` bytes from `a`, whether its row reads as poisoned. -/
def Mem.badFlags (m : Mem) (a n : Nat) : List Bool := (List.range n).map fun i => m.rowBad ((a + i) / 64)

/-- An HRD (R376, R378, R379). -/
def Device.hrd (off len tag : Nat) (d : Device) : Device :=
  if off + len ≤ ringSramBytes then
    let flags := d.ring.badFlags off len
    let d := if flags.any id then d.modHost (·.setErr d.now 4) else d
    d.sendHost (.hrdCpl tag (d.ring.bytes off len) false (poisonMask flags))
  else if hostRegBase ≤ off ∧ off < hostRegBase + 0x1000 ∧ len = 4 then
    (d.hostRegLatch (off - hostRegBase)).sendHost
      (.hrdCpl tag (leBytes 4 (d.hostReg (off - hostRegBase))) false 0)
  else d.windowError.sendHost (.hrdCpl tag (List.replicate len 0) true 0)

def execHwr (off : Nat) (bytes : List Byte) (s : State) : Host.Outcome State Fault Refusal :=
  s.liftIf (.hwr off bytes) (Device.hwr off bytes)

def execHrd (off len : Nat) (tag : Fin 256) (s : State) : Host.Outcome State Fault Refusal :=
  s.liftIf (.hrd off len tag) (Device.hrd off len tag.val)

/-- HOST_TIME_READ (R410): the read of HOST_TIME_LO. -/
def execHostTimeRead (tag : Fin 256) (s : State) : Host.Outcome State Fault Refusal :=
  s.lift (Device.hrd 0x80000C 4 tag.val)

def execDoorbell (q : RingIx) (v : Word) (s : State) : Host.Outcome State Fault Refusal :=
  s.lift fun d => d.ringDoorbell q.val v

def execCplHeadWrite (q : RingIx) (v : Word) (s : State) : Host.Outcome State Fault Refusal :=
  s.lift fun d => d.writeCplHead q.val v

/-- RESUME (R390): a write to HOST_CMD_CTRL. -/
def execResume (q : RingIx) (v : Word) (s : State) : Host.Outcome State Fault Refusal :=
  s.lift fun d => d.writeCtrl q.val v

/-- REGISTER_WRITE (R11): a write of four bytes to the HOST_ block. -/
def execRegisterWrite (off : Nat) (v : Word) (s : State) : Host.Outcome State Fault Refusal :=
  s.liftIf (.registerWrite off v) fun d => d.writeHostReg off v

/-- DWR messages of at most 256 bytes each, with their poison masks (R375, R376). -/
def Device.dwrRange (d : Device) : Nat → Nat → List (Byte × Bool) → Device
  | 0, _, _ => d
  | fuel + 1, a, bs =>
    if bs.isEmpty then d
    else
      let part := bs.take 256
      (d.sendHost (.dwr (BitVec.ofNat 64 a) (part.map (·.1)) (poisonMask (part.map (·.2))))).dwrRange fuel
        (a + part.length) (bs.drop 256)

/-- Data written to host memory from a host address on. -/
def Device.dwr (d : Device) (a : Nat) (bs : List (Byte × Bool)) : Device := d.dwrRange (bs.length + 1) a bs

/-! ### The link (R372 to R374) -/

/-- A NOTIFY falls due (R374, R386): it is sent and an interval begins, or it is held back while one runs. While the link
is down it stays overdue, as HOST_IRQ_PENDING shows. -/
def Device.sendNotify (d : Device) (q : Nat) : Device :=
  if !d.host.linkUp then d
  else if (d.cplRing q).quiet then d.modCplRing q fun r => { r with owed := true }
  else (d.sendHost (.notify q)).modCplRing q fun r => { r with quiet := decide (0 < r.interval) }

/-- A module finishes training (R374). When the link comes up, overdue notifications are sent, one for each ring with
its pending bit set and not masked. -/
def Device.ucieTrain (m : Nat) (full : Bool) (rate partner : Nat) (d : Device) : Device :=
  let wasUp := d.host.linkUp
  let st : BitVec 2 := if full then 3 else 2
  let d := d.modHost fun h =>
    { h with m0 := if m = 0 then st else h.m0, m1 := if m = 1 then st else h.m1, rate := BitVec.ofNat 4 rate,
             partner := BitVec.ofNat 4 partner }
  if wasUp then d
  else (List.range 16).foldl (fun d q =>
    if d.host.irqPending.getLsbD q && d.host.irqMask.getLsbD q then d.sendNotify q else d) d

def HostPort.moduleUp (h : HostPort) (m : Nat) : Bool := decide (2 ≤ (if m = 0 then h.m0 else h.m1).toNat)

def execUcieTrain (m : Fin 2) (full : Bool) (rate : Fin 7) (partner : Fin 4) (s : State) :
    Host.Outcome State Fault Refusal :=
  s.liftIf (.ucieTrain m full rate partner) fun d =>
    if d.host.moduleUp m.val then d else d.ucieTrain m.val full rate.val partner.val

/-! ### Writing packets (R384 to R388) -/

/-- The 64-byte header and the payload, with the CRC (R387, R388). -/
def Packet.encode (p : Packet) (phase : Bool) (time : Nat) : List Byte :=
  let flags := p.flags &&& 0x7F ||| (if phase then 0x80 else 0)
  let front := leBytes 2 p.opcode.toNat ++ [p.kind, flags] ++ leBytes 4 p.seq.toNat ++ leBytes 2 p.payload.length ++
    leBytes 2 p.status.toNat ++ [p.ring, 0, 0, 0] ++ leBytes 8 p.tag.toNat ++ leBytes 8 time ++
    leBytes 4 p.detail.toNat ++ List.replicate 24 0
  front ++ leBytes 4 (crc32 (front ++ leBytes 4 0 ++ p.payload)) ++ p.payload

/-- Entries that a packet takes. -/
def packetEntries (plen : Nat) : Nat := 1 + (plen + 63) / 64

/-- Free entries: one is always left, so that a full ring differs from an empty one (log 9). -/
def CplRing.free (r : CplRing) : Nat := (r.head.toNat + r.entries - r.tail.toNat - 1) % r.entries

/-- Entries that a packet of `n` entries needs, the skip to the end of the ring included (R384). -/
def CplRing.need (r : CplRing) (n : Nat) : Nat :=
  if r.tail.toNat + n ≤ r.entries then n else (r.entries - r.tail.toNat) + n

/-- The ring has room for the packet (R384). -/
def CplRing.hasRoom (r : CplRing) (p : Packet) : Bool :=
  decide (r.need (packetEntries p.payload.length) ≤ r.free)

/-- Writes the bytes of a packet at the ring's tail (R384). -/
def Device.putEntry (d : Device) (q : Nat) (p : Packet) : Device :=
  let r := d.cplRing q
  let bytes := p.encode r.phase d.hubNs
  let n := 64 * packetEntries p.payload.length
  d.writeRing (r.base + 64 * r.tail.toNat) (bytes ++ List.replicate (n - bytes.length) 0)

/-- A skip packet (R382, R384). -/
def Packet.skip : Packet :=
  { opcode := 0, kind := 4, flags := 0, seq := 0, status := 0, ring := 0, tag := 0, detail := 0, payload := [],
    cache := false }

/-- The tail moves on by `n` entries; at the end of the ring it goes to entry 0 and the phase inverts (R384). -/
def CplRing.advance (r : CplRing) (n : Nat) : CplRing :=
  if r.entries ≤ r.tail.toNat + n then { r with tail := 0, phase := !r.phase }
  else { r with tail := BitVec.ofNat 16 (r.tail.toNat + n) }

/-- Writes a packet, after a skip entry if it does not fit before the end of the ring (R384). -/
def Device.writePacket (d : Device) (q : Nat) (p : Packet) : Device :=
  let r := d.cplRing q
  let n := packetEntries p.payload.length
  let d :=
    if r.tail.toNat + n ≤ r.entries then d
    else (d.putEntry q .skip).modCplRing q (·.advance r.entries)
  (d.putEntry q p).modCplRing q (·.advance n)

/-- Marks a ring for notification and notifies, at most once in an interval (R386). -/
def Device.notify (d : Device) (q : Nat) : Device :=
  let d := d.modHost (·.setIrq d.now q)
  if d.host.irqMask.getLsbD q then d.sendNotify q else d

/-- Posts an unsolicited packet, or drops and counts it (R385, R406). -/
def Device.postUnsolicited (d : Device) (q : Nat) (opcode : Nat) (payload : List Byte) (report : Bool) : Device :=
  let r := d.cplRing q
  let p : Packet :=
    { opcode := BitVec.ofNat 16 opcode, kind := 3, flags := 0, seq := r.unsol, status := 0, ring := 0, tag := 0,
      detail := 0, payload := payload, cache := false }
  if r.life = .on ∧ r.hasRoom p then
    ((d.writePacket q p).modCplRing q fun r => { r with unsol := r.unsol + 1 }).notify q
  else
    (d.modCplRing q fun r => { r with dropped := satInc r.dropped }).modHost fun h =>
      if report then { h with lostReports := satInc h.lostReports } else { h with lostEvents := satInc h.lostEvents }

/-! ### Taking packets (R390, R396) -/

/-- A completion ring blocks the command rings paired with it while a completion waits for room (R385). -/
def CplRing.blocked (r : CplRing) : Bool :=
  match r.waiting with
  | [] => false
  | p :: _ => !r.hasRoom p

/-- The copy that answers a resent command (R396). -/
def Packet.replayCopy (p : Packet) : Packet :=
  let long := decide (448 < p.payload.length)
  { p with flags := p.flags ||| 4 ||| (if long then 8 else 0), payload := p.payload.take 448, cache := false }

/-- A header as it stands at the head of a ring (R387). -/
structure Header where
  opcode : Nat
  kind : Nat
  flags : Nat
  seq : Word
  plen : Nat
  tag : Word64
  crc : Nat
  reservedZero : Bool
  deriving DecidableEq, Repr

def Header.parse (bs : List Byte) : Header :=
  { opcode := fieldAt bs 0 2, kind := fieldAt bs 2 1, flags := fieldAt bs 3 1, seq := BitVec.ofNat 32 (fieldAt bs 4 4),
    plen := fieldAt bs 8 2, tag := BitVec.ofNat 64 (fieldAt bs 16 8), crc := fieldAt bs 0x3C 4,
    reservedZero := allZero (sliceAt bs 0x0D 3) && allZero (sliceAt bs 0x24 24) && fieldAt bs 3 1 / 16 % 8 == 0 }

/-- Posts a refusal of a packet (R390); it enters no cache and does not move NEXT. -/
def Device.refusePacket (d : Device) (q : Nat) (h : Header) (status : Nat) : Device :=
  d.queuePacket (d.cmdRing q).cpl
    { opcode := BitVec.ofNat 16 h.opcode, kind := 2, flags := BitVec.ofNat 8 (h.flags % 4), seq := h.seq,
      status := BitVec.ofNat 16 status, ring := BitVec.ofNat 8 q, tag := h.tag, detail := 0, payload := [],
      cache := false }

def Device.holdRing (d : Device) (q : Nat) : Device := d.modCmdRing q fun r => { r with held := true }

/-- Sorts a whole and sound packet by its SEQ (R390). -/
def Device.sortPacket (d : Device) (q : Nat) (h : Header) (params : List Byte) : Device :=
  let id : CmdId := { ring := Fin.ofNat 16 q, seq := h.seq }
  match d.findCmd id with
  | some _ => d.modCmd id fun c => { c with replay := c.replay + 1 }
  | none =>
    match d.host.cache.find? fun p => p.ring == BitVec.ofNat 8 q && p.seq == h.seq with
    | some p => d.queuePacket (d.cmdRing q).cpl p.replayCopy
    | none =>
      let diff := (h.seq - (d.cmdRing q).next).toInt
      if diff < 0 then d.refusePacket q h Status.seqStale
      else if 0 < diff then d.refusePacket q h Status.seqGap
      else
        (d.modCmdRing q fun r => { r with next := r.next + 1 }).modHost fun hp =>
          { hp with cmds := hp.cmds ++
              [{ id := id, opcode := BitVec.ofNat 16 h.opcode, flags := BitVec.ofNat 8 h.flags, tag := h.tag,
                 params := params, started := false, ran := false, posted := false, replay := 0, moved := 0,
                 poisoned := 0, front := [] }] }

/-- What one visit to a command ring does (R390); none where the device goes to the next ring and nothing changes. A
packet that lies on a poisoned row cannot be copied as it was sent, and fails its CRC (log 9). -/
def Device.visit (q : Nat) (d : Device) : Option Device :=
  let r := d.cmdRing q
  if r.life ≠ .on ∨ r.held ∨ (d.cplRing r.cpl).blocked ∨ 64 ≤ d.host.cmds.length ∨ r.head = r.tail then none
  else
    let a := r.base + 64 * r.head.toNat
    let h := Header.parse (d.ring.bytes a 64)
    if h.kind = 4 then some (d.modCmdRing q fun r => { r with head := 0 })
    else
      let n := packetEntries h.plen
      if h.kind ≠ 1 ∨ !h.reservedZero ∨ h.flags / 4 % 4 ≠ 0 ∨ 128 ≤ h.flags ∨ 4096 < h.plen ∨
          r.entries < r.head.toNat + n then
        some ((d.refusePacket q h Status.badHeader).holdRing q)
      else if (r.tail.toNat + r.entries - r.head.toNat) % r.entries < n then none
      else
        let bs := d.ring.bytes a (64 + h.plen)
        if crc32 (bs.take 0x3C ++ leBytes 4 0 ++ bs.drop 64) ≠ h.crc ∨ d.ring.rangeBad a (64 * n) then
          some ((d.refusePacket q h Status.badCrc).holdRing q)
        else
          let t := r.head.toNat + n
          some ((d.modCmdRing q fun r => { r with head := if t = r.entries then 0 else BitVec.ofNat 16 t }).sortPacket q h
            (bs.drop 64))

/-- The rings that the device visits before ring `q`, from the one it visits next (R390). -/
def HostPort.before (h : HostPort) (q : Nat) : List Nat :=
  ((List.range 16).map fun k => (h.nextVisit + k) % 16).takeWhile (· != q)

/-- PACKET_TAKE (R390): the device visits the rings in ascending number, round and round, and takes one packet at each
visit; a ring is visited once every ring before it in the round has nothing to take (log 9). -/
def Device.packetTake (q : Nat) (d : Device) : Device :=
  if (d.host.before q).any fun k => (d.visit k).isSome then d
  else
    match d.visit q with
    | some d => d.modHost fun h => { h with nextVisit := (q + 1) % 16 }
    | none => d

def execPacketTake (q : RingIx) (s : State) : Host.Outcome State Fault Refusal := s.lift (Device.packetTake q.val)

/-! ### Starting commands (R391, R392) -/

/-- The opcodes of R400. -/
def assignedOpcodes : List Nat :=
  [0x0101, 0x0102, 0x0103, 0x0104, 0x0105, 0x0106, 0x0107, 0x0108, 0x0201, 0x0202, 0x0301, 0x0302, 0x0303, 0x0304,
   0x0305, 0x0401, 0x0402, 0x0403, 0x0404, 0x0405] ++
  [0x0501, 0x0502, 0x0503, 0x0504, 0x0505, 0x0506, 0x0507, 0x0508, 0x0601, 0x0602, 0x0603, 0x0604, 0x0605, 0x0701,
   0x0702, 0x0703, 0x0704, 0x0705, 0x0801, 0x0802, 0x0803, 0x0804] ++
  [0x0901, 0x0902, 0x0903, 0x0904, 0x0905, 0x0906, 0x0907, 0x0908, 0x0909, 0x090A, 0x0A01, 0x0A02, 0x0A03, 0x0A04]

/-- PLEN is the sum of the field sizes, with the variable part that a COUNT names (R389, R400). -/
def plenOk (op : Nat) (ps : List Byte) : Bool :=
  let n := ps.length
  match op with
  | 0x0101 => n == 8
  | 0x0104 => n == 12
  | 0x0105 => n == 20
  | 0x0106 => n == 4
  | 0x0107 => n == 4
  | 0x0108 => n == 4
  | 0x0201 => n == 32
  | 0x0202 => n == 32
  | 0x0301 => n == 16
  | 0x0302 => n == 16
  | 0x0401 => n == 12
  | 0x0404 => decide (16 ≤ n) && n == 16 + 8 * fieldAt ps 8 2
  | 0x0501 => n == 4
  | 0x0502 => n == 12
  | 0x0503 => n == 16
  | 0x0504 => n == 28
  | 0x0505 => n == 4
  | 0x0506 => n == 36
  | 0x0507 => n == 4
  | 0x0508 => n == 4
  | 0x0601 => n == 4
  | 0x0602 => n == 4
  | 0x0603 => n == 4
  | 0x0605 => n == 4
  | 0x0701 => n == 4
  | 0x0702 => n == 4096
  | 0x0703 => n == 4
  | 0x0704 => n == 4
  | 0x0705 => n == 16
  | 0x0801 => n == 8
  | 0x0802 => n == 32
  | 0x0803 => n == 8
  | 0x0901 => n == 4
  | 0x0902 => n == 4
  | 0x0903 => n == 4
  | 0x0904 => n == 4
  | 0x0905 => decide (8 ≤ n) && n == 8 + 8 * fieldAt ps 2 2
  | 0x0906 => decide (8 ≤ n) && n == 8 + 4 * fieldAt ps 1 1
  | 0x0907 => n == 24
  | 0x0908 => n == 4
  | 0x090A => n == 8
  | 0x0A01 => n == 24
  | 0x0A02 => n == 24
  | 0x0A03 => n == 8
  | _ => n == 0

/-- The exclusive commands (R392). -/
def exclusiveOp (op : Nat) : Bool := [0x0101, 0x0108, 0x0303, 0x0304, 0x0801].contains op

/-- The commands that the loaders accept, which are those of protocol version 1 (R391, R398). -/
def loaderOp (op : Nat) : Bool := [0x0101, 0x0102, 0x0801].contains op

/-- Commands taken before `id`, oldest first. -/
def takenBefore (id : CmdId) (cs : List Cmd) : List Cmd := cs.takeWhile fun c => !(c.id == id)

/-- The rules of R392 let a taken command start. -/
def HostPort.mayStart (h : HostPort) (c : Cmd) : Bool :=
  let op := c.opcode.toNat
  let fam := op / 256
  let earlier := takenBefore c.id h.cmds
  let running := h.cmds.filter (·.running)
  !(running.any fun x => exclusiveOp x.opcode.toNat) &&
  (!exclusiveOp op || running.isEmpty) &&
  (if fam = 2 then decide ((running.filter fun x => x.opcode.toNat / 256 == 2).length < 16)
   else !(running.any fun x => x.opcode.toNat / 256 == fam) &&
     !(earlier.any fun x => !x.started && x.opcode.toNat / 256 == fam)) &&
  (!c.flags.getLsbD 1 || !(earlier.any fun x => x.id.ring == c.id.ring && !x.posted))

/-- The first of checks 1 to 4 of R391 that fails, if any. Under versions 1 and 2 the model admits the opcodes of
version 1 only (log 10). -/
def Device.startCheck (d : Device) (c : Cmd) : Option Nat :=
  let op := c.opcode.toNat
  if d.host.loader ≠ 2 ∧ !loaderOp op then some Status.recoveryOnly
  else if d.host.version = 0 ∧ op ≠ 0x0101 ∧ op ≠ 0x0102 then some Status.noHello
  else if !assignedOpcodes.contains op ∨ (d.host.version ≠ 3 ∧ !loaderOp op) then some Status.badOpcode
  else if !plenOk op c.params then some Status.badLength
  else none

/-- A command that breaks a condition of R413: one of family 0x02, a comb command other than COMB_STATUS, or one of
family 0x05 other than CHAN_STATUS. -/
def breaksParking (op : Nat) : Bool :=
  op / 256 == 2 || [0x0301, 0x0302, 0x0303, 0x0304].contains op || (op / 256 == 5 && op != 0x0508)

/-- Such a command starts only once the device has left Region-parked and Deep (R414). -/
def Power.allows (p : Power) (op : Nat) : Bool :=
  !breaksParking op || (decide (p.state.toNat ≤ 1) && p.wakeTo.isNone)

/-! ### Completions (R384 to R386, R395, R396) -/

/-- Puts a completion in the cache of 4,096; the oldest is evicted first (R395). -/
def HostPort.enterCache (h : HostPort) (p : Packet) : HostPort :=
  let c := h.cache ++ [{ p with flags := p.flags ||| (if 448 < p.payload.length then 8 else 0),
                                payload := p.payload.take 448, cache := false }]
  { h with cache := c.drop (c.length - 4096) }

/-- The command ends; replays that waited for it follow right after its completion (R396). A completed DEV_RESET makes
the device's reset due (R403). -/
def Device.endCommand (d : Device) (q : Nat) (p : Packet) : Device :=
  let id : CmdId := { ring := Fin.ofNat 16 p.ring.toNat, seq := p.seq }
  let k := match d.findCmd id with | some c => c.replay | none => 0
  let reset := p.opcode == 0x0108 && p.status == BitVec.ofNat 16 Status.ok
  let d := d.modHost fun h => { h with cmds := h.cmds.filter fun c => !(c.id == id), resetDue := h.resetDue || reset }
  (d.modHost (·.enterCache p)).modCplRing q fun r => { r with waiting := List.replicate k p.replayCopy ++ r.waiting }

/-- Writes the oldest waiting completion of a ring, if the ring has room (R384, R385). -/
def Device.completionWrite (q : Nat) (d : Device) : Device :=
  let r := d.cplRing q
  match r.waiting with
  | [] => d
  | p :: rest =>
    if r.life = .off ∨ !r.hasRoom p then d
    else
      let d := (d.modCplRing q fun r => { r with waiting := rest }).writePacket q p
      let d := if p.cache then d.endCommand q p else d
      let d := if p.flags.getLsbD 2 then d.modHost fun h => { h with replays := satInc h.replays } else d
      if p.flags.getLsbD 0 then d.notify q else d

def execCompletionWrite (q : RingIx) (s : State) : Host.Outcome State Fault Refusal :=
  s.lift (Device.completionWrite q.val)

/-- An INTERVAL ends: a notification that was held back is sent and starts the next interval (R386). -/
def Device.notifyIntervalEnd (q : Nat) (d : Device) : Device :=
  let r := d.cplRing q
  if !r.quiet then d
  else
    let d := d.modCplRing q fun r => { r with quiet := false, owed := false }
    if r.owed then d.sendNotify q else d

def execNotifyIntervalEnd (q : RingIx) (s : State) : Host.Outcome State Fault Refusal :=
  s.lift (Device.notifyIntervalEnd q.val)

end Sys2Proof.Machine
end

