-- ==== Sys2Proof/Machine/DeviceCmds.lean ====
section
/-! DEFINITION. The commands of the Device family (R32, R398 to R404, R407, R408): HELLO, STATUS, the factory map, the
ROM tables, host rings, event routing and the device's own reset command. -/

namespace Sys2Proof.Machine

/-- The device number, or all ones where it has none (R343, R401). -/
def Device.numberOrNone (d : Device) : Nat := if d.vxl.valid then d.vxl.device.toNat else 0xFFFFFFFF

def CombState.code : CombState → Nat
  | .empty => 0
  | .loaded => 1
  | .active => 2
  | .halted => 3

/-- The active comb as COMB_STATUS gives it (R44, R400). -/
def Device.activeComb (d : Device) : Nat :=
  match d.comb.state with
  | .empty => 0xFF
  | .loaded => 0xFF
  | .active => match d.comb.active with | some c => c | none => 0xFF
  | .halted => d.comb.combAtHalt.toNat

/-- The halting region, or 0xFF (R44). -/
def Device.haltingRegion (d : Device) : Nat := if d.comb.state = .halted then d.comb.haltRegion.toNat else 0xFF

/-! ### HELLO (R398, R401) -/

/-- The highest version within both ranges, if there is one. -/
def agreeVersion (loader : Byte) (vmin vmax : Nat) : Option Nat :=
  let v := min vmax (if loader = 2 then 3 else 1)
  if max vmin 1 ≤ v then some v else none

def Device.helloReply (d : Device) (v : Nat) : List Byte :=
  leBytes 1 v ++ [d.host.loader] ++ leBytes 2 0x3043 ++
    leBytes 4 (if d.host.loader = 2 then d.sec.release.toNat else 0) ++ leBytes 4 0x1000 ++ leBytes 8 d.hubNs ++
    leBytes 4 d.numberOrNone ++ leBytes 8 0

def Device.hello (id : CmdId) (d : Device) : Device :=
  d.runCmd 0x0101 id fun ps d =>
    if fieldAt ps 2 2 ≠ 0 then d.complete id Status.badParam
    else
      match agreeVersion d.host.loader (fieldAt ps 0 1) (fieldAt ps 1 1) with
      | none => d.complete id Status.version
      | some v =>
        if d.host.version ≠ 0 ∧ d.host.version ≠ BitVec.ofNat 8 v ∧ d.comb.state ≠ .empty then
          d.complete id Status.version
        else
          (d.modHost fun h => { h with version := BitVec.ofNat 8 v }).complete id Status.ok (d.helloReply v)

def execHello (id : CmdId) (s : State) : Host.Outcome State Fault Refusal := s.lift (Device.hello id)

/-! ### STATUS (R401) -/

def Device.statusReply (d : Device) : List Byte :=
  let r := d.haltingRegion
  [d.host.loader] ++ leBytes 1 d.comb.state.code ++ leBytes 1 d.activeComb ++ leBytes 1 d.tick.life.code ++
    leBytes 8 d.tick.number ++ leBytes 1 d.pwr.shown ++
    leBytes 1 ((List.range 8).foldl (fun m k => m + natOfBool ((d.stack k).state = 3) * 2 ^ k) 0) ++
    leBytes 2 ((List.range 12).foldl (fun m p => m + natOfBool ((d.port p).life = .on) * 2 ^ p) 0) ++
    leBytes 1 r ++ leBytes 1 (if r < 8 then (d.pilot r).cause.toNat else 0) ++ leBytes 2 0 ++
    leBytes 4 d.host.lostEvents.toNat ++ leBytes 8 0

def Device.statusCmd (id : CmdId) (d : Device) : Device :=
  d.runCmd 0x0102 id fun _ d => d.complete id Status.ok d.statusReply

def execStatus (id : CmdId) (s : State) : Host.Outcome State Fault Refusal := s.lift (Device.statusCmd id)

/-! ### The factory map (R32) -/

/-- Byte `k` of a die bitmap: bit j is site 8k + j. -/
def Device.mapByte (d : Device) (die k : Nat) : Byte :=
  BitVec.ofNat 8 ((List.range 8).foldl
    (fun m j => m + natOfBool (decide (8 * k + j < 1440) && d.usable (1440 * die + 8 * k + j)) * 2 ^ j) 0)

/-- Usable sites of a kind. -/
def Device.usableCount (d : Device) (k : UnitKind) : Nat :=
  ((List.range 5760).filter fun u => siteKind u = k && d.usable u).length

def Device.factoryMapBytes (d : Device) : List Byte :=
  (List.range 4).flatMap (fun die => (List.range 192).map fun k => d.mapByte die k) ++
    leBytes 2 (d.usableCount .mu) ++ leBytes 2 (d.usableCount .sfu) ++ leBytes 2 (d.usableCount .su) ++ leBytes 2 0

def Device.factoryMap (id : CmdId) (d : Device) : Device :=
  d.runCmd 0x0103 id fun _ d => d.complete id Status.ok d.factoryMapBytes

def execFactoryMap (id : CmdId) (s : State) : Host.Outcome State Fault Refusal := s.lift (Device.factoryMap id)

/-! ### ROM_READ (R402) -/

/-- A table's bytes: header, then coefficients segment by segment, lowest order first. -/
def romTable (segments degree : Nat) (lo width : Word) (coef : Nat → Nat → Word) : List Byte :=
  leBytes 4 (16 + 4 * segments * (degree + 1)) ++ leBytes 2 segments ++ leBytes 1 degree ++ leBytes 1 0 ++
    leBytes 4 lo.toNat ++ leBytes 4 width.toNat ++
    (List.range segments).flatMap fun n => (List.range (degree + 1)).flatMap fun k => leBytes 4 (coef n k).toNat

/-- Activation tables 0 to 3 and function tables 16 to 26. WIDTH is read as the width of one segment (log 11). -/
def romBytes (table : Nat) : Option (List Byte) :=
  if table = 0 then
    some (romTable 0 (Config.table0Field 0).toNat (Config.table0Field 1) (Config.table0Field 2) fun _ _ => 0)
  else if table = 1 ∨ table = 3 then some (romTable 512 2 0xC1000000 0x3D000000 (Config.actCoef table))
  else if table = 2 then some (romTable 512 2 0xC2000000 0x3E000000 (Config.actCoef 2))
  else if 16 ≤ table ∧ table ≤ 26 then
    let x := table - 16
    some (romTable (Config.fnSegments x).toNat (Config.fnDegree x).toNat (Config.fnRange x 0) (Config.fnRange x 1)
      (Config.fnCoef x))
  else none

def Device.romRead (id : CmdId) (d : Device) : Device :=
  d.runCmd 0x0104 id fun ps d =>
    let off := fieldAt ps 4 4
    let len := fieldAt ps 8 4
    if fieldAt ps 1 3 ≠ 0 ∨ len < 1 ∨ 4096 < len then d.complete id Status.badParam
    else
      match romBytes (fieldAt ps 0 1) with
      | none => d.complete id Status.romRange
      | some bs =>
        if bs.length < off + len then d.complete id Status.romRange
        else d.complete id Status.ok ((bs.drop off).take len)

def execRomRead (id : CmdId) (s : State) : Host.Outcome State Fault Refusal := s.lift (Device.romRead id)

/-! ### Host rings (R407, R408) -/

/-- Two ring areas of 64-byte entries overlap. -/
def areasMeet (base1 n1 base2 n2 : Nat) : Bool := decide (base1 < base2 + 64 * n2) && decide (base2 < base1 + 64 * n1)

/-- The area lies in the free area, clear of every other ring that is not OFF (R379, R408). -/
def Device.ringAreaOk (d : Device) (cpl : Bool) (q base entries : Nat) : Bool :=
  decide (0x9000 ≤ base) && decide (base + 64 * entries ≤ ringSramBytes) &&
  (List.range 16).all fun k =>
    let a := d.cmdRing k
    let b := d.cplRing k
    (a.life = .off || (!cpl && k == q) || !areasMeet base entries a.base a.entries) &&
    (b.life = .off || (cpl && k == q) || !areasMeet base entries b.base b.entries)

/-- A command ring opens (R397, R408): head and tail 0, NEXT the START_SEQ named; it is then ON. -/
def CmdRing.opened (r : CmdRing) (p : RingParams) : CmdRing :=
  { r with life := .on, entries := p.entries, base := p.base, cpl := p.cpl, head := 0, tail := 0, next := p.startSeq,
           held := false, newHead := 0, resume := false, pending := none, destroyCmd := none }

/-- A completion ring opens: head and tail 0, phase 1 (R408). -/
def CplRing.opened (r : CplRing) (p : RingParams) : CplRing :=
  { r with life := .on, entries := p.entries, base := p.base, interval := p.interval, head := 0, tail := 0,
           phase := true, quiet := false, owed := false, pending := none, destroyCmd := none }

def Device.openRing (d : Device) (cpl : Bool) (q : Nat) (p : RingParams) : Device :=
  if cpl then
    (d.modCplRing q (·.opened p)).modHost fun h => { h with irqPending := h.irqPending &&& ~~~(BitVec.ofNat 16 (2 ^ q)) }
  else d.modCmdRing q (·.opened p)

def Device.hringCreate (id : CmdId) (d : Device) : Device :=
  d.runCmd 0x0105 id fun ps d =>
    let kind := fieldAt ps 0 1
    let q := fieldAt ps 1 1
    let p : RingParams :=
      { entries := fieldAt ps 4 4, base := fieldAt ps 8 4, interval := fieldAt ps 2 2, cpl := fieldAt ps 12 1,
        startSeq := BitVec.ofNat 32 (fieldAt ps 16 4) }
    let cpl := kind == 1
    let life := if cpl then (d.cplRing q).life else (d.cmdRing q).life
    if fieldAt ps 13 3 ≠ 0 ∨ 1 < kind ∨ 15 < q ∨ p.entries < 128 ∨ 65536 < p.entries ∨ p.base % 64 ≠ 0 ∨
        (cpl ∧ 1000 < p.interval) then
      d.complete id Status.badParam
    else if q = 0 ∨ !d.ringAreaOk cpl q p.base p.entries ∨
        (!cpl ∧ (15 < p.cpl ∨ (d.cplRing p.cpl).life ≠ .on)) then
      d.complete id Status.hringRange
    else
      match life with
      | .off => (d.openRing cpl q p).complete id Status.ok
      | .stopping =>
        (if cpl then d.modCplRing q fun r => { r with pending := some p }
         else d.modCmdRing q fun r => { r with pending := some p }).complete id Status.acceptedPending
      | _ => d.complete id Status.hringBusy

def execHringCreate (id : CmdId) (s : State) : Host.Outcome State Fault Refusal := s.lift (Device.hringCreate id)

/-- Something still needs the completion ring (R408). A route of MODE 0 names no ring (log 9). -/
def Device.cplInUse (d : Device) (q : Nat) : Bool :=
  ((List.range 16).any fun k => (d.cmdRing k).life ≠ .off && (d.cmdRing k).cpl == q) ||
  (d.tick.configured && d.tick.cfg.cpl == q) || (d.host.routeMode != 0 && d.host.routeCpl == q)

def Device.hringDestroy (id : CmdId) (d : Device) : Device :=
  d.runCmd 0x0106 id fun ps d =>
    let kind := fieldAt ps 0 1
    let q := fieldAt ps 1 1
    if fieldAt ps 2 2 ≠ 0 ∨ 1 < kind ∨ 15 < q then d.complete id Status.badParam
    else if q = 0 then d.complete id Status.hringRange
    else if kind = 0 then
      match (d.cmdRing q).life with
      | .off => d.complete id Status.ok
      | .stopping => d.modCmdRing q fun r => { r with pending := none, destroyCmd := some id }
      | _ => d.modCmdRing q fun r => { r with life := .stopping, destroyCmd := some id }
    else
      match (d.cplRing q).life with
      | .off => d.complete id Status.ok
      | .stopping => d.modCplRing q fun r => { r with pending := none, destroyCmd := some id }
      | _ =>
        if d.cplInUse q then d.complete id Status.hringBusy
        else d.modCplRing q fun r => { r with life := .stopping, destroyCmd := some id }

def execHringDestroy (id : CmdId) (s : State) : Host.Outcome State Fault Refusal := s.lift (Device.hringDestroy id)

/-- A stopping ring reaches OFF (R408): a command ring once every other command taken from it has completed, a
completion ring once every waiting completion has been written. A pending create then opens it (R407). -/
def Device.hringOff (cpl : Bool) (q : Nat) (d : Device) : Device :=
  if cpl then
    let r := d.cplRing q
    if r.life ≠ .stopping ∨ r.waiting ≠ [] then d
    else
      let d := d.modCplRing q fun r => { r with life := .off, destroyCmd := none, pending := none }
      let d := match r.destroyCmd with | some id => d.complete id Status.ok | none => d
      match r.pending with
      | some p => d.openRing true q p
      | none => d
  else
    let r := d.cmdRing q
    if r.life ≠ .stopping ∨ d.host.cmds.any (fun c => c.id.ring.val == q && !c.posted && r.destroyCmd != some c.id) then d
    else
      let d := d.modCmdRing q fun r => { r with life := .off, destroyCmd := none, pending := none }
      let d := match r.destroyCmd with | some id => d.complete id Status.ok | none => d
      match r.pending with
      | some p => d.openRing false q p
      | none => d

def execHringOff (cpl : Bool) (q : RingIx) (s : State) : Host.Outcome State Fault Refusal :=
  s.lift (Device.hringOff cpl q.val)

/-! ### EVENT_ROUTE and DEV_RESET (R403, R404) -/

def Device.eventRoute (id : CmdId) (d : Device) : Device :=
  d.runCmd 0x0107 id fun ps d =>
    let q := fieldAt ps 0 1
    let mode := fieldAt ps 1 1
    if fieldAt ps 2 2 ≠ 0 ∨ 2 < mode then d.complete id Status.badParam
    else if 15 < q ∨ (d.cplRing q).life ≠ .on then d.complete id Status.badRing
    else (d.modHost fun h => { h with routeMode := BitVec.ofNat 8 mode, routeCpl := q }).complete id Status.ok

def execEventRoute (id : CmdId) (s : State) : Host.Outcome State Fault Refusal := s.lift (Device.eventRoute id)

/-- DEV_RESET (R403): once its completion is written, the reset is due. -/
def Device.devReset (id : CmdId) (d : Device) : Device :=
  d.runCmd 0x0108 id fun ps d =>
    if fieldAt ps 0 4 ≠ 0x01080108 then d.complete id Status.badParam
    else d.complete id Status.ok

def execDevReset (id : CmdId) (s : State) : Host.Outcome State Fault Refusal := s.lift (Device.devReset id)

end Sys2Proof.Machine
end

