-- ==== Sys2Proof/Machine/Fp.lean ====
section
/-! DEFINITION. Exact binary arithmetic and its rounding (R92, R152 to R154): a value is an exact dyadic number, an
infinity or a NaN, and every rounding is to nearest, ties to even. -/

namespace Sys2Proof.Machine

/-- A float value: a NaN, an infinity, or (−1)^neg × mag × 2^exp. -/
inductive Fl where
  | nan
  | inf (neg : Bool)
  | fin (neg : Bool) (mag : Nat) (exp : Int)
  deriving DecidableEq, Repr

/-- Or of sticky flags (R153). -/
def Flags.or (f g : Flags) : Flags := { ovf := f.ovf || g.ovf, inv := f.inv || g.inv, unf := f.unf || g.unf }

def Flags.invalid : Flags := { Flags.none with inv := true }

/-- 2 to an integer power times a natural number, for a power that is not negative. -/
def shiftUp (m : Nat) (k : Int) : Nat := m * 2 ^ k.toNat

/-- The natural number nearest to m / 2^k, ties to even. -/
def rneShift (m k : Nat) : Nat :=
  let q := m / 2 ^ k
  let r := m % 2 ^ k
  if k = 0 then m
  else if 2 ^ k < 2 * r ∨ (2 * r = 2 ^ k ∧ q % 2 = 1) then q + 1
  else q

/-- The natural number nearest to n / d, ties to even. -/
def rneDiv (n d : Nat) : Nat :=
  let q := n / d
  let r := n % d
  if d < 2 * r ∨ (2 * r = d ∧ q % 2 = 1) then q + 1 else q

def bitLen (m : Nat) : Nat := if m = 0 then 0 else Nat.log2 m + 1

/-- A binary float format: exponent field width, fraction width, and the bits of its device NaN. -/
structure FloatFmt where
  eb : Nat
  mb : Nat
  nan : Nat
  deriving DecidableEq, Repr

def fp32 : FloatFmt := { eb := 8, mb := 23, nan := 0x7FC00000 }

def FloatFmt.bias (f : FloatFmt) : Int := 2 ^ (f.eb - 1) - 1

/-- Exponent of the last place of the subnormals. -/
def FloatFmt.emin (f : FloatFmt) : Int := 1 - f.bias - f.mb

/-- The code of +∞. -/
def FloatFmt.infCode (f : FloatFmt) : Nat := (2 ^ f.eb - 1) * 2 ^ f.mb

/-- The value of an encoding of a format that has infinities and NaNs. -/
def FloatFmt.decode (f : FloatFmt) (w : Nat) : Fl :=
  let neg := w.testBit (f.eb + f.mb)
  let e := w / 2 ^ f.mb % 2 ^ f.eb
  let m := w % 2 ^ f.mb
  if e = 2 ^ f.eb - 1 then (if m = 0 then .inf neg else .nan)
  else if e = 0 then .fin neg m f.emin
  else .fin neg (2 ^ f.mb + m) (f.emin + e - 1)

/-- The exponent of the last place that a magnitude is rounded to. -/
def FloatFmt.place (f : FloatFmt) (mag : Nat) (exp : Int) : Int := max (exp + bitLen mag - (f.mb + 1)) f.emin

/-- The code of a magnitude rounded to nearest, ties to even, without a limit on the exponent, and whether the rounding
is exact. Codes of magnitudes rise with the magnitude. -/
def FloatFmt.roundMag (f : FloatFmt) (mag : Nat) (exp : Int) : Nat × Bool :=
  let p := f.place mag exp
  let k := p - exp
  let q := if k ≤ 0 then shiftUp mag (-k) else rneShift mag k.toNat
  ((p - f.emin).toNat * 2 ^ f.mb + q, decide (k ≤ 0) || mag % 2 ^ k.toNat == 0)

/-- The magnitude is below the smallest normal one. -/
def FloatFmt.tiny (f : FloatFmt) (mag : Nat) (exp : Int) : Bool :=
  decide (exp + bitLen mag ≤ f.emin + f.mb)

def FloatFmt.signed (f : FloatFmt) (neg : Bool) (code : Nat) : Nat := (if neg then 2 ^ (f.eb + f.mb) else 0) + code

/-- Rounds a value to a format with infinities: the encoding and the flags of R153. -/
def FloatFmt.round (f : FloatFmt) : Fl → Nat × Flags
  | .nan => (f.nan, .none)
  | .inf neg => (f.signed neg f.infCode, .none)
  | .fin neg mag exp =>
    if mag = 0 then (f.signed neg 0, .none)
    else
      let (code, exact) := f.roundMag mag exp
      if f.infCode ≤ code then (f.signed neg f.infCode, { Flags.none with ovf := true })
      else (f.signed neg code, { Flags.none with unf := f.tiny mag exp && !exact })

/-- A signed integer times a power of two. -/
def Fl.ofInt (n : Int) (exp : Int) : Fl := .fin (decide (n < 0)) n.natAbs exp

def Fl.isNan : Fl → Bool
  | .nan => true
  | _ => false

def Fl.neg : Fl → Fl
  | .nan => .nan
  | .inf s => .inf !s
  | .fin s m e => .fin (!s) m e

def Fl.isZero : Fl → Bool
  | .fin _ 0 _ => true
  | _ => false

/-- The finite value as an integer at exponent `e`, which is not above its own. -/
def scaledInt (neg : Bool) (mag : Nat) (exp e : Int) : Int :=
  let n : Int := shiftUp mag (exp - e)
  if neg then -n else n

/-- Exact sum (R153, R154), with INV. -/
def Fl.add : Fl → Fl → Fl × Bool
  | .nan, _ => (.nan, true)
  | _, .nan => (.nan, true)
  | .inf s, .inf t => if s = t then (.inf s, false) else (.nan, true)
  | .inf s, .fin .. => (.inf s, false)
  | .fin .., .inf t => (.inf t, false)
  | .fin s m e, .fin t n f =>
    let k := min e f
    let sum := scaledInt s m e k + scaledInt t n f k
    if sum = 0 then (.fin (s && t) 0 0, false) else (Fl.ofInt sum k, false)

/-- Exact product (R153), with INV. -/
def Fl.mul : Fl → Fl → Fl × Bool
  | .nan, _ => (.nan, true)
  | _, .nan => (.nan, true)
  | .inf s, .inf t => (.inf (s != t), false)
  | .inf s, .fin t n _ => if n = 0 then (.nan, true) else (.inf (s != t), false)
  | .fin s m _, .inf t => if m = 0 then (.nan, true) else (.inf (s != t), false)
  | .fin s m e, .fin t n f => (.fin (s != t) (m * n) (e + f), false)

/-- −1, 0 or 1 as `a` is below, equal to or above `b`; none for a NaN. Zeros are equal. -/
def Fl.compare : Fl → Fl → Option Int
  | .nan, _ => none
  | _, .nan => none
  | .inf s, .inf t => some (if s = t then 0 else if s then -1 else 1)
  | .inf s, .fin .. => some (if s then -1 else 1)
  | .fin .., .inf t => some (if t then 1 else -1)
  | .fin s m e, .fin t n f =>
    let k := min e f
    some (scaledInt s m e k - scaledInt t n f k).sign

/-! ### FP32 and INT32 words -/

def fl32 (w : Word) : Fl := fp32.decode w.toNat

def toF32 (x : Fl) : Word × Flags :=
  let (c, f) := fp32.round x
  (BitVec.ofNat 32 c, f)

def withInv (inv : Bool) (r : Word × Flags) : Word × Flags := (r.1, { r.2 with inv := r.2.inv || inv })

/-- FP32 sum, one rounding (R92, R153). -/
def addF32 (a b : Word) : Word × Flags :=
  let (x, inv) := (fl32 a).add (fl32 b)
  withInv inv (toF32 x)

/-- FP32 product, one rounding. -/
def mulF32 (a b : Word) : Word × Flags :=
  let (x, inv) := (fl32 a).mul (fl32 b)
  withInv inv (toF32 x)

/-- Saturates to a signed 32-bit number (R92, R153). -/
def satI32 (n : Int) : Word × Flags :=
  if n < -0x80000000 then (0x80000000, { Flags.none with ovf := true })
  else if 0x7FFFFFFF < n then (0x7FFFFFFF, { Flags.none with ovf := true })
  else (BitVec.ofInt 32 n, .none)

def addI32 (a b : Word) : Word × Flags := satI32 (a.toInt + b.toInt)

end Sys2Proof.Machine
end

