-- ==== Sys2Proof/Machine/Enclose.lean ====
section
/-! DEFINITION. The FP32 words that the error bounds of R204 leave to a function pipeline: the exact value of each
function enclosed in fixed point, and the words within 1 or 2 units of that value. -/

namespace Sys2Proof.Machine

/-- A real number y with |y · 2^q − mid| ≤ slack. -/
structure Near where
  mid : Int
  slack : Nat
  q : Int
  deriving DecidableEq, Repr

/-- The unit of the fixed point below: 2^-160. An FP32 value is a whole number of these. -/
def fixOne : Int := 2 ^ 160

/-- ln 2 and π / 2 to the nearest 2^-160. -/
def fixLn2 : Int := 0xb17217f7d1cf79abc9e3b39803f2f6af40f34326
def fixHalfPi : Int := 0x1921fb54442d18469898cc51701b839a252049c11

/-- Every truncation of one value below adds up to less than this many units. -/
def fixSlack : Nat := 2 ^ 24

def fixMul (x y : Int) : Int := x * y / fixOne

/-- Adds the terms t_i = t_(i-1) · x / d(i), from i on, to a sum; `n` terms. -/
def seriesFrom (x : Int) (d : Nat → Nat) : Nat → Nat → Int → Int → Int
  | 0, _, _, sum => sum
  | n + 1, i, t, sum =>
    let t := fixMul t x / d i
    seriesFrom x d n (i + 1) t (sum + t)

/-- e^r for 0 ≤ r < ln 2: below 2. -/
def fixExp (r : Int) : Int := min (seriesFrom r id 48 1 fixOne fixOne) (2 * fixOne - 1)

/-- sin r and cos r for 0 < |r| < 1: a cosine is below 1. -/
def fixSin (r : Int) : Int := seriesFrom (-(fixMul r r)) (fun i => 2 * i * (2 * i + 1)) 24 1 r r
def fixCos (r : Int) : Int :=
  min (seriesFrom (-(fixMul r r)) (fun i => (2 * i - 1) * (2 * i)) 24 1 fixOne fixOne) (fixOne - 1)

/-- The sum of z^(2i+1) / (2i+1) from i on: atanh z for |z| ≤ 1/5. -/
def atanhFrom (zz : Int) : Nat → Nat → Int → Int → Int
  | 0, _, _, sum => sum
  | n + 1, i, t, sum =>
    let t := fixMul t zz
    atanhFrom zz n (i + 1) t (sum + t / (2 * i + 1 : Nat))

def fixAtanh (z : Int) : Int := atanhFrom (fixMul z z) 40 1 z z

/-- e^x as s · 2^k, s in fixed point from 1 to 2. -/
def expParts (x : Int) : Int × Int :=
  let k := x / fixLn2
  (fixExp (x - k * fixLn2), k)

/-- ln of m · 2^e, m not 0: the fraction is taken from 3/4 to 3/2. -/
def fixLog (m : Nat) (e : Int) : Int :=
  let n := bitLen m
  let t : Int := scaledInt false m (-(n : Int)) (-160)
  let (t, k) : Int × Int := if 4 * t < 3 * fixOne then (2 * t, e + n - 1) else (t, e + n)
  k * fixLn2 + 2 * fixAtanh ((t - fixOne) * fixOne / (t + fixOne))

/-- The sine of a quarter turn count and a rest within an eighth of a turn. -/
def quarterSin (turn r : Int) : Int :=
  if turn % 4 = 0 then fixSin r
  else if turn % 4 = 1 then fixCos r
  else if turn % 4 = 2 then -(fixSin r)
  else -(fixCos r)

/-- The square root of n rounded down, from bit `k` of it. -/
def floorSqrt (n : Nat) : Nat → Nat → Nat
  | 0, r => r
  | k + 1, r => floorSqrt n k (if (r + 2 ^ k) * (r + 2 ^ k) ≤ n then r + 2 ^ k else r)

/-- SIN and TANH of a magnitude below 2^-20 lie within 2^-40 of the argument, relative to it. -/
def nearSmall (x : Int) : Near := { mid := x, slack := x.natAbs / 2 ^ 40 + 1, q := 160 }

def Near.fix (mid : Int) : Near := { mid := mid, slack := fixSlack, q := 160 }

/-- The exact value of function `f` of R204 at the finite value (−1)^neg · m · 2^e, m not 0. -/
def exactFn (f : Nat) (neg : Bool) (m : Nat) (e : Int) : Near :=
  let x := scaledInt neg m e (-160)
  let small := decide (x.natAbs < 2 ^ 140)
  match f with
  | 0 => { mid := fixExp (fixMul (x % fixOne) fixLn2), slack := fixSlack, q := 160 - x / fixOne }
  | 1 => { mid := (expParts x).1, slack := fixSlack, q := 160 - (expParts x).2 }
  | 2 => .fix (fixLog m e * fixOne / fixLn2)
  | 3 => .fix (fixLog m e)
  | 5 =>
    let (m, e) : Nat × Int := if e % 2 = 0 then (m, e) else (2 * m, e - 1)
    { mid := floorSqrt (2 ^ 320 / m) 161 0, slack := fixSlack, q := 160 + e / 2 }
  | 7 =>
    if small then nearSmall x
    else
      let (s, k) := expParts (2 * x)
      let y := s * 2 ^ k.toNat
      .fix ((y - fixOne) * fixOne / (y + fixOne))
  | 8 =>
    let (s, k) := expParts x
    if 0 ≤ k then .fix (s * 2 ^ k.toNat * fixOne / (s * 2 ^ k.toNat + fixOne))
    else { mid := s * fixOne / (s / 2 ^ (-k).toNat + fixOne), slack := fixSlack, q := 160 - k }
  | _ =>
    if f = 9 ∧ small then nearSmall x
    else
      let turn := (2 * x + fixHalfPi) / (2 * fixHalfPi)
      .fix (quarterSin (if f = 9 then turn else turn + 1) (x - turn * fixHalfPi))

/-- Max error of function `f` in units (R204). -/
def maxUlps (f : Nat) : Nat := if f = 0 ∨ f = 2 ∨ f = 5 then 1 else 2

/-- The place of the binary32 spacing at a magnitude n · 2^-q: never below 2^-149 (R204). -/
def spacingExp (n : Nat) (q : Int) : Int := max ((bitLen n : Int) - q - 24) (-149)

/-- FP32 magnitudes in rising order are their codes: the code of n · 2^-q, rounded down or up to a code. -/
def codeNear (up : Bool) (n : Nat) (q : Int) : Nat :=
  let e := spacingExp n q
  let a := n * 2 ^ (-q - e).toNat
  let b := 2 ^ (q + e).toNat
  (e + 149).toNat * 2 ^ 23 + (if up then (a + b - 1) / b else a / b)

/-- The same with a sign: the highest code at or below a value, and the lowest at or above it. -/
def codeBelow (n q : Int) : Int := if 0 ≤ n then codeNear false n.natAbs q else -(codeNear true n.natAbs q : Int)
def codeAbove (n q : Int) : Int := -(codeBelow (-n) q)

/-- The lowest and the highest code within `ulps` units of an enclosed value. -/
def Near.codes (y : Near) (ulps : Nat) : Int × Int :=
  let reach : Int := y.slack + ulps * 2 ^ (spacingExp y.mid.natAbs y.q + y.q).toNat
  (codeAbove (y.mid - reach) y.q, codeBelow (y.mid + reach) y.q)

/-- The word of a signed code. R204 fixes no sign for a zero within the bound: `zeroNeg` gives it. -/
def codeWord (zeroNeg : Bool) (c : Int) : Word :=
  BitVec.ofNat 32 (c.natAbs + if c < 0 ∨ (c = 0 ∧ zeroNeg) then 2 ^ 31 else 0)

/-- The word that a free choice takes among those from one signed code to another. -/
def pickCode (free : Word) (lo hi : Int) : Word := codeWord free.msb (lo + free.toNat % ((hi - lo).toNat + 1))

/-- The codes that R204 leaves to function `f` at an FP32 value. -/
def fnCodes (f : Nat) : Fl → Int × Int
  | .fin neg m e => (exactFn f neg m e).codes (maxUlps f)
  | _ => (0, 0)

end Sys2Proof.Machine
end

