-- ==== Sys2Proof/Machine/Arith.lean ====
section
/-! DEFINITION. The number formats and the shared arithmetic of the MUs, the vector engines and the pilots (R147 to
R154, R161 to R168, R195, R204): decoding and packing of narrow formats, rounding to integers, division and square
root with one rounding, MAX and MIN, the activation tables and the special functions. -/

namespace Sys2Proof.Machine

/-! ### Formats (R147 to R149) -/

def fp16 : FloatFmt := { eb := 5, mb := 10, nan := 0x7E00 }
def bf16 : FloatFmt := { eb := 8, mb := 7, nan := 0x7FC0 }
def fp8e4 : FloatFmt := { eb := 4, mb := 3, nan := 0x7F }
def fp8e5 : FloatFmt := { eb := 5, mb := 2, nan := 0x7E }

/-- E4M3 has no infinity and one NaN code of each sign (R149). -/
def decodeE4M3 (w : Nat) : Fl :=
  if w % 128 = 127 then .nan
  else
    let e := w / 8 % 16
    if e = 0 then .fin (w.testBit 7) (w % 8) fp8e4.emin else .fin (w.testBit 7) (8 + w % 8) (fp8e4.emin + e - 1)

/-- The value of a float encoding of `f`. -/
def decodeFl (f : FloatFmt) (w : Nat) : Fl := if f = fp8e4 then decodeE4M3 w else f.decode w

/-- The largest finite code of a format (R148). -/
def FloatFmt.maxCode (f : FloatFmt) : Nat := if f.eb = 4 then 0x7E else f.infCode - 1

/-- What a magnitude beyond the range becomes under INF 1: infinity, or the NaN code of E4M3 (R166). -/
def FloatFmt.overCode (f : FloatFmt) (inf : Bool) : Nat := if inf then f.maxCode + 1 else f.maxCode

/-- pack(x) to a float format narrower than FP32 (R166). -/
def packFl (f : FloatFmt) (inf : Bool) : Fl → Nat × Flags
  | .nan => (f.nan, .invalid)
  | .inf s => (f.signed s (f.overCode inf), { Flags.none with ovf := true })
  | .fin s mag exp =>
    if mag = 0 then (f.signed s 0, .none)
    else
      let (code, exact) := f.roundMag mag exp
      if f.maxCode < code then (f.signed s (f.overCode inf), { Flags.none with ovf := true })
      else (f.signed s code, { Flags.none with unf := f.tiny mag exp && !exact })

/-- pack(x) to FP32: x as it stands, but for a NaN (R166). -/
def packF32 (x : Word) : Word × Flags :=
  if (fl32 x).isNan then (0x7FC00000, .invalid) else (x, .none)

/-! ### Integers (R150, R152, R167) -/

/-- A `w`-bit field as a number, signed or not. -/
def intOf (signed : Bool) (w v : Nat) : Int :=
  let v := v % 2 ^ w
  if signed && decide (2 ^ (w - 1) ≤ v) then (v : Int) - 2 ^ w else v

/-- RNI (R152): the nearest integer, ties to even. -/
def rni (neg : Bool) (mag : Nat) (exp : Int) : Int :=
  let n : Int := if 0 ≤ exp then (shiftUp mag exp : Nat) else (rneShift mag (-exp).toNat : Nat)
  if neg then -n else n

/-- Clamps a number to a range and tells whether that changed it. -/
def clampInt (lo hi n : Int) : Int × Bool :=
  if n < lo then (lo, true) else if hi < n then (hi, true) else (n, false)

/-- The range of a `w`-bit integer. -/
def intRange (signed : Bool) (w : Nat) : Int × Int :=
  if signed then (-2 ^ (w - 1), 2 ^ (w - 1) - 1) else (0, 2 ^ w - 1)

/-- The low `w` bits of an integer. -/
def bitsOf (w : Nat) (n : Int) : Nat := (n % 2 ^ w).toNat

def ovfIf (b : Bool) : Flags := { Flags.none with ovf := b }

/-- pack(x) to INT8 or INT4 with zero point `z` (R167). -/
def packInt (signed : Bool) (w : Nat) (z : Int) : Fl → Nat × Flags
  | .nan => (bitsOf w z, .invalid)
  | .inf s => (bitsOf w (if s then (intRange signed w).1 else (intRange signed w).2), ovfIf true)
  | .fin s m e =>
    let (n, cut) := clampInt (intRange signed w).1 (intRange signed w).2 (rni s m e + z)
    (bitsOf w n, ovfIf cut)

/-! ### Division and square root, rounded once -/

/-- The quotient of two values as an exact value, or one that rounds to FP32 as the exact value does: the last bit of
the magnitude stands for a remainder that is not 0. -/
def Fl.div : Fl → Fl → Fl × Bool
  | .nan, _ => (.nan, true)
  | _, .nan => (.nan, true)
  | .inf _, .inf _ => (.nan, true)
  | .inf s, .fin t _ _ => (.inf (s != t), false)
  | .fin s _ _, .inf t => (.fin (s != t) 0 0, false)
  | .fin s m e, .fin t n f =>
    if n = 0 then (if m = 0 then (.nan, true) else (.inf (s != t), false))
    else
      let k := 64 + bitLen n
      let q := m * 2 ^ k / n
      (.fin (s != t) (2 * q + natOfBool (m * 2 ^ k % n != 0)) (e - f - k - 1), false)

def divF32 (a b : Word) : Word × Flags :=
  let (x, inv) := (fl32 a).div (fl32 b)
  withInv inv (toF32 x)

/-- The integer square root, bit by bit from bit `k`. -/
def isqrtAux (n : Nat) : Nat → Nat → Nat
  | 0, r => r
  | k + 1, r =>
    let t := r + 2 ^ k
    isqrtAux n k (if t * t ≤ n then t else r)

/-- The square root of a magnitude, its last bit standing for a remainder. -/
def sqrtMag (m : Nat) (e : Int) : Nat × Int :=
  let odd := e % 2 ≠ 0
  let m := if odd then 2 * m else m
  let e := if odd then e - 1 else e
  let n := m * 2 ^ 64
  let r := isqrtAux n 64 0
  (2 * r + natOfBool (r * r != n), e / 2 - 32 - 1)

/-! ### MAX and MIN (R161) -/

/-- The larger, or the smaller, of two float words; a NaN gives way, and zeros are told apart. -/
def extremeF32 (big : Bool) (x y : Word) : Word :=
  match fl32 x, fl32 y with
  | .nan, .nan => 0x7FC00000
  | .nan, _ => y
  | _, .nan => x
  | a, b =>
    match a.compare b with
    | some 0 => if x.msb = big then y else x
    | some c => if (0 < c) = big then x else y
    | none => x

/-- Value of an integer word: I32 (type 1) or U32. -/
def intWord (ty : Nat) (x : Word) : Int := if ty = 1 then x.toInt else (x.toNat : Int)

/-- MAX or MIN by type: 0 F32, 1 I32, 2 U32. -/
def extreme (big : Bool) (ty : Nat) (x y : Word) : Word :=
  if ty = 0 then extremeF32 big x y
  else if (intWord ty y < intWord ty x) = big then x else y

/-- The range of an integer type. -/
def tyRange (ty : Nat) : Int × Int := intRange (ty == 1) 32

/-- Saturates an exact integer to its type (R192). -/
def satTy (ty : Nat) (n : Int) : Word × Flags :=
  let (m, cut) := clampInt (tyRange ty).1 (tyRange ty).2 n
  (BitVec.ofInt 32 m, ovfIf cut)

/-- Sum by type. -/
def addTy (ty : Nat) (x y : Word) : Word × Flags :=
  if ty = 0 then addF32 x y else satTy ty (intWord ty x + intWord ty y)

def negF32 (x : Word) : Word := x ^^^ 0x80000000

/-- Difference by type. -/
def subTy (ty : Nat) (x y : Word) : Word × Flags :=
  if ty = 0 then
    let (v, inv) := (fl32 x).add (fl32 y).neg
    withInv inv (toF32 v)
  else satTy ty (intWord ty x - intWord ty y)

/-- Product by type. -/
def mulTy (ty : Nat) (x y : Word) : Word × Flags :=
  if ty = 0 then mulF32 x y else satTy ty (intWord ty x * intWord ty y)

/-- x × y + z: a float rounds once, an integer is exact before saturation (R192). -/
def fmaTy (ty : Nat) (x y z : Word) : Word × Flags :=
  if ty = 0 then
    let (p, i) := (fl32 x).mul (fl32 y)
    let (v, j) := p.add (fl32 z)
    withInv (i || j) (toF32 v)
  else satTy ty (intWord ty x * intWord ty y + intWord ty z)

/-- An exact integer as FP32, rounded; no flag (R162, R199). -/
def f32OfInt (n : Int) : Word := (toF32 (Fl.ofInt n 0)).1

/-! ### Comparison (R199) -/

/-- x cond y: 0 EQ, 1 NE, 2 LT, 3 LE. -/
def compareTy (ty cond : Nat) (x y : Word) : Bool :=
  let c : Option Int := if ty = 0 then (fl32 x).compare (fl32 y) else some (intWord ty x - intWord ty y)
  match c with
  | none => cond == 1
  | some c =>
    match cond with
    | 0 => c == 0
    | 1 => c != 0
    | 2 => decide (c < 0)
    | _ => decide (c ≤ 0)

/-- The sign of x − n/d for a value that is not a NaN and d > 0; infinities compare as such. -/
def Fl.cmpRat (x : Fl) (n : Int) (d : Nat) : Int :=
  match x with
  | .nan => 0
  | .inf s => if s then -1 else 1
  | .fin s m e =>
    let k := min e 0
    (scaledInt s m e k * d - n * (2 ^ (-k).toNat : Nat)).sign

/-! ### The activation tables (R165) -/

/-- LO and the number of segments per unit of tables 1 to 3: 512 segments over −8 .. 8, or over −32 .. 32. -/
def actHalf (table : Nat) : Nat := if table = 2 then 32 else 8

/-- Below the range: +0 for GELU and SiLU, −1.0 for tanh. -/
def actBelow (table : Nat) : Word := if table = 3 then 0xBF800000 else 0

/-- act[table](x) with the flags of its steps. -/
def activate (table : Nat) (x : Word) : Word × Flags :=
  let v := fl32 x
  if v.isNan then (0x7FC00000, .invalid)
  else if table = 0 then (if 0 < v.cmpRat 0 1 then x else 0, .none)
  else
    let half := actHalf table
    if v.cmpRat (-(half : Int)) 1 < 0 then (actBelow table, .none)
    else if 0 ≤ v.cmpRat half 1 then (if table = 3 then 0x3F800000 else x, .none)
    else
      match v with
      | .fin s m e =>
        -- In units of 2^k, k ≤ −7: x, the segment width and its lower end are whole numbers.
        let k := min e (-7)
        let xi := scaledInt s m e k
        let w : Int := shiftUp (2 * half) (-9 - k)
        let lo : Int := -(shiftUp half (-k) : Nat)
        let n := ((xi - lo) / w).toNat
        let (q, i) := (Fl.ofInt (xi - lo - n * w) k).div (Fl.ofInt w k)
        let (u, f0) := toF32 q
        let c (j : Nat) := Config.actCoef table n j
        let (p1, f1) := mulF32 (c 2) u
        let (p2, f2) := addF32 p1 (c 1)
        let (p3, f3) := mulF32 p2 u
        let (p4, f4) := addF32 p3 (c 0)
        (p4, ((((withInv i (0, f0)).2.or f1).or f2).or f3).or f4)
      | _ => (x, .none)

/-! ### The special functions (R204) -/

/-- The exponent of a power of two. -/
def Fl.log2Exact : Fl → Option Int
  | .fin false m e => if m ≠ 0 ∧ m = 2 ^ (bitLen m - 1) then some (e + (bitLen m - 1 : Nat)) else none
  | _ => none

/-- The value as a whole number, if it is one. -/
def Fl.whole : Fl → Option Int
  | .nan => none
  | .inf _ => none
  | .fin s m e => if 0 ≤ e ∨ m % 2 ^ (-e).toNat = 0 then some (rni s m e) else none

/-- A magnitude from 2^-126 down, zero apart, is below the smallest normal after the function (R153). -/
def tinyArg (x : Fl) : Bool :=
  match x with
  | .fin _ m e => m != 0 && decide ((Fl.fin false m e).cmpRat 1 (2 ^ 126) ≤ 0)
  | _ => false

/-- A result that R204 leaves within its Max error: free among the words within that error of the exact value, the
same for every part. OVF follows from it, and UNF from the exact result (log 6). -/
def freeFn (f : Nat) (x : Word) (tiny : Bool) : Word × Flags :=
  let (lo, hi) := fnCodes f (fl32 x)
  let v := pickCode (Config.vfn f x) lo hi
  (v, { ovf := match fl32 v with | .inf _ => true | _ => false, inv := false, unf := tiny })

def posZero : Word := 0
def posInf : Word := 0x7F800000
def negInf : Word := 0xFF800000
def fOne : Word := 0x3F800000
def devNan : Word := 0x7FC00000

/-- e^x or 2^x lies below 2^−126: x < −126, or x < −126 ln 2, to more places than a binary32 input can tell apart. -/
def expTiny (base2 : Bool) (v : Fl) : Bool :=
  if base2 then decide (v.cmpRat (-126) 1 < 0) else decide (v.cmpRat (-873365447505531) 10000000000000 < 0)

/-- EXP2 and EXP. -/
def fnExp (base2 : Bool) (x : Word) (v : Fl) : Word × Flags :=
  let above := if base2 then 0 ≤ v.cmpRat 128 1 else 0 < v.cmpRat 8872284 100000
  let below := if base2 then v.cmpRat (-150) 1 < 0 else v.cmpRat (-10397208) 100000 < 0
  match v with
  | .inf s => (if s then posZero else posInf, .none)
  | _ =>
    if above then (posInf, ovfIf true)
    else if below then (posZero, { Flags.none with unf := true })
    else
      match v.whole with
      | some n =>
        if base2 ∧ -149 ≤ n then toF32 (.fin false 1 n) else freeFn (if base2 then 0 else 1) x (expTiny base2 v)
      | none => freeFn (if base2 then 0 else 1) x (expTiny base2 v)

/-- LOG2 and LN. -/
def fnLog (base2 : Bool) (x : Word) (v : Fl) : Word × Flags :=
  if v.isZero then (negInf, .none)
  else if v.cmpRat 0 1 < 0 then (devNan, .invalid)
  else
    match v with
    | .inf _ => (posInf, .none)
    | _ =>
      match v.log2Exact with
      | some n =>
        if base2 then (f32OfInt n, .none) else if n = 0 then (posZero, .none) else freeFn 3 x false
      | none => freeFn (if base2 then 2 else 3) x false

/-- RCP: correctly rounded. -/
def fnRcp (v : Fl) : Word × Flags :=
  let (q, i) := (Fl.fin false 1 0).div v
  withInv i (toF32 q)

/-- RSQRT and SQRT. -/
def fnRoot (recip : Bool) (x : Word) (v : Fl) : Word × Flags :=
  if v.isZero then (if recip then (if x.msb then negInf else posInf) else x, .none)
  else if v.cmpRat 0 1 < 0 then (devNan, .invalid)
  else
    match v with
    | .fin _ m e => if recip then freeFn 5 x false else let (r, k) := sqrtMag m e; toF32 (.fin false r k)
    | _ => (if recip then posZero else posInf, .none)

/-- TANH: odd exactly. -/
def fnTanh (x : Word) (v : Fl) : Word × Flags :=
  let pos := x &&& 0x7FFFFFFF
  let neg := x.msb
  if v.isZero then (x, .none)
  else if 0 ≤ (fl32 pos).cmpRat 90109 10000 then (if neg then negF32 fOne else fOne, .none)
  else
    let (r, f) := freeFn 7 pos (tinyArg v)
    (if neg then negF32 r else r, f)

def fnSigmoid (x : Word) (v : Fl) : Word × Flags :=
  match v with
  | .inf s => (if s then posZero else fOne, .none)
  | _ =>
    if 0 ≤ v.cmpRat 1733 100 then (fOne, .none)
    else if v.cmpRat (-10328) 100 < 0 then (posZero, { Flags.none with unf := true })
    else freeFn 8 x (expTiny false v)

/-- SIN and COS. -/
def fnSin (cos : Bool) (x : Word) (v : Fl) : Word × Flags :=
  if 0 < v.cmpRat 65536 1 ∨ v.cmpRat (-65536) 1 < 0 then (devNan, .invalid)
  else if v.isZero then (if cos then fOne else x, .none)
  else freeFn (if cos then 10 else 9) x (!cos && tinyArg v)

/-- VFN (R204): function `f` of an F32 lane. -/
def specialFn (f : Nat) (x : Word) : Word × Flags :=
  let v := fl32 x
  if v.isNan then (devNan, .invalid)
  else
    match f with
    | 0 => fnExp true x v
    | 1 => fnExp false x v
    | 2 => fnLog true x v
    | 3 => fnLog false x v
    | 4 => fnRcp v
    | 5 => fnRoot true x v
    | 6 => fnRoot false x v
    | 7 => fnTanh x v
    | 8 => fnSigmoid x v
    | 9 => fnSin false x v
    | _ => fnSin true x v

/-! ### Packed elements (R147, R195) -/

/-- Element `k` of `w` bits from the start of a byte list; INT4 puts element 2t in bits 3:0. -/
def elemAt (bs : List Byte) (w k : Nat) : Nat :=
  if w = 4 then ((bs.getD (k / 2) 0).toNat / (if k % 2 = 0 then 1 else 16)) % 16 else fieldAt bs (w / 8 * k) (w / 8)

/-- Packs elements of `w` bits; an odd count of 4-bit elements leaves the last bits 7:4 at 0. -/
def packElems (w : Nat) : List Nat → List Byte
  | [] => []
  | [a] => if w = 4 then [BitVec.ofNat 8 (a % 16)] else leBytes (w / 8) a
  | a :: b :: rest =>
    if w = 4 then BitVec.ofNat 8 (a % 16 + 16 * (b % 16)) :: packElems w rest
    else leBytes (w / 8) a ++ packElems w (b :: rest)

/-- Bytes of `n` elements of `w` bits. -/
def elemBytesOf (w n : Nat) : Nat := (n * w + 7) / 8

/-- ceil(a / b). -/
def ceilDiv (a b : Nat) : Nat := (a + b - 1) / b

end Sys2Proof.Machine
end

