-- ==== Sys2Proof/Machine/Hbm.lean ====
section
/-! DEFINITION. HBM (R309 to R330): one read or write of a burst by the stack controller with its error handling, and
the controller's own steps: patrol scrub, inner count, self-refresh and training. The reads and writes of HBM IOUs are
in Iou.lean. -/

namespace Sys2Proof.Machine

/-- The classes of R316 as DETAIL of HBM_UNCORR names them (R450). -/
inductive HbmClass where
  | read | write | remote | patrol
  deriving DecidableEq, Repr

def HbmClass.code : HbmClass → Nat
  | .read => 0
  | .write => 1
  | .remote => 2
  | .patrol => 3

def hbmBytes : Nat := 8 * stackBytes

def stackOf (a : Nat) : Nat := a / stackBytes

/-- Slots used are counted by class (R330). -/
def Stack.countSlots (s : Stack) (c : HbmClass) (k : Nat) : Stack :=
  match c with
  | .read => { s with rd := satAdd s.rd k }
  | .write => { s with wr := satAdd s.wr k }
  | .remote => { s with rem := satAdd s.rem k }
  | .patrol => s

/-- An uncorrectable burst: counted, its offset kept, an error record written (R324, R326). -/
def Device.hbmUncorr (d : Device) (burst : Nat) (c : HbmClass) : Device :=
  let k := stackOf (64 * burst)
  let ch := (64 * burst % stackBytes) / 64 % 32
  let d := d.modStack k fun s => { s with uncorr := satInc s.uncorr, errAddr := BitVec.ofNat 40 (64 * burst) }
  d.record 4 1 (d.atRegion k)
    (leBytes 1 k ++ leBytes 1 ch ++ leBytes 1 c.code ++ List.replicate 5 0 ++ leBytes 8 (64 * burst))

/-- Raises an HBM event in the serving region, once per tick per stack (R324); region s serves stack s (R25). Its ARG
is not stated (log 6). -/
def Device.hbmEvent (d : Device) (k code : Nat) : Device :=
  let (w, d) := d.drawWord
  d.raiseOnce k code w

/-- What a read of a burst finds (R324): whether its data is poisoned, and the counts, record and event that follow. -/
def Device.hbmCheck (d : Device) (burst : Nat) (c : HbmClass) : Bool × Device :=
  let k := stackOf (64 * burst)
  match d.hbm.mark burst with
  | none => (false, d)
  | some .correctable => (false, d.modStack k fun s => { s with corr := satInc s.corr })
  | some .uncorrectable => (true, (d.hbmUncorr burst c).hbmEvent k 0x50)
  | some .poison => (true, (d.modStack k fun s => { s with poisonReads := satInc s.poisonReads }).hbmEvent k 0x51)

/-- Reads one burst: its 64 bytes, whether they are poisoned (R324). -/
def Device.hbmReadBurst (d : Device) (burst : Nat) (c : HbmClass) : List Byte × Bool × Device :=
  let d := d.modStack (stackOf (64 * burst)) (·.countSlots c 1)
  let (bad, d) := d.hbmCheck burst c
  (d.hbm.bytes (64 * burst) 64, bad, d)

/-- Writes bytes inside one burst. A whole burst takes one slot; a partial write reads, merges and takes two (R319). A
poisoned word, or a stored burst that reads as poisoned, leaves the poison pattern (R319, R325). The read of a partial
write that finds the burst uncorrectable is counted, recorded and raised; poison found there is not (R319). -/
def Device.hbmWriteBurst (d : Device) (a : Nat) (bs : List Byte) (poison : Bool) (c : HbmClass) : Device :=
  let burst := a / 64
  let k := stackOf a
  if bs.length = 64 then
    { d.modStack k (·.countSlots c 1) with hbm := d.hbm.writeRow burst 0 bs poison }
  else
    let d := d.modStack k (·.countSlots c 2)
    let d :=
      match d.hbm.mark burst with
      | some .correctable => d.modStack k fun s => { s with corr := satInc s.corr }
      | some .uncorrectable => (d.hbmUncorr burst c).hbmEvent k 0x50
      | _ => d
    { d with hbm := d.hbm.writeRow burst (a % 64) bs poison }

/-- A write of the side port, kept for the cycle in which it comes last (R321). -/
def Device.hbmSideBurst (d : Device) (a : Nat) (bs : List Byte) (poison : Bool) (c : HbmClass) : Device :=
  (d.hbmWriteBurst a bs poison c).modStack (stackOf a) fun s =>
    { s with side := { time := d.now, offset := a, bytes := bs, poison := poison } ::
        (match s.side with | e :: _ => if e.time = d.now then s.side else [] | [] => []) }

/-- Reads `n` bytes from `a` through the side port, burst by burst: each byte with its poison (R316, R324). -/
def Device.hbmReadRange (d : Device) (c : HbmClass) : Nat → Nat → Nat → List (Byte × Bool) × Device
  | 0, _, _ => ([], d)
  | fuel + 1, a, n =>
    if n = 0 then ([], d)
    else
      let k := min n (64 - a % 64)
      let (bs, bad, d) := d.hbmReadBurst (a / 64) c
      let (rest, d) := d.hbmReadRange c fuel (a + k) (n - k)
      (((bs.drop (a % 64)).take k).map (fun b => (b, bad)) ++ rest, d)

/-- Writes bytes from `a` on through the side port, burst by burst; a burst that any poisoned byte reaches is written
with the poison pattern (R325, R405). -/
def Device.hbmWriteRange (d : Device) (c : HbmClass) : Nat → Nat → List (Byte × Bool) → Device
  | 0, _, _ => d
  | fuel + 1, a, bs =>
    if bs.isEmpty then d
    else
      let k := 64 - a % 64
      let part := bs.take k
      (d.hbmSideBurst a (part.map (·.1)) (part.any (·.2)) c).hbmWriteRange c fuel (a + part.length) (bs.drop k)

def Device.hbmRead (d : Device) (c : HbmClass) (a n : Nat) : List (Byte × Bool) × Device := d.hbmReadRange c (n + 1) a n
def Device.hbmWrite (d : Device) (c : HbmClass) (a : Nat) (bs : List (Byte × Bool)) : Device :=
  d.hbmWriteRange c (bs.length + 1) a bs

/-- Stacks under a range of HBM. -/
def stacksUnder (a n : Nat) : List Nat :=
  if n = 0 then []
  else (List.range 8).filter fun k => decide (a < (k + 1) * stackBytes) && decide (k * stackBytes < a + n)

/-- Some stack of a range is offline (R329). -/
def Device.hbmOffline (d : Device) (a n : Nat) : Bool := (stacksUnder a n).any fun k => (d.stack k).state = 3

/-- Some stack of a range still trains or is in self-refresh, and takes no access yet (R328, R452). -/
def Device.hbmWaits (d : Device) (a n : Nat) : Bool :=
  (stacksUnder a n).any fun k => (d.stack k).state = 0 ∨ (d.stack k).state = 2

/-! ### The controller's own steps -/

/-- PATROL_SCRUB (R326): the next burst in turn. A corrected burst is rewritten, since no write can come between its
read and its rewrite in one step. -/
def Device.patrolScrub (k : Nat) (d : Device) : Device :=
  let s := d.stack k
  if s.state ≠ 1 then d
  else
    let burst := (k * stackBytes) / 64 + s.scrub.toNat
    let d :=
      match d.hbm.mark burst with
      | some .correctable =>
        { d.modStack k fun s => { s with corr := satInc s.corr } with hbm := d.hbm.setMark burst none }
      | some .uncorrectable => d.hbmUncorr burst .patrol
      | _ => d
    d.modStack k fun s =>
      if s.scrub.toNat + 1 < stackBytes / 64 then { s with scrub := s.scrub + 1 }
      else
        { s with scrub := 0, passes := satInc s.passes,
                 lastMs := satAdd 0 ((d.now - s.scrubStart) / 24000000), scrubStart := d.now }

def execPatrolScrub (k : StackIx) (s : State) : Host.Outcome State Fault Refusal := s.lift (Device.patrolScrub k.val)

/-- INNER_COUNT_READ (R326): the count that the stack reports since the last reading. -/
def Device.innerCountRead (k n : Nat) (d : Device) : Device :=
  if (d.stack k).state = 1 then d.modStack k fun s => { s with inner := satAdd s.inner n } else d

def execInnerCountRead (k : StackIx) (n : Word) (s : State) : Host.Outcome State Fault Refusal :=
  s.lift (Device.innerCountRead k.val n.toNat)

/-- SELF_REFRESH_ENTRY (R328): in Deep, once the controller's queues are empty. -/
def Device.selfRefreshEntry (k : Nat) (d : Device) : Device :=
  let s := d.stack k
  if d.pwr.state = 3 ∧ d.pwr.wakeTo = none ∧ s.state = 1 ∧ s.reads = [] ∧ s.writes = [] then
    d.modStack k fun s => { s with state := 2 }
  else d

def execSelfRefreshEntry (k : StackIx) (s : State) : Host.Outcome State Fault Refusal :=
  s.lift (Device.selfRefreshEntry k.val)

/-- SELF_REFRESH_EXIT (R328, R430): on leaving Deep, or once a trip has cleared, the stack has retrained and takes
accesses again. -/
def Device.selfRefreshExit (k : Nat) (d : Device) : Device :=
  if (d.stack k).state = 2 ∧ (d.pwr.state ≠ 3 ∨ d.pwr.wakeTo ≠ none) ∧ !d.hlt.trip then
    d.modStack k fun s => { s with state := 1 }
  else d

/-- HBM_TRAIN (R329, R452): at boot a stack becomes ready, its bytes written with zeros unless the
boot is a restart of the command processor, or offline. No stack trains without the reference clock (R493). -/
def Device.hbmTrain (k : Nat) (ok : Bool) (d : Device) : Device :=
  if (d.stack k).state ≠ 0 ∨ !d.seq.ref0 then d
  else if ok then
    let t := d.modStack k fun s => { s with state := 1, scrubStart := d.now, keep := false }
    if (d.stack k).keep then t
    else { t with
      hbm := { cells := d.hbm.cells.filter fun c => stackOf c.1 ≠ k,
               marks := d.hbm.marks.filter fun c => stackOf (64 * c.1) ≠ k } }
  else d.modStack k fun s => { s with state := 3 }

def execHbmTrain (k : StackIx) (ok : Bool) (s : State) : Host.Outcome State Fault Refusal :=
  s.lift (Device.hbmTrain k.val ok)

end Sys2Proof.Machine
end

