-- ==== Sys2Proof/Machine/Fabric.lean ====
section
/-! DEFINITION. The switch fabric (R67 to R99): route tables, buffers and credits, the send of one word or reduced sum,
seams, bridges and HBM taps, unit queues, and what a unit puts into its switch. -/

namespace Sys2Proof.Machine

/-! ### Items and their parity (R68) -/

/-- Even parity of the low `n` bits. -/
def parityOf (n v : Nat) : Bool := (List.range n).foldl (fun p k => p != v.testBit k) false

def Item.dataParity (net : Net) (w : Item) : BitVec 8 :=
  match net with
  | .vector => BitVec.ofNat 8 ((List.range 8).foldl
      (fun m k => m + natOfBool (parityOf 64 (bitsNat w.data.toNat (64 * k + 63) (64 * k))) * 2 ^ k) 0)
  | .scalar => BitVec.ofNat 8 (natOfBool (parityOf 32 w.data.toNat))
  | .control => BitVec.ofNat 8 (natOfBool (parityOf 16 w.data.toNat != parityOf 4 w.epoch.toNat))

/-- Even parity over the other sideband fields, PAR_D among them; a scalar word's data parity is no such field (R68). -/
def Item.sideParity (net : Net) (w : Item) : Bool :=
  let base := parityOf 4 w.epoch.toNat != parityOf 3 w.vc.toNat
  match net with
  | .vector => ((((base != w.last) != w.poison) != w.ovf) != (w.inv != w.unf)) != parityOf 8 w.parD.toNat
  | .scalar => (base != w.last) != w.poison
  | .control => false

/-- The item with its parity bits as they should be. -/
def Item.sealed (net : Net) (w : Item) : Item :=
  let w := { w with parD := w.dataParity net }
  { w with parS := w.sideParity net }

/-- A token's one parity bit covers its epoch, so an error in it is one of routing (R98). -/
def Item.sideOk (net : Net) (w : Item) : Bool :=
  match net with
  | .control => w.parD == w.dataParity net
  | _ => w.parS == w.sideParity net

def Item.dataOk (net : Net) (w : Item) : Bool :=
  match net with
  | .control => true
  | _ => w.parD == w.dataParity net

def netCode : Net → Nat
  | .vector => 0
  | .scalar => 1
  | .control => 2

/-- A word with clean sideband. -/
def Item.make (net : Net) (data : Nat) (epoch vc : Nat) (last : Bool) (poison : Bool := false) : Item :=
  { data := BitVec.ofNat 512 data, epoch := BitVec.ofNat 4 epoch, vc := BitVec.ofNat 3 vc, last := last,
    poison := poison, ovf := false, inv := false, unf := false, parD := 0, parS := false : Item }.sealed net

def Item.bytes (w : Item) : List Byte := leBytes 64 w.data.toNat

/-! ### Route tables (R74 to R77) -/

/-- A route entry. In the control network `slot` and `srcVc` are lanes. `mode` is 0 idle, 1 forward, 2 reduce; `delay` is
the clk that a word spends in the entry's delay line. -/
structure Route where
  id : Nat
  mode : Nat
  bank : Nat
  out : Nat
  slot : Nat
  src : Nat
  srcVc : Nat
  adds : Nat
  fmt : Nat
  delay : Nat
  deriving DecidableEq, Repr

def vectorRoute (id w : Nat) : Route :=
  { id := id, mode := bitsNat w 31 30, bank := bitsNat w 29 29, out := bitsNat w 28 26, slot := bitsNat w 25 23,
    src := bitsNat w 22 20, srcVc := bitsNat w 19 17, adds := bitsNat w 16 11, fmt := bitsNat w 10 10,
    delay := bitsNat w 9 6 }

def scalarRoute (id w : Nat) : Route :=
  { id := id, mode := bitsNat w 31 30, bank := bitsNat w 29 29, out := bitsNat w 28 26, slot := bitsNat w 25 23,
    src := bitsNat w 22 20, srcVc := bitsNat w 19 17, adds := 0, fmt := 0, delay := 0 }

def controlRoute (id w : Nat) : Route :=
  { id := id, mode := bitsNat w 15 15, bank := bitsNat w 14 14, out := bitsNat w 13 11, slot := bitsNat w 10 9,
    src := bitsNat w 8 6, srcVc := bitsNat w 5 4, adds := 0, fmt := 0, delay := 0 }

def swPeriod (img : List Byte) : Nat := fieldAt img 0 1
def swNv (img : List Byte) : Nat := fieldAt img 2 2
def swNs (img : List Byte) : Nat := fieldAt img 4 2
def swNc (img : List Byte) : Nat := fieldAt img 6 2
def swLength (img : List Byte) : Nat := fieldAt img 8 2

/-- The entries of one network, idle ones included. -/
def routesOf (img : List Byte) : Net → List Route
  | .vector => (List.range (swNv img)).map fun k => vectorRoute k (fieldAt img (16 + 8 * k) 8)
  | .scalar => (List.range (swNs img)).map fun k => scalarRoute k (fieldAt img (16 + 8 * swNv img + 4 * k) 4)
  | .control =>
    (List.range (swNc img)).map fun k =>
      controlRoute k (fieldAt img (16 + 8 * swNv img + 4 * swNs img + 2 * k) 2)

/-- The unit section of an image (R73), its length field included; empty where the image configures the switch only. -/
def unitSection (img : List Byte) : List Byte :=
  let o := swLength img
  if img.length < o + 8 then [] else (img.drop o).take (fieldAt img o 4)

/-- The ports set in ADDS, ascending. -/
def Route.addPorts (e : Route) : List Nat := (List.range 6).filter fun k => e.adds.testBit k

def Route.ports (e : Route) : List Nat := if e.mode = 2 then e.src :: e.addPorts else [e.src]

/-- The entry uses this input buffer. -/
def Route.uses (e : Route) (port vc : Nat) : Bool := e.mode != 0 && e.srcVc == vc && e.ports.contains port

/-! ### Buffers -/

def Switch.buf (s : Switch) (k : BufKey) : Buf :=
  match s.bufs.find? (·.1 == k) with
  | some p => p.2
  | none => .reset

def Switch.setBuf (s : Switch) (k : BufKey) (b : Buf) : Switch :=
  if b = .reset then { s with bufs := s.bufs.filter fun p => p.1 != k }
  else if s.bufs.any (·.1 == k) then { s with bufs := s.bufs.map fun p => if p.1 == k then (k, b) else p }
  else { s with bufs := s.bufs ++ [(k, b)] }

/-- Ports of site die:(x,y): 0 N, 1 E, 2 S, 3 W; x rises to the east and y to the north (R9). -/
inductive Hop where
  | site (u port : Nat)
  | seam (u port : Nat)
  | bridge (u port : Nat)
  | unit
  | tap (iou key : Nat)
  | none
  deriving DecidableEq, Repr

def opposite (port : Nat) : Nat := match port with | 0 => 2 | 1 => 3 | 2 => 0 | _ => 1

/-- Rows and columns that carry a bridge channel (R85). -/
def bridgeRow (y : Nat) : Bool := decide (10 ≤ y) && decide (y ≤ 29)
def bridgeCol (x : Nat) : Bool := (decide (4 ≤ x) && decide (x ≤ 13)) || (decide (22 ≤ x) && decide (x ≤ 31))

/-- The outward port of the HBM edge of a die (R311). -/
def tapOut (die : Nat) : Nat := if die < 2 then 2 else 0

/-- The HBM edge row of a die (R88). -/
def tapRow (die : Nat) : Nat := if die < 2 then 0 else 39

/-- The IOU that serves a tap port of the switch in column x (R311): `t` for the T port. -/
def tapIou (die x : Nat) (t : Bool) : Option Nat :=
  if 12 ≤ x ∧ x ≤ 23 then none
  else
    let c := if x % 3 = 1 then (if t then x + 1 else x - 1) else x
    some (siteOf die c (tapRow die))

/-- The key under which an IOU keeps the tap port of column x: its own L port has key 4. -/
def tapKey (x : Nat) (t : Bool) : Nat := 100 + 2 * x + natOfBool t

/-- What output `out` of the switch at site `u` joins (R67, R81, R85, R88). -/
def hop (u out : Nat) : Hop :=
  let d := siteDie u
  let x := siteX u
  let y := siteY u
  if out = 4 then .unit
  else if out = 5 then
    (if y = tapRow d then (match tapIou d x true with | some i => .tap i (tapKey x true) | none => .none) else .none)
  else if out = tapOut d ∧ y = tapRow d then
    (match tapIou d x false with | some i => .tap i (tapKey x false) | none => .none)
  else if out = 0 then
    (if y < 39 then .site (u + 36) 2
     else if d < 2 ∧ bridgeCol x then .bridge (siteOf (d + 2) x 0) 2 else .none)
  else if out = 2 then
    (if 0 < y then .site (u - 36) 0
     else if 2 ≤ d ∧ bridgeCol x then .bridge (siteOf (d - 2) x 39) 0 else .none)
  else if out = 1 then
    (if x = 17 then .seam (u + 1) 3
     else if x < 35 then .site (u + 1) 3
     else if d % 2 = 0 ∧ bridgeRow y then .bridge (siteOf (d + 1) 0 y) 3 else .none)
  else
    (if x = 18 then .seam (u - 1) 1
     else if 0 < x then .site (u - 1) 1
     else if d % 2 = 1 ∧ bridgeRow y then .bridge (siteOf (d - 1) 35 y) 1 else .none)

/-- The bridge IOU that serves the channel at port `port` of edge site `u` (R85). -/
def bridgeIou (u port : Nat) : Nat :=
  let d := siteDie u
  if port = 1 ∨ port = 3 then siteOf d (siteX u) (18 + (siteY u - 10) / 5)
  else
    let x := siteX u
    siteOf d (if x < 9 then 8 else if x < 14 then 9 else if x < 27 then 26 else 27) (siteY u)

/-- Places of an ordinary switch buffer (R71). -/
def bufCap : Nat := 4

/-- Places of the receiving buffer of a crossing (R81, R86). -/
def crossCap (bridge : Bool) (net : Net) : Nat :=
  if bridge then (match net with | .control => 16 | _ => 64) else 16

/-- Items on their way to a receiving buffer. -/
def Device.inFlight (d : Device) (u port : Nat) (net : Net) (vc : Nat) : Nat :=
  (d.crossings.filter fun c => c.site == u && c.port == port && c.net == net && c.vc == vc).length

def Unit.queue (m : Unit) (k : BufKey) : List Item :=
  match m.inq.find? (·.1 == k) with
  | some p => p.2
  | none => []

def Unit.setQueue (m : Unit) (k : BufKey) (q : List Item) : Unit :=
  if q = [] then { m with inq := m.inq.filter fun p => p.1 != k }
  else if m.inq.any (·.1 == k) then { m with inq := m.inq.map fun p => if p.1 == k then (k, q) else p }
  else { m with inq := m.inq ++ [(k, q)] }

/-- Words in tap port `key` on a channel; a tap keeps its words one by one, in the order of all its ports' arrivals. -/
def Unit.tapCount (m : Unit) (k : BufKey) : Nat := (m.inq.filter (·.1 == k)).length

/-- Places of a unit's input queue (R71). -/
def unitCap (net : Net) : Nat := match net with | .control => 8 | _ => 16

/-- A buffer of the switch at site `v` accepts nothing more: the region has issued its swap and the packet boundary after
it has passed (R57). -/
def Device.bufClosed (d : Device) (v : Nat) (k : BufKey) : Bool :=
  (d.pilot (siteRegion v)).issued && (d.switch v).closed.contains k

/-- The same of a queue of the unit at site `v`. -/
def Device.queueClosed (d : Device) (v : Nat) (k : BufKey) : Bool :=
  (d.pilot (siteRegion v)).issued && (d.unit v).closed.contains k

/-- A crossing from site `u` has room at port `port` of site `v`, whose buffers have `cap` places each: items of the comb
that the receiving region runs go to the receiving buffer, unless it is closed, and others, while that region drains, go
to the hold buffer (R57, R84). -/
def Device.crossRoom (d : Device) (u v port : Nat) (net : Net) (vc cap : Nat) : Bool :=
  let p := d.pilot (siteRegion v)
  let same := (d.pilot (siteRegion u)).comb == p.comb
  let b := (d.switch v).buf ⟨net, port, vc⟩
  let way := (d.crossings.filter fun c =>
    c.site == v && c.port == port && c.net == net && c.vc == vc && (c.item.epoch == p.comb) == same).map (·.item)
  let items := (if p.drain && !same then b.hold else b.items) ++ way
  !(same && d.bufClosed v ⟨net, port, vc⟩) && decide (items.length < cap)

/-- The sender holds a credit for the next buffer (R71, R84). -/
def Device.hasRoom (d : Device) (u : Nat) (net : Net) (out vc : Nat) : Bool :=
  match hop u out with
  | .site v p =>
    !d.bufClosed v ⟨net, p, vc⟩ && decide (((d.switch v).buf ⟨net, p, vc⟩).items.length < bufCap)
  | .seam v p => !d.relock.contains (siteDie v) && d.crossRoom u v p net vc (crossCap false net)
  | .bridge v p => d.crossRoom u v p net vc (crossCap true net)
  | .unit => !d.queueClosed u ⟨net, 4, vc⟩ && decide (((d.unit u).queue ⟨net, 4, vc⟩).length < unitCap net)
  | .tap i k =>
    net == .vector && !d.queueClosed i ⟨net, k, vc⟩ && decide ((d.unit i).tapCount ⟨net, k, vc⟩ < bufCap)
  | .none => false

/-! ### Progress and stale items -/

/-- Something of R103 has moved in the region in this clk. -/
def Device.progress (d : Device) (r : Nat) : Device := d.modPilot r fun p => { p with progress := true }

/-- The first stale item of a region in a tick raises COMB_STALE and marks the tick's report (R60). The event's ARG is
not stated (log 6). -/
def Device.staleReport (d : Device) (r : Nat) : Device :=
  if (d.pilot r).staleInTick then d
  else
    let (w, d) := d.drawWord
    ((d.modPilot r fun p => { p with staleInTick := true }).raiseOnce r 0x01 w).modTick fun t =>
      { t with flags := t.flags ||| 0x20 }

/-- A switch discards an item with another comb's epoch. -/
def Device.staleSwitch (d : Device) (u : Nat) : Device :=
  (d.modSwitch u fun s => { s with stale := satInc s.stale }).staleReport (siteRegion u)

/-- A unit discards one. -/
def Device.staleUnit (d : Device) (u : Nat) : Device :=
  (d.modUnit u fun m => { m with stale := satInc m.stale }).staleReport (siteRegion u)

/-- Raises an event with an ARG that is not stated (log 6). -/
def Device.raiseFree (d : Device) (r code : Nat) : Device :=
  let (w, d) := d.drawWord
  d.raise r code w

def Device.raiseOnceFree (d : Device) (r code : Nat) : Device :=
  let (w, d) := d.drawWord
  d.raiseOnce r code w

/-! ### Delivery -/

/-- The item ends a packet (R69); every token is a packet of its own. -/
def Item.ends (net : Net) (w : Item) : Bool := net == .control || w.last

/-- A buffer accepts an item; once the region has issued its swap, the end of a packet closes the buffer (R57). -/
def Device.noteBuf (d : Device) (v : Nat) (k : BufKey) (w : Item) : Device :=
  if (d.pilot (siteRegion v)).issued && w.epoch == (d.pilot (siteRegion v)).comb && w.ends k.net then
    d.modSwitch v fun s => { s with closed := k :: s.closed }
  else d

def Device.noteQueue (d : Device) (v : Nat) (k : BufKey) (w : Item) : Device :=
  if (d.pilot (siteRegion v)).issued && w.ends k.net then d.modUnit v fun m => { m with closed := k :: m.closed } else d

/-- An item leaves output `out` with VC set to the slot. A ROUTE token stays at the switch's L output (R94). -/
def Device.deliver (d : Device) (u : Nat) (net : Net) (out vc : Nat) (w : Item) : Device :=
  let w := { w with vc := BitVec.ofNat 3 vc }.sealed net
  match hop u out with
  | .site v p =>
    (d.modSwitch v fun s =>
      let b := s.buf ⟨net, p, vc⟩
      s.setBuf ⟨net, p, vc⟩ { b with items := b.items ++ [w] }).noteBuf v ⟨net, p, vc⟩ w
  | .seam v p =>
    { d.noteBuf v ⟨net, p, vc⟩ w with
      crossings := d.crossings ++
        [{ bridge := false, site := v, port := p, net := net, vc := vc, tries := 0, item := w }] }
  | .bridge v p =>
    { d.noteBuf v ⟨net, p, vc⟩ w with
      crossings := d.crossings ++
        [{ bridge := true, site := v, port := p, net := net, vc := vc, tries := 0, item := w }] }
  | .unit =>
    if net == .control && bitsNat w.data.toNat 15 12 == 5 then
      d.modSwitch u fun s => { s with routeAt := s.routeAt ++ [(vc, w)] }
    else (d.modUnit u fun m => m.setQueue ⟨net, 4, vc⟩ (m.queue ⟨net, 4, vc⟩ ++ [w])).noteQueue u ⟨net, 4, vc⟩ w
  | .tap i k => (d.modUnit i fun m => { m with inq := m.inq ++ [(⟨net, k, vc⟩, [w])] }).noteQueue i ⟨net, k, vc⟩ w
  | .none => d

/-- Moves what a unit has sent into its switch's L buffers while they have room, in order on each channel (R71); after the
region has issued its swap, the end of a packet closes a buffer (R57). -/
def drainOutAux (issued : Bool) (fuel : Nat) (s : Switch) : List (Net × Item) → Switch × List (Net × Item)
  | [] => (s, [])
  | (net, w) :: rest =>
    match fuel with
    | 0 => (s, (net, w) :: rest)
    | fuel + 1 =>
      let k : BufKey := ⟨net, 4, w.vc.toNat⟩
      let b := s.buf k
      if b.items.length < bufCap ∧ !(issued && s.closed.contains k) then
        let s := s.setBuf k { b with items := b.items ++ [w] }
        drainOutAux issued fuel (if issued && w.ends net then { s with closed := k :: s.closed } else s) rest
      else
        let same := rest.filter fun p => p.1 == net && p.2.vc == w.vc
        let other := rest.filter fun p => !(p.1 == net && p.2.vc == w.vc)
        let (s, left) := drainOutAux issued fuel s other
        (s, (net, w) :: same ++ left)

def Device.drainOut (d : Device) (u : Nat) : Device :=
  let m := d.unit u
  if m.out = [] then d
  else
    let (s, left) := drainOutAux (d.pilot (siteRegion u)).issued m.out.length (d.switch u) m.out
    (d.modSwitch u fun _ => s).modUnit u fun m => { m with out := left }

/-- A unit sends words into its switch: the 64th consecutive word on a channel carries LAST, whatever the program says
(R69). -/
def Unit.send (m : Unit) (net : Net) (w : Item) : Unit :=
  let key := 8 * netCode net + w.vc.toNat
  let n := m.run.getD key 0 + 1
  let last := w.last || n == 64
  { m with out := m.out ++ [(net, { w with last := last }.sealed net)], run := m.run.put key (if last then 0 else n) }

/-- A word that the unit at `u` sends on a channel would enter the switch's L buffer at once. -/
def Device.outRoom (d : Device) (u : Nat) (net : Net) (vc : Nat) : Bool :=
  !d.bufClosed u ⟨net, 4, vc⟩ && decide (((d.switch u).buf ⟨net, 4, vc⟩).items.length < bufCap) &&
    !((d.unit u).out.any fun p => p.1 == net && p.2.vc.toNat == vc)

def Device.unitSend (d : Device) (u : Nat) (net : Net) (w : Item) : Device :=
  (d.modUnit u (·.send net w)).drainOut u

/-! ### One send (R72, R91 to R93, R98) -/

/-- Lane `k` of a word. -/
def Item.lane (w : Item) (k : Nat) : Word := BitVec.ofNat 32 (w.data.toNat >>> (32 * k))

/-- Word data from its lanes, lane 0 lowest. -/
def packLanes : List Word → Nat
  | [] => 0
  | w :: ws => w.toNat + 2 ^ 32 * packLanes ws

/-- One addition of a reduce entry over 16 lanes. -/
def Item.reduce (fp : Bool) (a b : Item) : Item :=
  let sums := (List.range 16).map fun k => if fp then addF32 (a.lane k) (b.lane k) else addI32 (a.lane k) (b.lane k)
  { a with data := BitVec.ofNat 512 (packLanes (sums.map (·.1))), poison := a.poison || b.poison,
           ovf := a.ovf || b.ovf || sums.any (·.2.ovf), inv := a.inv || b.inv || sums.any (·.2.inv),
           unf := a.unf || b.unf || sums.any (·.2.unf) }

/-- Sideband parity is bad at input `k` of switch `u`: the region stops (R98). -/
def Device.sidebandFail (d : Device) (u : Nat) (k : BufKey) : Device :=
  let r := siteRegion u
  let d := d.record 6 2 (d.atSite u) (leBytes 1 (netCode k.net) ++ leBytes 1 k.port ++ leBytes 1 k.vc)
  (d.raiseFree r 0x2B).stopRegion r (siteX u) (siteY u) 9

/-- Checks the data parity of the head of an input; a failure poisons the word and is counted (R98). -/
def Device.checkHead (d : Device) (u : Nat) (k : BufKey) : Device :=
  match ((d.switch u).buf k).items with
  | [] => d
  | w :: rest =>
    if w.dataOk k.net then d
    else
      let d := d.modSwitch u fun s =>
        { s.setBuf k { s.buf k with items := { w with poison := true }.sealed k.net :: rest } with parity := satInc s.parity }
      d.raiseFree (siteRegion u) 0x05

/-- Entry `e` takes the head of an input; the head leaves once every entry of the active bank that uses the buffer has
taken it. -/
def Switch.take (s : Switch) (es : List Route) (bank : Nat) (e : Route) (k : BufKey) : Switch :=
  let b := s.buf k
  let taken := e.id :: b.taken
  if es.all fun f => !(f.bank == bank && f.uses k.port k.vc) || taken.contains f.id then
    s.setBuf k { b with items := b.items.drop 1, taken := [] }
  else s.setBuf k { b with taken := taken }

/-- The buffer holds a head word that the entry has not taken. -/
def Switch.headFor (s : Switch) (e : Route) (k : BufKey) : Option Item :=
  let b := s.buf k
  if b.taken.contains e.id then none else b.items.head?

def Switch.countSent (s : Switch) (out : Nat) (net : Net) : Switch :=
  match net with
  | .control => s
  | _ => { s with sent := s.sent.upd (2 * out + netCode net) 0 satInc }

/-- The output's place in `lastSent`. -/
def sendKey (net : Net) (out lane : Nat) : Nat := 24 * netCode net + 4 * out + (match net with | .control => lane | _ => 0)

/-- The entry that an output follows in this clk (R70, R72). -/
def Device.routeNow (d : Device) (u : Nat) (net : Net) (out lane : Nat) : Option Route :=
  let sw := d.switch u
  let img := sw.active.image
  let slot := match net with | .control => lane | _ => (d.pilot (siteRegion u)).combClk % swPeriod img
  (routesOf img net).find? fun e => e.mode != 0 && e.bank == natOfBool sw.bank && e.out == out && e.slot == slot

/-- The input buffers of an entry. -/
def Route.keys (e : Route) (net : Net) : List BufKey := e.ports.map fun p => ⟨net, p, e.srcVc⟩

/-- Every input of the entry holds a head word that it has not taken. -/
def Switch.headsReady (s : Switch) (e : Route) (net : Net) : Bool := (e.keys net).all fun k => (s.headFor e k).isSome

/-- The entry takes the head words of its inputs, with the checks of R98: the word, or the sum, that it sends on; none
where the region has stopped instead. -/
def Device.gather (d : Device) (u : Nat) (net : Net) (e : Route) : Device × Option Item :=
  let r := siteRegion u
  let keys := e.keys net
  match keys.find? fun k => ((d.switch u).headFor e k).any fun w => !w.sideOk net with
  | some k => (d.sidebandFail u k, none)
  | none =>
    let d := keys.foldl (fun d k => d.checkHead u k) d
    match keys.filterMap fun k => (d.switch u).headFor e k with
    | [] => (d, none)
    | w :: ws =>
      let es := routesOf (d.switch u).active.image net
      let framing := ws.any fun x => x.last != w.last
      let res := if e.mode = 2 then ws.foldl (Item.reduce (e.fmt == 1)) w else w
      let d := d.modSwitch u fun s =>
        let s := e.ports.foldl (fun s p => s.take es (natOfBool s.bank) e ⟨net, p, e.srcVc⟩) s
        { s with framing := if framing then satInc s.framing else s.framing }
      let d := if framing then d.raiseFree r 0x03 else d
      ((d.drainOut u).progress r, some { res with last := w.last, epoch := w.epoch })

/-- A word leaves output `out` (R70, R72). -/
def Device.sendNow (d : Device) (u : Nat) (net : Net) (out lane : Nat) (e : Route) (w : Item) : Device :=
  let r := siteRegion u
  let clk := (d.pilot r).combClk + 1
  let d := d.modSwitch u fun s =>
    { s.countSent out net with lastSent := s.lastSent.put (sendKey net out lane) clk }
  let slot := match net with | .control => lane | _ => e.slot
  (d.deliver u net out slot w).progress r

/-- Words that a delay line holds (R102). -/
def lineCap : Nat := 16

/-- The delay line of an entry. -/
def Switch.line (s : Switch) (e : Route) : List (Nat × Item) := s.lines.getD e.id []

/-- A word enters the delay line of its entry while the line has room (R75, R78). -/
def Device.enterLine (d : Device) (u : Nat) (e : Route) : Device :=
  let s := d.switch u
  if !d.live (siteRegion u) || lineCap ≤ (s.line e).length || !s.headsReady e .vector then d
  else
    match d.gather u .vector e with
    | (d, some w) =>
      d.modSwitch u fun s => { s with lines := s.lines.put e.id (s.line e ++ [((d.pilot (siteRegion u)).combClk, w)]) }
    | (d, none) => d

/-- Every entry of the active bank with a delay line at this output takes up a word (R78). -/
def Device.fillLines (d : Device) (u : Nat) (net : Net) (out : Nat) : Device :=
  match net with
  | .vector =>
    let sw := d.switch u
    ((routesOf sw.active.image .vector).filter fun e =>
      e.mode != 0 && e.delay != 0 && e.bank == natOfBool sw.bank && e.out == out).foldl (fun d e => d.enterLine u e) d
  | _ => d

/-- The oldest word of the entry's line, once it has spent DELAY clk there (R78). -/
def Device.ripe (d : Device) (u : Nat) (e : Route) : Option Item :=
  match (d.switch u).line e with
  | (c, w) :: _ => if c + e.delay ≤ (d.pilot (siteRegion u)).combClk then some w else none
  | [] => none

/-- WORD_SEND (R72, R75, R78): output `out` of a switch in the present clk; `lane` names the lane of a control output. -/
def Device.wordSend (u : Nat) (net : Net) (out lane : Nat) (d : Device) : Device :=
  let r := siteRegion u
  if !d.started r || (d.switch u).active.comb.isNone || d.comb.state ≠ .active then d
  else
    let d := d.fillLines u net out
    match d.routeNow u net out lane with
    | none => d
    | some e =>
      let sw := d.switch u
      let slot := match net with | .control => lane | _ => e.slot
      if !d.live r ∨ sw.lastSent.getD (sendKey net out lane) 0 = (d.pilot r).combClk + 1 ∨ !d.hasRoom u net out slot then d
      else if e.delay ≠ 0 then
        match d.ripe u e with
        | some w =>
          (d.modSwitch u fun s => { s with lines := s.lines.put e.id ((s.line e).drop 1) }).sendNow u net out lane e w
        | none => d
      else if !sw.headsReady e net then d
      else
        match d.gather u net e with
        | (d, some w) => d.sendNow u net out lane e w
        | (d, none) => d

def execWordSend (u : SiteIx) (net : Net) (out : Fin 6) (lane : Fin 4) (s : State) :
    Host.Outcome State Fault Refusal :=
  s.lift (Device.wordSend u.val net out.val lane.val)

/-! ### Crossings (R81 to R87) -/

/-- Splits off the first crossing that satisfies a test. -/
def takeFirst {α : Type} (p : α → Bool) : List α → Option (α × List α)
  | [] => none
  | a :: as => if p a then some (a, as) else (takeFirst p as).map fun r => (r.1, a :: r.2)

/-- A data parity error is counted where it is found (R98). -/
def Device.parityHit (d : Device) (u : Nat) : Device :=
  (d.modSwitch u fun s => { s with parity := satInc s.parity }).raiseFree (siteRegion u) 0x05

/-- An item enters the receiving buffer, the hold buffer, or is discarded as stale (R60, R84). -/
def Device.settleItem (d : Device) (c : Crossing) : Device :=
  let r := siteRegion c.site
  let k : BufKey := ⟨c.net, c.port, c.vc⟩
  let p := d.pilot r
  if c.item.epoch = p.comb then
    (d.modSwitch c.site fun s => let b := s.buf k; s.setBuf k { b with items := b.items ++ [c.item] }).progress r
  else if p.drain then
    (d.modSwitch c.site fun s => let b := s.buf k; s.setBuf k { b with hold := b.hold ++ [c.item] }).progress r
  else d.staleSwitch c.site

/-- A seam or a bridge delivers an item: an error in its sideband or in a token stops the region before its epoch is
trusted, and one in its data poisons the word (R98). -/
def Device.arrive (d : Device) (c : Crossing) : Device :=
  if !c.item.sideOk c.net then d.sidebandFail c.site ⟨c.net, c.port, c.vc⟩
  else if !c.item.dataOk c.net then
    (d.parityHit c.site).settleItem { c with item := { c.item with poison := true }.sealed c.net }
  else d.settleItem c

/-- The first clk of a comb at a site: held items of the comb enter its buffers, and the rest are stale (R84). -/
def Device.releaseHold (d : Device) (u : Nat) : Device :=
  if (d.switch u).bufs.all fun p => p.2.hold.isEmpty then d
  else
    let e := (d.pilot (siteRegion u)).comb
    let old := ((d.switch u).bufs.map fun p => (p.2.hold.filter fun w => w.epoch != e).length).sum
    let d := (List.range old).foldl (fun d _ => d.staleSwitch u) d
    d.modSwitch u fun s =>
      { s with bufs := (s.bufs.map fun p =>
                 (p.1, { p.2 with items := p.2.items ++ p.2.hold.filter fun w => w.epoch == e, hold := [] })).filter
                   fun p => p.2 != .reset }

def Device.releaseHolds (d : Device) (r : Nat) : Device := (regionSites r).foldl (fun d u => d.releaseHold u) d

/-- SEAM_ARRIVAL (R82, R83). -/
def Device.seamArrival (u port : Nat) (net : Net) (v : Nat) (d : Device) : Device :=
  if !d.clockRuns (siteRegion u) || d.relock.contains (siteDie u) then d
  else
    match takeFirst (fun c => !c.bridge && c.site == u && c.port == port && c.net == net && c.vc == v) d.crossings with
    | none => d
    | some (c, rest) => { d with crossings := rest }.arrive c

def execSeamArrival (u : SiteIx) (port : Fin 6) (net : Net) (v : Fin 8) (s : State) :
    Host.Outcome State Fault Refusal :=
  s.lift (Device.seamArrival u.val port.val net v.val)

/-- SEAM_RELOCK_DONE (R83). -/
def execSeamRelockDone (d : Die) (s : State) : Host.Outcome State Fault Refusal :=
  s.lift fun dev => { dev with relock := dev.relock.filter (· != d.val) }

/-- Four attempts at one word have failed: the channel has failed and the regions on both sides stop (R87). -/
def Device.bridgeFail (d : Device) (u port : Nat) : Device :=
  let iou := bridgeIou u port
  let r := siteRegion u
  match hop u port with
  | .bridge v _ =>
    let d := d.record 5 2 (d.atSite iou) (leBytes 1 (siteDie v) ++ leBytes 1 4)
    let d := d.raiseFree r 0x25
    let far := siteRegion v
    let d := d.modPilot far fun p =>
      if p.state = 6 then p else p.stop (siteX (bridgeIou v (opposite port))) (siteY (bridgeIou v (opposite port))) 8
    d.stopRegion r (siteX iou) (siteY iou) 8
  | _ => d

/-- BRIDGE_WORD_ARRIVAL (R86, R87): an attempt of the first word on its way, whose CRC-16 holds or not. -/
def Device.bridgeArrival (u port : Nat) (net : Net) (v : Nat) (ok : Bool) (d : Device) : Device :=
  if !d.clockRuns (siteRegion u) then d
  else
    match takeFirst (fun c => c.bridge && c.site == u && c.port == port && c.net == net && c.vc == v) d.crossings with
    | none => d
    | some (c, rest) =>
      if ok then { d with crossings := rest }.arrive c
      else if c.tries + 1 < 4 then
        { d with crossings := { c with tries := c.tries + 1 } :: rest }.modIou (bridgeIou u port) fun i =>
          { i with bridgeRetry := satInc i.bridgeRetry }
      else { d with crossings := { c with tries := 4 } :: rest }.bridgeFail u port

def execBridgeWordArrival (u : SiteIx) (port : Fin 6) (net : Net) (v : Fin 8) (ok : Bool) (s : State) :
    Host.Outcome State Fault Refusal :=
  s.lift (Device.bridgeArrival u.val port.val net v.val ok)

/-! ### Held items, for the watchdog and its snapshot (R103, R470) -/

/-- Some word or token in the region is held. -/
def Device.anyHeld (d : Device) (r : Nat) : Bool :=
  d.switches.any (fun p => siteRegion p.1 == r && !p.2.bufs.isEmpty) ||
  d.mus.any (fun p => siteRegion p.1 == r && !p.2.unit.inq.isEmpty) ||
  d.sfus.any (fun p => siteRegion p.1 == r && !p.2.unit.inq.isEmpty) ||
  d.sus.any (fun p => siteRegion p.1 == r && !p.2.unit.inq.isEmpty) ||
  d.ious.any (fun p => siteRegion p.1 == r && !p.2.unit.inq.isEmpty)

end Sys2Proof.Machine
end

