-- ==== Sys2Proof/Machine/Flags.lean ====
section
/-! DEFINITION. The waggle homes (R278 to R295): how a home applies the flag changes of one clk, barrier groups, event
counters, and the commands that write and configure them. The meaning of FLAG_CHANGE itself, which also answers other
devices, is in Channels.lean. -/

namespace Sys2Proof.Machine

/-! ### One clk of a home (R280 to R292) -/

/-- What one clk of a home raises: an event code and its ARG (R307). -/
abbrev HomeEvent := Nat × Nat

def Home.hasFlag (h : Home) (f : Nat) : Bool := h.flags.contains f

def insertNat (f : Nat) : List Nat → List Nat
  | [] => [f]
  | g :: fs => if f < g then f :: g :: fs else if f = g then g :: fs else g :: insertNat f fs

def Home.putFlag (h : Home) (f : Nat) (v : Bool) : Home :=
  { h with flags := if v then insertNat f h.flags else h.flags.filter (· != f) }

def Home.bar (h : Home) (g : Nat) : Barrier := h.bars.getD g .reset
def Home.counter (h : Home) (c : Nat) : EvCounter := h.cnts.getD c .reset

/-- The flag is one of the group's arrival flags. -/
def Barrier.arrives (b : Barrier) (f : Nat) : Bool :=
  b.en && decide (b.base.toNat ≤ f) && decide (f < b.base.toNat + b.n.toNat)

/-- The enabled group whose arrival flag this is. -/
def Home.groupOf (h : Home) (f : Nat) : Option Nat := (List.range 64).find? fun g => (h.bar g).arrives f

/-- The enabled counters that count sets of this flag. -/
def Home.countersOf (h : Home) (f : Nat) : List Nat :=
  (List.range 64).filter fun c => (h.counter c).en && (h.counter c).src.toNat == f

/-- A MISUSE field: the flag to set, if EN is 1 (R286, R290). -/
def misuseTarget (m : BitVec 16) : Option Nat := if m.getLsbD 15 then some (m.toNat % 4096) else none

/-- A flag that the home itself sets. One that is a counter's SRC or a group's arrival flag takes effect as a set request
in the home's next clk (log 13); every other changes at once (R287, R291). -/
def Home.selfSet (h : Home) (die f : Nat) (v : Bool) : Home :=
  if v && (!(h.countersOf f).isEmpty || (h.groupOf f).isSome) then
    { h with reqs := { flag := f, value := true, parityOk := true, src := 7100 + die, cmd := none, tid := none } :: h.reqs }
  else h.putFlag f v

def Home.misuseFlag (h : Home) (die : Nat) (m : BitVec 16) : Home :=
  match misuseTarget m with
  | some f => h.selfSet die f true
  | none => h

/-- One set request (R280, R289, R291): counts for SRC flags are returned beside the home. -/
def Home.applySet (h : Home) (die f : Nat) (counts : List Nat) : Home × List Nat × List HomeEvent :=
  let cs := h.countersOf f
  if !cs.isEmpty then (h, counts ++ cs, [])
  else
    match h.groupOf f with
    | some g =>
      if h.hasFlag f then
        let b := h.bar g
        let h := { h with misBarrier := satInc h.misBarrier,
                          bars := h.bars.put g { b with misuse := satInc b.misuse } }
        (h.misuseFlag die b.misuseFlag, counts, [(0x46, g)])
      else (h.putFlag f true, counts, [])
    | none => (h.putFlag f true, counts, [])

def Home.applySets (h : Home) (die : Nat) (counts : List Nat) : List FlagReq → Home × List Nat × List HomeEvent
  | [] => (h, counts, [])
  | q :: qs =>
    let (h, counts, ev) := h.applySet die q.flag counts
    let (h, counts, evs) := h.applySets die counts qs
    (h, counts, ev ++ evs)

/-- Barrier group `g` in the evaluation step (R287). -/
def Home.evalGroup (h : Home) (die g : Nat) : Home :=
  let b := h.bar g
  if b.en && (List.range b.n.toNat).all fun k => h.hasFlag (b.base.toNat + k) then
    let v := h.hasFlag b.release.toNat
    let h := { h with flags := h.flags.filter fun f => !b.arrives f,
                      bars := h.bars.put g { b with rounds := satInc b.rounds } }
    h.selfSet die b.release.toNat !v
  else h

/-- Event counter `c` in the evaluation step, after `n` set requests for its SRC (R291, R292). -/
def Home.evalCounter (h : Home) (die c n : Nat) : Home × List HomeEvent :=
  let k := h.counter c
  if !k.en then (h, [])
  else
    let clr := h.hasFlag k.clr.toNat
    let h := if clr then (h.putFlag k.out.toNat false).putFlag k.clr.toNat false else h
    let before := if clr then 0 else k.count.toNat
    let after := before + n
    let beyond := decide (0xFFFF < after)
    let k' := { k with count := BitVec.ofNat 16 (min after 0xFFFF), saturated := k.saturated || beyond }
    let h := { h with cnts := h.cnts.put c k' }
    let h := if before < k.thresh.toNat ∧ k.thresh.toNat ≤ min after 0xFFFF then h.selfSet die k.out.toNat true else h
    if beyond then ({ h with misCounter := satInc h.misCounter }.misuseFlag die k.misuseFlag, [(0x47, c)]) else (h, [])

def Home.evalCounters (h : Home) (die : Nat) (counts : List Nat) : List Nat → Home × List HomeEvent
  | [] => (h, [])
  | c :: cs =>
    let (h, ev) := h.evalCounter die c (counts.count c)
    let (h, evs) := h.evalCounters die counts cs
    (h, ev ++ evs)

/-- Flags that are both cleared and set by a batch (R280). -/
def collisions (clears sets : List FlagReq) : Nat :=
  ((sets.map (·.flag)).dedup.filter fun f => clears.any fun c => c.flag == f).length

/-- One clk of a home: the clears, then the sets, then the groups and counters (R280). -/
def Home.applyBatch (h : Home) (die : Nat) (batch : List FlagReq) : Home × List HomeEvent :=
  let clears := batch.filter fun q => !q.value
  let sets := batch.filter (·.value)
  let h := { h with collide := satAdd h.collide (collisions clears sets) }
  let h := clears.foldl (fun h q => h.putFlag q.flag false) h
  let (h, counts, ev1) := h.applySets die [] sets
  let h := (List.range 64).foldl (fun h g => h.evalGroup die g) h
  let (h, ev2) := h.evalCounters die counts (List.range 64)
  (h, ev1 ++ ev2)

/-- A clk without arrivals would change the home: an enabled group's arrivals are complete, or an enabled counter's CLR is
set (R280, R287, R291). -/
def Home.restless (h : Home) : Bool :=
  (h.bars.any fun p => p.2.en && (List.range p.2.n.toNat).all fun k => h.hasFlag (p.2.base.toNat + k)) ||
    h.cnts.any fun p => p.2.en && h.hasFlag p.2.clr.toNat

/-- The requests of one clk: a source issues at most one in a clk, so its requests keep their order (R280). -/
def takeBatch (srcs : List Nat) : List FlagReq → List FlagReq × List FlagReq
  | [] => ([], [])
  | q :: qs =>
    if srcs.contains q.src then ([], q :: qs)
    else
      let (b, rest) := takeBatch (q.src :: srcs) qs
      (q :: b, rest)

/-! ### Effects on the rest of the device -/

/-- A wait whose flag holds SENSE ends, even if the flag changes again (R282). -/
def Pilot.latch (p : Pilot) (hold : Nat → Nat → Bool) : Pilot :=
  match p.wait with
  | some w =>
    match w.what with
    | .flag die f sense => if hold die f = sense then { p with wait := some { w with seen := true } } else p
    | .summary _ _ => p
  | none => p

def Ctx.latch (c : Ctx) (hold : Nat → Nat → Bool) : Ctx :=
  match c.await with
  | some (die, f, sense) => if hold die f = sense then { c with seen := true } else c
  | none => c

/-- Every observer sees the flags as they stand now (R282). -/
def Device.latchWaits (d : Device) : Device :=
  let hold := d.flagVal
  { d with pilots := d.pilots.mapAll fun _ p => p.latch hold,
           sus := d.sus.mapAll fun _ s => { s with ctx := s.ctx.mapAll fun _ c => c.latch hold },
           ious := d.ious.mapAll fun _ s =>
             { s with ctx := s.ctx.mapAll fun _ c => c.latch hold } }

/-- Events of a home go out through the pilot of the die's west region; misuse is passed on once per tick per die
(R307). -/
def Device.homeEvents (d : Device) (die : Nat) (evs : List HomeEvent) : Device :=
  evs.foldl (fun d e => d.raiseOnce (2 * die) e.1 (BitVec.ofNat 32 e.2)) d

/-- Applies changes at a home in one clk and shows them to every observer. -/
def Device.applyFlags (d : Device) (die : Nat) (batch : List FlagReq) : Device :=
  let (h, evs) := (d.home die).applyBatch die batch
  ((d.modHome die fun _ => h).homeEvents die evs).latchWaits

/-- A change that the die's message engine makes in its own home. -/
def Device.engineFlag (d : Device) (die f : Nat) (v : Bool) : Device :=
  d.applyFlags die [{ flag := f, value := v, parityOk := true, src := 7100 + die, cmd := none, tid := none }]

/-- A request that fails parity is discarded, recorded and raised, and both regions of the die stop (R307). PLT_STOP.CAUSE
has no code for it: that value is free (log 6). -/
def Device.flagParity (d : Device) (die : Nat) (q : FlagReq) : Device :=
  let d := d.modHome die fun h => { h with misParity := satInc h.misParity }
  let d := d.raise (2 * die) 0x4A (BitVec.ofNat 32 q.flag)
  let d := d.record 13 2 (d.atRegion (2 * die)) (leBytes 2 q.flag ++ leBytes 1 die) (src := 8 + die)
  let (w, d) := d.drawWord
  let c := w.toNat % 16
  let d := d.modPilot (2 * die + 1) fun p => if p.state = 6 then p else p.stop 0xFF 0xFF c
  d.stopRegion (2 * die) 0xFF 0xFF c

/-! ### Commands (R285, R286, R290) -/

/-- FLAG_WRITE (R285). -/
def Device.flagWrite (id : CmdId) (d : Device) : Device :=
  d.runCmd 0x0501 id fun ps d =>
    let die := fieldAt ps 0 1
    let v := fieldAt ps 1 1
    let f := fieldAt ps 2 2
    if 3 < die ∨ 1 < v ∨ 4095 < f then d.complete id Status.badParam
    else if d.comb.state ≠ .active then d.complete id Status.wagState
    else d.flagReq 7000 die f (v = 1) (cmd := some id)

def execFlagWrite (id : CmdId) (s : State) : Host.Outcome State Fault Refusal := s.lift (Device.flagWrite id)

/-- A flag is one of a group's: arrival or release. -/
def Barrier.holds (b : Barrier) (f : Nat) : Bool := b.arrives f || (b.en && b.release.toNat == f)

/-- A flag is the SRC or CLR of an enabled counter. -/
def EvCounter.watches (c : EvCounter) (f : Nat) : Bool := c.en && (c.src.toNat == f || c.clr.toNat == f)

/-- A flag belongs to an enabled group other than `g` or an enabled counter other than `c`, as R286, R290 and R299 say. -/
def Home.flagTaken (h : Home) (g c : Option Nat) (f : Nat) : Bool :=
  ((List.range 64).any fun k => some k != g && (h.bar k).holds f) ||
  ((List.range 64).any fun k => some k != c && (h.counter k).watches f)

/-- Barrier and counter records are accepted while the set is ACTIVE and the tick OFF (R286). -/
def Device.configAllowed (d : Device) : Bool := d.comb.state = .active && d.tick.life = .off

/-- Bits 14:12 of a MISUSE field are reserved. -/
def misuseOk (m : Nat) : Bool := m / 4096 % 8 == 0

/-- BARRIER_CONFIG (R286). -/
def Device.barrierConfig (id : CmdId) (d : Device) : Device :=
  d.runCmd 0x0502 id fun ps d =>
    let die := fieldAt ps 0 1
    let g := fieldAt ps 4 1
    let n := fieldAt ps 5 1
    let base := fieldAt ps 6 2
    let rel := fieldAt ps 8 2
    let mis := fieldAt ps 10 2
    if fieldAt ps 1 3 ≠ 0 ∨ 3 < die then d.complete id Status.badParam
    else if !d.configAllowed then d.complete id Status.wagState
    else
      let h := d.home die
      let bad := 63 < g ∨ 64 < n ∨ 4095 < base ∨ 4095 < rel ∨ !misuseOk mis ∨ 4096 < base + n ∨
        (base ≤ rel ∧ rel < base + n) ∨
        (List.range n).any (fun k => h.flagTaken (some g) none (base + k)) ∨ h.flagTaken (some g) none rel
      if bad then d.complete id Status.wagRange
      else
        let b : Barrier :=
          { en := decide (0 < n), n := BitVec.ofNat 7 n, base := BitVec.ofNat 12 base, release := BitVec.ofNat 12 rel,
            misuseFlag := BitVec.ofNat 16 mis, misuse := 0, rounds := 0 }
        let d := d.modHome die fun h =>
          { h with bars := h.bars.put g b,
                   flags := h.flags.filter fun f => !(decide (base ≤ f ∧ f < base + n) || f == rel) }
        d.latchWaits.complete id Status.ok

def execBarrierConfig (id : CmdId) (s : State) : Host.Outcome State Fault Refusal := s.lift (Device.barrierConfig id)

/-- COUNTER_CONFIG (R290). -/
def Device.counterConfig (id : CmdId) (d : Device) : Device :=
  d.runCmd 0x0503 id fun ps d =>
    let die := fieldAt ps 0 1
    let c := fieldAt ps 4 1
    let en := fieldAt ps 5 1
    let src := fieldAt ps 6 2
    let clr := fieldAt ps 8 2
    let out := fieldAt ps 10 2
    let thr := fieldAt ps 12 2
    let mis := fieldAt ps 14 2
    if fieldAt ps 1 3 ≠ 0 ∨ 3 < die then d.complete id Status.badParam
    else if !d.configAllowed then d.complete id Status.wagState
    else
      let h := d.home die
      let bad := 63 < c ∨ 1 < en ∨ 4095 < src ∨ 4095 < clr ∨ 4095 < out ∨ thr = 0 ∨ !misuseOk mis ∨ src = clr ∨
        src = out ∨ clr = out ∨ h.flagTaken none (some c) src ∨ h.flagTaken none (some c) clr
      if bad then d.complete id Status.wagRange
      else
        let k : EvCounter :=
          { en := en = 1, saturated := false, src := BitVec.ofNat 12 src, clr := BitVec.ofNat 12 clr,
            out := BitVec.ofNat 12 out, thresh := BitVec.ofNat 16 thr, count := 0, misuseFlag := BitVec.ofNat 16 mis }
        let d := d.modHome die fun h =>
          { h with cnts := h.cnts.put c k, flags := h.flags.filter fun f => !(f == src || f == clr || f == out) }
        d.latchWaits.complete id Status.ok

def execCounterConfig (id : CmdId) (s : State) : Host.Outcome State Fault Refusal := s.lift (Device.counterConfig id)

end Sys2Proof.Machine
end

