-- ==== Sys2Proof/Machine/Watch.lean ====
section
/-! DEFINITION. The stall watchdog and the wait watchdog of a region, with their logbook records (R103, R104, R293,
R294, R470). -/

namespace Sys2Proof.Machine

/-! ### Stall snapshot (R104, R470) -/

def UnitKind.code : UnitKind → Nat
  | .mu => 0
  | .sfu => 1
  | .su => 2
  | .iou => 3

def snapshotUnit (d : Device) (u : Nat) : List Byte :=
  let m := d.unit u
  leBytes 1 (siteX u) ++ leBytes 1 (siteY u) ++ leBytes 1 (siteKind u).code ++ leBytes 1 0 ++
    leBytes 4 (if d.usable u then m.starve.toNat else 0) ++ leBytes 4 (if d.usable u then m.block.toNat else 0)

/-- The sideband of an item packed in the order of R68; fields that its network lacks are 0. DESIGN CHOICE (log 25): the
one data parity bit of a scalar word or of a token, which R68 and R470 give no place, stands at bit 12, where PAR_D
begins. -/
def sideband (net : Net) (w : Item) : Nat :=
  let common := w.epoch.toNat + 2 ^ 4 * w.vc.toNat + 2 ^ 7 * natOfBool w.last + 2 ^ 8 * natOfBool w.poison
  match net with
  | .vector => common + 2 ^ 9 * natOfBool w.ovf + 2 ^ 10 * natOfBool w.inv + 2 ^ 11 * natOfBool w.unf +
      2 ^ 12 * w.parD.toNat + 2 ^ 20 * natOfBool w.parS
  | .scalar => common + 2 ^ 12 * (w.parD.toNat % 2) + 2 ^ 20 * natOfBool w.parS
  | .control => w.epoch.toNat + 2 ^ 12 * (w.parD.toNat % 2)

/-- A buffer entry: site, network code, network, port, channel, occupancy, places, head. -/
def bufferEntry (u code : Nat) (net : Net) (port vc occ cap : Nat) (w : Item) : List Byte :=
  leBytes 1 (siteX u) ++ leBytes 1 (siteY u) ++ leBytes 1 code ++ leBytes 1 port ++ leBytes 1 vc ++ leBytes 1 occ ++
    leBytes 1 (cap - occ) ++ leBytes 1 0 ++ leBytes 4 (sideband net w) ++ leBytes 4 0 ++
    leBytes 8 (w.data.toNat % 2 ^ 64)

/-- Places of the buffer at input `port` of a switch. -/
def inputCap (u : Nat) (net : Net) (port : Nat) : Nat :=
  match hop u port with
  | .seam .. => crossCap false net
  | .bridge .. => crossCap true net
  | _ => bufCap

/-- The entries of one site, by network, port and channel (R470). Occupancy counts the hold buffer; the sender's credits
leave out items on their way. DESIGN CHOICE (log 25): the receiving buffer of a tap, for which R470 has no code, is
listed at the site of its IOU as network 3, port 5, after the queues of port 4, for taps of outward ports too. -/
def siteBuffers (d : Device) (u : Nat) : List (List Byte) :=
  let s := d.switch u
  let m := d.unit u
  ([Net.vector, .scalar, .control].flatMap fun net =>
    (List.range 6).flatMap fun port => (List.range 8).flatMap fun vc =>
      let b := s.buf ⟨net, port, vc⟩
      match b.items ++ b.hold with
      | [] => []
      | w :: ws =>
        let occ := ws.length + 1
        [bufferEntry u (netCode net) net port vc occ
          (max occ (inputCap u net port - d.inFlight u port net vc)) w]) ++
  (List.range 6).flatMap fun port => (List.range 8).flatMap fun vc =>
    ([Net.vector, .scalar, .control].flatMap fun net =>
      if port = 4 then
        match m.queue ⟨net, 4, vc⟩ with
        | [] => []
        | w :: ws => [bufferEntry u 3 net 4 vc (ws.length + 1) (unitCap net) w]
      else if port = 5 ∧ net = .vector then
        (List.range 72).flatMap fun k =>
          match m.inq.filter fun p => p.1 == ⟨.vector, 100 + k, vc⟩ with
          | (_, w :: _) :: ws => [bufferEntry u 3 net 5 vc (ws.length + 1) bufCap w]
          | _ => []
      else [])

/-- Sites of the region that hold something. -/
def Device.heldSites (d : Device) (r : Nat) : List Nat :=
  (regionSites r).filter fun u => !(d.switch u).bufs.isEmpty || !(d.unit u).inq.isEmpty

def Device.stallSnapshot (d : Device) (r : Nat) : List Byte :=
  let p := d.pilot r
  let bufs := (d.heldSites r).flatMap (siteBuffers d)
  let m := min bufs.length 2048
  leBytes 8 d.tick.number ++ leBytes 4 p.clkWord.toNat ++ leBytes 1 r ++ leBytes 1 p.comb.toNat ++ leBytes 2 720 ++
    leBytes 2 m ++ leBytes 2 (min (bufs.length - m) 0xFFFF) ++ leBytes 1 p.stallLog2.toNat ++
    List.replicate 11 0 ++ (regionSites r).flatMap (snapshotUnit d) ++ (bufs.take m).flatten

/-- STALL_WATCHDOG (R103, R104): the stall count has reached the limit. -/
def Device.stallWatchdog (r : Nat) (d : Device) : Device :=
  let p := d.pilot r
  if !d.live r ∨ p.stall < 2 ^ p.stallLog2.toNat then d
  else ((d.logEnter r 5 (d.stallSnapshot r)).raiseFree r 0x20).stopRegion r 0xFF 0xFF 1

def execStallWatchdog (r : Region) (s : State) : Host.Outcome State Fault Refusal :=
  s.lift (Device.stallWatchdog r.val)

/-! ### Waits (R293, R294) -/

/-- A wait that the watchdog times: waiter, site or none, the field at 0x12, the summary, the flag and the clk waited. -/
structure TimedWait where
  waiter : Nat
  site : Option Nat
  field : Nat
  sum : Nat
  flag : Option (Nat × Nat)
  clk : Nat
  deriving DecidableEq, Repr

def flagField (die f : Nat) (sense : Bool) : Nat := 0x8000 + 0x4000 * natOfBool sense + 0x1000 * die + f

def PilotWait.timed (w : PilotWait) : TimedWait :=
  match w.what with
  | .flag die f sense =>
    { waiter := 0, site := none, field := flagField die f sense, sum := 0, flag := some (die, f), clk := w.clk }
  | .summary s n => { waiter := 1, site := none, field := n, sum := s, flag := none, clk := w.clk }

def Ctx.timed (c : Ctx) (u : Nat) : List TimedWait :=
  match c.state, c.await with
  | .waiting, some (die, f, sense) =>
    [{ waiter := 2, site := some u, field := flagField die f sense, sum := 0, flag := some (die, f), clk := c.waitClk }]
  | _, _ => []

def Sfu.timed (m : Sfu) (u : Nat) : List TimedWait :=
  m.slots.filterMap fun p =>
    if p.2.closing.isSome || p.2.waitMsg then
      some { waiter := 3, site := some u, field := p.1, sum := 0xFF, flag := none, clk := p.2.waitClk }
    else none

/-- The waits of one site, lowest context or slot first. -/
def Device.siteWaits (d : Device) (u : Nat) : List TimedWait :=
  match siteKind u with
  | .su => (d.su u).ctx.flatMap fun p => p.2.timed u
  | .iou => (d.iou u).ctx.flatMap fun p => p.2.timed u
  | .sfu => (d.sfu u).timed u
  | .mu => []

/-- Every wait in a region: the pilot's first, then by y, then by x (R294). -/
def Device.regionWaits (d : Device) (r : Nat) : List TimedWait :=
  (match (d.pilot r).wait with | some w => [w.timed] | none => []) ++ (regionSites r).flatMap d.siteWaits

/-- LOG2 of the region's wait limit. -/
def Device.waitLog2 (d : Device) (r : Nat) : Nat :=
  let h := d.home (r / 2)
  (if r % 2 = 0 then h.waitLog2W else h.waitLog2E).toNat

/-- The barrier group that holds a flag as arrival or release flag. -/
def Home.groupWith (h : Home) (f : Nat) : Option Nat := (List.range 64).find? fun g => (h.bar g).holds f

def Home.arrived (h : Home) (g : Nat) : Nat :=
  let b := h.bar g
  ((List.range b.n.toNat).filter fun k => h.hasFlag (b.base.toNat + k)).length

/-- The 32-byte wait record. -/
def Device.waitRecord (d : Device) (r : Nat) (w : TimedWait) : List Byte :=
  let p := d.pilot r
  let grp := match w.flag with | some (die, f) => (d.home die).groupWith f | none => none
  let state :=
    match w.flag with
    | some (die, f) => natOfBool (d.flagVal die f)
    | none => w.sum
  let count :=
    match w.flag, grp with
    | some (die, _), some g => (d.home die).arrived g
    | none, _ => if w.waiter = 1 then (p.sums.getD w.sum .reset).count.toNat else 0
    | _, none => 0
  leBytes 8 d.tick.number ++ leBytes 4 p.clkWord.toNat ++ leBytes 1 r ++ leBytes 1 p.comb.toNat ++
    leBytes 1 w.waiter ++ leBytes 1 0 ++
    (match w.site with | some u => leBytes 1 (siteX u) ++ leBytes 1 (siteY u) | none => leBytes 2 0xFFFF) ++
    leBytes 2 w.field ++ leBytes 1 state ++ leBytes 1 (match grp with | some g => g | none => 0xFF) ++
    leBytes 2 count ++ leBytes 8 w.clk

/-- WAIT_WATCHDOG (R294): a wait has reached the limit. -/
def Device.waitWatchdog (r : Nat) (d : Device) : Device :=
  if !d.live r then d
  else
    match (d.regionWaits r).find? fun w => decide (2 ^ d.waitLog2 r ≤ w.clk) with
    | none => d
    | some w =>
      let (x, y) := match w.site with | some u => (siteX u, siteY u) | none => (0xFF, 0xFF)
      ((d.logEnter r 6 (d.waitRecord r w)).raiseFree r 0x21).stopRegion r x y 2

def execWaitWatchdog (r : Region) (s : State) : Host.Outcome State Fault Refusal :=
  s.lift (Device.waitWatchdog r.val)

end Sys2Proof.Machine
end

