-- ==== Sys2Proof/Machine/Streams.lean ====
section
/-! DEFINITION. Storage units and stream descriptors (R237 to R257, R265 to R271): descriptors and contexts, the two
access paths of an SU, bank conflicts, and the packing queues of the IOUs. What an IOU moves through Vexlink is in
Txn.lean and Iou.lean. -/

namespace Sys2Proof.Machine

/-! ### Descriptors (R247, R248) -/

structure Desc where
  kind : Nat
  dims : Nat
  esize : Nat
  vc : Nat
  lastRun : Bool
  tag : Bool
  csrc : Bool
  waitClr : Bool
  carry : Bool
  done : Option (Nat × Nat)
  wait : Option (Nat × Nat × Bool)
  next : Option (Bool × Nat)
  dest : Nat
  start : Nat
  shape : List (Nat × Int)
  sreg : Nat
  deriving DecidableEq, Repr

/-- A signed 32-bit field. -/
def int32At (bs : List Byte) (off : Nat) : Int := (BitVec.ofNat 32 (fieldAt bs off 4)).toInt

def Desc.parse (bs : List Byte) : Desc :=
  let shape := fieldAt bs 1 1
  let opts := fieldAt bs 2 1
  let mode := fieldAt bs 3 1
  let done := fieldAt bs 4 2
  let wait := fieldAt bs 6 2
  let next := fieldAt bs 8 4
  { kind := fieldAt bs 0 1, dims := shape % 8, esize := bitsNat shape 5 4, vc := opts % 8, lastRun := opts.testBit 3,
    tag := opts.testBit 4, csrc := opts.testBit 5, waitClr := mode.testBit 0, carry := mode.testBit 1,
    done := if done.testBit 15 then some (bitsNat done 13 12, done % 4096) else none,
    wait := if wait.testBit 15 then some (bitsNat wait 13 12, wait % 4096, wait.testBit 14) else none,
    next := if next.testBit 31 then some (next.testBit 30, next % 65536) else none,
    dest := fieldAt bs 0x0C 4, start := fieldAt bs 0x10 8,
    shape := (List.range (shape % 8)).map fun k => (fieldAt bs (0x30 + 2 * k) 2, int32At bs (0x18 + 4 * k)),
    sreg := fieldAt bs 0x3C 1 % 64 }

def Desc.elemBytes (d : Desc) : Nat := match d.esize with | 1 => 8 | 2 => 16 | _ => 64

/-- A reserved encoding, a non-zero reserved field, or a shape that R256 refuses. -/
def descBad (bs : List Byte) (su : Bool) : Bool :=
  let d := Desc.parse bs
  let shape := fieldAt bs 1 1
  d.kind == 0 || decide (4 < d.kind) || d.dims == 0 || decide (6 < d.dims) || d.esize == 3 || shape.testBit 3 ||
  decide (1 < bitsNat shape 7 6) || bitsNat shape 7 6 == 1 || bitsNat (fieldAt bs 2 1) 7 6 != 0 ||
  bitsNat (fieldAt bs 3 1) 7 2 != 0 || (fieldAt bs 4 2).testBit 14 || bitsNat (fieldAt bs 8 4) 29 16 != 0 ||
  decide (63 < fieldAt bs 0x3C 1) || fieldAt bs 0x3D 3 != 0 || (d.kind != 3 && d.dest != 0) ||
  (List.range 6).any (fun k =>
    let c := fieldAt bs (0x30 + 2 * k) 2
    if k < d.dims then c == 0 else c != 0 || int32At bs (0x18 + 4 * k) != 0) ||
  (if su then
     d.tag || d.carry || d.esize != 0 || d.start % 64 != 0 || decide (2 ^ 22 ≤ d.start) || d.dest % 64 != 0 ||
       d.shape.any (fun p => p.2 % 64 != 0) ||
       (d.kind == 4 && (d.dims != 1 || d.shape.any fun p => p.2 != 64))
   else decide (2 < d.kind) || (fieldAt bs 8 4).testBit 30 || (d.carry && d.next.isSome) ||
     (d.kind == 2 && d.esize != 0 && (d.dims != 1 || d.shape.any fun p => p.2 != d.elemBytes)))

/-- Offset of element `k` from START (R248). -/
def elemOffset : List (Nat × Int) → Nat → Int
  | [], _ => 0
  | [(_, s)], k => k * s
  | (c, s) :: rest, k => (k % c : Nat) * s + elemOffset rest (k / c)

def Desc.addr (d : Desc) (k : Nat) : Int := d.start + elemOffset d.shape k

/-- Elements moved with outer count `n` (R248). -/
def Desc.elements (d : Desc) (n : Nat) : Nat := (d.shape.dropLast.map (·.1)).foldl (· * ·) n

def Desc.outer (d : Desc) : Nat := match d.shape.getLast? with | some p => p.1 | none => 0

/-- The element ends a run of dimension 0 (R250). -/
def Desc.runEnd (d : Desc) (k : Nat) : Bool :=
  match d.shape with
  | (c, _) :: _ :: _ => k % c + 1 == c
  | _ => false

/-- Lowest and highest byte address with outer count `n` (R257). -/
def Desc.extent (d : Desc) (n : Nat) : Int × Int :=
  let cs := d.shape.dropLast ++ (match d.shape.getLast? with | some p => [(n, p.2)] | none => [])
  (cs.foldl (fun a p => a + min 0 (((p.1 : Int) - 1) * p.2)) d.start,
   cs.foldl (fun a p => a + max 0 (((p.1 : Int) - 1) * p.2)) d.start + d.elemBytes - 1)

/-! ### The unit section (R251) -/

def Device.section (d : Device) (u : Nat) : List Byte := unitSection (d.switch u).active.image
def secNdesc (sec : List Byte) : Nat := fieldAt sec 4 1
def secNwin (sec : List Byte) : Nat := fieldAt sec 5 1
def secDesc (sec : List Byte) (k : Nat) : List Byte := sliceAt sec (0x80 + 64 * k) 64
def secWindow (sec : List Byte) (w : Nat) : List Byte := sliceAt sec (0x80 + 64 * secNdesc sec + 16 * w) 16
def ctxEnabled (sec : List Byte) (c : Nat) : Bool := (fieldAt sec (8 + 2 * c) 1).testBit 0
def ctxFirst (sec : List Byte) (c : Nat) : Nat := fieldAt sec (9 + 2 * c) 1

/-! ### Contexts of SUs and IOUs -/

def Device.ctx (d : Device) (u c : Nat) : Ctx :=
  match siteKind u with
  | .su => (d.su u).ctx.getD c .reset
  | _ => (d.iou u).ctx.getD c .reset

def Device.modCtx (d : Device) (u c : Nat) (f : Ctx → Ctx) : Device :=
  match siteKind u with
  | .su => d.modSu u fun s => { s with ctx := s.ctx.upd c .reset f }
  | _ => d.modIou u fun s => { s with ctx := s.ctx.upd c .reset f }

def Ctx.d (c : Ctx) : Desc := Desc.parse c.bytes

def Ctx.runs (c : Ctx) (kind : Nat) : Bool := c.state == .running && c.d.kind == kind

/-- The streams of site `u` run: it is an SU or IOU in a live region of an active set, and has not faulted. Before the
region's first clk of a comb only carried descriptors of an IOU run (R51, R266). -/
def Device.streams (d : Device) (u : Nat) : Bool :=
  d.live (siteRegion u) && d.comb.state == .active &&
  (match siteKind u with
   | .su => d.usable u && (d.su u).state != 3 && !(d.pilot (siteRegion u)).idleUntilStrike
   | .iou => (d.iou u).state != 3
   | _ => false)

/-- A context that a command names: itself, or a descriptor carried from it (R266). -/
def Device.ctxKeys (d : Device) (u c : Nat) : List Nat :=
  match siteKind u with
  | .iou =>
    (if (d.pilot (siteRegion u)).idleUntilStrike then [] else [c]) ++
      (((d.iou u).ctx.map (·.1)).filter fun k => 8 ≤ k && k % 8 == c)
  | _ => [c]

/-! ### Faults (R257, R450) -/

/-- A unit fault: the record, the event with an ARG that is not stated (log 6), and the stop of the region. -/
def Device.unitFault (d : Device) (u event reason : Nat) (lo hi : Nat) : Device :=
  let d := d.record 15 2 (d.atSite u) (leBytes 2 event ++ leBytes 1 reason ++ leBytes 1 0 ++ leBytes 4 lo ++ leBytes 4 hi)
  (d.raiseFree (siteRegion u) event).stopRegion (siteRegion u) (siteX u) (siteY u) 7

/-- A value as the FAULT registers hold it: two's complement. -/
def faultWord (v : Int) : Nat := (BitVec.ofInt 64 v).toNat

def Device.streamFault (d : Device) (u c code reason event : Nat) (value : Int) : Device :=
  let v := faultWord value
  let desc := (d.ctx u c).desc
  let d := d.modCtx u c fun x => { x with state := .faulted }
  let d :=
    match siteKind u with
    | .su => d.modSu u fun s =>
      { s with state := 3, faultCode := BitVec.ofNat 4 code, faultReason := BitVec.ofNat 4 reason,
               faultCtx := BitVec.ofNat 3 c, faultDesc := BitVec.ofNat 16 desc, faultValue := BitVec.ofNat 32 v }
    | _ => d.modIou u fun s =>
      { s with state := 3, faultCode := BitVec.ofNat 4 code, faultReason := BitVec.ofNat 4 reason,
               faultCtx := BitVec.ofNat 3 c, faultDesc := BitVec.ofNat 16 desc, faultLo := BitVec.ofNat 32 v,
               faultHi := BitVec.ofNat 32 (v / 2 ^ 32) }
  d.unitFault u event reason (v % 2 ^ 32) (match siteKind u with | .iou => v / 2 ^ 32 | _ => 0xFFFFFFFF)

/-! ### Taking up and completing descriptors (R248, R252, R257) -/

/-- First and last byte address of the space a unit's descriptors move in (R257, R315, R380). -/
def spaceOf (u : Nat) : Int × Int :=
  match siteDuty u with
  | none => (0, 2 ^ 22 - 1)
  | some (.hbm s) => (s * stackBytes, (s + 1) * stackBytes - 1)
  | some .hub => (0x9000, 0x7FFFFF)
  | some _ => (-2 ^ 65, 2 ^ 65)

/-- The reason code of BUF_OVERRUN is 1 READ, 2 WRITE or LAND, 3 COPY source. -/
def overrunReason (kind : Nat) : Nat := if kind = 4 then 2 else kind

/-- The start of a descriptor: CSRC and the extent are checked now. -/
def Device.startDesc (d : Device) (u c : Nat) : Device :=
  let x := (d.ctx u c).d
  let n := if x.csrc then (d.shapeReg u x.sreg).toNat else x.outer
  if x.outer < n then d.streamFault u c 3 5 0x28 n
  else
    let (lo, hi) := x.extent n
    let (first, last) := spaceOf u
    let total := x.elements n
    if n ≠ 0 ∧ (lo < first ∨ last < hi) then
      d.streamFault u c 2 (overrunReason x.kind) 0x27 (if lo < first then lo else hi)
    else if n ≠ 0 ∧ x.kind = 3 ∧ last < x.dest + 64 * total - 1 then d.streamFault u c 2 4 0x27 (x.dest + 64 * total - 1)
    else
      d.modCtx u c fun k =>
        { k with state := .running, total := total, moved := 0, elems := 0, await := none, seen := false, waitClk := 0,
                 finish := false, lastSent := false, part := [], copyPipe := [], readAt := 0, land := none, credit := 0,
                 reason := 0, group := none, asked := 0, half := [] }

/-- A context takes up its next descriptor (DESCRIPTOR_START). -/
def Device.takeUp (d : Device) (u c : Nat) : Device :=
  let d := d.modCtx u c fun k => if k.inSram then k else { k with bytes := secDesc (d.section u) k.desc }
  match (d.ctx u c).d.wait with
  | some (die, f, sense) =>
    d.modCtx u c fun k =>
      { k with state := .waiting, await := some (die, f, sense), seen := d.flagVal die f == sense, waitClk := 0,
               moved := 0, total := 0, elems := 0 }
  | none => d.startDesc u c

def Device.descriptorStart (u c : Nat) (d : Device) : Device :=
  if d.streams u && d.started (siteRegion u) && (d.ctx u c).state == .between then d.takeUp u c else d

def execDescriptorStart (u : SiteIx) (c : Fin 8) (s : State) : Host.Outcome State Fault Refusal :=
  s.lift (Device.descriptorStart u.val c.val)

/-- DESCRIPTOR_WAIT_END (R252): the wait ends; WAIT_CLR writes the flag to the opposite of SENSE in that clk. -/
def Device.descriptorWaitEnd (u c : Nat) (d : Device) : Device :=
  if !d.streams u then d
  else
    match (d.ctxKeys u c).find? fun k => (d.ctx u k).state == .waiting && (d.ctx u k).seen with
    | none => d
    | some k =>
      let x := (d.ctx u k).d
      let d :=
        match x.wait with
        | some (die, f, sense) => if x.waitClr then d.flagReq u die f !sense else d
        | none => d
      d.startDesc u k

def execDescriptorWaitEnd (u : SiteIx) (c : Fin 8) (s : State) : Host.Outcome State Fault Refusal :=
  s.lift (Device.descriptorWaitEnd u.val c.val)

/-- A descriptor completes: DONE_FLAG is set and NEXT follows, or the chain ends. A carried descriptor leaves its
table. -/
def Device.completeDesc (d : Device) (u c : Nat) : Device :=
  let x := (d.ctx u c).d
  let d := match x.done with | some (die, f) => d.flagReq u die f true | none => d
  let d := d.progress (siteRegion u)
  if 8 ≤ c then d.modIou u fun s => { s with ctx := s.ctx.del c }
  else
    match x.next with
    | some (sram, k) =>
      d.modCtx u c fun n =>
        { n with state := if sram then .fetching else .between, inSram := sram, desc := k, await := none, seen := false,
                 elems := 0, finish := false, land := none, copyPipe := [], part := [] }
    | none => d.modCtx u c fun n => { n with state := .ended, await := none, finish := false, land := none }

/-! ### Rows of an SU (R238, R239, R243, R246) -/

/-- A row as reads of this clk see it (R243). -/
def Su.rowNow (s : Su) (row : Nat) : List Byte × Option RowMark :=
  match s.before.find row with
  | some x => x
  | none => (s.sram.bytes (64 * row) 64, s.sram.mark row)

/-- A read through the correction stage: bytes, and whether the row is poisoned or uncorrectable. -/
def Su.read (s : Su) (row : Nat) : List Byte × Bool × Su :=
  let (bs, k) := s.rowNow row
  match k with
  | none => (bs, false, s)
  | some .correctable => (bs, false, { s with errCorr := satInc s.errCorr })
  | some .uncorrectable => (bs, true, { s with errUncorr := satInc s.errUncorr })
  | some .poison => (bs, true, s)

/-- A program's write of part of a row: the stored row is remembered for this clk's reads, and a scrub write-back of
the row is dropped (R274). -/
def Su.writePart (s : Su) (row off : Nat) (bs : List Byte) (poison : Bool) : Su :=
  { s with sram := s.sram.writeRow row off bs poison,
           before := if (s.before.find row).isSome then s.before else s.before.put row (s.rowNow row),
           scrubBack := if s.scrubBack = some row then none else s.scrubBack }

def Su.write (s : Su) (row : Nat) (bs : List Byte) (poison : Bool) : Su := s.writePart row 0 bs poison

/-- A poisoned row was read: counted and raised once per tick (R246). -/
def Device.suPoison (d : Device) (u : Nat) : Device :=
  (d.modSu u fun s => { s with poisonReads := satInc s.poisonReads }).raiseOnceFree (siteRegion u) 0x41

/-- A bank conflict (R245). -/
def Device.bankConflict (d : Device) (u bank : Nat) (write : Bool) : Device :=
  let p := d.pilot (siteRegion u)
  let d := d.modSu u fun s =>
    { s with conflict := satInc s.conflict, confComb := p.comb, confBank := BitVec.ofNat 4 bank, confWrite := write,
             confClk := p.clkWord }
  (d.record 1 1 (d.atSite u) (leBytes 1 bank ++ leBytes 1 (natOfBool write))).raiseOnceFree (siteRegion u) 0x40

/-! ### Path A (R242) -/

/-- The unit holds a credit for a channel of its switch's L buffer (R71). -/
def Device.credit (d : Device) (u : Nat) (net : Net) (vc : Nat) : Bool :=
  !((d.unit u).out.any fun p => p.1 == net && p.2.vc.toNat == vc) &&
  decide (((d.switch u).buf ⟨net, 4, vc⟩).items.length < bufCap)

/-- A READ context of an SU that could read in this clk. -/
def Device.canRead (d : Device) (u c : Nat) : Bool :=
  let k := d.ctx u c
  k.runs 1 && decide (k.moved < k.total) && d.credit u .vector k.d.vc

/-- Every later step of a path B stream moves one clk later than clk `t` (R244): the writes of the rows that it has
read, and its next read. DEDUCED: a step is later where it comes later in time. -/
def Ctx.delay (k : Ctx) (t : Nat) : Ctx :=
  { k with copyPipe := k.copyPipe.map fun p => (p.1 + 1, p.2), readAt := t + 1 }

/-- An SU that has not made a read of a row with this mark. -/
def Su.unread (s : Su) (mark : Option RowMark) : Su :=
  match mark with
  | none => s
  | some .correctable => { s with errCorr := s.errCorr - 1 }
  | some .uncorrectable => { s with errUncorr := s.errUncorr - 1, poisonReads := s.poisonReads - 1 }
  | some .poison => { s with poisonReads := s.poisonReads - 1 }

/-- Path A takes the bank that path B has read in this clk: the access of path B moves one clk later (R244). -/
def Device.undoCopyRead (d : Device) (u : Nat) : Device :=
  match (d.su u).copyReader with
  | none => d
  | some c =>
    let k := d.ctx u c
    let t := (d.pilot (siteRegion u)).combClk
    let d := d.modSu u fun s => { s with copyReader := none }
    if k.state = .between then
      (d.modSu u fun s => { s with errCorr := if s.sram.mark k.desc = some .correctable then s.errCorr - 1 else s.errCorr }).modCtx
        u c fun k => { k with state := .fetching }
    else if k.runs 3 then
      let row := (k.d.addr (k.moved - 1)).toNat / 64
      (d.modSu u fun s => s.unread (s.rowNow row).2).modCtx u c fun k =>
        { k with moved := k.moved - 1, elems := k.elems - 1, copyPipe := k.copyPipe.dropLast }.delay t
    else d

/-- Path A takes the bank that path B has written in this clk: the write and the later steps of its stream move one clk
later, and the row is as it was (R244). -/
def Device.undoCopyWrite (d : Device) (u : Nat) : Device :=
  match (d.su u).copyWrite, (d.su u).copyWas with
  | some row, some w =>
    if (d.ctx u w.ctx).runs 3 then
      let t := (d.pilot (siteRegion u)).combClk
      let d := d.modSu u fun s =>
        { s with sram := (s.sram.writeRow row 0 w.oldBytes false).setMark row w.oldMark, copyWrite := none, copyWas := none }
      let d := if (d.su u).copyReader = some w.ctx then d.undoCopyRead u else d
      d.modCtx u w.ctx fun k => { k with copyPipe := (w.due, row, w.bytes, w.poison) :: k.copyPipe }.delay t
    else d
  | _, _ => d

/-- STREAM_READ of an SU: the lowest-numbered running READ context that holds a credit reads one row. -/
def Device.suRead (d : Device) (u c : Nat) : Device :=
  if (List.range 8).find? (d.canRead u) ≠ some c ∨ (d.su u).bankRead.isSome then d
  else
    let k := d.ctx u c
    let x := k.d
    let row := (x.addr k.moved).toNat / 64
    let d := if (d.su u).copyRead = some (row % 16) then (d.bankConflict u (row % 16) false).undoCopyRead u else d
    let (bs, bad, s) := (d.su u).read row
    let d := d.modSu u fun _ => { s with bankRead := some (row % 16) }
    let d := if bad then d.suPoison u else d
    let last := k.moved + 1 == k.total || (x.lastRun && x.runEnd k.moved) || k.finish
    let r := siteRegion u
    let d := d.unitSend u .vector (Item.make .vector (le bs) (d.combOf r) x.vc last bad)
    (d.modCtx u c fun k =>
      { k with moved := k.moved + 1, elems := satInc k.elems, total := if k.finish then k.moved + 1 else k.total,
               lastSent := (d.unit u).run.getD x.vc 0 == 0 }).progress r

/-- A WRITE or LAND context whose channel has a head word. -/
def Device.canWrite (d : Device) (u c : Nat) : Bool :=
  let k := d.ctx u c
  ((k.runs 2 && decide (k.moved < k.total)) || k.runs 4) && !((d.unit u).queue ⟨.vector, 4, k.d.vc⟩).isEmpty

/-- Path A writes a row. A write of path B in the same bank and clk moves one clk later, so the same row ends with path
B's data (R244). A poisoned word raises SU_POISON (R246). -/
def Device.pathAWrite (d : Device) (u row : Nat) (bs : List Byte) (poison : Bool) : Device :=
  let clash := (d.su u).copyWrite.any fun q => q % 16 == row % 16
  let d := if clash then (d.bankConflict u (row % 16) true).undoCopyWrite u else d
  let d := if poison then d.raiseOnceFree (siteRegion u) 0x41 else d
  d.modSu u fun s =>
    { (if s.copyWrite = some row then s else s.write row bs poison) with bankWrite := some (row % 16) }

/-- The head word of an SU's input queue leaves it. -/
def Device.popUnit (d : Device) (u : Nat) (k : BufKey) : Device :=
  (d.modUnit u fun m => m.setQueue k ((m.queue k).drop 1)).progress (siteRegion u)

/-- STREAM_WRITE (R242, R249): the lowest-numbered WRITE or LAND context with a head word writes it. -/
def Device.streamWrite (u c : Nat) (d : Device) : Device :=
  if !d.streams u || siteKind u != .su || (d.su u).bankWrite.isSome ||
      (List.range 8).find? (d.canWrite u) != some c || !(d.ctx u c).runs 2 then d
  else
    let k := d.ctx u c
    let x := k.d
    let q : BufKey := ⟨.vector, 4, x.vc⟩
    match (d.unit u).queue q with
    | [] => d
    | w :: _ =>
      let d := (d.pathAWrite u ((x.addr k.moved).toNat / 64) w.bytes w.poison).popUnit u q
      d.modCtx u c fun k =>
        { k with moved := k.moved + 1, elems := satInc k.elems,
                 total := if k.finish && w.last then k.moved + 1 else k.total }

def execStreamWrite (u : SiteIx) (c : Fin 8) (s : State) : Host.Outcome State Fault Refusal :=
  s.lift (Device.streamWrite u.val c.val)

/-! ### Path B (R241, R242, R244) -/

/-- A COPY context with a row due to be written. -/
def Device.copyDue (d : Device) (u c : Nat) : Bool :=
  match (d.ctx u c).copyPipe with
  | (t, _) :: _ => decide (t ≤ (d.pilot (siteRegion u)).combClk)
  | [] => false

/-- The due row of a COPY context is written. -/
def Device.copyWriteRow (d : Device) (u c : Nat) : Device :=
  match (d.ctx u c).copyPipe with
  | [] => d
  | (due, row, bs, bad) :: rest =>
    let t := (d.pilot (siteRegion u)).combClk
    if (d.su u).copyWrite.isSome ∨ (List.range c).any (d.copyDue u) then
      (d.modSu u fun s => { s with lostB := true }).modCtx u c (·.delay t)
    else if (d.su u).bankWrite = some (row % 16) then (d.bankConflict u (row % 16) true).modCtx u c (·.delay t)
    else
      ((d.modSu u fun s =>
          { s.write row bs bad with
            copyWrite := some row,
            copyWas := some { ctx := c, due := due, bytes := bs, poison := bad, oldBytes := s.sram.bytes (64 * row) 64,
                              oldMark := s.sram.mark row } }).modCtx u c fun k =>
        { k with copyPipe := rest }).progress (siteRegion u)

/-- A COPY context with a row to read in this clk. -/
def Device.copyWants (d : Device) (u c : Nat) : Bool :=
  let k := d.ctx u c
  k.runs 3 && decide (k.moved < k.total) && decide (k.readAt ≤ (d.pilot (siteRegion u)).combClk)

/-- A descriptor fetch, or the read of a COPY, has waited in this clk for another access of path B (R242). -/
def Device.pathBWaits (d : Device) (u : Nat) : Bool :=
  let s := d.su u
  let want := (List.range 8).filter fun c => (d.ctx u c).state == .fetching || d.copyWants u c
  s.lostB || (want.any (fun c => s.copyReader != some c) && (s.copyReader.isSome || decide (1 < want.length)))

/-- The next row of a COPY context is read, to be written 4 clk later. -/
def Device.copyReadRow (d : Device) (u c : Nat) : Device :=
  let s := d.su u
  if !d.copyWants u c || s.copyRead.isSome || (List.range c).any (d.copyWants u) ||
      (List.range 8).any (fun k => (d.ctx u k).state == .fetching) then d
  else
    let k := d.ctx u c
    let x := k.d
    let row := (x.addr k.moved).toNat / 64
    let t := (d.pilot (siteRegion u)).combClk
    if s.bankRead = some (row % 16) then (d.bankConflict u (row % 16) false).modCtx u c (·.delay t)
    else
      let (bs, bad, s) := s.read row
      let d := d.modSu u fun _ => { s with copyRead := some (row % 16), copyReader := some c }
      let d := if bad then d.suPoison u else d
      let due := t + 4
      (d.modCtx u c fun k =>
        { k with moved := k.moved + 1, elems := satInc k.elems,
                 copyPipe := k.copyPipe ++ [(due, x.dest / 64 + k.moved, bs, bad)] }).progress (siteRegion u)

/-- STREAM_COPY (R241): one clk of a COPY context on path B, the write that is due and the next read. -/
def Device.streamCopy (u c : Nat) (d : Device) : Device :=
  if !d.streams u || siteKind u != .su || !(d.ctx u c).runs 3 then d
  else
    let d := if d.copyDue u c then d.copyWriteRow u c else d
    d.copyReadRow u c

def execStreamCopy (u : SiteIx) (c : Fin 8) (s : State) : Host.Outcome State Fault Refusal :=
  s.lift (Device.streamCopy u.val c.val)

/-- DESCRIPTOR_FETCH (R241, R257): a descriptor from SRAM, read on path B, is checked. -/
def Device.descriptorFetch (u c : Nat) (d : Device) : Device :=
  let k := d.ctx u c
  if !d.streams u || siteKind u != .su || k.state != .fetching || (d.su u).copyRead.isSome then d
  else
    let bank := k.desc % 16
    if (d.su u).bankRead = some bank then d.bankConflict u bank false
    else
      let (bs, bad, s) := (d.su u).read k.desc
      let d := d.modSu u fun _ => { s with copyRead := some bank, copyReader := some c }
      if bad then d.streamFault u c 5 2 0x43 k.desc
      else if descBad bs true then d.streamFault u c 5 1 0x43 k.desc
      else if ((Desc.parse bs).next.any fun n => !n.1 && decide (secNdesc (d.section u) ≤ n.2)) then
        d.streamFault u c 5 3 0x43 k.desc
      else d.modCtx u c fun k => { k with state := .between, bytes := bs }

def execDescriptorFetch (u : SiteIx) (c : Fin 8) (s : State) : Host.Outcome State Fault Refusal :=
  s.lift (Device.descriptorFetch u.val c.val)

/-! ### Packing queues (R267 to R271) -/

def PackQueue.size (q : PackQueue) : Nat := q.closed.length + (if q.openWord.isSome then 1 else 0)

def packCap : Nat := 32

/-- The write side accepts a word, or a narrow write, which goes into the open word where there is one (R267, R268). -/
def PackQueue.room (q : PackQueue) (narrow : Bool) : Bool :=
  decide (q.size < packCap) || (narrow && q.openWord.isSome && decide (q.size ≤ packCap))

/-- A whole 64-byte word closes as it arrives. -/
def PackQueue.word (q : PackQueue) (w : PackWord) : PackQueue := { q with closed := q.closed ++ [w] }

/-- Closes the open word with its count; a flush that finds none emits a zero word only under TAG (R269, R270). -/
def PackQueue.flush (q : PackQueue) (tag last : Bool) (ctx : Nat) : PackQueue :=
  match q.openWord with
  | some w =>
    { q with closed := q.closed ++ [{ w with last := last, tag := tag }], openWord := none,
             lastCount := BitVec.ofNat 7 w.count }
  | none =>
    if tag then
      { q with closed := q.closed ++
          [{ bytes := [], count := 0, last := last, tag := true, poison := false, parityOk := true, ctx := ctx, address := 0 }],
               lastCount := 0 }
    else q

/-- A narrow write at the lowest byte not yet filled; the word closes at 64 bytes (R268). -/
def PackQueue.narrow (q : PackQueue) (bs : List Byte) (poison : Bool) (ctx address : Nat) : PackQueue :=
  let w : PackWord :=
    match q.openWord with
    | some w => w
    | none => { bytes := [], count := 0, last := false, tag := false, poison := false, parityOk := true, ctx := ctx, address := address }
  let w := { w with bytes := w.bytes ++ bs, count := w.count + bs.length, poison := w.poison || poison }
  if 64 ≤ w.count then { q with closed := q.closed ++ [w], openWord := none } else { q with openWord := some w }

def Iou.outq (s : Iou) (v : Nat) : PackQueue := s.outQ.getD v .reset
def Iou.inqueue (s : Iou) (v : Nat) : PackQueue := s.inQ.getD v .reset
def Device.modOutQ (d : Device) (u v : Nat) (f : PackQueue → PackQueue) : Device :=
  d.modIou u fun s => { s with outQ := s.outQ.upd v .reset f }
def Device.modInQ (d : Device) (u v : Nat) (f : PackQueue → PackQueue) : Device :=
  d.modIou u fun s => { s with inQ := s.inQ.upd v .reset f }

/-- The running WRITE context that takes words of a channel: the lowest-numbered (R242). -/
def Device.writerOf (d : Device) (u v : Nat) : Option Nat :=
  (((d.iou u).ctx.filter fun p => p.2.runs 2 && decide (p.2.moved < p.2.total) && p.2.d.vc == v).map (·.1)).head?

/-- The next word that an IOU has received on a network and channel, from its L port or its taps, and the rest. -/
def Unit.nextIn (m : Unit) (net : Net) (v : Nat) : Option (Item × Unit) :=
  match m.inq.find? fun p => p.1.net == net && p.1.vc == v && (p.1.port == 4 || 100 ≤ p.1.port) with
  | some (k, w :: ws) =>
    if k.port = 4 then some (w, m.setQueue k ws)
    else (takeFirst (fun p : BufKey × List Item => p.1 == k) m.inq).map fun r => (w, { m with inq := r.2 })
  | _ => none

/-- One write of the grid side of a queue, for context `c` of a WRITE (R265, R268, R269). -/
def Device.packOne (d : Device) (u v c : Nat) (w : Item) : Device :=
  let k := d.ctx u c
  let x := k.d
  let addr := (x.addr k.moved).toNat
  let final := k.moved + 1 == k.total
  if x.esize = 0 then
    let d := d.modOutQ u v fun q =>
      let q := q.word { bytes := w.bytes, count := 64, last := w.last, tag := false, poison := w.poison, parityOk := true,
                        ctx := c, address := addr }
      let q := { q with inPacket := !w.last }
      if final || (w.last && (x.lastRun || k.finish)) then q.flush x.tag true c else q
    d.modCtx u c fun k =>
      { k with moved := k.moved + 1, elems := satInc k.elems, total := if k.finish && w.last then k.moved + 1 else k.total }
  else
    let part := k.part ++ leBytes 4 w.data.toNat
    let flushing := w.last && (x.lastRun || k.finish)
    let full := decide (x.elemBytes ≤ part.length)
    let done := full || flushing
    let d := d.modOutQ u v fun q =>
      let q := if done then q.narrow part w.poison c addr
               else { q with openWord := q.openWord.map fun o => { o with poison := o.poison || w.poison } }
      let q := { q with inPacket := !w.last }
      if (done && final) || flushing then q.flush x.tag true c else q
    d.modCtx u c fun k =>
      { k with part := if done then [] else part, moved := if done then k.moved + 1 else k.moved,
               elems := if done then satInc k.elems else k.elems,
               total := if k.finish && w.last then (if done then k.moved + 1 else k.moved) else k.total }

/-- PACKING_WRITE (R268): a word or scalar word enters the queue towards the outside. -/
def Device.packingWrite (u v : Nat) (d : Device) : Device :=
  if !d.streams u || siteKind u != .iou then d
  else
    match d.writerOf u v with
    | none => d
    | some c =>
      let net : Net := if (d.ctx u c).d.esize = 0 then .vector else .scalar
      match (d.unit u).nextIn net v with
      | none => d
      | some (w, m) =>
        if !((d.iou u).outq v).room (net == .scalar) then d
        else (((d.modUnit u fun _ => m).packOne u v c w)).progress (siteRegion u)

def execPackingWrite (u : SiteIx) (v : Fin 8) (s : State) : Host.Outcome State Fault Refusal :=
  s.lift (Device.packingWrite u.val v.val)

/-- LAST is set on the latest closed word (R250). -/
def PackQueue.endWord (q : PackQueue) : PackQueue :=
  { q with closed := q.closed.dropLast ++ (q.closed.getLast?.map fun w => { w with last := true }).toList }

/-- An element that has come from the outside enters the queue towards the grid (R265, R267). LAST falls on the word that
holds the last element. DEDUCED: where that word is full and TAG is set, the flush, which finds no open word, emits a zero
word (R270), and it carries LAST too, as a packet of its own. -/
def Device.packIn (d : Device) (u c : Nat) (bs : List Byte) (last poison : Bool) : Device :=
  let x := (d.ctx u c).d
  d.modInQ u x.vc fun q =>
    if x.esize = 0 then
      q.word { bytes := bs, count := 64, last := last, tag := false, poison := poison, parityOk := true, ctx := c, address := 0 }
    else
      let q := q.narrow bs poison c 0
      if last then
        match q.openWord with
        | some _ => q.flush x.tag true c
        | none => if x.tag then q.endWord.flush true true c else q.endWord
      else q

/-- The parity check of the read side (R271). -/
def Device.checkPack (d : Device) (u : Nat) (w : PackWord) : PackWord × Device :=
  if w.parityOk then (w, d)
  else
    ({ w with poison := true },
      (d.modIou u fun s => { s with parity := satInc s.parity }).raiseOnceFree (siteRegion u) 0x44)

/-! ### Words of an IOU into the grid (R88, R250, R266) -/

/-- The tap ports that an HBM IOU serves: switch site and port code (R311). -/
def tapsOf (u : Nat) : List (Nat × Nat) :=
  let d := siteDie u
  ((List.range 36).flatMap fun x =>
    (if tapIou d x false = some u then [(siteOf d x (tapRow d), tapOut d)] else []) ++
    (if tapIou d x true = some u then [(siteOf d x (tapRow d), 5)] else []))

/-- The switch input by which a word of an IOU enters the grid on a channel: its own L port, or for an HBM IOU the first
served tap port whose switch routes that channel in its active bank (log 17). -/
def Device.gridPort (d : Device) (u v : Nat) : Nat × Nat :=
  match siteDuty u with
  | some (.hbm _) =>
    match (tapsOf u).find? fun p =>
      let s := d.switch p.1
      (routesOf s.active.image .vector).any fun e => e.bank == natOfBool s.bank && e.uses p.2 v with
    | some p => p
    | none => (u, 4)
  | _ => (u, 4)

/-- The grid side has room for a word on a channel. -/
def Device.gridRoom (d : Device) (u v : Nat) : Bool :=
  let (s, p) := d.gridPort u v
  if p = 4 then d.credit u .vector v else decide (((d.switch s).buf ⟨.vector, p, v⟩).items.length < bufCap)

/-- A vector word of an IOU enters the grid, stamped with the comb active now (R61). -/
def Device.gridSend (d : Device) (u v : Nat) (w : PackWord) : Device :=
  let r := siteRegion u
  let (s, p) := d.gridPort u v
  let item := Item.make .vector (le w.bytes) (d.combOf r) v w.last w.poison
  if p = 4 then d.unitSend u .vector item
  else
    let m := { d.unit u with out := [] }.send .vector item
    let d := d.modUnit u fun n => { n with run := m.run }
    (m.out.map (·.2)).foldl (fun d i =>
      d.modSwitch s fun t => let b := t.buf ⟨.vector, p, v⟩; t.setBuf ⟨.vector, p, v⟩ { b with items := b.items ++ [i] }) d

/-- A closed word of the queue towards the grid is delivered; a flushed word of a TAG descriptor is followed by its
count (R265). -/
def Device.packToGrid (d : Device) (u v : Nat) : Device :=
  let r := siteRegion u
  match ((d.iou u).inqueue v).closed with
  | [] => d
  | w :: rest =>
    if (d.pilot r).drain || !d.gridRoom u v || (w.tag && !d.credit u .scalar v) then d
    else
      let d := d.modInQ u v fun q => { q with closed := rest }
      let (w, d) := d.checkPack u w
      let d := d.gridSend u v w
      let d := if w.tag then d.unitSend u .scalar (Item.make .scalar w.count (d.combOf r) v w.last) else d
      d.progress r

/-! ### HBM IOUs (R310, R315, R319, R320) -/

/-- A WRITE word goes to the stack controller as the bursts that it touches. -/
def Device.hbmQueueWrite (d : Device) (u : Nat) (w : PackWord) : Device :=
  if w.count = 0 then d
  else
    let n := min w.count (64 - w.address % 64)
    let mk (a : Nat) (bs : List Byte) : HbmWrite := { time := d.now, site := u, ctx := w.ctx, offset := a, bytes := bs, poison := w.poison }
    let bs := w.bytes.take w.count
    let parts := mk w.address (bs.take n) :: (if n < w.count then [mk (w.address + n) (bs.drop n)] else [])
    d.modStack (stackOf w.address) fun s => { s with writes := s.writes ++ parts }

/-- Reads of a context that have not returned. -/
def Device.readsOut (d : Device) (u c : Nat) : Nat :=
  match siteDuty u with
  | some (.hbm k) => ((d.stack k).reads.filter fun h => h.site == u && h.ctx == c).length
  | _ => 0

/-- The LAST of an element (R250, R265): the last element, or a run's last under LASTRUN. -/
def Ctx.elemLast (k : Ctx) : Bool := k.moved + 1 == k.total || (k.d.lastRun && k.d.runEnd k.moved)

/-- The words of the elements moved so far end with LAST: a packet has at most 64 words (R69, R250). -/
def Ctx.sentLast (k : Ctx) : Bool :=
  let x := k.d
  let pos := match x.shape with | (c, _) :: _ :: _ => if x.lastRun then k.moved % c else k.moved | _ => k.moved
  pos % (64 * (64 / x.elemBytes)) == 0 || k.moved == k.total

/-- STREAM_READ of an HBM IOU: the next burst read is issued, while the queue towards the grid can hold what returns. -/
def Device.hbmIssue (d : Device) (u c : Nat) : Device :=
  let k := d.ctx u c
  let x := k.d
  match siteDuty u with
  | some (.hbm s) =>
    if k.total ≤ k.moved ∨ packCap ≤ ((d.iou u).inqueue x.vc).size + d.readsOut u c then d
    else
      let h : HbmRead :=
        { site := u, ctx := c, offset := (x.addr k.moved).toNat, bytes := x.elemBytes, last := k.elemLast }
      ((d.modStack s fun t => { t with reads := t.reads ++ [h] }).modCtx u c fun k =>
        { k with moved := k.moved + 1, elems := satInc k.elems, lastSent := { k with moved := k.moved + 1 }.sentLast }).progress
          (siteRegion u)
  | _ => d

/-- STREAM_READ of a hub-link IOU: the next element of ring SRAM (R380). -/
def Device.hubIssue (d : Device) (u c : Nat) : Device :=
  let k := d.ctx u c
  let x := k.d
  if k.total ≤ k.moved ∨ !((d.iou u).inqueue x.vc).room (x.esize != 0) then d
  else
    let a := (x.addr k.moved).toNat
    ((d.packIn u c (d.ring.bytes a x.elemBytes) k.elemLast (d.ring.rangeBad a x.elemBytes)).modCtx u c fun k =>
      { k with moved := k.moved + 1, elems := satInc k.elems, lastSent := { k with moved := k.moved + 1 }.sentLast }).progress
        (siteRegion u)

/-- HBM_READ_RETURN (R320, R324): the oldest read whose queue has room returns. -/
def Device.hbmReadReturn (k : Nat) (d : Device) : Device :=
  let s := d.stack k
  let fits (h : HbmRead) : Bool := ((d.iou h.site).inqueue (d.ctx h.site h.ctx).d.vc).room (h.bytes != 64)
  if s.state ≠ 1 then d
  else
    match takeFirst fits s.reads with
    | none => d
    | some (h, rest) =>
      let d := d.modStack k fun s => { s with reads := rest }
      let (bs, bad, d) := d.hbmReadBurst (h.offset / 64) .read
      (d.packIn h.site h.ctx ((bs.drop (h.offset % 64)).take h.bytes) h.last bad).progress (siteRegion h.site)

def execHbmReadReturn (k : StackIx) (s : State) : Host.Outcome State Fault Refusal :=
  s.lift (Device.hbmReadReturn k.val)

/-- The write that the controller accepts next: the oldest, and of those of its cycle to the same burst that of the IOU
with the lowest k, which is the lowest x (R310, R321). -/
def nextWrite : List HbmWrite → Option HbmWrite
  | [] => none
  | w :: ws =>
    some ((ws.filter fun v => v.time == w.time && v.offset / 64 == w.offset / 64).foldl
      (fun b v => if siteX v.site < siteX b.site then v else b) w)

/-- Side-port writes of this cycle to a burst come after those of the IOUs (R321). -/
def Device.sideLast (d : Device) (burst : Nat) : Device :=
  (((d.stack (stackOf (64 * burst))).side.filter fun s => s.time == d.now && s.offset / 64 == burst).reverse).foldl
    (fun d s => { d with hbm := d.hbm.writeRow burst (s.offset % 64) s.bytes s.poison }) d

/-- HBM_WRITE_ACCEPT (R319 to R321): the controller accepts a write burst. -/
def Device.hbmWriteAccept (k : Nat) (d : Device) : Device :=
  let s := d.stack k
  match nextWrite s.writes with
  | none => d
  | some w =>
    if s.state ≠ 1 then d
    else
      (((d.modStack k fun s => { s with writes := s.writes.erase w }).hbmWriteBurst w.offset w.bytes w.poison .write).sideLast
        (w.offset / 64)).progress (siteRegion w.site)

def execHbmWriteAccept (k : StackIx) (s : State) : Host.Outcome State Fault Refusal :=
  s.lift (Device.hbmWriteAccept k.val)

/-! ### Completion (R252, R255, R266, R356) -/

/-- Everything that the descriptor has sent is accepted, written or answered. -/
def Device.settled (d : Device) (u c : Nat) : Bool :=
  let k := d.ctx u c
  let x := k.d
  let openRead := ((d.iou u).inqueue x.vc).closed.any fun w => w.ctx == c
  match siteKind u with
  | .su =>
    (match x.kind with
     | 1 => !((d.unit u).out.any fun p => p.1 == .vector && p.2.vc.toNat == x.vc)
     | 3 => k.copyPipe.isEmpty
     | 4 => k.finish && k.land.isNone
     | _ => true)
  | _ =>
    d.readsOut u c == 0 && !openRead &&
    !((d.iou u).outQ.any fun q => q.2.closed.any (fun w => w.ctx == c) || q.2.openWord.any fun w => w.ctx == c) &&
    !((List.range 8).any fun s => (d.stack s).writes.any fun w => w.site == u && w.ctx == c) &&
    !(d.vxl.out.any fun o => o.site == some (u, c)) && !(d.vxl.running.any fun t => t.site == some (u, c)) && k.group.isNone &&
    !(x.kind == 1 && (d.unit u).out.any fun p => p.2.vc.toNat == x.vc)

/-- DESCRIPTOR_COMPLETE (R252), for a descriptor whose words have all gone. -/
def Device.descriptorComplete (u c : Nat) (d : Device) : Device :=
  if !d.streams u then d
  else
    match (d.ctxKeys u c).find? fun k =>
      let x := d.ctx u k
      x.state == .running && (x.d.kind == 4 || x.moved == x.total) && d.settled u k with
    | none => d
    | some k => d.completeDesc u k


/-! ### DONE tokens (R253) -/

/-- A DONE token for context `c` of an SU or IOU. -/
def Device.doneCtx (d : Device) (u c : Nat) : Device :=
  let k := d.ctx u c
  match k.state with
  | .waiting => d.completeDesc u c
  | .running =>
    match k.d.kind with
    | 1 =>
      if k.lastSent then d.modCtx u c fun k => { k with total := k.moved }
      else if siteKind u = .su then d.modCtx u c fun k => { k with finish := true, total := min k.total (k.moved + 1) }
      else if 0 < d.readsOut u c then
        -- Reads on their way: the last of them ends the packet.
        match siteDuty u with
        | some (.hbm s) =>
          (d.modCtx u c fun k => { k with total := k.moved }).modStack s fun t =>
            { t with reads := (markLast (fun h => h.site == u && h.ctx == c) t.reads.reverse).reverse }
        | _ => d
      else if k.asked = 0 ∧ (((d.iou u).inqueue k.d.vc).closed.any (fun w => w.ctx == c) ||
          ((d.iou u).inqueue k.d.vc).openWord.any fun w => w.ctx == c) then
        -- Words that the queue holds are still to be sent: the last of them ends the packet.
        (d.modCtx u c fun k => { k with total := k.moved }).modInQ u k.d.vc fun q =>
          match q.openWord with
          | some _ => q.flush k.d.tag true c
          | none => q.endWord
      else d.modCtx u c fun k => { k with finish := true, total := min k.total (k.moved + 1) }
    | 2 => d.modCtx u c fun k => { k with finish := true }
    | 3 => d.modCtx u c fun k => { k with total := k.moved }
    | _ => if k.land.isNone then d.completeDesc u c else d.modCtx u c fun k => { k with finish := true }
  | _ => d
where
  markLast (p : HbmRead → Bool) : List HbmRead → List HbmRead
    | [] => []
    | h :: hs => if p h then { h with last := true } :: hs else h :: markLast p hs

end Sys2Proof.Machine
end

