-- ==== Sys2Proof/Machine/Units.lean ====
section
/-! DEFINITION. What every unit shares: its counters CNT0 to CNT7 with their bounds (R95, R114), and the control tokens
that reach it on the routed lanes and on the system lane (R94 to R97, R115, R253, R254). -/

namespace Sys2Proof.Machine

/-! ### Counters (R95, R114) -/

/-- A counter record of a unit section. -/
structure CounterRec where
  preset : Nat
  bound : Nat
  bsrc : Nat
  sreg : Nat
  action : Nat
  deriving DecidableEq, Repr

/-- Where the counter records stand in the section of a site's unit (R113, R186, R251). -/
def counterOff (u : Nat) : Nat :=
  match siteKind u with
  | .mu => 0x10
  | .sfu => 0x10
  | .su => 0x20
  | .iou => 0x20

def counterRecAt (sec : List Byte) (off i : Nat) : CounterRec :=
  let o := off + 12 * i
  { preset := fieldAt sec o 4, bound := fieldAt sec (o + 4) 4, bsrc := fieldAt sec (o + 8) 1,
    sreg := fieldAt sec (o + 9) 1, action := fieldAt sec (o + 10) 1 }

def Device.counterRec (d : Device) (u i : Nat) : CounterRec := counterRecAt (d.section u) (counterOff u) i

/-- The bound that a counter reads when it resets; one set by tokens keeps `now`. -/
def Device.boundRead (d : Device) (u : Nat) (k : CounterRec) (now : Word) : Word :=
  if k.bsrc = 2 then d.shapeReg u k.sreg else if k.bsrc = 1 then now else BitVec.ofNat 32 k.bound

/-- The counters of a section at their presets, as a comb starts (R42, R95). -/
def Device.presets (d : Device) (u : Nat) (sec : List Byte) : Tab Counter :=
  (List.range 8).map fun i =>
    let k := counterRecAt sec (counterOff u) i
    (i, { value := BitVec.ofNat 32 k.preset, bound := d.boundRead u k (BitVec.ofNat 32 k.bound) })

def Device.cnt (d : Device) (u i : Nat) : Counter := (d.unit u).cnt.getD i .reset

/-- A raise by `n` brings the counter to its bound. -/
def Counter.reaches (c : Counter) (n : Nat) : Bool := decide (c.bound.toNat ≤ c.value.toNat + n)

/-- What a counter takes at its bound (R114). -/
def Device.bounded (d : Device) (u i : Nat) (c : Counter) : Counter :=
  let k := d.counterRec u i
  if k.action = 0 then { value := BitVec.ofNat 32 k.preset, bound := d.boundRead u k c.bound }
  else { c with value := c.bound }

/-- A counter after a raise by `n`, with its bound action if it reaches its bound (R114). -/
def Device.raised (d : Device) (u i n : Nat) (c : Counter) : Counter :=
  if c.reaches n then d.bounded u i c else { c with value := c.value + BitVec.ofNat 32 n }

/-- What a raise of counter `i` by raiser `by_` (0 a token, 1 the program, 2 the vector program) starts from: the
counter before the raises of this clk that it joins, and all raisers of the joint raise (R95). A raiser that has already
raised the counter in this clk starts a new raise. -/
def Device.raiseOf (d : Device) (u i by_ : Nat) : Counter × List Nat :=
  match (d.unit u).raises.find i with
  | some (c, ks) => if ks.contains by_ then (d.cnt u i, [by_]) else (c, by_ :: ks)
  | none => (d.cnt u i, [by_])

/-- Whether that raise brings the counter to its bound. -/
def Device.raiseReaches (d : Device) (u i by_ : Nat) : Bool :=
  (d.raiseOf u i by_).1.reaches (d.raiseOf u i by_).2.length

/-- Programs whose loop on counter `i` has gone back in this clk leave it: the joint raise has reached the bound (R95,
R117). -/
def Device.leaveLoops (d : Device) (u i : Nat) : Device :=
  ((d.unit u).loops.filter fun l => l.2.1 == i).foldl (fun d l =>
    match siteKind u with
    | .mu => d.modMu u fun m => if l.1 = 1 then { m with pc := l.2.2 } else { m with engine := { m.engine with pc := l.2.2 } }
    | .sfu => d.modSfu u fun m => { m with engine := { m.engine with pc := l.2.2 } }
    | _ => d) (d.modUnit u fun m => { m with loops := m.loops.filter fun l => l.2.1 != i })

/-- A raise of counter `i` (R95, R114): raises of different raisers in one clk are one raise, tested once. -/
def Device.raiseCnt (d : Device) (u i by_ : Nat) : Device :=
  let p := d.raiseOf u i by_
  let c := d.raised u i p.2.length p.1
  let d' := d.modUnit u fun m => { m with cnt := m.cnt.put i c, raises := m.raises.put i p }
  if d.raiseReaches u i by_ then d'.leaveLoops u i else d'

/-- The bound action of a counter, without a raise (R117). -/
def Device.boundAction (d : Device) (u i : Nat) : Device :=
  let c := d.bounded u i (d.cnt u i)
  d.modUnit u fun m => { m with cnt := m.cnt.put i c }

/-- One pass of a loop instruction (R117) of program `by_`, which stands before `pc`: raises CNT and every counter of
ALSO; whether the program goes back. A DONE token for the level ends the loop. -/
def Device.loopPass (d : Device) (u by_ cnt level also pc : Nat) : Bool × Device :=
  let reached := d.raiseReaches u cnt by_
  let done := (d.unit u).doneLevels.contains level
  let which := (List.range 8).filter fun i => i == cnt || also.testBit i
  let d := which.foldl (fun d i => d.raiseCnt u i by_) d
  if done then
    let d := d.modUnit u fun m => { m with doneLevels := m.doneLevels.filter (· != level) }
    (false, if reached then d else d.boundAction u cnt)
  else if reached then (false, d)
  else (true, if by_ != 2 && (d.unit u).branch.isSome then d else d.modUnit u fun m => { m with loops := (by_, cnt, pc) :: m.loops })

/-! ### Tokens (R94 to R97) -/

def tokType (t : BitVec 16) : Nat := bitsNat t.toNat 15 12
def tokArg (t : BitVec 16) : Nat := bitsNat t.toNat 11 0

/-- The first token from index `i` of the system lane that satisfies a test, with its index. -/
def laneFrom (p : BitVec 16 → Bool) : Nat → List (BitVec 16) → Option (Nat × BitVec 16)
  | _, [] => none
  | i, t :: ts => if p t then some (i, t) else laneFrom p (i + 1) ts

/-- The next token of the system lane that a unit, or a switch, acts on (R213): a ROUTE token is the switch's. -/
def Device.laneToken (d : Device) (r next : Nat) (route : Bool) : Option (Nat × BitVec 16) :=
  laneFrom (fun t => (tokType t == 5) == route) next ((d.pilot r).tokens.drop next)

/-- The token at the head of a lane of a unit: its data, and the unit without it. A unit acts on its lanes in the order 0,
1, 2 and then the system lane, so a lane waits while a lower one holds a token (R94). -/
def Device.headToken (d : Device) (u lane : Nat) : Option (BitVec 16 × Unit) :=
  let m := d.unit u
  if (List.range lane).any fun l => !(m.queue ⟨.control, 4, l⟩).isEmpty then none
  else if lane = 3 then (d.laneToken (siteRegion u) m.laneNext false).map fun p => (p.2, { m with laneNext := p.1 + 1 })
  else
    match m.queue ⟨.control, 4, lane⟩ with
    | [] => none
    | w :: ws => some (w.data.setWidth 16, m.setQueue ⟨.control, 4, lane⟩ ws)

/-- The unit's part of the active comb runs: its section is not empty, its site works and its region is in the comb. -/
def Device.unitRuns (d : Device) (u : Nat) : Bool :=
  d.started (siteRegion u) && d.comb.state == .active && d.usable u && !(d.section u).isEmpty

/-- A token is discarded and counted, and NET_TOKEN is raised (R97, R115). -/
def Device.badToken (d : Device) (u : Nat) : Device :=
  (d.modUnit u fun m => { m with errTokens := satInc m.errTokens }).raiseFree (siteRegion u) 0x04

/-- Types that no unit acts on: reserved ones, ROUTE, and EOC and SWAP on a routed lane (R97). -/
def tokRefused (t : BitVec 16) : Bool := tokType t = 0 || decide (5 ≤ tokType t)

/-- A unit takes the token at the head of a lane if it is of type `ty`; one that R97 refuses is discarded. -/
def Device.unitToken (d : Device) (u lane ty : Nat) (act : Nat → Device → Device) : Device :=
  if !d.unitRuns u then d
  else
    match d.headToken u lane with
    | none => d
    | some (t, m) =>
      if tokRefused t then ((d.modUnit u fun _ => m).badToken u).progress (siteRegion u)
      else if tokType t = ty then (act (tokArg t) (d.modUnit u fun _ => m)).progress (siteRegion u)
      else d

/-- STEP (R94, R95). -/
def Device.stepToken (u lane : Nat) (d : Device) : Device :=
  d.unitToken u lane 1 fun arg d => d.raiseCnt u (bitsNat arg 2 0) 0

def execStep (u : SiteIx) (lane : Fin 4) (s : State) : Host.Outcome State Fault Refusal :=
  s.lift (Device.stepToken u.val lane.val)

/-- BOUND (R94, R95, R97). -/
def Device.boundToken (u lane : Nat) (d : Device) : Device :=
  d.unitToken u lane 2 fun arg d =>
    let i := bitsNat arg 2 0
    if (d.counterRec u i).bsrc = 1 then
      d.modUnit u fun m =>
        { m with cnt := m.cnt.upd i .reset fun c => { c with bound := BitVec.ofNat 32 (bitsNat arg 11 3) } }
    else d.badToken u

def execBound (u : SiteIx) (lane : Fin 4) (s : State) : Host.Outcome State Fault Refusal :=
  s.lift (Device.boundToken u.val lane.val)

/-- DONE (R94, R117, R253): a loop level of an MU or SFU, a context of an SU or IOU. -/
def Device.doneToken (u lane : Nat) (d : Device) : Device :=
  d.unitToken u lane 3 fun arg d =>
    let k := bitsNat arg 2 0
    match siteKind u with
    | .mu => d.modUnit u fun m => { m with doneLevels := insertLevel k m.doneLevels }
    | .sfu => d.modUnit u fun m => { m with doneLevels := insertLevel k m.doneLevels }
    | .su => if 8 ≤ arg then d.badToken u else d.doneCtx u k
    | .iou => d.doneCtx u k
where
  insertLevel (k : Nat) (l : List Nat) : List Nat := if l.contains k then l else k :: l

def execDone (u : SiteIx) (lane : Fin 4) (s : State) : Host.Outcome State Fault Refusal :=
  s.lift (Device.doneToken u.val lane.val)

/-- BRANCH (R94, R115, R189, R254): an SU or IOU ignores it. -/
def Device.branchToken (u lane : Nat) (d : Device) : Device :=
  d.unitToken u lane 4 fun arg d =>
    let branch (d : Device) : Device :=
      let e := fieldAt (d.section u) (0x70 + 2 * bitsNat arg 3 0) 2
      if e = 0xFFFF then d.badToken u else d.modUnit u fun m => { m with branch := some e }
    match siteKind u with
    | .mu => branch d
    | .sfu => branch d
    | .su => d
    | .iou => d

def execBranchTok (u : SiteIx) (lane : Fin 4) (s : State) : Host.Outcome State Fault Refusal :=
  s.lift (Device.branchToken u.val lane.val)

/-- The clk after a ROUTE token has come: the switch makes its bank active, and a head word counts as taken by no entry of
a new bank (R96). -/
def Switch.nextBank (s : Switch) : Switch :=
  match s.bankNext with
  | none => s
  | some bank =>
    if s.bank = bank then { s with bankNext := none }
    else
      let bufs := s.bufs.map fun p => (p.1, { p.2 with taken := [] })
      { s with bank := bank, bankNext := none, bufs := bufs.filter fun p => p.2 != .reset }

/-- ROUTE (R94, R96, R213): on the system lane, or at the L output of a switch, which keeps the token from its unit. -/
def Device.routeToken (u lane : Nat) (d : Device) : Device :=
  let r := siteRegion u
  if !d.started r || d.comb.state != .active || (d.switch u).active.comb.isNone then d
  else if lane = 3 then
    match d.laneToken r (d.switch u).laneNext true with
    | none => d
    | some (i, t) => d.modSwitch u fun s => { s with bankNext := some (t.getLsbD 0), laneNext := i + 1 }
  else
    match takeFirst (fun p => p.1 == lane) (d.switch u).routeAt with
    | none => d
    | some ((_, w), rest) =>
      (d.modSwitch u fun s => { s with bankNext := some (w.data.getLsbD 0), routeAt := rest }).progress r

def execRoute (u : SiteIx) (lane : Fin 4) (s : State) : Host.Outcome State Fault Refusal :=
  s.lift (Device.routeToken u.val lane.val)

/-! ### Programs (R94, R115) -/

/-- Where a program goes on after an instruction that would lead to `pc`: an instruction boundary, at which a BRANCH
token that has arrived takes effect. -/
def Unit.next (m : Unit) (pc : Nat) : Nat × Unit :=
  match m.branch with
  | some e => (e, { m with branch := none })
  | none => (pc, m)

end Sys2Proof.Machine
end

