-- ==== Sys2Proof/Machine/Operands.lean ====
section
/-! DEFINITION. The operands of the tile instructions: instruction words, operand descriptors, bounds, footprints, the
checks at issue, and the reading of operands and group tables from the scratchpad or from a stream (R113, R116, R121 to
R126, R128, R131, R135 to R137, R140, R145, R150, R151). -/

namespace Sys2Proof.Machine

/-! ### The tile program (R113, R116) -/

def muNinstr (sec : List Byte) : Nat := fieldAt sec 4 2
def muNcfg (sec : List Byte) : Nat := fieldAt sec 6 1
def muVecLen (sec : List Byte) : Nat := fieldAt sec 8 4

/-- Word `w` (0 to 3) of tile-program instruction `i`. -/
def muWord (sec : List Byte) (i w : Nat) : Nat := fieldAt sec (0x90 + 16 * muNcfg sec + 32 * i + 8 * w) 8

def muOutcfg (sec : List Byte) (k : Nat) : List Byte := sliceAt sec (0x90 + 16 * k) 16

/-- The vector program of an MU section. -/
def muVector (sec : List Byte) : List Byte :=
  (sec.drop (0x90 + 16 * muNcfg sec + 32 * muNinstr sec)).take (muVecLen sec)

/-! ### Formats of the operand pairs (R110) -/

/-- What an operand of a pair holds. -/
inductive OpFmt where
  | int (bits : Nat)
  | flt (f : FloatFmt)
  deriving DecidableEq, Repr

def fmtA (fmt : Nat) : OpFmt :=
  match fmt with
  | 0 => .int 8
  | 1 => .int 8
  | 2 => .int 4
  | 3 => .flt fp8e4
  | 4 => .flt fp8e4
  | 5 => .flt fp8e5
  | 6 => .flt fp8e5
  | 7 => .flt fp16
  | 8 => .flt bf16
  | _ => .flt fp32

def fmtB (fmt : Nat) : OpFmt :=
  match fmt with
  | 0 => .int 8
  | 1 => .int 4
  | 2 => .int 4
  | 3 => .flt fp8e4
  | 4 => .flt fp8e5
  | 5 => .flt fp8e4
  | 6 => .flt fp8e5
  | 7 => .flt fp16
  | 8 => .flt bf16
  | _ => .flt fp32

def OpFmt.bits : OpFmt → Nat
  | .int b => b
  | .flt f => 1 + f.eb + f.mb

/-! ### Operand descriptors and tiles (R121 to R125, R145) -/

structure OpDesc where
  src : Nat
  signed : Bool
  zpMode : Nat
  zpValue : Nat
  layout : Nat
  cnt : Nat
  idxEn : Bool
  stride : Nat
  pitch : Nat
  base : Nat
  vc : Nat
  deriving DecidableEq, Repr

def OpDesc.parse (w : Nat) : OpDesc :=
  { src := bitsNat w 63 62, signed := w.testBit 61, zpMode := bitsNat w 60 59, zpValue := bitsNat w 58 51,
    layout := bitsNat w 50 50, cnt := bitsNat w 49 47, idxEn := w.testBit 46, stride := bitsNat w 45 34,
    pitch := bitsNat w 33 22, base := bitsNat w 21 10, vc := bitsNat w 9 7 }

/-- An MMA with every field that its checks and its algorithm read. -/
structure Tile where
  fmt : Nat
  accMode : Nat
  group : Nat
  m : Nat
  n : Nat
  k : Nat
  bsrcM : Nat
  bsrcN : Nat
  bsrcK : Nat
  breg : Nat
  a : OpDesc
  b : OpDesc
  accBase : Nat
  accEn : Bool
  accCnt : Nat
  accStride : Nat
  baddr : Nat
  tblBase : Nat
  deriving DecidableEq, Repr

def Tile.ofMma (w0 w1 w2 w3 : Nat) : Tile :=
  { fmt := bitsNat w0 57 54, accMode := bitsNat w0 53 52, group := bitsNat w0 51 49, m := bitsNat w0 48 39,
    n := bitsNat w0 38 29, k := bitsNat w0 28 15, bsrcM := bitsNat w0 14 13, bsrcN := bitsNat w0 12 11,
    bsrcK := bitsNat w0 10 9, breg := bitsNat w0 8 3, a := .parse w1, b := .parse w2, accBase := bitsNat w3 63 50,
    accEn := w3.testBit 49, accCnt := bitsNat w3 48 46, accStride := bitsNat w3 45 34, baddr := bitsNat w3 33 22,
    tblBase := bitsNat w3 21 10 }

/-- M, N and K of a Vex shape (R145). -/
def vexShape (s : Nat) : Nat × Nat × Nat :=
  match s with
  | 0 => (24, 24, 96)
  | 1 => (32, 12, 96)
  | 2 => (12, 32, 96)
  | _ => (32, 32, 64)

/-- A VMMA as the MMA that it stands for (R145). -/
def Tile.ofVmma (w0 w1 w2 : Nat) : Tile :=
  let (m, n, k) := vexShape (bitsNat w0 51 50)
  { fmt := bitsNat w0 57 54, accMode := bitsNat w0 53 52, group := 0, m := m, n := n, k := k, bsrcM := 0, bsrcN := 0,
    bsrcK := 0, breg := 0, a := .parse w1, b := .parse w2, accBase := 1024 * bitsNat w0 49 46, accEn := false,
    accCnt := 0, accStride := 0, baddr := 0, tblBase := 0 }

/-- The tile of instruction `i`, which is an MMA or a VMMA. -/
def tileAt (sec : List Byte) (i : Nat) : Tile :=
  let w0 := muWord sec i 0
  if bitsNat w0 63 58 = 1 then .ofMma w0 (muWord sec i 1) (muWord sec i 2) (muWord sec i 3)
  else .ofVmma w0 (muWord sec i 1) (muWord sec i 2)

/-- G (R125). -/
def Tile.groupLen (t : Tile) : Nat := if t.group = 0 then t.k else 32 * 2 ^ (t.group - 1)

/-- Rows of one group record (R125). -/
def Tile.recordRows (t : Tile) : Nat := ceilDiv t.n 64 + ceilDiv t.n 16

def Tile.tableNeeded (t : Tile) : Bool := t.group != 0 || t.b.zpMode == 2

/-- The accumulator words hold FP32 (R121). -/
def Tile.isF32 (t : Tile) : Bool := t.group != 0 || decide (3 ≤ t.fmt)

/-- Rows and columns of an operand as stored; `mk` is (M, K) for A and (K, N) for B, of the tile or of its bounds. -/
def OpDesc.shape (x : OpDesc) (rows cols : Nat) : Nat × Nat := if x.layout = 0 then (rows, cols) else (cols, rows)

/-- S (R122): scratchpad rows of one operand row. -/
def spanRows (bits cols : Nat) : Nat := ceilDiv (elemBytesOf bits cols) 64

/-- Last scratchpad row of `rows` operand rows of `cols` elements (R131). -/
def lastRow (first pitch bits rows cols : Nat) : Nat := first + (rows - 1) * pitch + spanRows bits cols - 1

/-! ### Scratchpad reads (R109, R124, R140) -/

/-- The bank of a scratchpad row (R107). -/
def muBank (row : Nat) : Nat := row % 8

/-- No bank of these rows has been read, or written, in this clk (R107). -/
def Mu.readFree (m : Mu) (rows : List Nat) : Bool := rows.all fun r => !m.readers.contains (muBank r)
def Mu.writeFree (m : Mu) (rows : List Nat) : Bool := rows.all fun r => !m.writers.contains (muBank r)

/-- A row as a read finds it: as it stood before a write of the same clk (R108). -/
def Mu.rowNow (m : Mu) (row : Nat) : List Byte × Option RowMark :=
  (m.before.find row).getD (m.scratch.bytes (64 * row) 64, m.scratch.mark row)

/-- Reads a row through the correction stage: its bytes, and whether it comes poisoned. -/
def Mu.readRow (m : Mu) (row : Nat) : List Byte × Bool × Mu :=
  let (bs, mark) := m.rowNow row
  let m := { m with readers := muBank row :: m.readers }
  match mark with
  | none => (bs, false, m)
  | some .correctable => (bs, false, { m with scratchCorr := satInc m.scratchCorr })
  | some .uncorrectable => (bs, true, { m with scratchUncorr := satInc m.scratchUncorr })
  | some .poison => (bs, true, m)

/-- Reads several rows: their bytes one after the other, and whether any comes poisoned. -/
def Mu.readRows (m : Mu) : List Nat → List Byte × Bool × Mu
  | [] => ([], false, m)
  | r :: rs =>
    let (b, p, m) := m.readRow r
    let (bs, q, m) := m.readRows rs
    (b ++ bs, p || q, m)

/-- Writes part of a row; a write-back of the scrubber for it is dropped (R274). -/
def Mu.writePart (m : Mu) (row off : Nat) (bs : List Byte) (poison : Bool) : Mu :=
  { m with scratch := m.scratch.writeRow row off bs poison, before := m.before.put row (m.rowNow row),
           writers := muBank row :: m.writers,
           scrubBack := if m.scrubBack = some row then none else m.scrubBack }

/-! ### Bounds (R124, R126) -/

/-- The bound of one dimension: its source, the tile dimension, the shape register and the word of the record. -/
def Device.boundOf (d : Device) (u bsrc dim reg : Nat) (rec : List Byte) (word : Nat) : Nat :=
  match bsrc with
  | 0 => dim
  | 1 => (d.shapeReg u reg).toNat
  | _ => fieldAt rec (4 * word) 4

/-! ### Effective bases -/

def Device.cntVal (d : Device) (u i : Nat) : Nat := (d.cnt u i).value.toNat

def OpDesc.first (x : OpDesc) (cv : Nat → Nat) : Nat := x.base + if x.idxEn then cv x.cnt * x.stride else 0

/-- The effective accumulator base a (R131). -/
def accEffective (base : Nat) (en : Bool) (cnt stride : Nat) (cv : Nat → Nat) : Nat :=
  base + if en then cv cnt * stride * 32 else 0

/-- A fault of an MU: code, reason, MU_FAULT_VALUE and event (R143). -/
structure MuFault where
  code : Nat
  reason : Nat
  value : Nat
  event : Nat
  deriving DecidableEq, Repr

def MuFault.acc (reason a : Nat) : MuFault := { code := 1, reason := reason, value := a, event := 0x26 }
def MuFault.buf (reason row : Nat) : MuFault := { code := 2, reason := reason, value := row, event := 0x27 }
def MuFault.over_ (reason v : Nat) : MuFault := { code := 3, reason := reason, value := v, event := 0x28 }
def MuFault.range (a : Nat) : MuFault := { code := 4, reason := 0, value := a, event := 0x29 }

/-- The operand and table footprints of R131, for the values `cv` of the counters. -/
def Tile.footprint (t : Tile) (cv : Nat → Nat) : Option MuFault :=
  let (ra, ca) := t.a.shape t.m t.k
  let (rb, cb) := t.b.shape t.k t.n
  let la := lastRow (t.a.first cv) t.a.pitch (fmtA t.fmt).bits ra ca
  let lb := lastRow (t.b.first cv) t.b.pitch (fmtB t.fmt).bits rb cb
  let lt := t.b.first cv + t.tblBase + ceilDiv t.k t.groupLen * t.recordRows - 1
  if 4095 < la then some (.buf 1 la)
  else if 4095 < lb then some (.buf 2 lb)
  else if t.tableNeeded ∧ 4095 < lt then some (.buf 3 lt)
  else none

/-- Two accumulator ranges intersect. -/
def rangesMeet (a n b m : Nat) : Bool := decide (a < b + m) && decide (b < a + n)

/-- The entry of the same base, M and N. -/
def findRange (rs : List RangeEntry) (a m n : Nat) : Option RangeEntry :=
  rs.find? fun e => e.base == a && e.m == m && e.n == n

/-- The range-table checks of R131. -/
def Tile.rangeCheck (t : Tile) (a : Nat) (rs : List RangeEntry) : Option MuFault :=
  let own (e : RangeEntry) := e.base == a && e.m == t.m && e.n == t.n
  if 15360 < a + t.m * t.n then some (.acc 1 a)
  else if rs.any fun e => !own e && rangesMeet e.base (e.m * e.n) a (t.m * t.n) then some (.acc 2 a)
  else
    match rs.find? own with
    | some e => if e.state = .draining then some (.acc 3 a) else none
    | none => if 16 ≤ rs.length then some (.acc 4 a) else none

/-! ### DRAIN (R135, R137) -/

structure DrainOp where
  ocfg : Nat
  m : Nat
  n : Nat
  accBase : Nat
  bsrcM : Nat
  bsrcN : Nat
  breg : Nat
  accCnt : Nat
  accEn : Bool
  dest : Nat
  vc : Nat
  base : Nat
  pitch : Nat
  cnt : Nat
  idxEn : Bool
  stride : Nat
  accStride : Nat
  baddr : Nat
  deriving DecidableEq, Repr

def DrainOp.parse (w0 w1 w2 : Nat) : DrainOp :=
  { ocfg := bitsNat w0 57 54, m := bitsNat w0 53 44, n := bitsNat w0 43 34, accBase := bitsNat w0 33 20,
    bsrcM := bitsNat w0 19 18, bsrcN := bitsNat w0 17 16, breg := bitsNat w0 15 10, accCnt := bitsNat w0 9 7,
    accEn := w0.testBit 6, dest := bitsNat w1 63 62, vc := bitsNat w1 61 59, base := bitsNat w1 58 47,
    pitch := bitsNat w1 46 35, cnt := bitsNat w1 34 32, idxEn := w1.testBit 31, stride := bitsNat w1 30 19,
    accStride := bitsNat w1 18 7, baddr := bitsNat w2 63 52 }

def drainAt (sec : List Byte) (i : Nat) : DrainOp := .parse (muWord sec i 0) (muWord sec i 1) (muWord sec i 2)

/-- An output configuration (R137). -/
structure OutCfg where
  fmt : Nat
  scaleEn : Bool
  biasEn : Bool
  clipEn : Bool
  lutEn : Bool
  inf : Bool
  signed : Bool
  perRow : Bool
  table : Nat
  zero : Nat
  scaleRow : Nat
  biasRow : Nat
  clipLo : Word
  clipHi : Word
  deriving DecidableEq, Repr

def OutCfg.parse (bs : List Byte) : OutCfg :=
  let f := fieldAt bs 1 1
  { fmt := fieldAt bs 0 1, scaleEn := f.testBit 0, biasEn := f.testBit 1, clipEn := f.testBit 2, lutEn := f.testBit 3,
    inf := f.testBit 4, signed := f.testBit 5, perRow := f.testBit 6, table := fieldAt bs 2 1, zero := fieldAt bs 3 1,
    scaleRow := fieldAt bs 4 2, biasRow := fieldAt bs 6 2, clipLo := BitVec.ofNat 32 (fieldAt bs 8 4),
    clipHi := BitVec.ofNat 32 (fieldAt bs 12 4) }

/-- Bits of one output element. -/
def outBits (fmt : Nat) : Nat :=
  match fmt with
  | 0 => 32
  | 1 => 16
  | 2 => 16
  | 6 => 4
  | _ => 8

/-- Last row of a vector of `n` FP32 values from `row`. -/
def vectorLast (row n : Nat) : Nat := row + ceilDiv (4 * n) 64 - 1

/-- The footprints of R136, for the values `cv` of the counters. -/
def DrainOp.footprint (x : DrainOp) (c : OutCfg) (cv : Nat → Nat) : Option MuFault :=
  let last := lastRow (x.base + if x.idxEn then cv x.cnt * x.stride else 0) x.pitch (outBits c.fmt) x.m x.n
  let ls := vectorLast c.scaleRow (if c.perRow then x.m else x.n)
  let lb := vectorLast c.biasRow x.n
  if x.dest = 0 ∧ 4095 < last then some (.buf 5 last)
  else if c.scaleEn ∧ 4095 < ls then some (.buf 4 ls)
  else if c.biasEn ∧ 4095 < lb then some (.buf 4 lb)
  else none

/-! ### Operand data (R128, R140, R150, R157) -/

/-- Scratchpad rows of the in-bound part of an operand: `rows` in-bound operand rows, the first `s` rows of each. -/
def operandRows (first pitch s rows : Nat) : List Nat :=
  (List.range rows).flatMap fun i => (List.range s).map fun j => first + i * pitch + j

/-- An operand as read: `s` rows of 64 bytes for each in-bound operand row. -/
structure OpData where
  bits : Nat
  s : Nat
  bytes : List Byte
  deriving DecidableEq, Repr

/-- The element in operand row `r`, column `c`. -/
def OpData.elem (o : OpData) (r c : Nat) : Nat := elemAt ((o.bytes.drop (64 * o.s * r)).take (64 * o.s)) o.bits c

/-- Element (i, k) of A or (k, j) of B: `i`, `j` along the first and second index of the operand. -/
def OpDesc.elem (x : OpDesc) (o : OpData) (i j : Nat) : Nat := if x.layout = 0 then o.elem i j else o.elem j i

/-- Record `g` of the group table as read: zero points, then scales (R125). -/
def Tile.record (t : Tile) (table : List Byte) (g : Nat) : List Byte :=
  (table.drop (64 * t.recordRows * g)).take (64 * t.recordRows)

/-- The FP32 scale of record `g`, column `j`. -/
def Tile.scale (t : Tile) (table : List Byte) (g j : Nat) : Word :=
  BitVec.ofNat 32 (fieldAt (t.record table g) (64 * ceilDiv t.n 64 + 4 * j) 4)

/-- The zero point of an integer operand of `bits` bits: ZP_VALUE, or the byte of the group table (R150, R151). -/
def OpDesc.zero (x : OpDesc) (bits : Nat) (tableByte : Nat) : Int :=
  match x.zpMode with
  | 0 => 0
  | 1 => intOf x.signed bits x.zpValue
  | _ => intOf x.signed bits tableByte

/-- Scratchpad rows of the group table that the MMA reads: zero points under ZP_MODE 0b10, scales where GROUP is not 0,
of the groups below the K bound and the columns below the N bound (R125, R128, R157). -/
def Tile.tableRows (t : Tile) (first bn bk : Nat) : List Nat :=
  let groups := ceilDiv bk t.groupLen
  (List.range groups).flatMap fun g =>
    let r := first + t.tblBase + g * t.recordRows
    (if t.b.zpMode = 2 then (List.range (ceilDiv bn 64)).map (r + ·) else []) ++
    (if t.group ≠ 0 then (List.range (ceilDiv bn 16)).map (r + ceilDiv t.n 64 + ·) else [])

end Sys2Proof.Machine
end

