-- ==== Sys2Proof/Machine/Mu.lean ====
section
/-! DEFINITION. The multiplier units: the issue and retirement of MMA and VMMA, the range table, the output stage, and
the tile program's FENCE, LOOP, VEC, END and NOP (R106 to R145, R155 to R169). -/

namespace Sys2Proof.Machine

/-! ### The issue stage (R116, R143) -/

def muOpc (sec : List Byte) (i : Nat) : Nat := bitsNat (muWord sec i 0) 63 58

/-- The issue stage of an MU that runs meets an instruction of this opcode and does not wait for the vector program
(R118). -/
def Device.muReady (d : Device) (u opc : Nat) : Bool :=
  let m := d.mu u
  siteKind u == .mu && d.unitRuns u && m.state == 1 && !m.vecWait && muOpc (d.section u) m.pc == opc &&
    decide (m.pc < muNinstr (d.section u))

/-- The issue stage goes on at `pc`. -/
def Device.muGoto (d : Device) (u pc : Nat) : Device :=
  d.modMu u fun m =>
    let (pc, n) := m.unit.next pc
    { m with pc := pc, unit := n }

def Device.muNext (d : Device) (u : Nat) : Device := (d.muGoto u ((d.mu u).pc + 1)).progress (siteRegion u)

/-- A fault of the MU, with the index of the instruction that MU_FAULT names. -/
def Device.muFault (d : Device) (u instr : Nat) (f : MuFault) : Device :=
  (d.modMu u fun m =>
    { m with state := 3, faultCode := BitVec.ofNat 4 f.code, faultReason := BitVec.ofNat 4 f.reason,
             faultInstr := BitVec.ofNat 16 instr, faultValue := BitVec.ofNat 32 f.value }).unitFault u f.event f.reason
    (f.value % 2 ^ 32) 0xFFFFFFFF

/-! ### The range table (R132, R140) -/

def Mu.modRange (m : Mu) (base : Nat) (f : RangeEntry → RangeEntry) : Mu :=
  { m with ranges := m.ranges.map fun e => if e.base == base then f e else e }

def RangeEntry.flag (e : RangeEntry) (f : Flags) : RangeEntry := { e with flags := e.flags.or f }

/-- A job has taken a poisoned operand: its entry is poisoned, the tile is counted once, and MU_POISON is raised once
per tick (R140). -/
def Device.jobPoison (d : Device) (u k : Nat) : Device :=
  match (d.mu u).jobs[k]? with
  | none => d
  | some j =>
    if j.poison then d
    else
      (d.modMu u fun m =>
        { (m.modRange j.base fun e => { e with poison := true }) with
          jobs := m.jobs.modify k fun j => { j with poison := true }, poisonTiles := satInc m.poisonTiles }).raiseOnceFree
        (siteRegion u) 0x06

/-! ### Operands (R112, R140) -/

/-- In-bound rows and columns of the two operands, as stored. -/
def Tile.shapeA (t : Tile) (bm bk : Nat) : Nat × Nat := t.a.shape bm bk
def Tile.shapeB (t : Tile) (bn bk : Nat) : Nat × Nat := t.b.shape bk bn

/-- The rows that the stream words of an operand fill: every row of each in-bound operand row (R122, R140). -/
def streamRows (x : OpDesc) (first s rows : Nat) : List Nat := if x.src = 1 then operandRows first x.pitch s rows else []

/-- Job `k` reads its operands, once every stream word has been written. -/
def Device.muCapture (d : Device) (u k : Nat) : Device :=
  match (d.mu u).jobs[k]? with
  | none => d
  | some j =>
    if j.ready || !j.a.fill.isEmpty || !j.b.fill.isEmpty then d
    else
      let t := tileAt (d.section u) j.instr
      let (ra, ca) := t.shapeA j.bm j.bk
      let (rb, cb) := t.shapeB j.bn j.bk
      let sa := spanRows (fmtA t.fmt).bits ca
      let sb := spanRows (fmtB t.fmt).bits cb
      let m := d.mu u
      let (ba, pa, m) := m.readRows (operandRows j.a.first t.a.pitch sa ra)
      let (bb, pb, m) := m.readRows (operandRows j.b.first t.b.pitch sb rb)
      let (_, pt, m) := if t.tableNeeded then m.readRows (t.tableRows j.b.first j.bn j.bk) else ([], false, m)
      let table := m.scratch.bytes (64 * (j.b.first + t.tblBase)) (64 * t.recordRows * ceilDiv j.bk t.groupLen)
      let d := d.modMu u fun _ =>
        { m with jobs := m.jobs.modify k fun j =>
            { j with ready := true, a := { j.a with bytes := ba }, b := { j.b with bytes := bb },
                     table := if t.tableNeeded then table else [] } }
      if pa || pb || pt then d.jobPoison u k else d

/-- An access of the MU has lost its bank in this clk and retries in the next (R107). -/
def Device.muLost (d : Device) (u : Nat) : Device := d.modMu u fun m => { m with lost := true }

/-- One stream word for an operand of job `k`: it is written into the next row that it fills, and its flags go to the
entry (R140). -/
def Device.fillOne (d : Device) (u k : Nat) (isA : Bool) : Device :=
  match (d.mu u).jobs[k]? with
  | none => d
  | some j =>
    let o := if isA then j.a else j.b
    let key : BufKey := ⟨.vector, 4, (OpDesc.parse o.desc.toNat).vc⟩
    match o.fill, (d.unit u).queue key with
    | row :: rest, w :: ws =>
      if !(d.mu u).writeFree [row] then d.muLost u else
      let d := d.modMu u fun m =>
        let m := { m with unit := m.unit.setQueue key ws }.writePart row 0 w.bytes w.poison
        { (m.modRange j.base (·.flag { ovf := w.ovf, inv := w.inv, unf := w.unf })) with
          jobs := m.jobs.modify k fun j =>
            if isA then { j with a := { j.a with fill := rest } } else { j with b := { j.b with fill := rest } } }
      let d := d.progress (siteRegion u)
      if w.poison then d.jobPoison u k else d
    | _, _ => d

/-- One clk of the operand fetcher: the operands are read if every word of theirs has been written in an earlier clk
(R112). Otherwise a word for A and a word for B are. -/
def Device.muFill (d : Device) (u : Nat) : Device :=
  match (d.mu u).jobs.findIdx? fun j => !j.ready with
  | none => d
  | some k => ((d.muCapture u k).fillOne u k true).fillOne u k false

/-! ### MMA and VMMA at issue (R126, R131, R132) -/

/-- Whether the tile starts from the start value (R121). -/
def Device.overwrites (d : Device) (u : Nat) (t : Tile) : Bool :=
  t.accMode == 0 ||
    (t.accMode == 2 && d.cntVal u t.accCnt == (d.counterRec u t.accCnt).preset)

/-- The checks of R131 for the tile at the issue stage: the fault, or the bounds. -/
def Device.tileCheck (d : Device) (u : Nat) (t : Tile) (rec : List Byte) : MuFault ⊕ (Nat × Nat × Nat) :=
  let cv := d.cntVal u
  let m := d.boundOf u t.bsrcM t.m t.breg rec 0
  let n := d.boundOf u t.bsrcN t.n (t.breg + 1) rec 1
  let k := d.boundOf u t.bsrcK t.k (t.breg + 2) rec 2
  if t.m < m then .inl (.over_ 1 m)
  else if t.n < n then .inl (.over_ 2 n)
  else if t.k < k then .inl (.over_ 3 k)
  else
    match t.footprint cv with
    | some f => .inl f
    | none =>
      match t.rangeCheck (accEffective t.accBase t.accEn t.accCnt t.accStride cv) (d.mu u).ranges with
      | some f => .inl f
      | none => .inr (m, n, k)

/-- The entry that a tile claims (R132, R162). -/
def Mu.claim (m : Mu) (t : Tile) (a : Nat) (fresh : Bool) : Mu :=
  match findRange m.ranges a t.m t.n with
  | some _ =>
    m.modRange a fun e =>
      { e with state := .accumulating, fp32 := t.isF32, flags := if fresh then .none else e.flags,
               poison := if fresh then false else e.poison }
  | none =>
    { m with ranges := m.ranges ++ [{ base := a, m := t.m, n := t.n, state := .accumulating, flags := .none,
                                      poison := false, fp32 := t.isF32 }] }

/-- A tile at the issue stage: the array takes the next one once the operands of the one before have been read, and
holds at most two that have not retired (R112). -/
def Device.tileIssue (d : Device) (u : Nat) (t : Tile) : Device :=
  let m := d.mu u
  let sec := d.section u
  if !(m.jobs.all (·.ready)) || decide (2 ≤ m.jobs.length) then d
  else
    let bounded := t.bsrcM == 2 || t.bsrcN == 2 || t.bsrcK == 2
    let (rec, recBad, m) := if bounded then m.readRow t.baddr else ([], false, m)
    let d := d.modMu u fun _ => m
    match d.tileCheck u t rec with
    | .inl f => d.muFault u m.pc f
    | .inr (bm, bn, bk) =>
      let cv := d.cntVal u
      let a := accEffective t.accBase t.accEn t.accCnt t.accStride cv
      let fresh := d.overwrites u t
      let (ra, _) := t.shapeA bm bk
      let (rb, _) := t.shapeB bn bk
      let (_, wa) := t.a.shape t.m t.k
      let (_, wb) := t.b.shape t.k t.n
      let op (x : OpDesc) (w bits cols rows : Nat) : OperandJob :=
        { desc := BitVec.ofNat 64 w, first := x.first cv, bytes := [],
          fill := streamRows x (x.first cv) (spanRows bits cols) rows }
      let job : MmaJob :=
        { instr := m.pc, fmt := t.fmt, group := t.group, m := t.m, n := t.n, k := t.k, bm := bm, bn := bn, bk := bk,
          base := a, overwrite := fresh, a := op t.a (muWord sec m.pc 1) (fmtA t.fmt).bits wa ra,
          b := op t.b (muWord sec m.pc 2) (fmtB t.fmt).bits wb rb, table := [], ready := false, poison := false }
      let i := m.jobs.length
      let d := d.modMu u fun m => let m := m.claim t a fresh; { m with jobs := m.jobs ++ [job] }
      (if recBad then d.jobPoison u i else d).muNext u

/-- MMA (R121 to R131). -/
def Device.mma (u : Nat) (d : Device) : Device :=
  if d.muReady u 1 then d.tileIssue u (tileAt (d.section u) (d.mu u).pc) else d

def execMma (u : SiteIx) (s : State) : Host.Outcome State Fault Refusal := s.lift (Device.mma u.val)

/-- VMMA (R145). -/
def Device.vmma (u : Nat) (d : Device) : Device :=
  if d.muReady u 2 then d.tileIssue u (tileAt (d.section u) (d.mu u).pc) else d

def execVmma (u : SiteIx) (s : State) : Host.Outcome State Fault Refusal := s.lift (Device.vmma u.val)

/-! ### The algorithms (R155 to R159) -/

/-- The operands of a job as its algorithm reads them. -/
structure Product where
  t : Tile
  a : OpData
  b : OpData
  table : List Byte
  bk : Nat
  deriving DecidableEq, Repr

def MmaJob.product (j : MmaJob) (t : Tile) : Product :=
  { t := t, bk := j.bk, table := j.table,
    a := { bits := (fmtA t.fmt).bits, s := spanRows (fmtA t.fmt).bits (t.shapeA j.bm j.bk).2, bytes := j.a.bytes },
    b := { bits := (fmtB t.fmt).bits, s := spanRows (fmtB t.fmt).bits (t.shapeB j.bn j.bk).2, bytes := j.b.bytes } }

/-- dA(i, k) × dB(k, j), exact (R150); 0 at or beyond the K bound (R128). -/
def Product.intTerm (p : Product) (i j k : Nat) : Int :=
  if p.bk ≤ k then 0
  else
    let g := k / p.t.groupLen
    let zb := (p.t.record p.table g).getD j 0
    let da := intOf p.t.a.signed p.a.bits (p.t.a.elem p.a i k) - p.t.a.zero p.a.bits 0
    let db := intOf p.t.b.signed p.b.bits (p.t.b.elem p.b k j) - p.t.b.zero p.b.bits zb.toNat
    da * db

/-- The exact integer sum over a range of k. -/
def Product.intSum (p : Product) (i j lo n : Nat) : Int :=
  (List.range n).foldl (fun s x => s + p.intTerm i j (lo + x)) 0

/-- a(i, k) × b(k, j), exact, with INV; +0 at or beyond the K bound (R128, R153). -/
def Product.fltTerm (p : Product) (i j k : Nat) : Fl × Bool :=
  if p.bk ≤ k then (.fin false 0 0, false)
  else
    match fmtA p.t.fmt, fmtB p.t.fmt with
    | .flt fa, .flt fb => (decodeFl fa (p.t.a.elem p.a i k)).mul (decodeFl fb (p.t.b.elem p.b k j))
    | _, _ => (.fin false 0 0, false)

/-- The exact sum of the 32 products of K-group `q`, with INV. -/
def Product.fltSum (p : Product) (i j q : Nat) : Fl × Bool :=
  (List.range 31).foldl (fun (s : Fl × Bool) x =>
    let (y, v) := p.fltTerm i j (32 * q + x + 1)
    let (z, w) := s.1.add y
    (z, s.2 || v || w)) (p.fltTerm i j (32 * q))

/-- acc + t, with the flags so far. -/
def accAdd (s : Word × Flags) (t : Word × Flags) : Word × Flags :=
  let (r, f) := addF32 s.1 t.1
  (r, (s.2.or t.2).or f)

/-- Integer (R156). -/
def Product.integer (p : Product) (i j : Nat) (start : Word) : Word × Flags :=
  (List.range (ceilDiv p.t.k 32)).foldl (fun (s : Word × Flags) q =>
    let (r, f) := satI32 (s.1.toInt + p.intSum i j (32 * q) 32)
    (r, s.2.or f)) (start, .none)

/-- Grouped integer (R157). -/
def Product.grouped (p : Product) (i j : Nat) (start : Word) : Word × Flags :=
  let g := p.t.groupLen
  (List.range (ceilDiv p.t.k g)).foldl (fun (s : Word × Flags) q =>
    if p.bk ≤ q * g then accAdd s (0, .none)
    else
      let sum := p.intSum i j (q * g) (min ((q + 1) * g) p.t.k - q * g)
      let (x, v) := (Fl.ofInt sum 0).mul (fl32 (p.t.scale p.table q j))
      accAdd s (withInv v (toF32 x))) (start, .none)

/-- Float K-group (R158). -/
def Product.kgroup (p : Product) (i j : Nat) (start : Word) : Word × Flags :=
  (List.range (ceilDiv p.t.k 32)).foldl (fun (s : Word × Flags) q =>
    let (x, v) := p.fltSum i j q
    accAdd s (withInv v (toF32 x))) (start, .none)

/-- FP32 sequential (R159). -/
def Product.sequential (p : Product) (i j : Nat) (start : Word) : Word × Flags :=
  (List.range (32 * ceilDiv p.t.k 32)).foldl (fun (s : Word × Flags) k =>
    let (x, v) := p.fltTerm i j k
    accAdd s (withInv v (toF32 x))) (start, .none)

/-- The start value of R155. -/
def Tile.startValue (t : Tile) : Word := if t.isF32 then 0x80000000 else 0

/-- The algorithm of R155 for one element. -/
def Product.run (p : Product) (i j : Nat) (start : Word) : Word × Flags :=
  if p.t.group ≠ 0 then p.grouped i j start
  else if p.t.fmt ≤ 2 then p.integer i j start
  else if p.t.fmt = 9 then p.sequential i j start
  else p.kgroup i j start

/-! ### Retirement (R112, R129, R132, R141, R142) -/

/-- The residue of an accumulator word: its pattern, read as an integer, mod 3 (log 5). -/
def wordResidue (w : Word) : Nat := (w.toInt % 3).toNat

/-- The stored residue of a word that has saturated: the checks exempt it (R141). -/
def residueSat : Nat := 3

/-- The stored residue of an accumulator word does not match it; infinities, NaNs and saturated words are exempt (R141). -/
def Mu.residueBad (m : Mu) (f32 : Bool) (w : Nat) : Bool :=
  let x := m.acc.getD w 0
  let r := m.residue.getD w 0
  let finite := match fl32 x with | .fin .. => true | _ => false
  r != residueSat && (!f32 || finite) && r != wordResidue x

/-- The sum of the element's products mod 3, from the residues of its operands after zero-point subtraction (R141). -/
def Product.residue (p : Product) (i j : Nat) : Nat :=
  (List.range p.t.k).foldl (fun s k => (s + (p.intTerm i j k % 3).toNat) % 3) 0

/-- A residue comparison has failed at an accumulator word (R142). -/
def Device.residueFail (d : Device) (u base instr word : Nat) : Device :=
  let d := d.modMu u fun m =>
    { (m.modRange base fun e => { e with poison := true }) with
      residueErr := satInc m.residueErr, flags := m.flags ||| 0x10 }
  (d.record 2 1 (d.atSite u) (leBytes 2 instr ++ leBytes 2 word)).raiseFree (siteRegion u) 0x07

/-- The value that the array writes back to word `w`, and whether the sums behind it are in error: a word that is upset is
not stated, nor is the residue of its sums (log 5, log 6). -/
def Device.arrayValue (d : Device) (u w : Nat) (v : Word) : Word × Bool × Device :=
  if (d.mu u).arrayUpset = some w then
    let (x, d) := d.drawWord
    let (e, d) := d.drawWord
    (x, e.toNat % 3 != 0, d.modMu u fun m => { m with arrayUpset := none })
  else (v, false, d)

/-- The comparison at a writeback of `v` over a word whose stored residue is `old` (R141): for integer pairs the value
with the residue of the old word plus that of the products, and for float pairs and grouped accumulation the sums before
their rounding and the old word. -/
def MmaJob.mismatch (j : MmaJob) (p : Product) (m : Mu) (w row col : Nat) (v : Word) (sumBad sat : Bool) : Bool :=
  let old := m.residue.getD w 0
  if p.t.isF32 then sumBad || (!j.overwrite && m.residueBad true w)
  else
    !sat && (j.overwrite || old != residueSat) &&
      wordResidue v != ((if j.overwrite then 0 else old) + p.residue row col) % 3

/-- Writes one in-bound element of a job, with its residue. -/
def Device.writeElem (d : Device) (u : Nat) (j : MmaJob) (p : Product) (row col : Nat) : Device :=
  let w := j.base + row * j.n + col
  let m := d.mu u
  let (v, f) := p.run row col (if j.overwrite then p.t.startValue else m.acc.getD w 0)
  let (v, sumBad, d) := d.arrayValue u w v
  let sat := !p.t.isF32 && f.ovf
  let d := d.modMu u fun m =>
    { (m.modRange j.base (·.flag f)) with acc := m.acc.put w v,
                                          residue := m.residue.put w (if sat then residueSat else wordResidue v) }
  if j.mismatch p m w row col v sumBad sat then d.residueFail u j.base j.instr w else d

/-- MMA_RETIRE (R112): the oldest MMA, whose operands have been read, writes its in-bound elements back. -/
def Device.mmaRetire (u : Nat) (d : Device) : Device :=
  if siteKind u != .mu || !d.unitRuns u then d
  else
    let d := d.muCapture u 0
    match (d.mu u).jobs with
    | [] => d
    | j :: rest =>
      if !j.ready then d
      else
        let p := j.product (tileAt (d.section u) j.instr)
        let d := (List.range j.bm).foldl (fun d r => (List.range j.bn).foldl (fun d c => d.writeElem u j p r c) d) d
        let more := rest.any fun k => k.base == j.base
        (d.modMu u fun m =>
          { (m.modRange j.base fun e => if e.state = .accumulating ∧ !more then { e with state := .resident } else e) with
            jobs := rest, tiles := satInc m.tiles }).progress (siteRegion u)

def execMmaRetire (u : SiteIx) (s : State) : Host.Outcome State Fault Refusal := s.lift (Device.mmaRetire u.val)

/-! ### DRAIN and the output stage (R135 to R139, R162 to R169, R446) -/

/-- DRAIN (R136). -/
def Device.drain (u : Nat) (d : Device) : Device :=
  if !d.muReady u 3 then d
  else
    let pc := (d.mu u).pc
    let sec := d.section u
    let x := drainAt sec pc
    let c := OutCfg.parse (muOutcfg sec x.ocfg)
    let bounded := x.bsrcM == 2 || x.bsrcN == 2
    let (rec, recBad, m) := if bounded then (d.mu u).readRow x.baddr else ([], false, d.mu u)
    let d := d.modMu u fun _ => m
    let bm := d.boundOf u x.bsrcM x.m x.breg rec 0
    let bn := d.boundOf u x.bsrcN x.n (x.breg + 1) rec 1
    let cv := d.cntVal u
    let a := accEffective x.accBase x.accEn x.accCnt x.accStride cv
    if x.m < bm then d.muFault u pc (.over_ 1 bm)
    else if x.n < bn then d.muFault u pc (.over_ 2 bn)
    else
      match x.footprint c cv with
      | some f => d.muFault u pc f
      | none =>
        match findRange (d.mu u).ranges a x.m x.n with
        | none => d.muFault u pc (.range a)
        | some e =>
          if e.state = .draining then d.muFault u pc (.range a)
          else
            let job : DrainJob :=
              { instr := pc, ocfg := x.ocfg, m := x.m, n := x.n, bm := bm, bn := bn, base := a, toNet := x.dest == 1,
                vc := x.vc, first := x.base + (if x.idxEn then cv x.cnt * x.stride else 0), pitch := x.pitch,
                begun := false, scale := [], bias := [], row := 0, col := 0, part := [], place := 0, word := none }
            (d.modMu u fun m =>
              { (m.modRange a fun e => { e with state := .draining, poison := e.poison || recBad }) with
                drains := m.drains ++ [job] }).muNext u

def execDrain (u : SiteIx) (s : State) : Host.Outcome State Fault Refusal := s.lift (Device.drain u.val)

/-- clip(x) (R164). -/
def clipF32 (lo hi x : Word) : Word :=
  let below (a b : Word) : Bool := match (fl32 a).compare (fl32 b) with | some c => decide (c < 0) | none => false
  let y := if below x lo then lo else x
  if below hi y then hi else y

/-- pack(x) by the configuration (R166, R167). -/
def OutCfg.pack (c : OutCfg) (x : Word) : Nat × Flags :=
  match c.fmt with
  | 0 => let (w, f) := packF32 x; (w.toNat, f)
  | 1 => packFl fp16 c.inf (fl32 x)
  | 2 => packFl bf16 c.inf (fl32 x)
  | 3 => packFl fp8e4 c.inf (fl32 x)
  | 4 => packFl fp8e5 c.inf (fl32 x)
  | 5 => packInt c.signed 8 (intOf c.signed 8 c.zero) (fl32 x)
  | _ => packInt c.signed 4 (intOf c.signed 4 c.zero) (fl32 x)

/-- The scale and bias vectors of a drain, as read (R163). -/
structure OutVectors where
  scale : List Byte
  bias : List Byte
  deriving DecidableEq, Repr

/-- The output stage on one accumulator word (R162). -/
def OutCfg.element (c : OutCfg) (v : OutVectors) (fp32 : Bool) (w : Word) (i j : Nat) : Nat × Flags :=
  let f32 (bs : List Byte) (k : Nat) : Word := BitVec.ofNat 32 (fieldAt bs (4 * k) 4)
  let x := if fp32 then w else f32OfInt w.toInt
  let (x, f1) := if c.scaleEn then mulF32 x (f32 v.scale (if c.perRow then i else j)) else (x, .none)
  let (x, f2) := if c.biasEn then addF32 x (f32 v.bias j) else (x, .none)
  let x := if c.clipEn then clipF32 c.clipLo c.clipHi x else x
  let (x, f3) := if c.lutEn then activate c.table x else (x, .none)
  let (b, f4) := c.pack x
  (b, ((f1.or f2).or f3).or f4)

/-- Runs of `k` elements. -/
def chunks {α : Type} (k : Nat) : Nat → List α → List (List α)
  | 0, _ => []
  | fuel + 1, l => if l.isEmpty then [] else l.take k :: chunks k fuel (l.drop k)

/-- A mismatch of a datapath check (R446): the record and DATAPATH_CHECK, whose ARG is the block, once per tick. -/
def Device.datapath (d : Device) (u block index : Nat) : Device :=
  (d.record 0x0B 1 (d.atSite u) (leBytes 1 block ++ leBytes 1 0 ++ leBytes 2 index)).raiseOnce (siteRegion u) 0x80
    (BitVec.ofNat 32 block)

def Device.modDrain (d : Device) (u : Nat) (f : DrainJob → DrainJob) : Device :=
  d.modMu u fun m => { m with drains := m.drains.modify 0 f }

/-- The range-table entry of a drain. -/
def Mu.entryOf (m : Mu) (j : DrainJob) : Option RangeEntry := m.ranges.find? fun e => e.base == j.base

/-- The output stage begins the oldest drain: it reads the scale and bias vectors once their banks are free (R107, R163).
Poisoned vectors, and a result that differs from its prediction, poison the entry (R139, R446). -/
def Device.drainBegin (d : Device) (u : Nat) (j : DrainJob) : Device :=
  let m := d.mu u
  let c := OutCfg.parse (muOutcfg (d.section u) j.ocfg)
  let rows (on : Bool) (r n : Nat) : List Nat := if on then (List.range (ceilDiv (4 * n) 64)).map (r + ·) else []
  let rs := rows c.scaleEn c.scaleRow (if c.perRow then j.m else j.n)
  let rb := rows c.biasEn c.biasRow j.n
  if !m.readFree (rs ++ rb) then d.muLost u
  else
    let (sb, ps, m) := m.readRows rs
    let (bb, pb, m) := m.readRows rb
    let upset := m.outUpset
    let d := (d.modMu u fun _ =>
      { (m.modRange j.base fun e => { e with poison := e.poison || ps || pb || upset }) with outUpset := false }).modDrain u
        fun j => { j with begun := true, scale := sb, bias := bb }
    if upset then d.datapath u 0 j.instr else d

/-- Accumulator words that the output stage takes in a clk (R138). -/
def drainWidth : Nat := 16

/-- The output stage has read the whole range. -/
def DrainJob.allRead (j : DrainJob) : Bool := decide (j.m ≤ j.row)

/-- The next accumulator words of a drain, in the order of R138: each is compared with its residue (R141), and those
within the bounds become elements of the word being packed, whose flags go to the entry at once (R169). A word is
complete when it is full or the in-bound row ends. -/
def Device.drainTake (d : Device) (u : Nat) (j : DrainJob) : Device :=
  let c := OutCfg.parse (muOutcfg (d.section u) j.ocfg)
  let fp32 := ((d.mu u).entryOf j).any (·.fp32)
  let cols := (List.range (min drainWidth (j.n - j.col))).map (j.col + ·)
  let place (col : Nat) : Nat := j.base + j.row * j.n + col
  let d := cols.foldl (fun d col =>
    if (d.mu u).residueBad fp32 (place col) then d.residueFail u j.base j.instr (place col) else d) d
  let es := (cols.filter fun col => decide (j.row < j.bm) && decide (col < j.bn)).map fun col =>
    c.element ⟨j.scale, j.bias⟩ fp32 ((d.mu u).acc.getD (place col) 0) j.row col
  let part := j.part ++ es
  let bits := outBits c.fmt
  let rowEnds := decide (j.bn ≤ j.col + drainWidth)
  let full := !part.isEmpty && (rowEnds || decide (512 / bits ≤ part.length))
  let word : DrainWord :=
    { row := j.first + j.row * j.pitch + j.place, bytes := packElems bits (part.map (·.1)),
      last := rowEnds && j.row + 1 == j.bm }
  let next := decide (j.n ≤ j.col + drainWidth)
  ((d.modMu u fun m => m.modRange j.base (·.flag (es.foldl (fun f e => f.or e.2) Flags.none))).modDrain u fun j =>
    { j with row := if next then j.row + 1 else j.row, col := if next then 0 else j.col + drainWidth,
             part := if full then [] else part, place := if next then 0 else if full then j.place + 1 else j.place,
             word := if full then some word else none }).progress (siteRegion u)

/-- The packed word of a drain is written into the scratchpad, once its bank is free, or leaves on the network, once it
holds a credit, with the entry's flags as they then stand (R138, R139, R169). -/
def Device.drainPut (d : Device) (u : Nat) (j : DrainJob) : Device :=
  match j.word with
  | none => d
  | some w =>
    let (f, poison) := match (d.mu u).entryOf j with | some e => (e.flags, e.poison) | none => (.none, false)
    if j.toNet then
      if d.outRoom u .vector j.vc then
        let item := Item.make .vector (le w.bytes) (d.combOf (siteRegion u)) j.vc w.last poison
        ((d.modDrain u fun j => { j with word := none }).unitSend u .vector
          { item with ovf := f.ovf, inv := f.inv, unf := f.unf }).progress (siteRegion u)
      else d
    else if (d.mu u).writeFree [w.row] then
      ((d.modMu u (·.writePart w.row 0 w.bytes poison)).modDrain u fun j => { j with word := none }).progress (siteRegion u)
    else d.muLost u

/-- A clk of the output stage, on the oldest drain: it begins once every MMA issued before it on that range has retired
(R132), and then takes words while none waits to leave. -/
def Device.drainClk (d : Device) (u : Nat) : Device :=
  match (d.mu u).drains with
  | [] => d
  | j :: _ =>
    if !j.begun then (if (d.mu u).jobs.any fun k => k.base == j.base then d else d.drainBegin u j)
    else
      let d := if j.word.isNone && !j.allRead then d.drainTake u j else d
      match (d.mu u).drains with
      | j :: _ => (d.drainOut u).drainPut u j
      | [] => d

/-- DRAIN_COMPLETE (R138, R139): the last word has been written or accepted, the entry is free, and its flags and poison
go to MU_FLAGS. -/
def Device.drainComplete (u : Nat) (d : Device) : Device :=
  if siteKind u != .mu || !d.unitRuns u then d
  else
    match (d.mu u).drains with
    | [] => d
    | j :: rest =>
      if !j.begun || !j.allRead || j.word.isSome then d
      else
        let (f, p) := match (d.mu u).entryOf j with | some e => (e.flags, e.poison) | none => (.none, false)
        let bits := natOfBool f.ovf + 2 * natOfBool f.inv + 4 * natOfBool f.unf + 8 * natOfBool p
        (d.modMu u fun m =>
          { m with ranges := m.ranges.filter fun e => e.base != j.base, drains := rest,
                   drainCount := satInc m.drainCount, flags := m.flags ||| BitVec.ofNat 5 bits }).progress (siteRegion u)

def execDrainComplete (u : SiteIx) (s : State) : Host.Outcome State Fault Refusal := s.lift (Device.drainComplete u.val)

/-! ### FENCE, LOOP, VEC, END, NOP (R116 to R119, R134) -/

/-- FENCE (R134). -/
def Device.fence (u : Nat) (d : Device) : Device :=
  if d.muReady u 4 && (d.mu u).jobs.isEmpty && !((d.mu u).ranges.any fun e => e.state == .draining) then d.muNext u else d

def execFence (u : SiteIx) (s : State) : Host.Outcome State Fault Refusal := s.lift (Device.fence u.val)

/-- LOOP (R117). -/
def Device.muLoop (u : Nat) (d : Device) : Device :=
  if !d.muReady u 5 then d
  else
    let pc := (d.mu u).pc
    let w := muWord (d.section u) pc 0
    let (back, d) := d.loopPass u 1 (bitsNat w 57 55) (bitsNat w 54 52) (bitsNat w 51 44) (pc + 1)
    (d.muGoto u (if back then bitsNat w 43 32 else pc + 1)).progress (siteRegion u)

def execLoop (u : SiteIx) (s : State) : Host.Outcome State Fault Refusal := s.lift (Device.muLoop u.val)

/-- VEC (R118): waits while the vector program of an earlier VEC runs. -/
def Device.vec (u : Nat) (d : Device) : Device :=
  if !d.muReady u 6 || (d.mu u).engine.running then d
  else
    let pc := (d.mu u).pc
    let w := muWord (d.section u) pc 0
    let d := d.modMu u fun m =>
      { m with engine := { m.engine with running := true, pc := bitsNat w 47 32 }, vecInstr := pc, vecWait := w.testBit 57 }
    -- With WAIT, the boundary at which a BRANCH acts is the clk after the issue stage passes the instruction (R115).
    if w.testBit 57 then (d.modMu u fun m => { m with pc := pc + 1 }).progress (siteRegion u) else d.muNext u

def execVec (u : SiteIx) (s : State) : Host.Outcome State Fault Refusal := s.lift (Device.vec u.val)

/-- END (R119). -/
def Device.muEnd (u : Nat) (d : Device) : Device :=
  let m := d.mu u
  if d.muReady u 7 && m.jobs.isEmpty && m.drains.isEmpty && !m.engine.running then
    (d.modMu u fun m => { m with state := 2 }).progress (siteRegion u)
  else d

def execEndOp (u : SiteIx) (s : State) : Host.Outcome State Fault Refusal := s.lift (Device.muEnd u.val)

/-- NOP (R116). -/
def Device.muNop (u : Nat) (d : Device) : Device := if d.muReady u 8 then d.muNext u else d

def execMuNop (u : SiteIx) (s : State) : Host.Outcome State Fault Refusal := s.lift (Device.muNop u.val)

end Sys2Proof.Machine
end

