-- ==== Sys2Proof/Machine/Vector.lean ====
section
/-! DEFINITION. The vector engines of the MUs and SFUs: their registers, the issue of vector instructions, the lane,
reduction, function, memory and network instructions (R180 to R204, R208, R209). The scale unit is in Scale.lean. -/

namespace Sys2Proof.Machine

/-! ### Programs and instructions (R186, R191) -/

def sfuMask (sec : List Byte) : Nat := fieldAt sec 8 2

/-- Slot records that stand before slot `s` (R186). -/
def sfuSlotsBelow (sec : List Byte) (s : Nat) : Nat := ((List.range s).filter fun k => (sfuMask sec).testBit k).length

def sfuProgram (sec : List Byte) : List Byte := (sec.drop (0x90 + 32 * sfuSlotsBelow sec 16)).take (fieldAt sec 4 4)

/-- The vector program of a site. -/
def Device.vecProgram (d : Device) (u : Nat) : List Byte :=
  match siteKind u with
  | .mu => muVector (d.section u)
  | _ => sfuProgram (d.section u)

/-- An instruction: the fields of word 0, and word 1 where it has one. -/
structure VIns where
  opc : Nat
  d : Nat
  a : Nat
  b : Nat
  ty : Nat
  x : Nat
  w1 : Nat
  deriving DecidableEq, Repr

/-- The instruction at offset `pc` in 4-byte units. -/
def vinsAt (prog : List Byte) (pc : Nat) : VIns :=
  let w := fieldAt prog (4 * pc) 4
  { opc := bitsNat w 31 26, d := bitsNat w 25 20, a := bitsNat w 19 14, b := bitsNat w 13 8, ty := bitsNat w 7 6,
    x := bitsNat w 5 0, w1 := fieldAt prog (4 * pc + 4) 4 }

/-- Opcodes of two words (R192). -/
def twoWords (opc : Nat) : Bool := decide (0x20 ≤ opc) && decide (opc ≤ 0x29)

/-! ### Registers (R182, R183) -/

def Device.eng (d : Device) (u : Nat) : Engine :=
  match siteKind u with
  | .mu => (d.mu u).engine
  | _ => (d.sfu u).engine

def Device.modEng (d : Device) (u : Nat) (f : Engine → Engine) : Device :=
  match siteKind u with
  | .mu => d.modMu u fun m => { m with engine := f m.engine }
  | _ => d.modSfu u fun m => { m with engine := f m.engine }

def Engine.vreg (e : Engine) (r : Nat) : VReg := e.v.getD r .reset
def Engine.lane (e : Engine) (r i : Nat) : Word := (e.vreg r).lanes.getD i 0
def Engine.sreg (e : Engine) (r : Nat) : SReg := e.s.getD r .reset
def Engine.sval (e : Engine) (r : Nat) : Word := (e.sreg r).val

/-- Lanes below VL. -/
def Engine.active (e : Engine) : List Nat := List.range e.vl.toNat

/-- Lanes written from lane 0 on; the others keep their bits (R183). -/
def putLanes (t : Tab Word) : Nat → List Word → Tab Word
  | _, [] => t
  | i, w :: ws => putLanes (t.put i w) (i + 1) ws

/-- Writes a vector register from lane 0 on, with its poison bit. DESIGN CHOICE (log 27): a short write from clean sources
clears the bit, although lanes at or beyond VL keep what was written under poison; R182 does not say. -/
def Engine.putV (e : Engine) (r : Nat) (ws : List Word) (poison : Bool) : Engine :=
  { e with v := e.v.upd r .reset fun x => { lanes := putLanes x.lanes 0 ws, poison := poison } }

def Engine.putS (e : Engine) (r : Nat) (w : Word) (poison : Bool) : Engine :=
  { e with s := e.s.put r { val := w, poison := poison } }

/-- Scalars from S[r] on, each with its poison. -/
def Engine.putSs (e : Engine) (r : Nat) : List (Word × Bool) → Engine
  | [] => e
  | (w, p) :: ws => (e.putS r w p).putSs (r + 1) ws

/-- Flags of lanes go to SFU_FLAGS or MU_FLAGS (R198); a register marked poisoned sets SFU_FLAGS.POISON. -/
def Device.vecFlags (d : Device) (u : Nat) (f : Flags) (poison : Bool) : Device :=
  let bits := natOfBool f.ovf + 2 * natOfBool f.inv + 4 * natOfBool f.unf
  match siteKind u with
  | .mu => d.modMu u fun m => { m with flags := m.flags ||| BitVec.ofNat 5 bits }
  | _ => d.modSfu u fun m => { m with flags := m.flags ||| BitVec.ofNat 4 (bits + 8 * natOfBool poison) }

/-- A load, a receive or a VBX has marked `n` registers poisoned (R185, R207). DESIGN CHOICE (log 27): a VBX with a bad
scale byte, which R207 counts in SFU_POISON, raises the event SFU_POISON too. -/
def Device.poisonRegs (d : Device) (u n : Nat) : Device :=
  if n = 0 ∨ siteKind u = .mu then d
  else (d.modSfu u fun m => { m with poison := satAdd m.poison n }).raiseOnceFree (siteRegion u) 0x08

/-- The index that a DATAPATH record and a fault name: the VEC instruction of an MU, the program offset in an SFU. -/
def Device.vecIndex (d : Device) (u : Nat) : Nat :=
  match siteKind u with
  | .mu => (d.mu u).vecInstr
  | _ => (d.eng u).pc

/-- Whether the next result of the engine differs from its prediction; the mismatch is reported (R446). -/
def Device.takeUpset (d : Device) (u block : Nat) : Bool × Device :=
  if (d.eng u).upset then (true, (d.modEng u fun e => { e with upset := false }).datapath u block (d.vecIndex u))
  else (false, d)

/-- A vector result: its lanes, their flags, and the poison of its sources. -/
def Device.writeV (d : Device) (u block r : Nat) (ws : List (Word × Flags)) (poison : Bool) : Device :=
  let (bad, d) := d.takeUpset u block
  let p := poison || bad
  (d.modEng u (·.putV r (ws.map (·.1)) p)).vecFlags u (ws.foldl (fun f w => f.or w.2) Flags.none) p

/-- Scalar results from S[r] on. -/
def Device.writeS (d : Device) (u block r : Nat) (ws : List Word) (f : Flags) (poison : Bool) : Device :=
  let (bad, d) := d.takeUpset u block
  let p := poison || bad
  (d.modEng u (·.putSs r (ws.map fun w => (w, p)))).vecFlags u f p

/-! ### Memory formats (R195) -/

def mfmtBits (m : Nat) : Nat :=
  match m with
  | 0 => 32
  | 1 => 16
  | 2 => 16
  | 6 => 4
  | 8 => 4
  | _ => 8

/-- The float format of a memory format, if it is one. -/
def mfmtFloat (m : Nat) : Option FloatFmt :=
  match m with
  | 1 => some fp16
  | 2 => some bf16
  | 3 => some fp8e4
  | 4 => some fp8e5
  | _ => none

/-- A stored element as a lane. -/
def widen (m : Nat) (signed : Bool) (v : Nat) : Word :=
  match mfmtFloat m with
  | some f => (toF32 (decodeFl f v)).1
  | none => if m = 5 ∨ m = 6 then BitVec.ofInt 32 (intOf signed (mfmtBits m) v) else BitVec.ofNat 32 v

/-- A lane as a stored element, with the flags of packing. -/
def narrowLane (m : Nat) (signed : Bool) (ty : Nat) (x : Word) : Nat × Flags :=
  match mfmtFloat m with
  | some f => packFl f false (fl32 x)
  | none =>
    if m = 5 ∨ m = 6 then
      let (n, cut) := clampInt (intRange signed (mfmtBits m)).1 (intRange signed (mfmtBits m)).2 (intWord ty x)
      (bitsOf (mfmtBits m) n, ovfIf cut)
    else (x.toNat % 2 ^ mfmtBits m, .none)

/-! ### Issue (R187, R189) -/

/-- Vector registers that an instruction reads or writes. -/
def VIns.vregs (i : VIns) : List Nat :=
  match i.opc with
  | 0x0F => [i.d]
  | 0x10 => [i.d]
  | 0x11 => [i.a]
  | 0x13 => if i.x.testBit 4 ∧ 5 ≤ i.x % 16 then [i.a, i.b] else [i.a]
  | 0x14 => []
  | 0x15 => []
  | 0x17 => []
  | 0x18 => []
  | 0x1B => []
  | 0x20 => [i.d]
  | 0x21 => [i.a]
  | 0x24 => [i.d]
  | 0x25 => [i.a]
  | o =>
    if [0x01, 0x02, 0x03, 0x04, 0x05, 0x06, 0x09, 0x0A].contains o then [i.d, i.a, i.b]
    else if [0x07, 0x08, 0x0B, 0x0C, 0x0D, 0x0E, 0x12, 0x16, 0x19, 0x1A].contains o then [i.d, i.a]
    else []

/-- N of SLD, SST, SRECV and SSEND. -/
def VIns.count (i : VIns) : Nat := bitsNat i.w1 31 28 + 1

/-- Scalar registers that a reduction writes (R200). -/
def redWidth (x : Nat) : Nat := let op := x % 16; if op < 5 then 1 else if op < 8 then 2 else 2 * (op - 7)

/-- Scalar registers that an instruction reads or writes. -/
def VIns.sregs (i : VIns) : List Nat :=
  let from_ (r n : Nat) := (List.range n).map (r + ·)
  match i.opc with
  | 0x10 => [i.a]
  | 0x11 => [i.d]
  | 0x13 => from_ i.d (redWidth i.x)
  | 0x14 => from_ i.a 2 ++ from_ i.d 2
  | 0x15 => [i.d, i.a, i.b]
  | 0x18 => [i.d]
  | 0x19 => [i.b]
  | 0x1A => [i.b]
  | 0x1B => [i.a]
  | 0x22 => from_ i.d i.count
  | 0x23 => from_ i.a i.count
  | 0x26 => from_ i.d i.count
  | 0x27 => from_ i.a i.count
  | 0x28 => [i.d]
  | 0x30 => if i.x = 2 then [i.b] else []
  | 0x31 => [i.a]
  | _ => []

/-- A receive that is not complete still has a write pending to a register that the instruction names. -/
def Engine.hazard (e : Engine) (prog : List Byte) (i : VIns) : Bool :=
  match e.recv with
  | none => false
  | some j =>
    let r := vinsAt prog j.instr
    if r.opc = 0x24 then i.vregs.contains r.d else r.sregs.any i.sregs.contains

/-- A receive ends: its register takes the words (R185, R195). DESIGN CHOICE (log 27): the OVF, INV and UNF bits of the
words go nowhere; R92 leaves them to this chapter, which is silent. -/
def Device.recvDone (d : Device) (u : Nat) (j : RecvJob) : Device :=
  let i := vinsAt (d.vecProgram u) j.instr
  let bad := j.got.any (·.poison)
  if i.opc = 0x24 then
    let m := bitsNat i.w1 31 28
    let bytes := j.got.flatMap Item.bytes
    let ws := (List.range j.vl).map fun k => widen m (i.w1.testBit 27) (elemAt bytes (mfmtBits m) k)
    let d := (d.modEng u fun e => { e.putV i.d ws bad with recv := none }).vecFlags u .none bad
    d.poisonRegs u (natOfBool bad)
  else
    let ws := j.got.map fun w => (w.data.setWidth 32, w.poison)
    let d := (d.modEng u fun e => { e.putSs i.d ws with recv := none }).vecFlags u .none bad
    d.poisonRegs u (ws.filter (·.2)).length

/-- A receive takes the words that have come, and ends with the last. -/
def Device.recvPump (d : Device) (u : Nat) : Nat → Device
  | 0 => d
  | fuel + 1 =>
    match (d.eng u).recv with
    | none => d
    | some j =>
      if j.left = 0 then d.recvDone u j
      else
        let key : BufKey := ⟨j.net, 4, j.vc⟩
        match (d.unit u).queue key with
        | [] => d
        | w :: ws =>
          (((d.modUnit u fun m => m.setQueue key ws).modEng u fun e =>
            { e with recv := some { j with left := j.left - 1, got := j.got ++ [w] } }).progress (siteRegion u)).recvPump u fuel

/-- A slot holds the issue stage of an SFU in SCLOSE (R206). -/
def Sfu.closing (m : Sfu) : Bool := m.slots.any fun p => p.2.closing.isSome || p.2.waitMsg

/-- The engine runs a program and its issue stage is not held. -/
def Device.vecRuns (d : Device) (u : Nat) : Bool :=
  d.unitRuns u &&
  (match siteKind u with
   | .mu => (d.mu u).state == 1 && (d.mu u).engine.running
   | .sfu => (d.sfu u).state == 1 && !(d.sfu u).closing
   | _ => false)

/-- The instruction at the issue stage of a vector engine. -/
def Device.vins (d : Device) (u : Nat) : VIns := vinsAt (d.vecProgram u) (d.eng u).pc

/-- The issue stage goes on at `pc`; an SFU takes a branch there (R189). -/
def Device.vecGoto (d : Device) (u pc : Nat) : Device :=
  match siteKind u with
  | .mu => d.modEng u fun e => { e with pc := pc }
  | _ =>
    d.modSfu u fun m =>
      let (pc, n) := m.unit.next pc
      { m with unit := n, engine := { m.engine with pc := pc } }

/-- An instruction that has not issued waits. A load or a store of an MU has then lost its bank, and counts the clk as
STARVE (R107, R188). -/
def Device.vecRetry (d : Device) (u opc : Nat) : Device :=
  match siteKind u with
  | .mu => if 0x20 ≤ opc ∧ opc ≤ 0x23 then d.muLost u else d
  | _ => d

/-- Issues the instruction at the issue stage, if its opcode is `opc` and no register that it names is pending. The
meaning may answer none: a resource that it needs is not free, or an input has not come. -/
def Device.vecIssue (d : Device) (u opc : Nat) (act : VIns → Device → Option Device) : Device :=
  if !d.vecRuns u then d
  else
    let d := d.recvPump u 40
    let i := d.vins u
    let pc := (d.eng u).pc
    if i.opc ≠ opc ∨ (d.eng u).hazard (d.vecProgram u) i then d
    else
      match act i d with
      | none => d.vecRetry u opc
      | some d' =>
        -- A fault leaves the issue stage where it is.
        let next := pc + if twoWords opc then 2 else 1
        if siteKind u == .sfu && (d'.sfu u).closing then
          -- An SCLOSE that waits: its boundary comes when the issue stage passes it (R115, R189).
          (d'.modEng u fun e => { e with pc := next }).progress (siteRegion u)
        else if d'.vecRuns u then (d'.vecGoto u next).progress (siteRegion u)
        else d'

/-! ### Lane instructions (R192, R198, R199, R204) -/

/-- An instruction that writes lanes 0 to VL − 1 of D, each from the same lane of its sources. -/
def Device.laneOp (d : Device) (u opc block : Nat) (srcs : VIns → List Nat) (f : VIns → (Nat → Word) → Word × Flags) :
    Device :=
  d.vecIssue u opc fun i d =>
    let e := d.eng u
    if e.vl = 0 then some d
    else
      some (d.writeV u block i.d (e.active.map fun k => f i fun r => e.lane r k)
        ((srcs i).any fun r => (e.vreg r).poison))

def srcAB (i : VIns) : List Nat := [i.a, i.b]
def srcA (i : VIns) : List Nat := [i.a]
def srcABD (i : VIns) : List Nat := [i.a, i.b, i.d]

/-- VADD. -/
def execVadd (u : SiteIx) (s : State) : Host.Outcome State Fault Refusal :=
  s.lift fun d => d.laneOp u.val 0x01 1 srcAB fun i r => addTy i.ty (r i.a) (r i.b)

/-- VSUB. -/
def execVsub (u : SiteIx) (s : State) : Host.Outcome State Fault Refusal :=
  s.lift fun d => d.laneOp u.val 0x02 1 srcAB fun i r => subTy i.ty (r i.a) (r i.b)

/-- VMUL. -/
def execVmul (u : SiteIx) (s : State) : Host.Outcome State Fault Refusal :=
  s.lift fun d => d.laneOp u.val 0x03 1 srcAB fun i r => mulTy i.ty (r i.a) (r i.b)

/-- VFMA. -/
def execVfma (u : SiteIx) (s : State) : Host.Outcome State Fault Refusal :=
  s.lift fun d => d.laneOp u.val 0x04 1 srcABD fun i r => fmaTy i.ty (r i.a) (r i.b) (r i.d)

/-- VMAX. -/
def execVmax (u : SiteIx) (s : State) : Host.Outcome State Fault Refusal :=
  s.lift fun d => d.laneOp u.val 0x05 1 srcAB fun i r => (extreme true i.ty (r i.a) (r i.b), .none)

/-- VMIN. -/
def execVmin (u : SiteIx) (s : State) : Host.Outcome State Fault Refusal :=
  s.lift fun d => d.laneOp u.val 0x06 1 srcAB fun i r => (extreme false i.ty (r i.a) (r i.b), .none)

/-- |x| of a lane; a NaN gives the device NaN and INV. -/
def absTy (ty : Nat) (x : Word) : Word × Flags :=
  if ty = 0 then (if (fl32 x).isNan then (devNan, .invalid) else (x &&& 0x7FFFFFFF, .none))
  else satTy ty (intWord ty x).natAbs

/-- −x of a lane. -/
def negTy (ty : Nat) (x : Word) : Word × Flags :=
  if ty = 0 then (if (fl32 x).isNan then (devNan, .invalid) else (negF32 x, .none)) else satTy ty (-intWord ty x)

/-- VABS. -/
def execVabs (u : SiteIx) (s : State) : Host.Outcome State Fault Refusal :=
  s.lift fun d => d.laneOp u.val 0x07 1 srcA fun i r => absTy i.ty (r i.a)

/-- VNEG. -/
def execVneg (u : SiteIx) (s : State) : Host.Outcome State Fault Refusal :=
  s.lift fun d => d.laneOp u.val 0x08 1 srcA fun i r => negTy i.ty (r i.a)

/-- VCMP. -/
def execVcmp (u : SiteIx) (s : State) : Host.Outcome State Fault Refusal :=
  s.lift fun d => d.laneOp u.val 0x09 1 srcAB fun i r => (if compareTy i.ty i.x (r i.a) (r i.b) then 1 else 0, .none)

/-- VSEL. -/
def execVsel (u : SiteIx) (s : State) : Host.Outcome State Fault Refusal :=
  s.lift fun d => d.laneOp u.val 0x0A 1 srcABD fun i r => (if r i.a = 0 then r i.d else r i.b, .none)

/-- VMOV. -/
def execVmov (u : SiteIx) (s : State) : Host.Outcome State Fault Refusal :=
  s.lift fun d => d.laneOp u.val 0x0B 1 srcA fun i r => (r i.a, .none)

/-- VCVT of a lane (R199). F32 to F32 is a float step too: a NaN gives the device NaN and INV (R153, R198). -/
def convertTy (src dst : Nat) (x : Word) : Word × Flags :=
  if src = dst then (if src = 0 ∧ (fl32 x).isNan then (devNan, .invalid) else (x, .none))
  else if src = 0 then
    match fl32 x with
    | .nan => (0, .invalid)
    | .inf s => (BitVec.ofInt 32 (if s then (tyRange dst).1 else (tyRange dst).2), ovfIf true)
    | .fin s m e => satTy dst (rni s m e)
  else if dst = 0 then (f32OfInt (intWord src x), .none)
  else satTy dst (intWord src x)

/-- VCVT. -/
def execVcvt (u : SiteIx) (s : State) : Host.Outcome State Fault Refusal :=
  s.lift fun d => d.laneOp u.val 0x0C 1 srcA fun i r => convertTy i.ty i.x (r i.a)

/-- VSHL. -/
def execVshl (u : SiteIx) (s : State) : Host.Outcome State Fault Refusal :=
  s.lift fun d => d.laneOp u.val 0x0D 1 srcA fun i r => (r i.a <<< i.x, .none)

/-- VSHR. -/
def execVshr (u : SiteIx) (s : State) : Host.Outcome State Fault Refusal :=
  s.lift fun d => d.laneOp u.val 0x0E 1 srcA fun i r =>
    (if i.ty = 1 then (r i.a).sshiftRight i.x else r i.a >>> i.x, .none)

/-- VFN. -/
def execVfn (u : SiteIx) (s : State) : Host.Outcome State Fault Refusal :=
  s.lift fun d => d.laneOp u.val 0x12 2 srcA fun i r => specialFn i.x (r i.a)

/-- VIOTA: lane i of D is i. -/
def Device.viota (u : Nat) (d : Device) : Device :=
  d.vecIssue u 0x0F fun i d =>
    let e := d.eng u
    if e.vl = 0 then some d else some (d.writeV u 1 i.d (e.active.map fun k => (BitVec.ofNat 32 k, .none)) false)

def execViota (u : SiteIx) (s : State) : Host.Outcome State Fault Refusal := s.lift (Device.viota u.val)

/-- VBCAST. -/
def Device.vbcast (u : Nat) (d : Device) : Device :=
  d.vecIssue u 0x10 fun i d =>
    let e := d.eng u
    if e.vl = 0 then some d
    else some (d.writeV u 1 i.d (e.active.map fun _ => (e.sval i.a, .none)) (e.sreg i.a).poison)

def execVbcast (u : SiteIx) (s : State) : Host.Outcome State Fault Refusal := s.lift (Device.vbcast u.val)

/-- VEXT: lane X of A, whatever VL is. -/
def Device.vext (u : Nat) (d : Device) : Device :=
  d.vecIssue u 0x11 fun i d =>
    let e := d.eng u
    some (d.writeS u 1 i.d [e.lane i.a i.x] .none (e.vreg i.a).poison)

def execVext (u : SiteIx) (s : State) : Host.Outcome State Fault Refusal := s.lift (Device.vext u.val)

/-! ### Reductions (R200 to R203) -/

/-- The empty value of MAX (`big`) or MIN for a type. -/
def emptyExtreme (big : Bool) (ty : Nat) : Word :=
  if ty = 0 then devNan
  else if ty = 1 then (if big then 0x80000000 else 0x7FFFFFFF)
  else if big then 0 else 0xFFFFFFFF

/-- The sum of lanes, exact before its one rounding or saturation (R201). -/
def sumLanes (ty : Nat) (square : Bool) (ws : List Word) : Word × Flags :=
  if ty = 0 then
    match ws.map fun w => if square then (fl32 w).mul (fl32 w) else (fl32 w, false) with
    | [] => (0x80000000, .none)
    | t :: ts =>
      let (x, inv) := ts.foldl (fun (s : Fl × Bool) y =>
        let (z, v) := s.1.add y.1
        (z, s.2 || v || y.2)) t
      withInv (inv || (ws.any fun w => (fl32 w).isNan)) (toF32 x)
  else satTy ty ((ws.map fun w => if square then intWord ty w * intWord ty w else intWord ty w).sum)

/-- A value with its index. -/
abbrev Pair := Word × Word

/-- The order of R202: a key that rises with the value, −0 below +0. -/
def orderKey (ty : Nat) (w : Word) : Int :=
  if ty = 0 then (if w.msb then -1 - ((w &&& 0x7FFFFFFF).toNat : Int) else (w.toNat : Int)) else intWord ty w

/-- Pair `p` ranks before `q`: the larger, or smaller, value; then the lower index. -/
def ranksBefore (big : Bool) (ty : Nat) (p q : Pair) : Bool :=
  let a := orderKey ty p.1
  let b := orderKey ty q.1
  if a = b then decide (p.2.toNat < q.2.toNat) else decide (b < a) == big

def insertPair (big : Bool) (ty : Nat) (p : Pair) : List Pair → List Pair
  | [] => [p]
  | q :: qs => if ranksBefore big ty p q then p :: q :: qs else q :: insertPair big ty p qs

/-- The `k` best pairs, NaNs left out, filled up with empty entries. -/
def bestPairs (big : Bool) (ty k : Nat) (ps : List Pair) : List Pair :=
  let sorted := (ps.filter fun p => !(ty == 0 && (fl32 p.1).isNan)).foldl (fun l p => insertPair big ty p l) []
  sorted.take k ++ List.replicate (k - sorted.length) (emptyExtreme big ty, 0xFFFFFFFF)

def pairWords (ps : List Pair) : List Word := ps.flatMap fun p => [p.1, p.2]

/-- The result registers of a reduction, from S[D] on, and its flags. DESIGN CHOICE (log 27): with ACC, an integer SUM
or SUMSQ saturates to the type before it is added to S[D], and again after. -/
def reduceLanes (e : Engine) (i : VIns) : List Word × Flags :=
  let op := i.x % 16
  let acc := i.x.testBit 5
  let ws := e.active.map (e.lane i.a)
  let held := e.sval i.d
  match op with
  | 2 => ([ws.foldl (extreme true i.ty) (if acc then held else emptyExtreme true i.ty)], .none)
  | 3 => ([ws.foldl (extreme false i.ty) (if acc then held else emptyExtreme false i.ty)], .none)
  | 4 =>
    let n := (ws.filter fun w => if i.ty = 0 then w &&& 0x7FFFFFFF != 0 else w != 0).length
    ([BitVec.ofNat 32 (min (n + if acc then held.toNat else 0) 0xFFFFFFFF)], .none)
  | _ =>
    if op < 2 then
      let (t, f) := sumLanes i.ty (op == 1) ws
      if acc then let (r, g) := addTy i.ty held t; ([r], f.or g) else ([t], f)
    else
      let k := if op < 8 then 1 else op - 7
      let big := op != 6
      let idx (j : Nat) : Word := if i.x.testBit 4 then e.lane i.b j else e.idx + BitVec.ofNat 32 j
      let new := e.active.map fun j => (e.lane i.a j, idx j)
      let old := if acc then (List.range k).map fun t => (e.sval (i.d + 2 * t), e.sval (i.d + 2 * t + 1)) else []
      (pairWords (bestPairs big i.ty k (old ++ new)), .none)

/-- VRED. -/
def Device.vred (u : Nat) (d : Device) : Device :=
  d.vecIssue u 0x13 fun i d =>
    let e := d.eng u
    let op := i.x % 16
    let acc := i.x.testBit 5
    let arg := decide (5 ≤ op)
    let d' :=
      if acc && e.vl == 0 then d
      else
        let (ws, f) := reduceLanes e i
        let src := e.vl != 0 && ((e.vreg i.a).poison || (arg && i.x.testBit 4 && (e.vreg i.b).poison))
        let held := acc && (List.range ws.length).any fun k => (e.sreg (i.d + k)).poison
        d.writeS u 3 i.d ws f (src || held)
    some (if arg && !i.x.testBit 4 then d'.modEng u fun e => { e with idx := e.idx + e.vl.setWidth 32 } else d')

def execVred (u : SiteIx) (s : State) : Host.Outcome State Fault Refusal := s.lift (Device.vred u.val)

/-- SARG. -/
def Device.sarg (u : Nat) (d : Device) : Device :=
  d.vecIssue u 0x14 fun i d =>
    let e := d.eng u
    let pair (r : Nat) : Pair := (e.sval r, e.sval (r + 1))
    let p := [i.a, i.a + 1, i.d, i.d + 1].any fun r => (e.sreg r).poison
    some (d.writeS u 3 i.d (pairWords (bestPairs (i.x == 0) i.ty 1 [pair i.a, pair i.d])) .none p)

def execSarg (u : SiteIx) (s : State) : Host.Outcome State Fault Refusal := s.lift (Device.sarg u.val)

/-- SOP. -/
def Device.sop (u : Nat) (d : Device) : Device :=
  d.vecIssue u 0x15 fun i d =>
    let e := d.eng u
    let a := e.sval i.a
    let b := e.sval i.b
    let (w, f) :=
      match i.x with
      | 0 => addTy i.ty a b
      | 1 => subTy i.ty a b
      | 2 => mulTy i.ty a b
      | 3 => (extreme true i.ty a b, .none)
      | _ => (extreme false i.ty a b, .none)
    some (d.writeS u 1 i.d [w] f ((e.sreg i.a).poison || (e.sreg i.b).poison))

def execSop (u : SiteIx) (s : State) : Host.Outcome State Fault Refusal := s.lift (Device.sop u.val)

/-! ### Memory (R193, R195, R197, R209) -/

/-- The effective row. -/
def Device.vecRow (d : Device) (u : Nat) (i : VIns) : Nat :=
  bitsNat i.w1 11 0 + if i.w1.testBit 23 then d.cntVal u (bitsNat i.w1 26 24) * bitsNat i.w1 22 12 else 0

/-- The bank of an SRAM row. -/
def sfuBank (row : Nat) : Nat := row % 4

/-- A row as a read finds it: as it stood before a write of the same clk. -/
def Sfu.rowNow (m : Sfu) (row : Nat) : List Byte × Option RowMark :=
  (m.before.find row).getD (m.sram.bytes (64 * row) 64, m.sram.mark row)

def Sfu.readRow (m : Sfu) (row : Nat) : List Byte × Bool × Sfu :=
  let (bs, mark) := m.rowNow row
  let m := { m with readers := sfuBank row :: m.readers }
  match mark with
  | none => (bs, false, m)
  | some .correctable => (bs, false, { m with sramCorr := satInc m.sramCorr })
  | some .uncorrectable => (bs, true, { m with sramUncorr := satInc m.sramUncorr })
  | some .poison => (bs, true, m)

def Sfu.readRows (m : Sfu) : List Nat → List Byte × Bool × Sfu
  | [] => ([], false, m)
  | r :: rs =>
    let (b, p, m) := m.readRow r
    let (bs, q, m) := m.readRows rs
    (b ++ bs, p || q, m)

def Sfu.writePart (m : Sfu) (row : Nat) (bs : List Byte) (poison : Bool) : Sfu :=
  { m with sram := m.sram.writeRow row 0 bs poison, before := m.before.put row (m.rowNow row),
           writers := sfuBank row :: m.writers, scrubBack := if m.scrubBack = some row then none else m.scrubBack }

/-- The engine may read, or write, `n` rows in this clk: an SFU makes one read and one write a clk (R197), and an MU's
vector engine comes after the other users of a bank (R107, R188). -/
def Device.vecMayRead (d : Device) (u row n : Nat) : Bool :=
  match siteKind u with
  | .mu => (d.mu u).readFree ((List.range n).map (row + ·))
  | _ => (d.sfu u).readers.isEmpty

def Device.vecMayWrite (d : Device) (u row n : Nat) : Bool :=
  match siteKind u with
  | .mu => (d.mu u).writeFree ((List.range n).map (row + ·))
  | _ => (d.sfu u).writers.isEmpty

/-- Reads `n` rows of the engine's memory. -/
def Device.vecRead (d : Device) (u row n : Nat) : List Byte × Bool × Device :=
  let rows := (List.range n).map (row + ·)
  match siteKind u with
  | .mu => let (b, p, m) := (d.mu u).readRows rows; (b, p, d.modMu u fun _ => m)
  | _ => let (b, p, m) := (d.sfu u).readRows rows; (b, p, d.modSfu u fun _ => m)

/-- Writes bytes from the start of a row on, row by row. -/
def Device.vecWrite (d : Device) (u row : Nat) (bs : List Byte) (poison : Bool) : Device :=
  (List.range (ceilDiv bs.length 64)).foldl (fun d k =>
    let part := (bs.drop (64 * k)).take 64
    match siteKind u with
    | .mu => d.modMu u fun m => m.writePart (row + k) 0 part poison
    | _ => d.modSfu u (·.writePart (row + k) part poison)) d

/-- An access of `n` bytes ends beyond the memory: its computed last row (R209). -/
def vecBeyond (u row n : Nat) : Option Nat :=
  let last := row + ceilDiv n 64 - 1
  let top := match siteKind u with | .mu => 4095 | _ => 1023
  if n ≠ 0 ∧ top < last then some last else none

/-- BUF_OVERRUN of a vector engine (R209). DESIGN CHOICE (log 27): a computed last row of 2^32 or more is recorded modulo
2^32. -/
def Device.vecFault (d : Device) (u reason last : Nat) : Device :=
  match siteKind u with
  | .mu => d.muFault u (d.mu u).vecInstr (.buf 4 last)
  | _ =>
    (d.modSfu u fun m =>
      { m with state := 3, faultCode := 2, faultReason := BitVec.ofNat 4 reason,
               faultInstr := BitVec.ofNat 16 m.engine.pc, faultValue := BitVec.ofNat 32 last }).unitFault u 0x27 reason
      (last % 2 ^ 32) 0xFFFFFFFF

/-- VLD. -/
def Device.vld (u : Nat) (d : Device) : Device :=
  d.vecIssue u 0x20 fun i d =>
    let e := d.eng u
    let m := bitsNat i.w1 31 28
    let n := elemBytesOf (mfmtBits m) e.vl.toNat
    let row := d.vecRow u i
    match vecBeyond u row n with
    | some last => some (d.vecFault u 1 last)
    | none =>
      if n = 0 then some d
      else if !d.vecMayRead u row (ceilDiv n 64) then none
      else
        let (bs, bad, d) := d.vecRead u row (ceilDiv n 64)
        let ws := e.active.map fun k => widen m (i.w1.testBit 27) (elemAt bs (mfmtBits m) k)
        some (((d.modEng u (·.putV i.d ws bad)).vecFlags u .none bad).poisonRegs u (natOfBool bad))

def execVld (u : SiteIx) (s : State) : Host.Outcome State Fault Refusal := s.lift (Device.vld u.val)

/-- The packed bytes of lanes below VL, with their flags. -/
def Engine.packed (e : Engine) (i : VIns) : List Byte × Flags :=
  let m := bitsNat i.w1 31 28
  let es := e.active.map fun k => narrowLane m (i.w1.testBit 27) i.ty (e.lane i.a k)
  (packElems (mfmtBits m) (es.map (·.1)), es.foldl (fun f x => f.or x.2) Flags.none)

/-- VST. -/
def Device.vst (u : Nat) (d : Device) : Device :=
  d.vecIssue u 0x21 fun i d =>
    let e := d.eng u
    let (bs, f) := e.packed i
    let row := d.vecRow u i
    match vecBeyond u row bs.length with
    | some last => some (d.vecFault u 2 last)
    | none =>
      if !d.vecMayWrite u row (ceilDiv bs.length 64) then none
      else some ((d.vecWrite u row bs (e.vreg i.a).poison).vecFlags u f false)

def execVst (u : SiteIx) (s : State) : Host.Outcome State Fault Refusal := s.lift (Device.vst u.val)

/-- SLD. -/
def Device.sld (u : Nat) (d : Device) : Device :=
  d.vecIssue u 0x22 fun i d =>
    let row := d.vecRow u i
    match vecBeyond u row (4 * i.count) with
    | some last => some (d.vecFault u 1 last)
    | none =>
      if !d.vecMayRead u row 1 then none else
      let (bs, bad, d) := d.vecRead u row 1
      let ws := (List.range i.count).map fun k => (BitVec.ofNat 32 (fieldAt bs (4 * k) 4), bad)
      some (((d.modEng u (·.putSs i.d ws)).vecFlags u .none bad).poisonRegs u (if bad then i.count else 0))

def execSld (u : SiteIx) (s : State) : Host.Outcome State Fault Refusal := s.lift (Device.sld u.val)

/-- SST. -/
def Device.sst (u : Nat) (d : Device) : Device :=
  d.vecIssue u 0x23 fun i d =>
    let e := d.eng u
    let row := d.vecRow u i
    match vecBeyond u row (4 * i.count) with
    | some last => some (d.vecFault u 2 last)
    | none =>
      if !d.vecMayWrite u row 1 then none else
      let regs := (List.range i.count).map (i.a + ·)
      some (d.vecWrite u row (regs.flatMap fun r => leBytes 4 (e.sval r).toNat) (regs.any fun r => (e.sreg r).poison))

def execSst (u : SiteIx) (s : State) : Host.Outcome State Fault Refusal := s.lift (Device.sst u.val)

/-! ### Networks (R187, R194, R195) -/

/-- VRECV: takes the receive port until its words have come. -/
def Device.vrecv (u : Nat) (d : Device) : Device :=
  d.vecIssue u 0x24 fun i d =>
    let e := d.eng u
    let n := ceilDiv (elemBytesOf (mfmtBits (bitsNat i.w1 31 28)) e.vl.toNat) 64
    if e.recv.isSome then none
    else if n = 0 then some d
    else
      some ((d.modEng u fun e =>
        { e with recv := some { instr := e.pc, net := .vector, vc := bitsNat i.w1 26 24, left := n, got := [],
                                vl := e.vl.toNat } }).recvPump u (n + 1))

def execVrecv (u : SiteIx) (s : State) : Host.Outcome State Fault Refusal := s.lift (Device.vrecv u.val)

/-- SRECV. -/
def Device.srecv (u : Nat) (d : Device) : Device :=
  d.vecIssue u 0x26 fun i d =>
    if (d.eng u).recv.isSome then none
    else
      some ((d.modEng u fun e =>
        { e with recv := some { instr := e.pc, net := .scalar, vc := bitsNat i.w1 26 24, left := i.count, got := [],
                                vl := e.vl.toNat } }).recvPump u (i.count + 1))

def execSrecv (u : SiteIx) (s : State) : Host.Outcome State Fault Refusal := s.lift (Device.srecv u.val)

/-- Words sent one after the other, the last with `last`. -/
def Device.sendWords (d : Device) (u : Nat) (net : Net) (vc : Nat) (last : Bool) : List (Nat × Bool) → Device
  | [] => d
  | (w, p) :: ws =>
    (d.unitSend u net (Item.make net w (d.combOf (siteRegion u)) vc (last && ws.isEmpty) p)).sendWords u net vc last ws

/-- VSEND: the send port is free once the words of the send before have entered the switch. -/
def Device.vsend (u : Nat) (d : Device) : Device :=
  d.vecIssue u 0x25 fun i d =>
    let d := d.drainOut u
    if !(d.unit u).out.isEmpty then none
    else
      let e := d.eng u
      let (bs, f) := e.packed i
      let ws := (chunks 64 (bs.length + 1) bs).map fun c => (le c, (e.vreg i.a).poison)
      some ((d.sendWords u .vector (bitsNat i.w1 26 24) (i.w1.testBit 23) ws).vecFlags u f false)

def execVsend (u : SiteIx) (s : State) : Host.Outcome State Fault Refusal := s.lift (Device.vsend u.val)

/-- SSEND. -/
def Device.ssend (u : Nat) (d : Device) : Device :=
  d.vecIssue u 0x27 fun i d =>
    let d := d.drainOut u
    if !(d.unit u).out.isEmpty then none
    else
      let e := d.eng u
      let ws := (List.range i.count).map fun k => ((e.sval (i.a + k)).toNat, (e.sreg (i.a + k)).poison)
      some (d.sendWords u .scalar (bitsNat i.w1 26 24) (i.w1.testBit 23) ws)

def execSsend (u : SiteIx) (s : State) : Host.Outcome State Fault Refusal := s.lift (Device.ssend u.val)

/-! ### Control (R184, R189, R190, R192, R208) -/

/-- SLI. -/
def Device.sli (u : Nat) (d : Device) : Device :=
  d.vecIssue u 0x28 fun i d => some (d.modEng u (·.putS i.d (BitVec.ofNat 32 i.w1) false))

def execSli (u : SiteIx) (s : State) : Host.Outcome State Fault Refusal := s.lift (Device.sli u.val)

/-- VLOOP: the pass of R117, with TARGET in 4-byte units of the program. -/
def Device.vloop (u : Nat) (d : Device) : Device :=
  if !d.vecRuns u then d
  else
    let d := d.recvPump u 40
    let i := d.vins u
    if i.opc ≠ 0x29 then d
    else
      let pc := (d.eng u).pc
      let by_ := match siteKind u with | .mu => 2 | _ => 1
      let (back, d) := d.loopPass u by_ (bitsNat i.w1 31 29) (bitsNat i.w1 28 26) (bitsNat i.w1 25 18) (pc + 2)
      (d.vecGoto u (if back then bitsNat i.w1 17 6 else pc + 2)).progress (siteRegion u)

def execVloop (u : SiteIx) (s : State) : Host.Outcome State Fault Refusal := s.lift (Device.vloop u.val)

/-- The length that SETVL sets (R184). -/
def Device.newVl (d : Device) (u : Nat) (i : VIns) : Nat :=
  match i.x with
  | 0 => i.b + 1
  | 1 => min 64 ((d.shapeReg u i.b).toNat - 64 * d.cntVal u i.a)
  | _ => min 64 ((d.eng u).sval i.b).toNat

/-- SETVL. -/
def Device.setvl (u : Nat) (d : Device) : Device :=
  d.vecIssue u 0x30 fun i d => some (d.modEng u fun e => { e with vl := BitVec.ofNat 7 (d.newVl u i) })

def execSetvl (u : SiteIx) (s : State) : Host.Outcome State Fault Refusal := s.lift (Device.setvl u.val)

/-- SETIDX. -/
def Device.setidx (u : Nat) (d : Device) : Device :=
  d.vecIssue u 0x31 fun i d => some (d.modEng u fun e => { e with idx := e.sval i.a })

def execSetidx (u : SiteIx) (s : State) : Host.Outcome State Fault Refusal := s.lift (Device.setidx u.val)

/-- VNOP. -/
def execVnop (u : SiteIx) (s : State) : Host.Outcome State Fault Refusal :=
  s.lift fun d => d.vecIssue u.val 0x3E fun _ d => some d

/-- VEND (R190). -/
def Device.vend (u : Nat) (d : Device) : Device :=
  if !d.vecRuns u then d
  else
    let d := (d.recvPump u 40).drainOut u
    if (d.vins u).opc ≠ 0x3F then d
    else
      match siteKind u with
      | .mu =>
        let m := d.mu u
        let d := d.modMu u fun m => { m with engine := { m.engine with running := false }, vecWait := false }
        -- The issue stage passes a VEC with WAIT: an instruction boundary (R115).
        (if m.vecWait then d.muGoto u m.pc else d).progress (siteRegion u)
      | _ =>
        if (d.eng u).recv.isSome || !(d.unit u).out.isEmpty then d
        else (d.modSfu u fun m => { m with state := 2 }).progress (siteRegion u)

def execVend (u : SiteIx) (s : State) : Host.Outcome State Fault Refusal := s.lift (Device.vend u.val)

/-- The summary bus takes 4 summaries a clk (R221): those that SFUs have sent in the clk of hub time `now`, of `clk` units,
are due 24 clk after it, and in ascending y and then x one clk later for each group of 4 before them. -/
def summaryBus (clk now : Nat) (ms : List SummaryMsg) : List SummaryMsg :=
  let sent (m : SummaryMsg) : Bool := !m.pub && m.sent / clk == now / clk
  ms.map fun m =>
    if sent m then { m with due := m.sent + (24 + (ms.filter fun x => sent x && decide (x.src < m.src)).length / 4) * clk }
    else m

/-- A summary enters the bus of the region's pilot, stamped with the active comb (R208, R221). -/
def Device.sendSummary (d : Device) (u idx op ty : Nat) (v : Word) (poison : Bool) : Device :=
  (d.modSfu u fun m => { m with summaries := satInc m.summaries }).modPilot (siteRegion u) fun p =>
    { p with sumBus := summaryBus (clkUnits (d.pwrRegion (siteRegion u)).freq.toNat) d.now (p.sumBus ++
        [{ pub := false, src := 36 * siteY u + siteX u, sent := d.now, due := 0, idx := idx, op := op,
           ty := BitVec.ofNat 2 ty, val := v, poison := poison, epoch := p.comb }]) }

/-- VSUM. -/
def Device.vsum (u : Nat) (d : Device) : Device :=
  d.vecIssue u 0x1B fun i d => some (d.sendSummary u i.d i.x i.ty ((d.eng u).sval i.a) ((d.eng u).sreg i.a).poison)

def execVsum (u : SiteIx) (s : State) : Host.Outcome State Fault Refusal := s.lift (Device.vsum u.val)

end Sys2Proof.Machine
end

