-- ==== Sys2Proof/Machine/Scale.lean ====
section
/-! DEFINITION. The scale units of the SFUs and the KV-block conversions (R171 to R179, R205 to R207). -/

namespace Sys2Proof.Machine

/-! ### Slot records (R174) -/

structure SlotRec where
  mode : Nat
  fmt : Nat
  hist : Nat
  redo : Bool
  leader : Bool
  clip : Nat
  zero : Nat
  margin : Word
  init : Word
  members : Nat
  vc : Nat
  deriving DecidableEq, Repr

/-- A field that is 0 takes its default. -/
def orDefault (v dflt : Nat) : Nat := if v = 0 then dflt else v

def SlotRec.parse (bs : List Byte) : SlotRec :=
  let f := fieldAt bs 3 1
  { mode := fieldAt bs 0 1, fmt := fieldAt bs 1 1, hist := orDefault (fieldAt bs 2 1) 4, redo := f.testBit 0,
    leader := f.testBit 1, clip := orDefault (fieldAt bs 4 2) 64, zero := orDefault (fieldAt bs 6 2) 4096,
    margin := BitVec.ofNat 32 (orDefault (fieldAt bs 8 4) 0x3F900000), init := BitVec.ofNat 32 (fieldAt bs 12 4),
    members := fieldAt bs 16 1, vc := fieldAt bs 17 1 }

/-- The bytes of slot `s`'s record in an SFU section. -/
def slotBytes (sec : List Byte) (s : Nat) : List Byte := sliceAt sec (0x90 + 32 * sfuSlotsBelow sec s) 32

/-- The record of a slot, in use or not, if the section has one. -/
def slotRecord (sec : List Byte) (s : Nat) : Option SlotRec :=
  if (sfuMask sec).testBit s then some (SlotRec.parse (slotBytes sec s)) else none

/-- The record of a slot that the section uses. -/
def slotRec (sec : List Byte) (s : Nat) : Option SlotRec := (slotRecord sec s).filter (·.mode == 1)

/-- QMAX as FP32. -/
def qmaxF32 (fmt : Nat) : Word :=
  match fmt with
  | 0 => 0x42FE0000
  | 1 => 0x40E00000
  | 2 => 0x43E00000
  | _ => 0x47600000

def Sfu.slot (m : Sfu) (s : Nat) : Slot := m.slots.getD s .reset
def Device.modSlot (d : Device) (u s : Nat) (f : Slot → Slot) : Device :=
  d.modSfu u fun m => { m with slots := m.slots.upd s .reset f }

/-- A slot takes an active scale and its reciprocal (R175). -/
def Slot.activate (s : Slot) (v : Word) : Slot := { s with scale := v, recip := (divF32 fOne v).1 }

/-- A slot as activation leaves it (R178). -/
def Slot.fresh (s : Slot) (r : SlotRec) : Slot :=
  { (s.activate r.init) with pending := r.init, hist := r.hist, history := [], cur := 0, redoUsed := false,
                             used := if r.mode = 1 then some (r.mode, r.fmt) else s.used }

/-- A swap to a comb whose record is `r`, in use or not (R178): a slot of another MODE or FMT is cleared. A pass does not
outlast the comb. -/
def Slot.swapped (s : Slot) (r : Option SlotRec) : Slot :=
  let s := { s with stats := .reset, reports := [], closing := none, waitMsg := false, waitClk := 0 }
  match r with
  | none => s
  | some r =>
    if s.used = some (r.mode, r.fmt) then { s with hist := r.hist }
    else if s.used = none then (if r.mode = 1 then { s.fresh r with closedInTick := s.closedInTick } else s)
    else s.fresh r

/-- A strike (R177). -/
def Slot.strike (s : Slot) : Slot :=
  if s.closedInTick then
    { (s.activate s.pending) with history := (s.cur :: s.history).take s.hist, cur := 0, redoUsed := false,
                                  closedInTick := false }
  else s

/-! ### VQNT (R175, R205) -/

/-- One element through a slot: the lane, its flags, and whether it was clipped and whether it was zeroed. -/
def Slot.convert (s : Slot) (fmt : Nat) (x : Word) : Word × Flags × Bool × Bool :=
  let v := fl32 x
  let (y, f) := mulF32 x s.recip
  let (code, g) : Nat × Flags :=
    match fmt with
    | 0 => symmetric 127 (fl32 y)
    | 1 => symmetric 7 (fl32 y)
    | 2 => packFl fp8e4 false (fl32 y)
    | _ => packFl fp8e5 false (fl32 y)
  let finite := match v with | .fin .. => true | _ => false
  let zero := if fmt < 2 then code == 0 else code % 128 == 0
  (BitVec.ofNat 32 code, f.or g, !finite || g.ovf, finite && !v.isZero && zero)
where
  /-- q = RNI(y), clamped to −QMAX .. QMAX, as I32. -/
  symmetric (q : Int) : Fl → Nat × Flags
    | .nan => (0, .invalid)
    | .inf s => (bitsOf 32 (if s then -q else q), ovfIf true)
    | .fin s m e => let (n, cut) := clampInt (-q) q (rni s m e); (bitsOf 32 n, ovfIf cut)

/-- The largest |x| over the finite elements, by R161. -/
def maxFinite (m x : Word) : Word :=
  match fl32 x with
  | .fin .. => extremeF32 true m (x &&& 0x7FFFFFFF)
  | _ => m

/-- VQNT. -/
def Device.vqnt (u : Nat) (d : Device) : Device :=
  d.vecIssue u 0x16 fun i d =>
    match slotRec (d.section u) i.x with
    | none => some d
    | some r =>
      let e := d.eng u
      if e.vl = 0 then some d
      else
        let slot := (d.sfu u).slot i.x
        let xs := e.active.map (e.lane i.a)
        let rs := xs.map (slot.convert r.fmt)
        let d := d.writeV u 4 i.d (rs.map fun x => (x.1, x.2.1)) (e.vreg i.a).poison
        some (d.modSlot u i.x fun s =>
          { s with stats := { n := s.stats.n + xs.length, m := xs.foldl maxFinite s.stats.m,
                              c := s.stats.c + (rs.filter (·.2.2.1)).length,
                              z := s.stats.z + (rs.filter (·.2.2.2)).length } })

def execVqnt (u : SiteIx) (s : State) : Host.Outcome State Fault Refusal := s.lift (Device.vqnt u.val)

/-! ### Closing a pass (R176, R206) -/

def PassStats.add (a b : PassStats) : PassStats :=
  { n := a.n + b.n, m := extremeF32 true a.m b.m, c := a.c + b.c, z := a.z + b.z }

/-- f(v) of R176. -/
def scaleFor (r : SlotRec) (v : Word) : Word := (divF32 (mulF32 v r.margin).1 (qmaxF32 r.fmt)).1

/-- pending = f(v), left as it is where v is 0. -/
def Slot.pend (s : Slot) (r : SlotRec) (v : Word) : Slot :=
  if (fl32 v).isZero then s else { s with pending := scaleFor r v }

def halfF32 (x : Word) : Word := (mulF32 x 0x3F000000).1

/-- MAX(cur, the H − 1 newest entries). -/
def Slot.recent (s : Slot) (r : SlotRec) : Word := (s.history.take (r.hist - 1)).foldl (extremeF32 true) s.cur

/-- Outcomes of a pass: 0 neither, 1 scale miss, 2 scale too wide. -/
def passOutcome (r : SlotRec) (p : PassStats) : Nat :=
  if r.clip * p.n < p.c * 65536 then 1 else if r.zero * p.n < p.z * 65536 then 2 else 0

/-- The slot after the evaluation of a pass, and whether the members get a REDO scale. -/
def Slot.evaluate (s : Slot) (r : SlotRec) (p : PassStats) : Slot × Bool :=
  let s := { s with cur := extremeF32 true s.cur p.m }
  match passOutcome r p with
  | 1 =>
    let s := { s with history := [] }.pend r s.cur
    if r.redo && !s.redoUsed then ({ (s.activate s.pending) with redoUsed := true }, true) else (s, false)
  | 2 =>
    let s := { s with history := s.history.map fun e => extremeF32 true (halfF32 e) s.cur }
    (s.pend r (s.recent r), false)
  | _ => (s.pend r (s.recent r), false)

/-- A scale message to the members: KIND, scale, 0 (R176). -/
def Device.sendScale (d : Device) (u : Nat) (r : SlotRec) (kind : Nat) (v : Word) : Device :=
  if r.members = 0 then d else d.sendWords u .scalar r.vc true [(kind, false), (v.toNat, false), (0, false)]

/-- The leader evaluates its pass with the oldest MEMBERS reports; summary 63 is none. -/
def Device.closePass (d : Device) (u s : Nat) (r : SlotRec) (summary : Nat) : Device :=
  let slot := (d.sfu u).slot s
  let p := (slot.reports.take r.members).foldl PassStats.add slot.stats
  let (slot', redo) := slot.evaluate r p
  let out := passOutcome r p
  let d := d.modSlot u s fun _ =>
    { slot' with stats := .reset, reports := slot.reports.drop r.members, closedInTick := true, closing := none,
                 waitClk := 0 }
  let reg := siteRegion u
  let d :=
    if out = 1 then
      ((d.modSfu u fun m => { m with miss := satInc m.miss }).modTick fun t => { t with flags := t.flags ||| 0x10 }).raiseFree
        reg 0x09
    else if out = 2 then (d.modSfu u fun m => { m with wide := satInc m.wide }).raiseFree reg 0x0A
    else d
  let d := if redo then d.sendScale u r 1 slot'.scale else d
  let d := d.sendScale u r 0 slot'.pending
  if summary = 63 then d else d.sendSummary u summary 0 2 (if out = 1 then 1 else 0) false

/-- A member's report: m, then n, c and z, each saturating (R176). -/
def Device.sendReport (d : Device) (u : Nat) (r : SlotRec) (p : PassStats) : Device :=
  let sat (n : Nat) : Nat := min n 0xFFFFFFFF
  d.sendWords u .scalar r.vc true [(p.m.toNat, false), (sat p.n, false), (sat p.c, false), (sat p.z, false)]

/-- SCLOSE. -/
def Device.sclose (u : Nat) (d : Device) : Device :=
  d.vecIssue u 0x17 fun i d =>
    let s := i.x % 16
    match slotRec (d.section u) s with
    | none => some d
    | some r =>
      let slot := (d.sfu u).slot s
      if r.leader then
        if r.members ≤ slot.reports.length then some (d.closePass u s r i.b)
        else some (d.modSlot u s fun t => { t with closing := some i.b, waitClk := 0 })
      else
        some ((d.sendReport u r slot.stats).modSlot u s fun t =>
          { t with stats := .reset, closedInTick := true, waitMsg := i.x.testBit 4, waitClk := 0 })

def execSclose (u : SiteIx) (s : State) : Host.Outcome State Fault Refusal := s.lift (Device.sclose u.val)

/-- The first `n` scalar words of a channel, and the unit without them. DESIGN CHOICE (log 27): the bits of a report or
a scale message that comes with POISON are used, and the poison goes no further; R176 is silent. -/
def Unit.takeWords (m : Unit) (vc n : Nat) : Option (List Word × Unit) :=
  let q := m.queue ⟨.scalar, 4, vc⟩
  if q.length < n then none else some ((q.take n).map (·.data.setWidth 32), m.setQueue ⟨.scalar, 4, vc⟩ (q.drop n))

/-- The issue stage passes an SCLOSE that has waited: an instruction boundary (R115, R189). -/
def Device.passClose (d : Device) (u : Nat) : Device :=
  if (d.sfu u).closing then d else d.vecGoto u (d.eng u).pc

/-- SCALE_REPORT (R176): four words reach the leader slot; a close that waits for them is evaluated. -/
def Device.scaleReport (u s : Nat) (d : Device) : Device :=
  if siteKind u != .sfu || !d.unitRuns u || (d.sfu u).state != 1 then d
  else
    match slotRec (d.section u) s with
    | none => d
    | some r =>
      if !r.leader then d
      else
        match (d.unit u).takeWords r.vc 4 with
        | some ([m, n, c, z], rest) =>
          let p : PassStats := { m := m, n := n.toNat, c := c.toNat, z := z.toNat }
          let d := ((d.modUnit u fun _ => rest).modSlot u s fun t => { t with reports := t.reports ++ [p] }).progress
            (siteRegion u)
          let slot := (d.sfu u).slot s
          (match slot.closing with
           | some b => if r.members ≤ slot.reports.length then (d.closePass u s r b).passClose u else d
           | none => d)
        | _ => d

def execScaleReport (u : SiteIx) (slot : Fin 16) (s : State) : Host.Outcome State Fault Refusal :=
  s.lift (Device.scaleReport u.val slot.val)

/-- SCALE_MESSAGE (R176, R206): a member stores a PENDING scale and adopts a REDO scale. -/
def Device.scaleMessage (u s : Nat) (d : Device) : Device :=
  if siteKind u != .sfu || !d.unitRuns u then d
  else
    match slotRec (d.section u) s with
    | none => d
    | some r =>
      if r.leader then d
      else
        match (d.unit u).takeWords r.vc 3 with
        | some ([k, v, _], rest) =>
          let waited := ((d.sfu u).slot s).waitMsg
          let d := (d.modUnit u fun _ => rest).modSlot u s fun t =>
            let t := if k &&& 3 = 1 then t.activate v else if k &&& 3 = 0 then { t with pending := v } else t
            { t with waitMsg := false }
          (if waited then d.passClose u else d).progress (siteRegion u)
        | _ => d

def execScaleMessage (u : SiteIx) (slot : Fin 16) (s : State) : Host.Outcome State Fault Refusal :=
  s.lift (Device.scaleMessage u.val slot.val)

/-- SSCALE. -/
def Device.sscale (u : Nat) (d : Device) : Device :=
  d.vecIssue u 0x18 fun i d => some (d.writeS u 4 i.d [((d.sfu u).slot (i.x % 16)).scale] .none false)

def execSscale (u : SiteIx) (s : State) : Host.Outcome State Fault Refusal := s.lift (Device.sscale u.val)

/-! ### KV blocks (R171, R172, R207) -/

/-- The smallest E from `e` on with m ≤ QMAX × 2^(E − 127), at most 254. -/
def blockScale (m : Fl) (q : Nat) : Nat → Nat → Nat
  | 0, e => e
  | fuel + 1, e =>
    match m.compare (.fin false q (e - 127)) with
    | some c => if 0 < c ∧ e < 254 then blockScale m q fuel (e + 1) else e
    | none => e

/-- One element of a block under scale byte E. -/
def blockElem (q : Nat) (e : Nat) (x : Word) : Word × Flags :=
  match fl32 x with
  | .nan => (0, .invalid)
  | .inf s => (BitVec.ofInt 32 (if s then -(q : Int) else q), ovfIf true)
  | .fin s m k => (BitVec.ofInt 32 (rni s m (k + 127 - e)), .none)

/-- VBQ: all 64 lanes, those at or beyond VL as +0; with VL 0 it does nothing (R184). -/
def Device.vbq (u : Nat) (d : Device) : Device :=
  d.vecIssue u 0x19 fun i d =>
    let e := d.eng u
    if e.vl = 0 then some d else
    let q := if i.x = 0 then 127 else 7
    let xs := (List.range 64).map fun k => if k < e.vl.toNat then e.lane i.a k else 0
    let sc := blockScale (fl32 (xs.foldl maxFinite 0)) q 254 1
    let p := (e.vreg i.a).poison
    let d := d.writeV u 3 i.d (xs.map (blockElem q sc)) p
    some ((d.modEng u (·.putS i.b (BitVec.ofNat 32 sc) p)).vecFlags u .none p)

def execVbq (u : SiteIx) (s : State) : Host.Outcome State Fault Refusal := s.lift (Device.vbq u.val)

/-- VBX: q × 2^(E − 127); a reserved scale byte writes 0 and poisons D. -/
def Device.vbx (u : Nat) (d : Device) : Device :=
  d.vecIssue u 0x1A fun i d =>
    let e := d.eng u
    let sc := (e.sval i.b).toNat
    let p := (e.vreg i.a).poison || (e.sreg i.b).poison
    if e.vl = 0 then some d
    else if sc = 0 ∨ 254 < sc then some ((d.writeV u 1 i.d (e.active.map fun _ => (0, .none)) true).poisonRegs u 1)
    else
      some (d.writeV u 1 i.d (e.active.map fun k => toF32 (Fl.ofInt (e.lane i.a k).toInt (sc - 127))) p)

def execVbx (u : SiteIx) (s : State) : Host.Outcome State Fault Refusal := s.lift (Device.vbx u.val)

end Sys2Proof.Machine
end

