-- ==== Sys2Proof/Machine/Log.lean ====
section
/-! DEFINITION. The logbook (R464 to R474) and the receipt of events by the hub (R231, R404, R406). -/

namespace Sys2Proof.Machine

def logBytes : Nat := 0x1000000

/-- The bytes of an entry: frame header, payload, padding (R466). -/
def logEntryBytes (kind seq : Nat) (payload : List Byte) : List Byte :=
  leBytes 2 kind ++ leBytes 2 payload.length ++ leBytes 4 0 ++ leBytes 8 seq ++
    sliceAt payload 0 ((payload.length + 15) / 16 * 16)

/-- Bytes written to the SRAM from position `p` on; the writer wraps (R465, R468). -/
def Mem.writeRing (m : Mem) (size p : Nat) (bs : List Byte) : Mem :=
  let a := p % size
  if a + bs.length ≤ size then m.write a bs
  else (m.write a (bs.take (size - a))).write 0 (bs.drop (size - a))

/-- OLDEST: the position of the oldest entry that is still whole (R468). -/
def Logbook.oldest (l : Logbook) : Nat := l.starts.headD l.p

/-- Writes one entry at P (R466 to R468). If it overwrites a position not yet streamed, the stream moves to OLDEST and
the lap counts (R474). -/
def Logbook.writeEntry (l : Logbook) (kind : Nat) (payload : List Byte) : Logbook :=
  let bs := logEntryBytes kind l.seq payload
  let p := l.p + bs.length
  let starts := (l.starts ++ [l.p]).filter fun q => decide (p ≤ q + logBytes)
  let l := { l with mem := l.mem.writeRing logBytes l.p bs, p := p, seq := l.seq + 1, starts := starts }
  if l.stream ≠ .off ∧ l.streamPos + logBytes < p then { l with streamPos := l.oldest, lapped := satInc l.lapped }
  else l

/-- LOG_ENTRY_WRITE (R467): the next entry of the queue; once the queue has room, one lost marker for the entries
dropped since the previous one. -/
def Device.logEntryWrite (d : Device) : Device :=
  match d.log.queue with
  | [] => d
  | e :: rest =>
    let d := d.modLog fun l => { l with queue := rest }.writeEntry e.kind e.payload
    if d.log.unmarked ≠ 0 ∧ d.log.queued + 32 ≤ 65536 then
      let marker := leBytes 4 d.log.unmarked.toNat ++ leBytes 4 0 ++ leBytes 8 d.hubNs
      (d.logEnter hubSource 8 marker).modLog fun l => { l with unmarked := 0 }
    else d

def execLogEntryWrite (s : State) : Host.Outcome State Fault Refusal := s.lift Device.logEntryWrite

/-! ### Reading (R472, R473) -/

/-- `n` bytes from position `p`, each with its row's poison. -/
def Logbook.read (l : Logbook) (p n : Nat) : List (Byte × Bool) :=
  (List.range n).map fun i =>
    let a := (p + i) % logBytes
    (l.mem.byte a, l.mem.rowBad (a / 64))

/-- What LOG_READ refuses. -/
def Device.logRefused (d : Device) (ps : List Byte) : Option Nat :=
  let off := fieldAt ps 0 8
  let len := fieldAt ps 8 8
  if off % 16 ≠ 0 ∨ len % 16 ≠ 0 ∨ len < 16 ∨ logBytes < len ∨ off + logBytes < d.log.p ∨ d.log.p < off + len then
    some Status.logRange
  else none

/-- LOG_READ (R472). The copy is one step, so that no entry is written during it (log 12). -/
def Device.logRead (id : CmdId) (d : Device) : Device :=
  d.runCmd 0x0A01 id fun ps d =>
    let off := fieldAt ps 0 8
    let len := fieldAt ps 8 8
    match d.logRefused ps with
    | some st => d.complete id st
    | none =>
      if !d.host.linkUp then d.complete id Status.memHostAbort (leBytes 8 0)
      else
        let data := d.log.read off len
        (d.dwr (fieldAt ps 16 8) data).complete id
          (if data.any (·.2) then Status.hbmPoisonData else Status.ok) (leBytes 8 len)

def execLogRead (id : CmdId) (s : State) : Host.Outcome State Fault Refusal := s.lift (Device.logRead id)

/-- LOG_STATUS (R473). -/
def Device.logStatus (id : CmdId) (d : Device) : Device :=
  d.runCmd 0x0A04 id fun _ d =>
    d.complete id Status.ok
      (leBytes 8 d.log.p ++ leBytes 8 d.log.oldest ++ leBytes 8 d.log.streamPos ++ leBytes 4 d.log.dropped.toNat ++
        leBytes 1 d.log.stream.code ++ leBytes 1 0 ++ leBytes 2 d.log.lapped.toNat)

def execLogStatus (id : CmdId) (s : State) : Host.Outcome State Fault Refusal := s.lift (Device.logStatus id)

/-! ### Streaming (R474) -/

/-- The stream starts at P rounded down to a multiple of 64, and is then ON. -/
def Logbook.startStream (l : Logbook) (base len : Nat) : Logbook :=
  { l with stream := .on, streamBase := base, streamLen := len, streamPos := l.p / 64 * 64, streamPending := none,
           streamCmd := none }

/-- The range of LOG_STREAM: multiples of 64, 1 MiB to 64 GiB, in one stack. -/
def streamRangeOk (base len : Nat) : Bool :=
  base % 64 == 0 && len % 64 == 0 && decide (0x100000 ≤ len) && decide (len ≤ 0x1000000000) &&
    stackOf base == stackOf (base + len - 1)

/-- LOG_STREAM (R474, R407). -/
def Device.logStream (id : CmdId) (d : Device) : Device :=
  match d.findCmd id with
  | some c =>
    if c.params.headD 0 = 1 ∧ d.hbmWaits (fieldAt c.params 8 8) 1 then d
    else d.runCmd 0x0A02 id fun ps d =>
      let en := fieldAt ps 0 1
      let base := fieldAt ps 8 8
      let len := fieldAt ps 16 8
      if 1 < en ∨ fieldAt ps 1 7 ≠ 0 then d.complete id Status.badParam
      else if en = 1 then
        if hbmBytes ≤ base then d.complete id Status.hbmRange
        else if !streamRangeOk base len then d.complete id Status.logRange
        else if d.hbmOffline base len then d.complete id Status.hbmOffline
        else
          match d.log.stream with
          | .off => (d.modLog (·.startStream base len)).complete id Status.ok
          | .stopping =>
            (d.modLog fun l => { l with streamPending := some (base, len) }).complete id Status.acceptedPending
          | _ => d.complete id Status.logState
      else
        match d.log.stream with
        | .off => d.complete id Status.ok
        | .stopping => d.modLog fun l => { l with streamPending := none, streamCmd := some id }
        | _ => d.modLog fun l => { l with stream := .stopping, streamCmd := some id }
  | none => d

def execLogStream (id : CmdId) (s : State) : Host.Outcome State Fault Refusal := s.lift (Device.logStream id)

/-- The stream reaches OFF: its command completes and a pending enable takes effect (R407, R474). -/
def Device.endStream (d : Device) : Device :=
  let cmd := d.log.streamCmd
  let d := d.modLog fun l =>
    match l.streamPending with
    | some (b, n) => l.startStream b n
    | none => { l with stream := .off, streamCmd := none }
  match cmd with
  | some id => d.complete id Status.ok
  | none => d

/-- LOG_STREAM_ROW (R474): the next complete row; in STOPPING also the last partial row, padded with zeros. After a lap,
S may lie inside a row, and then the rest of that row is copied (log 12). -/
def Device.logStreamRow (d : Device) : Device :=
  let l := d.log
  if (l.stream ≠ .on ∧ l.stream ≠ .stopping) ∨ (d.stack (stackOf l.streamBase)).state ≠ 1 then d
  else
    let s := l.streamPos
    let n := 64 - s % 64
    let a := l.streamBase + s % l.streamLen
    if s + n ≤ l.p then
      let data := l.read s n
      let d := d.hbmWriteBurst a (data.map (·.1)) (data.any (·.2)) .patrol
      d.modLog fun l => { l with streamPos := s + n }
    else if l.stream = .stopping then
      let data := l.read s (l.p - s)
      let d :=
        if l.p = s then d
        else d.hbmWriteBurst a (sliceAt (data.map (·.1)) 0 n) (data.any (·.2)) .patrol
      (d.modLog fun l => { l with streamPos := l.p }).endStream
    else d

def execLogStreamRow (s : State) : Host.Outcome State Fault Refusal := s.lift Device.logStreamRow

/-! ### Events at the hub (R231, R404, R406) -/

/-- The event payload (R406). -/
def EventRec.bytes (e : EventRec) : List Byte :=
  leBytes 2 e.code.toNat ++ [e.region, e.comb] ++ leBytes 4 e.clk.toNat ++ leBytes 8 e.tick.toNat ++
    leBytes 4 e.arg.toNat ++ leBytes 4 0

/-- The hub records an event of a source, counts it in the tick's EVENTS and posts it if EVENT_ROUTE selects it. -/
def Device.hubReceive (d : Device) (src : Nat) (e : EventRec) : Device :=
  let d := (d.logEnter src 2 e.bytes).modTick fun t => { t with events := satInc t.events }
  if d.host.routeMode = 2 ∨ (d.host.routeMode = 1 ∧ haltingEvent e.code.toNat) then
    d.postUnsolicited d.host.routeCpl 0x0107 e.bytes false
  else d

/-- EVENT_RECEIVE (R231): the oldest event of a region's pilot, or of those that reach the hub directly. -/
def Device.eventReceive (src : Nat) (d : Device) : Device :=
  if src < 8 then
    match (d.pilot src).events with
    | [] => d
    | e :: rest => (d.modPilot src fun p => { p with events := rest }).hubReceive src e
  else
    match d.hubEvents with
    | [] => d
    | e :: rest => { d with hubEvents := rest }.hubReceive hubSource e

def execEventReceive (src : Fin 9) (s : State) : Host.Outcome State Fault Refusal := s.lift (Device.eventReceive src.val)

end Sys2Proof.Machine
end

