-- ==== Sys2Proof/Machine/Power.lean ====
section
/-! DEFINITION. Power states, region clocks and voltages, the monitors, the thermal emergency and trip, the filtered
inputs and the deviation card (R411 to R439, R489). -/

namespace Sys2Proof.Machine

def ns (n : Nat) : Nat := 24 * n

/-! ### The comb set's frequencies (R47, R419) -/

/-- A comb's MINFREQ code for a region (R47). -/
def CombDesc.code (c : CombDesc) (r : Nat) : Nat := bitsNat c.minfreq.toNat (4 * r + 3) (4 * r)

/-- The combs of the loaded set. -/
def Device.combs (d : Device) : List CombDesc := match d.comb.set with | some s => s.combs | none => []

/-- The highest code that any comb of the set records for a region (R419). -/
def Device.setMin (d : Device) (r : Nat) : Nat := (d.combs.map (·.code r)).foldl max 0

/-- The active comb's code for a region; 0 with none active. -/
def Device.activeCode (d : Device) (r : Nat) : Nat :=
  match d.comb.active with
  | some c => (d.combs[c]?.map (·.code r)).getD 0
  | none => 0

/-- The region runs below the active comb's MINFREQ (PWR_REGION.BELOW). -/
def Device.below (d : Device) (r : Nat) : Bool :=
  d.comb.state = .active && d.clockRuns r && decide ((d.pwrRegion r).freq.toNat < d.activeCode r)

/-- A tick in which a region ran below MINFREQ carries FLAGS bit 3 (R428). -/
def Device.markBelow (d : Device) : Device :=
  if d.tick.running.isSome && (List.range 8).any d.below then d.modTick fun t => { t with flags := t.flags ||| 8 }
  else d

/-! ### Voltages (R420, R435, R436) -/

/-- A signed byte. -/
def signedByte (b : Byte) : Int := b.toInt

/-- The card's offset in mV for a region and code (R436). -/
def Health.voffset (h : Health) (r c : Nat) : Int :=
  match h.card with
  | some bs => if 1 ≤ c ∧ c ≤ 4 then signedByte (bs.getD (0x20 + 4 * r + (c - 1)) 0) else 0
  | none => 0

def Fuses.setpoint (f : Fuses) (r c : Nat) : Nat := (f.setpoints.getD (5 * r + c) 0).toNat

/-- The setpoint in force: fused plus card offset (R420); code 0 is retention. -/
def Device.setpoint (d : Device) (r c : Nat) : Nat := (d.sec.fuses.setpoint r c + d.hlt.voffset r c).toNat

/-- A region runs at a frequency code; the voltage goes with it (R420). -/
def Device.setFreq (d : Device) (r c : Nat) : Device :=
  d.modPwrRegion r fun g => { g with freq := BitVec.ofNat 4 c, mv := BitVec.ofNat 16 (d.setpoint r c) }

/-! ### Power states (R411 to R417) -/

/-- Whether the wake time of a state does not exceed a leeway in µs (R411, R412). -/
def wakeFits (s leeway : Nat) : Bool :=
  match s with
  | 0 => true
  | 1 => decide (1 ≤ leeway)
  | 2 => decide (20 ≤ leeway)
  | _ => decide (2000 ≤ leeway)

/-- The earliest moment at which the next strike can arrive (R413), in 1/24 ns. -/
def Tick.earliest (t : Tick) : Nat :=
  t.prevStrike + ns (match t.cfg.source with | .internal => t.cfg.period | _ => t.cfg.period - t.cfg.window)

/-- The entry condition of Tick-idle (R413). -/
def Device.idleOk (d : Device) : Bool :=
  d.tick.held.isNone &&
  (d.tick.life = .off ||
    (d.tick.life = .on && d.tick.running.isNone && decide (d.now + ns 100 < d.tick.earliest)))

/-- The entry condition of Region-parked. -/
def Device.parkOk (d : Device) : Bool :=
  d.tick.life = .off && !(d.host.cmds.any fun c => breaksParking c.opcode.toNat)

/-- The entry condition of Deep. -/
def Device.deepOk (d : Device) : Bool :=
  d.parkOk && (List.range 8).all fun k => (d.stack k).reads.isEmpty && (d.stack k).writes.isEmpty

def Device.stateOk (d : Device) (s : Nat) : Bool :=
  match s with
  | 0 => true
  | 1 => d.idleOk
  | 2 => d.parkOk
  | _ => d.deepOk

/-- The deepest state up to T that the leeway and the conditions allow (R412). -/
def Device.selectState (d : Device) : Nat :=
  (List.range (d.pwr.target.toNat + 1)).foldl
    (fun best s => if wakeFits s d.pwr.leeway.toNat && d.stateOk s then s else best) 0

/-- Every comb of an ACTIVE set records code 0 for the region, and the target and leeway allow parking it (R416). -/
def Device.parkedBySet (d : Device) (r : Nat) : Bool :=
  d.pwr.target != 0 && decide (20 ≤ d.pwr.leeway.toNat) && d.comb.state = .active && d.setMin r == 0

/-- Mode and frequency of a region in power state `s` (R411, R416, R418). A region whose clock comes back runs at
0.4 GHz until a strike changes it. -/
def Device.placeRegion (d : Device) (s r : Nat) : Device :=
  let g := d.pwrRegion r
  let off (m : BitVec 3) : Device :=
    d.modPwrRegion r fun g => { g with mode := m, freq := 0, mv := BitVec.ofNat 16 (d.setpoint r 0) }
  if g.ceiling = 0 ∨ g.heldOff ∨ d.hlt.trip ∨ (g.mode = 3 ∧ g.startCmd.isSome) then off 3
  else if s = 3 then off 4
  else if s = 2 ∨ d.parkedBySet r then off 2
  else
    let d := if g.freq = 0 then d.setFreq r 1 else d
    d.modPwrRegion r fun g => { g with mode := BitVec.ofNat 3 s }

/-- The device is in state `s`. -/
def Device.enterState (d : Device) (s : Nat) : Device :=
  let d := d.modPwr fun p => { p with state := BitVec.ofNat 3 s, wakeTo := none }
  (List.range 8).foldl (fun d r => d.placeRegion s r) d

/-- Parks and unparks the regions that R416 names whatever the device state. -/
def Device.parkSets (d : Device) : Device :=
  if d.pwr.wakeTo.isSome ∨ 2 ≤ d.pwr.state.toNat then d
  else
    (List.range 8).foldl (fun d r =>
      let parked := (d.pwrRegion r).mode == 2
      if parked == d.parkedBySet r then d else d.placeRegion d.pwr.state.toNat r) d

/-- Brings the state to what R412 selects: a deeper one at once, a shallower one through a wake (R414). Tick-idle ends
by GATING_END or a strike (R415), or when it is no longer allowed at all. -/
def Device.toState (d : Device) : Device :=
  let s := d.selectState
  let now := d.pwr.state.toNat
  match d.pwr.wakeTo with
  | some t => if s < t.toNat then d.modPwr fun p => { p with wakeTo := some (BitVec.ofNat 3 s) } else d
  | none =>
    if s > now then d.enterState s
    else if s < now then
      if now = 1 ∧ d.pwr.target ≠ 0 ∧ wakeFits 1 d.pwr.leeway.toNat then d
      else d.modPwr fun p => { p with wakeTo := some (BitVec.ofNat 3 s) }
    else d

/-- The power manager at work (R412, R416): the state, the regions it parks, and a PWR_STATE command that waits until the
device is in the state that R412 selects (R417). -/
def Device.settle (d : Device) : Device :=
  let d := d.toState.parkSets
  match d.pwr.stateCmd, d.pwr.wakeTo with
  | some id, none => (d.modPwr fun p => { p with stateCmd := none }).complete id Status.ok
  | _, _ => d

/-- WAKE_COMPLETE (R414): the parts that the state stopped run again. -/
def Device.wakeComplete (d : Device) : Device :=
  match d.pwr.wakeTo with
  | none => d
  | some t => (d.enterState t.toNat).settle

def execWakeComplete (s : State) : Host.Outcome State Fault Refusal := s.lift Device.wakeComplete

/-- Ends the gating of Tick-idle: every gated region runs its units again. -/
def Device.ungate (d : Device) : Device :=
  if d.pwr.state = 1 ∧ d.pwr.wakeTo = none then d.enterState 0 else d

/-- GATING_END (R415): from 100 ns before the earliest next strike. -/
def Device.gatingEnd (d : Device) : Device := if d.idleOk then d else d.ungate

def execGatingEnd (s : State) : Host.Outcome State Fault Refusal := s.lift Device.gatingEnd

/-- LEEWAY_SET (R417). -/
def Device.leewaySet (id : CmdId) (d : Device) : Device :=
  d.runCmd 0x0601 id fun ps d =>
    let l := fieldAt ps 0 4
    let t := d.pwr.target.toNat
    let t' := if wakeFits t l then t else (List.range t).foldl (fun best s => if wakeFits s l then s else best) 0
    ((d.modPwr fun p => { p with leeway := BitVec.ofNat 32 l, target := BitVec.ofNat 3 t' }).settle).complete id Status.ok

def execLeewaySet (id : CmdId) (s : State) : Host.Outcome State Fault Refusal := s.lift (Device.leewaySet id)

/-- PWR_STATE (R417). -/
def Device.pwrStateCmd (id : CmdId) (d : Device) : Device :=
  d.runCmd 0x0602 id fun ps d =>
    let t := fieldAt ps 0 1
    if fieldAt ps 1 3 ≠ 0 then d.complete id Status.badParam
    else if 3 < t then d.complete id Status.pwrRange
    else if !wakeFits t d.pwr.leeway.toNat then d.complete id Status.pwrLeeway
    else if t = 3 ∧ d.tick.life ≠ .off then d.complete id Status.pwrState
    else
      (d.modPwr fun p => { p with target := BitVec.ofNat 3 t, stateCmd := some id }).settle

def execPwrState (id : CmdId) (s : State) : Host.Outcome State Fault Refusal := s.lift (Device.pwrStateCmd id)

/-! ### Regions (R418, R419) -/

/-- A clock is lost, or has not yet run 1 ms without loss (R447). -/
def Device.clockLost (d : Device) : Bool :=
  d.sec.refLost0 || d.sec.refLost1 || (List.range 8).any fun r => (d.pwrRegion r).unlocked

/-- PWR_REGION (R418, R430, R447, R493). -/
def Device.pwrRegionCmd (id : CmdId) (d : Device) : Device :=
  d.runCmd 0x0603 id fun ps d =>
    let r := fieldAt ps 0 1
    let c := fieldAt ps 1 1
    if fieldAt ps 2 2 ≠ 0 then d.complete id Status.badParam
    else if 7 < r ∨ 4 < c then d.complete id Status.pwrRange
    else if d.hlt.trip ∨ d.clockLost ∨ (d.pwrRegion r).heldOff then d.complete id Status.hltState
    else if d.combs.any fun k => decide (c < k.code r) then d.complete id Status.pwrState
    else
      let was := (d.pwrRegion r).ceiling
      let d := d.modPwrRegion r fun g => { g with ceiling := BitVec.ofNat 4 c }
      if c = 0 then (d.placeRegion d.pwr.state.toNat r).complete id Status.ok
      else if was = 0 then d.modPwrRegion r fun g => { g with startCmd := some id }
      else d.complete id Status.ok

def execPwrRegion (id : CmdId) (s : State) : Host.Outcome State Fault Refusal := s.lift (Device.pwrRegionCmd id)

/-- The clock of a stopped region starts (R418). -/
def Device.startRegionClock (d : Device) (r : Nat) : Device :=
  (d.modPwrRegion r fun g => { g with startCmd := none, mode := 0 }).placeRegion d.pwr.state.toNat r

/-- The emergency holds for the region's die. -/
def Device.emergency (d : Device) (die : Nat) : Emergency := d.pwr.emerg.getD die .reset

/-- Frequencies at the start of a tick (R419, R428, R489): F(r), or 0.4 GHz if it is 0; no step up while the emergency
holds, or where the rail has not reached the new setpoint, which is not stated (log 6). -/
def Device.strikeFreqs (d : Device) : Device :=
  let n := d.free
  let slow (r : Nat) : Bool := (Config.freeWord (n + r)).getLsbD 0
  let d := (List.range 8).foldl (fun d r =>
    let g := d.pwrRegion r
    let want := max 1 g.setMin.toNat
    if g.freq = 0 then d
    else if g.freq.toNat < want ∧ ((d.emergency (r / 2)).holds ∨ slow r) then d
    else d.setFreq r want) { d with free := n + 8 }
  d.markBelow

/-- While the tick is OFF every running region runs at 0.4 GHz (R419). -/
def Device.idleFreqs (d : Device) : Device :=
  (List.range 8).foldl (fun d r => if (d.pwrRegion r).freq = 0 then d else d.setFreq r 1) d

/-! ### The thermal emergency (R427 to R429) -/

/-- Bits 3:0 of EMERGENCY_START: thermal, HBM, external, power. -/
def Emergency.triggers (e : Emergency) : Nat :=
  natOfBool e.thermal + 2 * natOfBool e.hbm + 4 * natOfBool e.external + 8 * natOfBool e.power

def Device.modEmerg (d : Device) (die : Nat) (f : Emergency → Emergency) : Device :=
  d.modPwr fun p => { p with emerg := p.emerg.upd die .reset f }

/-- A filtered input counts as asserted: at its asserted level, not latched stuck, not ignored (R432, R433). -/
def Input.asserted (i : Input) : Bool := i.level && !i.stuck && !i.ignored

def Device.input (d : Device) (i : Nat) : Input := d.hlt.inputs.getD i .reset

/-- The hottest temperature of a die, signed, in 1/16 °C. -/
def Health.hottest (h : Health) (die : Nat) : Int := (h.maxTemp.getD die 0).toInt

/-- The hottest of a die's two stacks in 1/16 °C. -/
def Device.stackHot (d : Device) (die : Nat) : Int :=
  max (16 * ((d.stack (2 * die)).temp.toNat : Int)) (16 * ((d.stack (2 * die + 1)).temp.toNat : Int))

/-- Evaluates the triggers of a die now, and since when all have been clear by the hysteresis (R427, R429). -/
def Device.evalEmergency (d : Device) (die : Nat) : Device :=
  let h := d.hlt
  let ext := (d.input 1).asserted
  let power := decide (10 * d.pwr.limit.toNat < d.pwr.powerDeci.toNat)
  let clear := decide (h.hottest die < h.tEmerg.toInt - h.hyst.toInt) &&
    decide (d.stackHot die < h.hbmEmerg.toInt - h.hyst.toInt) && !ext && !power
  d.modEmerg die fun e =>
    { e with thermal := decide (h.tEmerg.toInt ≤ h.hottest die), hbm := decide (h.hbmEmerg.toInt ≤ d.stackHot die),
             external := ext, power := power,
             clearSince := if clear then (match e.clearSince with | some t => some t | none => some d.now) else none }

def Device.evalEmergencies (d : Device) : Device := (List.range 4).foldl (fun d die => d.evalEmergency die) d

/-- EMERGENCY_STEP (R428): the running regions of the die step down one code, never below 0.4 GHz; at the first trigger
EMERGENCY_START is raised. -/
def Device.emergencyStep (die : Nat) (d : Device) : Device :=
  let e := d.emergency die
  if e.triggers = 0 then d
  else
    let d :=
      if e.holds then d
      else
        ((d.modEmerg die fun e => { e with holds := true }).modPwr fun p =>
          { p with emergCount := satInc p.emergCount }).raiseHub 0xFF 0x71 (BitVec.ofNat 32 (e.triggers + 256 * die))
    let d := [2 * die, 2 * die + 1].foldl (fun d r =>
      let g := d.pwrRegion r
      if g.freq.toNat ≤ 1 then d else { d.setFreq r (g.freq.toNat - 1) with relock := insertNat' die d.relock }) d
    d.markBelow
where
  /-- The die's seam links relock after an emergency change (R83). -/
  insertNat' (k : Nat) (l : List Nat) : List Nat := if l.contains k then l else k :: l

def execEmergencyStep (die : Die) (s : State) : Host.Outcome State Fault Refusal := s.lift (Device.emergencyStep die.val)

/-- EMERGENCY_END (R429): the triggers have been clear for 1 ms. -/
def Device.emergencyEnd (die : Nat) (d : Device) : Device :=
  let e := d.emergency die
  match e.clearSince with
  | none => d
  | some t =>
    if e.holds ∧ t + ns 1000000 ≤ d.now then
      let d := (d.modEmerg die fun e => { e with holds := false }).raiseHub 0xFF 0x72 (BitVec.ofNat 32 die)
      if d.tick.life = .off then d.idleFreqs else d
    else d

def execEmergencyEnd (die : Die) (s : State) : Host.Outcome State Fault Refusal := s.lift (Device.emergencyEnd die.val)

/-- PWR_LIMIT (R427). -/
def Device.pwrLimit (id : CmdId) (d : Device) : Device :=
  d.runCmd 0x0605 id fun ps d =>
    let w := fieldAt ps 0 4
    if w < 1000 ∨ 2000 < w then d.complete id Status.pwrRange
    else ((d.modPwr fun p => { p with limit := BitVec.ofNat 16 w }).evalEmergencies).complete id Status.ok

def execPwrLimit (id : CmdId) (s : State) : Host.Outcome State Fault Refusal := s.lift (Device.pwrLimit id)

/-- PACKAGE_POWER_SAMPLE (R424, R427): the 1 ms average, in units of 0.1 W. -/
def Device.packagePower (deci : Word) (d : Device) : Device :=
  (d.modPwr fun p => { p with powerDeci := deci, power := BitVec.ofNat 16 (deci.toNat / 10) }).evalEmergencies

def execPackagePowerSample (deciwatts : Word) (s : State) : Host.Outcome State Fault Refusal :=
  s.lift (Device.packagePower deciwatts)

/-- HBM_TEMP_READ (R327, R421, R427). -/
def Device.hbmTempRead (k : Nat) (temp : BitVec 8) (d : Device) : Device :=
  (d.modStack k fun s => { s with temp := temp, hot := decide (85 < temp.toNat) }).evalEmergency (k / 2)

def execHbmTempRead (k : StackIx) (temp : BitVec 8) (s : State) : Host.Outcome State Fault Refusal :=
  s.lift (Device.hbmTempRead k.val temp)

/-! ### Sensors, warning and trip (R421, R422, R430, R431) -/

/-- The die of a sensor, 4 for the hub, and its index there. -/
def sensorPlace (i : Nat) : Nat × Nat := if i < 256 then (i / 64, i % 64) else (4, i - 256)

/-- The card's offset of a sensor in 1/16 °C. -/
def Health.toffset (h : Health) (i : Nat) : Int :=
  match h.card with
  | some bs => signedByte (bs.getD (if i < 256 then 0x40 + i else 0x140 + (i - 256)) 0)
  | none => 0

/-- One sensor's reading: a failed self-check, or a value outside −40 °C to 150 °C, marks it failed until reset (R422). -/
def Device.readSensor (d : Device) (i : Nat) (v : Option (BitVec 16)) : Device :=
  if d.hlt.failed.contains i then d
  else
    let fail : Device :=
      let (die, k) := sensorPlace i
      (d.modHlt fun h => { h with failed := i :: h.failed }).raiseHub 0xFF 0x77 (BitVec.ofNat 32 (k + 256 * die))
    match v with
    | none => fail
    | some t =>
      if t.toInt < -640 ∨ 2400 < t.toInt then fail
      else
        let c := t.toInt + (d.sec.fuses.sensorOffsets.getD i 0).toInt + d.hlt.toffset i
        d.modHlt fun h => { h with sensors := h.sensors.put i (BitVec.ofInt 16 c) }

def Device.readSensors (d : Device) : Nat → List (Option (BitVec 16)) → Device
  | _, [] => d
  | i, v :: vs => if i < 264 then (d.readSensor i v).readSensors (i + 1) vs else d

/-- The sensors of a die, or of the hub. -/
def sensorsOf (die : Nat) : List Nat :=
  if die = 4 then (List.range 8).map (· + 256) else (List.range 64).map (· + 64 * die)

/-- The hottest working sensor that has been read: its index and temperature; the lowest index wins a tie. -/
def Health.hottestOf (h : Health) (die : Nat) : Option (Nat × BitVec 16) :=
  ((sensorsOf die).filter fun i => !h.failed.contains i).foldl (fun best i =>
    match h.sensors.find i, best with
    | some t, some (j, u) => if u.toInt < t.toInt then some (i, t) else some (j, u)
    | some t, none => some (i, t)
    | none, b => b) none

/-- Maxima of a die (HLT_TEMP_MAX); more than 8 failed sensors of a die read as T_EMERG until reset (R422). -/
def Health.evalMax (h : Health) (die : Nat) : Health :=
  let lost := ((sensorsOf die).filter h.failed.contains).length
  match h.hottestOf die with
  | some (i, t) =>
    let t := if die < 4 ∧ 8 < lost then h.tEmerg else t
    { h with maxSensor := h.maxSensor.put die (BitVec.ofNat 8 (sensorPlace i).2), maxTemp := h.maxTemp.put die t }
  | none => if die < 4 ∧ 8 < lost then { h with maxTemp := h.maxTemp.put die h.tEmerg } else h

/-- Warning of a die (R431): raised when its hottest sensor rises to T_WARN after having been below T_WARN − HYST. -/
def Device.evalWarn (d : Device) (die : Nat) : Device :=
  let h := d.hlt
  let t := h.hottest die
  let hot := decide (h.tWarn.toInt ≤ t)
  let cool := decide (t < h.tWarn.toInt - h.hyst.toInt)
  let bit : BitVec 4 := BitVec.ofNat 4 (2 ^ die)
  let fire := hot && !h.warned.getLsbD die
  let d := d.modHlt fun h =>
    { h with warnMask := if hot then h.warnMask ||| bit else h.warnMask &&& ~~~bit,
             emergMask := if h.tEmerg.toInt ≤ t then h.emergMask ||| bit else h.emergMask &&& ~~~bit,
             warned := if hot then h.warned ||| bit else if cool then h.warned &&& ~~~bit else h.warned }
  if fire then d.raiseHub 0xFF 0x70 (BitVec.ofNat 32 die) else d

/-- The trip (R430): the job halts with halting region 0xFF, every region stops, every stack goes into self-refresh. -/
def Device.trip (d : Device) (die sensor : Nat) (t : BitVec 16) : Device :=
  let d := d.haltJob 0xFF 10
  let d := d.modHlt fun h => { h with trip := true }
  let d := (List.range 8).foldl (fun d r => d.placeRegion d.pwr.state.toNat r) d
  let d := (List.range 8).foldl (fun d k =>
    d.modStack k fun s => if s.state = 1 then { s with state := 2 } else s) d
  let d := d.record 14 3 .hub (leBytes 1 die ++ leBytes 1 sensor ++ leBytes 2 t.toNat)
  d.raiseHub 0xFF 0x73 (BitVec.ofNat 32 (sensor + 256 * die))

/-- The first sensor at or above T_TRIP, if any (R430). -/
def Health.tripping (h : Health) : Option (Nat × BitVec 16) :=
  (List.range 5).findSome? fun die =>
    match h.hottestOf die with
    | some (i, t) => if h.tTrip.toInt ≤ t.toInt then some (i, t) else none
    | none => none

/-- Every sensor is below T_EMERG − HYST. -/
def Health.allCool (h : Health) : Bool :=
  (List.range 264).all fun i =>
    h.failed.contains i ||
      match h.sensors.find i with
      | some t => decide (t.toInt < h.tEmerg.toInt - h.hyst.toInt)
      | none => true

/-- Thresholds accepted since the last sensor read come into force (R426). -/
def Health.takeThresh (h : Health) : Health :=
  match h.threshNext with
  | none => h
  | some t =>
    { h with tWarn := t.warn, tEmerg := t.emerg, tTrip := t.trip, hyst := t.hyst, droopWarn := t.droopWarn,
             droopLimit := t.droopLimit, hbmEmerg := t.hbmEmerg, threshNext := none }

/-- SENSOR_READ (R421): every sensor, then the maxima, warnings, emergency triggers and the trip. -/
def Device.sensorRead (vs : List (Option (BitVec 16))) (d : Device) : Device :=
  let d := (d.modHlt (·.takeThresh)).readSensors 0 vs
  let d := d.modHlt fun h => (List.range 5).foldl (fun h die => h.evalMax die) h
  let d := (List.range 4).foldl (fun d die => d.evalWarn die) d
  let d := d.evalEmergencies
  let d := d.modHlt fun h =>
    { h with coolSince := if h.allCool then (match h.coolSince with | some t => some t | none => some d.now) else none }
  match d.hlt.tripping with
  | some (i, t) => if d.hlt.trip then d else d.trip (sensorPlace i).1 (sensorPlace i).2 t
  | none => d

def execSensorRead (readings : List (Option (BitVec 16))) (s : State) : Host.Outcome State Fault Refusal :=
  s.lift (Device.sensorRead readings)

/-- TRIP_CLEAR (R430): after 100 ms below T_EMERG − HYST; the regions run at 0.4 GHz. -/
def Device.tripClear (d : Device) : Device :=
  match d.hlt.coolSince with
  | none => d
  | some t =>
    if d.hlt.trip ∧ t + ns 100000000 ≤ d.now then
      let d := d.modHlt fun h => { h with trip := false }
      (List.range 8).foldl (fun d r =>
        (d.modPwrRegion r fun g => { g with halted := false }).placeRegion d.pwr.state.toNat r) d
    else d

def execTripClear (s : State) : Host.Outcome State Fault Refusal := s.lift Device.tripClear

/-- The card's trim of a droop monitor in mV (R436). -/
def Health.doffset (h : Health) (r : Nat) : Int :=
  match h.card with
  | some bs => signedByte (bs.getD (0x148 + r) 0)
  | none => 0

/-- The trim in force of a droop monitor: fused plus card, in mV (R435 to R437). -/
def Device.droopTrim (d : Device) (r : Nat) : Int := (d.sec.fuses.droopTrims.getD r 0).toInt + d.hlt.doffset r

/-- VOLT_DROOP (R423): an excursion of a region's supply, with the lowest voltage that the monitor measured, to which its
trim is added as a sensor's offset is to its reading (log 38). -/
def Device.voltDroop (r : Nat) (measured : BitVec 16) (d : Device) : Device :=
  let g := d.pwrRegion r
  let lowest : BitVec 16 := BitVec.ofNat 16 (measured.toNat + d.droopTrim r).toNat
  let set := d.setpoint r g.freq.toNat
  let d := d.modPwrRegion r fun g => { g with lowest := if lowest.toNat < g.lowest.toNat then lowest else g.lowest }
  if d.hlt.droopWarn.toNat + lowest.toNat < set then
    let d := (d.modPwrRegion r fun g => { g with droopWarn := satInc g.droopWarn }).raiseOnce r 0x74 (lowest.setWidth 32)
    if d.hlt.droopLimit.toNat + lowest.toNat ≤ set then
      ((d.modPwrRegion r fun g => { g with droopLimit := satInc g.droopLimit }).record 8 1 (d.atRegion r)
        (leBytes 2 lowest.toNat ++ leBytes 2 set)).raiseOnce r 0x75 (lowest.setWidth 32)
    else d
  else d

def execVoltDroop (r : Region) (lowest : BitVec 16) (s : State) : Host.Outcome State Fault Refusal :=
  s.lift (Device.voltDroop r.val lowest)

/-- OSCILLATOR_SAMPLE (R424). -/
def execOscillatorSample (r : Region) (count : Word) (s : State) : Host.Outcome State Fault Refusal :=
  s.lift fun d => d.modPwrRegion r.val fun g => { g with oscillator := count }

/-! ### Health commands (R425, R426, R433, R437) -/

def Device.sensorWord (d : Device) (i : Nat) : Nat :=
  if d.hlt.failed.contains i then 0x8000 else (d.hlt.sensors.getD i 0).toNat

def Device.voltReadout (d : Device) (r : Nat) : List Byte :=
  let g := d.pwrRegion r
  let c := g.freq.toNat
  leBytes 2 g.mv.toNat ++ leBytes 2 (d.setpoint r c) ++ leBytes 2 (d.sec.fuses.setpoint r c) ++
    [BitVec.ofInt 8 (d.hlt.voffset r c)] ++ leBytes 1 0 ++
    leBytes 2 (if g.lowest = 0xFFFF then g.mv.toNat else g.lowest.toNat) ++ leBytes 2 g.droopWarn.toNat ++
    leBytes 2 g.droopLimit.toNat ++ leBytes 2 0

/-- HLT_READ (R425). -/
def Device.hltRead (id : CmdId) (d : Device) : Device :=
  d.runCmd 0x0701 id fun ps d =>
    if fieldAt ps 1 3 ≠ 0 then d.complete id Status.badParam
    else
      match fieldAt ps 0 1 with
      | 0 =>
        d.complete id Status.ok ((List.range 264).flatMap (fun i => leBytes 2 (d.sensorWord i)) ++
          (List.range 8).flatMap fun k => leBytes 2 (16 * (d.stack k).temp.toNat))
      | 1 =>
        let reply := (List.range 8).flatMap d.voltReadout ++ leBytes 4 d.pwr.powerDeci.toNat
        ((List.range 8).foldl (fun d r => d.modPwrRegion r fun g => { g with lowest := 0xFFFF }) d).complete id
          Status.ok reply
      | 2 =>
        d.complete id Status.ok ((List.range 8).flatMap fun r =>
          leBytes 4 (d.pwrRegion r).oscillator.toNat ++ leBytes 4 (d.sec.fuses.oscillators.getD r 0).toNat)
      | _ => d.complete id Status.hltRange

def execHltRead (id : CmdId) (s : State) : Host.Outcome State Fault Refusal := s.lift (Device.hltRead id)

/-- The ranges of R426, in 1/16 °C and mV. -/
def threshOk (warn emerg trip hyst dw dl hbm : Nat) : Bool :=
  decide (960 ≤ warn) && decide (warn ≤ 1760) && decide (warn < emerg) && decide (emerg ≤ 1840) &&
  decide (emerg + 80 ≤ trip) && decide (trip ≤ 1920) && decide (16 ≤ hyst) && decide (hyst ≤ 240) &&
  decide (10 ≤ dw) && decide (dw ≤ 100) && decide (dw < dl) && decide (dl ≤ 150) && decide (1360 ≤ hbm) &&
  decide (hbm ≤ 1600)

/-- The seven thresholds as the command carries them. -/
def Thresholds.ofBytes (ps : List Byte) : Thresholds :=
  let f (k : Nat) : BitVec 16 := BitVec.ofNat 16 (fieldAt ps (2 * k) 2)
  { warn := f 0, emerg := f 1, trip := f 2, hyst := f 3, droopWarn := f 4, droopLimit := f 5, hbmEmerg := f 6 }

/-- HLT_THRESH (R426): the thresholds come into force at the next sensor read. -/
def Device.hltThresh (id : CmdId) (d : Device) : Device :=
  d.runCmd 0x0705 id fun ps d =>
    let f (k : Nat) := fieldAt ps (2 * k) 2
    if !threshOk (f 0) (f 1) (f 2) (f 3) (f 4) (f 5) (f 6) ∨ f 7 ≠ 0 then d.complete id Status.hltRange
    else
      (d.modHlt fun h =>
        { h with threshNext := some (Thresholds.ofBytes ps) }).complete id Status.ok

def execHltThresh (id : CmdId) (s : State) : Host.Outcome State Fault Refusal := s.lift (Device.hltThresh id)

/-- A card that R437 accepts. -/
def cardOk (serial : Word64) (bs : List Byte) : Bool :=
  fieldAt bs 0 4 == 0x44564344 && fieldAt bs 4 2 == 1 && fieldAt bs 8 8 == serial.toNat &&
  crc32 (bs.take 0x10 ++ leBytes 4 0 ++ bs.drop 0x14) == fieldAt bs 0x10 4 &&
  allZero (sliceAt bs 6 2) && allZero (sliceAt bs 0x14 12) && allZero (sliceAt bs 0x150 3760) &&
  ((sliceAt bs 0x20 32).all fun b => decide (-25 ≤ b.toInt) && decide (b.toInt ≤ 25)) &&
  ((sliceAt bs 0x148 8).all fun b => decide (-16 ≤ b.toInt) && decide (b.toInt ≤ 16))

/-- DEVCARD_LOAD (R437, R460). -/
def Device.devcardLoad (id : CmdId) (d : Device) : Device :=
  d.runCmd 0x0702 id fun ps d =>
    if d.tick.life ≠ .off ∨ d.hlt.trip then d.complete id Status.hltState
    else if !cardOk d.sec.fuses.serial ps then
      (d.modHlt fun h => { h with refused := satInc h.refused }).complete id Status.devcardFormat
    else
      let d := (d.modHlt fun h => { h with card := some ps }).modSec fun s => { s with cardHash := sha256 ps }
      ((List.range 8).foldl (fun d r =>
        let c := (d.pwrRegion r).freq.toNat
        if c = 0 then d else d.setFreq r c) d).complete id Status.ok

def execDevcardLoad (id : CmdId) (s : State) : Host.Outcome State Fault Refusal := s.lift (Device.devcardLoad id)

/-- WATCHDOG_SET (R236, R293): the new limits take effect at the next strike. -/
def Device.watchdogSet (id : CmdId) (d : Device) : Device :=
  d.runCmd 0x0703 id fun ps d =>
    let mask := fieldAt ps 0 1
    let st := fieldAt ps 1 1
    let wt := fieldAt ps 2 1
    if fieldAt ps 3 1 ≠ 0 ∨ (st ≠ 0 ∧ (st < 12 ∨ 26 < st)) ∨ (wt ≠ 0 ∧ (wt < 12 ∨ 32 < wt)) then
      d.complete id Status.badParam
    else
      ((List.range 8).foldl (fun d r =>
        if !mask.testBit r then d
        else
          let d := if st = 0 then d else d.modPilot r fun p => { p with stallNext := some (BitVec.ofNat 5 st) }
          if wt = 0 then d
          else d.modHome (r / 2) fun h =>
            if r % 2 = 0 then { h with waitNextW := some (BitVec.ofNat 6 wt) }
            else { h with waitNextE := some (BitVec.ofNat 6 wt) }) d).complete id Status.ok

def execWatchdogSet (id : CmdId) (s : State) : Host.Outcome State Fault Refusal := s.lift (Device.watchdogSet id)

/-! ### Inputs (R432 to R434) -/

def Device.modInput (d : Device) (i : Nat) (f : Input → Input) : Device :=
  d.modHlt fun h => { h with inputs := h.inputs.upd i .reset f }

/-- Minimum interval between assertions, in ns, of TICK_IN, THROTTLE_N and WAKE (R432). -/
def inputInterval (i : Nat) : Nat := match i with | 0 => 10000 | 1 => 100000 | _ => 1000000

/-- Stuck limit in ns (R432). -/
def inputStuckNs (i : Nat) : Nat := match i with | 0 => 25000 | 1 => 10000000000 | _ => 10000000

/-- A pin takes a level and holds it for `held` ns (R432): under 50 ns is a glitch; an assertion too soon after the
previous accepted one is ignored; an accepted one leaves `edge` for its user. -/
def Input.drive (p : Input) (i : Nat) (assert : Bool) (held now : Nat) : Input :=
  if assert = p.level then p
  else if held < 50 then { p with glitch := satInc p.glitch }
  else if !assert then { p with level := false, since := now, edge := false }
  else
    match p.lastAssert with
    | some t =>
      if now < t + ns (inputInterval i) then { p with level := true, since := now, ignored := true, rate := satInc p.rate }
      else { p with level := true, since := now, ignored := false, lastAssert := some now, edge := !p.stuck }
    | none => { p with level := true, since := now, ignored := false, lastAssert := some now, edge := !p.stuck }

/-- TICK_IN (R432). -/
def execTickInPin (high : Bool) (held : Nat) (s : State) : Host.Outcome State Fault Refusal :=
  s.lift fun d => d.modInput 0 fun p => p.drive 0 high held d.now

/-- THROTTLE_N (R427, R432). -/
def execThrottleN (low : Bool) (held : Nat) (s : State) : Host.Outcome State Fault Refusal :=
  s.lift fun d => (d.modInput 1 fun p => p.drive 1 low held d.now).evalEmergencies

/-- WAKE (R434): an accepted assertion makes T Tick-idle if it is Region-parked or Deep. -/
def Device.wakePin (high : Bool) (held : Nat) (d : Device) : Device :=
  let d := d.modInput 2 fun p => p.drive 2 high held d.now
  if (d.input 2).edge then
    let d := d.modInput 2 fun p => { p with edge := false }
    if 2 ≤ d.pwr.target.toNat then (d.modPwr fun p => { p with target := 1 }).settle else d
  else d

def execWakePin (high : Bool) (held : Nat) (s : State) : Host.Outcome State Fault Refusal :=
  s.lift (Device.wakePin high held)

/-- INPUT_STUCK (R433): an input asserted beyond its stuck limit is latched and treated as deasserted. -/
def Device.inputStuck (i : Nat) (d : Device) : Device :=
  let p := d.input i
  if p.level && !p.stuck && decide (p.since + ns (inputStuckNs i) < d.now) then
    ((d.modInput i fun p => { p with stuck := true, edge := false }).raiseHub 0xFF 0x76 (BitVec.ofNat 32 i)).evalEmergencies
  else d

def execInputStuck (i : Fin 3) (s : State) : Host.Outcome State Fault Refusal := s.lift (Device.inputStuck i.val)

/-- INPUT_CLEAR (R433). -/
def Device.inputClear (id : CmdId) (d : Device) : Device :=
  d.runCmd 0x0704 id fun ps d =>
    let m := fieldAt ps 0 1
    if fieldAt ps 1 3 ≠ 0 then d.complete id Status.badParam
    else if 8 ≤ m then d.complete id Status.hltRange
    else if (List.range 3).any fun i => m.testBit i && (d.input i).level then d.complete id Status.hltState
    else
      ((List.range 3).foldl (fun d i =>
        if m.testBit i then d.modInput i fun p => { p with stuck := false } else d) d).complete id Status.ok

def execInputClear (id : CmdId) (s : State) : Host.Outcome State Fault Refusal := s.lift (Device.inputClear id)

/-! ### PWR_STATUS (R438, R494) -/

/-- PWR_STATE register. -/
def Device.regPwrState (d : Device) : Nat :=
  ((List.range 4).foldl (fun m k => m + natOfBool (d.emergency k).holds * 2 ^ k) 0) * 256 + d.pwr.target.toNat * 8 +
    d.pwr.shown

/-- PWR_PACKAGE register. -/
def Device.regPwrPackage (d : Device) : Nat := d.pwr.limit.toNat * 65536 + d.pwr.power.toNat

/-- PWR_STATUS (R494). -/
def Device.pwrStatus (id : CmdId) (d : Device) : Device :=
  d.runCmd 0x0604 id fun _ d =>
    let q := d.seq
    d.complete id Status.ok
      (leBytes 4 d.regPwrState ++ leBytes 4 d.pwr.leeway.toNat ++ leBytes 4 d.regPwrPackage ++
        leBytes 1 q.status.toNat ++
        leBytes 1 (natOfBool q.ref0 + 2 * natOfBool q.ref1 + 4 * natOfBool q.swapped) ++ leBytes 1 q.diodeFault.toNat ++
        leBytes 1 0 ++ leBytes 4 q.railsOn.toNat ++ leBytes 4 q.railsShort.toNat ++ leBytes 4 q.railsWindow.toNat ++
        leBytes 4 0)

def execPwrStatus (id : CmdId) (s : State) : Host.Outcome State Fault Refusal := s.lift (Device.pwrStatus id)

end Sys2Proof.Machine
end

