-- ==== Sys2Proof/Machine/Security.lean ====
section
/-! DEFINITION. Firmware loading, attestation and certificates, clock losses and the command-processor restart
(R447 to R463). -/

namespace Sys2Proof.Machine

/-! ### FW_LOAD (R455 to R457) -/

/-- A bit of the rollback counter, by the majority of its three copies (R453). -/
def Fuses.rollBit (f : Fuses) (k : Nat) : Bool :=
  decide (2 ≤ natOfBool (f.roll0.getLsbD k) + natOfBool (f.roll1.getLsbD k) + natOfBool (f.roll2.getLsbD k))

/-- The rollback counter: the number of bits blown (R453). -/
def Fuses.rollback (f : Fuses) : Nat := ((List.range 63).filter f.rollBit).length

/-- Blows one bit in the three copies; a weak one does not read back (R456). -/
def Fuses.blow (f : Fuses) (k : Nat) : Fuses :=
  if f.weak.getLsbD k then f
  else
    let b : BitVec 63 := BitVec.ofNat 63 (2 ^ k)
    { f with roll0 := f.roll0 ||| b, roll1 := f.roll1 ||| b, roll2 := f.roll2 ||| b }

/-- Blows bits in ascending order, at most `fuel`, until the counter is `goal`; false if a bit did not read back (R453,
R456). -/
def Fuses.blowTo (goal : Nat) : Nat → Fuses → Fuses × Bool
  | 0, f => (f, decide (goal ≤ f.rollback))
  | fuel + 1, f =>
    if goal ≤ f.rollback then (f, true)
    else
      match (List.range 63).find? fun k => !f.rollBit k with
      | none => (f, false)
      | some k => if (f.blow k).rollBit k then Fuses.blowTo goal fuel (f.blow k) else (f.blow k, false)

/-- The fuses as a COMMIT leaves them, and whether every bit read back (R456). -/
def Fuses.commit (f : Fuses) (goal : Nat) : Fuses × Bool := Fuses.blowTo goal 63 f

/-- The first check of a copied image that fails: a DETAIL of R456, or none. -/
def imageCheck (f : Fuses) (img : List Byte) : Option Nat :=
  let n := img.length
  let body := fieldAt img 0x18 4
  let flags := fieldAt img 6 2
  let key := sliceAt img (128 + body) 64
  let sig := sliceAt img (192 + body) 64
  if fieldAt img 0 4 ≠ 0x46575247 ∨ fieldAt img 4 2 ≠ 1 ∨ 8 ≤ flags ∨ fieldAt img 0x16 2 ≠ 0 ∨
      !allZero (sliceAt img 0x20 96) ∨ n ≠ 256 + body ∨ body % 64 ≠ 0 ∨ body < 64 ∨ 6291200 < body ∨
      fieldAt img 0x1C 4 % 4 ≠ 0 ∨ body ≤ fieldAt img 0x1C 4 ∨ 63 < fieldAt img 0x0C 4 ∨
      (flags.testBit 1 ∧ flags.testBit 0) ∨ (flags.testBit 2 ∧ !flags.testBit 0) then some 1
  else if fieldAt img 0x10 4 ≠ 0x1000 ∨ (fieldAt img 0x14 2 ≠ 0 ∧ fieldAt img 0x14 2 ≠ 0x3043) then some 3
  else if !f.fuseOk then some 6
  else if sha256 key ≠ f.keyHash then some 4
  else if !ecdsaVerify (sha256Nat (img.take (128 + body))) (beNat (key.take 32)) (beNat (key.drop 32))
      (beNat (sig.take 32)) (beNat (sig.drop 32)) then some 5
  else if fieldAt img 0x0C 4 < f.rollback then some 8
  else none

/-- A failed load (R456): recorded, counted, and the loader is the recovery loader. -/
def Device.fwFailure (d : Device) (id : CmdId) (detail release : Nat) : Device :=
  let d := d.record 16 1 .hub (leBytes 1 detail ++ leBytes 3 0 ++ leBytes 4 release)
  let d := d.modSec fun s => { s with fwFail := satInc s.fwFail, fwLast := BitVec.ofNat 8 detail }
  (d.modHost fun h => { h with loader := 1 }).complete id (if detail = 8 then Status.fwRollback else Status.fwVerify) []
    (BitVec.ofNat 32 detail)

/-- The image starts (R399, R456, R460): the hash is recorded, a new HELLO is needed. -/
def Device.fwStart (d : Device) (img : List Byte) : Device :=
  let flags := fieldAt img 6 2
  let d := d.modSec fun s =>
    { s with
      flags := BitVec.ofNat 16 flags, release := BitVec.ofNat 32 (fieldAt img 8 4),
      fwHash := sha256 (img.take (128 + fieldAt img 0x18 4)), restarted := false }
  d.modHost fun h => { h with loader := 2, version := 0 }

/-- FW_LOAD (R456): a COMMIT blows rollback bits one by one, and one that does not read back fails the load. -/
def Device.fwLoad (id : CmdId) (d : Device) : Device :=
  d.runCmd 0x0801 id fun ps d =>
    let off := fieldAt ps 0 4
    let len := fieldAt ps 4 4
    if d.host.loader = 2 then d.complete id Status.fwState
    else if off % 64 ≠ 0 ∨ len < 320 ∨ 0x600000 < len ∨ off < 0x9000 ∨ ringSramBytes < off + len then
      d.complete id Status.badParam
    else
      let img := d.ring.bytes off len
      let release := fieldAt img 8 4
      if d.ring.rangeBad off len then d.fwFailure id 7 release
      else
        match imageCheck d.sec.fuses img with
        | some k => d.fwFailure id k release
        | none =>
          let (fuses, good) := if (fieldAt img 6 2).testBit 2 then d.sec.fuses.commit (fieldAt img 0x0C 4) else (d.sec.fuses, true)
          let d := d.modSec fun s => { s with fuses := fuses }
          if !good then d.fwFailure id 6 release
          else (d.fwStart img).complete id Status.ok (leBytes 4 release ++ leBytes 4 fuses.rollback)

def execFwLoad (id : CmdId) (s : State) : Host.Outcome State Fault Refusal := s.lift (Device.fwLoad id)

/-! ### Identity and attestation (R458 to R462) -/

/-- SEC_FUSE_HASH: over every fuse bank but the sealed one, at its present value (R460). -/
def Device.fuseHash (d : Device) : BitVec 256 :=
  let f := d.sec.fuses
  sha256 (Config.fuseBanks f.serial f.failedSites f.keyHash f.rollback f.testLock
    (f.setpoints.map fun p => (p.1, p.2.toNat)) (f.sensorOffsets.map fun p => (p.1, p.2.toNat))
    (f.oscillators.map fun p => (p.1, p.2.toNat)) (f.droopTrims.map fun p => (p.1, p.2.toNat)))

/-- The first 208 bytes of the report (R461). -/
def Device.reportFront (d : Device) (nonce : List Byte) : List Byte :=
  leBytes 4 0x41545354 ++ leBytes 2 1 ++ leBytes 2 272 ++ leBytes 8 d.sec.fuses.serial.toNat ++ leBytes 8 d.hubNs ++
    sliceAt nonce 0 32 ++ leBytes 4 d.sec.release.toNat ++ leBytes 4 d.sec.fuses.rollback ++
    beBytes 32 d.sec.fwHash.toNat ++ leBytes 2 d.sec.flags.toNat ++ leBytes 1 d.comb.state.code ++ leBytes 1 0 ++
    leBytes 4 d.numberOrNone ++ beBytes 32 d.sec.combHash.toNat ++ beBytes 32 d.sec.cardHash.toNat ++
    beBytes 32 d.fuseHash.toNat ++ leBytes 8 0

/-- The private key that signs, as the fuses hold it (R458, log 1). -/
def Fuses.signKey (f : Fuses) : Nat := f.identityKey.toNat

/-- A number as `n` upper-case hexadecimal digits (R458). -/
def hexDigits : Nat → Nat → List Byte
  | 0, _ => []
  | n + 1, v =>
    let k := v % 16
    hexDigits n (v / 16) ++ [BitVec.ofNat 8 (if k < 10 then 48 + k else 55 + k)]

/-- A byte string lies somewhere within another. -/
def within (part whole : List Byte) : Bool := whole.tails.any fun t => t.take part.length == part

/-- The device certificate is the one of this part, as manufacture leaves it (R458): it names the fused serial number as
16 hexadecimal digits and carries the public key of the sealed key. The rest of its DER encoding is not in the manual. -/
def Fuses.certified (f : Fuses) : Bool :=
  let (x, y) := p256Public f.signKey
  let cert := f.certs.getD 0 []
  within (hexDigits 16 f.serial.toNat) cert && within (beBytes 32 x ++ beBytes 32 y) cert

/-- What ATTEST reports: the registers as they stood when it started (R460). -/
def Device.cmdFront (d : Device) (id : CmdId) : List Byte := ((d.findCmd id).map (·.front)).getD []

/-- ATTEST (R458, R461): ECDSA by the sealed key, with a random number of the security block's own (log 6). -/
def Device.attest (id : CmdId) (d : Device) : Device :=
  d.runCmd 0x0802 id fun _ d =>
    let front := d.cmdFront id
    let sig := ecdsaSign (sha256Nat front) d.sec.fuses.signKey (Config.signNonce d.free).toNat
    { d with free := d.free + 1 }.complete id Status.ok (front ++ beBytes 32 sig.1 ++ beBytes 32 sig.2)

def execAttest (id : CmdId) (s : State) : Host.Outcome State Fault Refusal := s.lift (Device.attest id)

/-- CERT_READ (R459). -/
def Device.certRead (id : CmdId) (d : Device) : Device :=
  d.runCmd 0x0803 id fun ps d =>
    let i := fieldAt ps 0 1
    let off := fieldAt ps 4 4
    let cert := d.sec.fuses.certs.getD i []
    if fieldAt ps 1 3 ≠ 0 then d.complete id Status.badParam
    else if 2 < i ∨ cert.length ≤ off then d.complete id Status.secRange
    else
      let n := min 4092 (cert.length - off)
      d.complete id Status.ok (leBytes 2 cert.length ++ leBytes 2 n ++ (cert.drop off).take n)

def execCertRead (id : CmdId) (s : State) : Host.Outcome State Fault Refusal := s.lift (Device.certRead id)

/-- SEC_STATUS (R462). -/
def Device.secStatus (id : CmdId) (d : Device) : Device :=
  d.runCmd 0x0804 id fun _ d =>
    d.complete id Status.ok
      (leBytes 4 d.sec.release.toNat ++ leBytes 4 d.sec.fuses.rollback ++ leBytes 2 d.sec.flags.toNat ++
        leBytes 1 (natOfBool d.sec.fuses.fuseOk + 2 * natOfBool d.sec.fuses.testLock) ++ leBytes 1 0 ++
        leBytes 4 d.sec.records.toNat)

def execSecStatus (id : CmdId) (s : State) : Host.Outcome State Fault Refusal := s.lift (Device.secStatus id)

/-! ### Clock losses (R447) -/

/-- The record and event of a clock loss: source 0 region PLL, 1 and 2 the reference clocks (R447, R450). -/
def Device.clockLoss (d : Device) (region source : Nat) : Device :=
  let d := d.haltJob region 10
  let d := d.record 10 2 (if region < 8 then d.atRegion region else .hub) (leBytes 1 source)
  d.raiseHub region 0x83 (BitVec.ofNat 32 source)

/-- PLL_LOCK_LOSS (R447). -/
def Device.pllLockLoss (r : Nat) (d : Device) : Device :=
  (d.modPwrRegion r fun g => { g with unlocked := true }).clockLoss r 0

def execPllLockLoss (r : Region) (s : State) : Host.Outcome State Fault Refusal := s.lift (Device.pllLockLoss r.val)

/-- REFCLK_LOSS (R447): the hub moves to its own oscillator; FAULT_N is asserted while the clock is lost. -/
def Device.refclkLoss (i : Nat) (d : Device) : Device :=
  let d := d.modSec fun s => if i = 0 then { s with refLost0 := true } else { s with refLost1 := true }
  (d.modSeq fun q => if i = 0 then { q with ref0 := false } else { q with ref1 := false }).clockLoss 0xFF (1 + i)

def execRefclkLoss (i : Fin 2) (s : State) : Host.Outcome State Fault Refusal := s.lift (Device.refclkLoss i.val)

/-- CLOCK_RECOVERED (R447): a lost clock has run without loss for 1 ms. Source 0 is the PLL of region `r`. -/
def Device.clockRecovered (src r : Nat) (d : Device) : Device :=
  match src with
  | 0 => d.modPwrRegion r fun g => { g with unlocked := false }
  | 1 => if d.seq.ref0 then d.modSec fun s => { s with refLost0 := false } else d
  | _ => if d.seq.ref1 then d.modSec fun s => { s with refLost1 := false } else d

def execClockRecovered (src : Fin 3) (r : Region) (s : State) : Host.Outcome State Fault Refusal :=
  s.lift (Device.clockRecovered src.val r.val)

/-! ### The restart of the command processor (R448, R463) -/

/-- A completion ring keeps its registers; completions that waited are abandoned. -/
def CplRing.kept (r : CplRing) : CplRing := { r with waiting := [], destroyCmd := none }

/-- The device after a restart (R448): ring SRAM and its scrubber, ring registers, NEXT, the completion cache, the
logbook and HBM are kept, and the stores that only the boot zeroing clears (R452); the SEC_ registers as R463 says; every
other state is as after reset. The link, the rails and hub time are not state of the restarted processor (log 15). Each
stack trains again and keeps its contents. -/
def Device.restarted (d : Device) : Device :=
  { Device.reset with
    now := d.now, free := d.free, ring := d.ring, ringScrub := d.ringScrub, ringBack := d.ringBack, hbm := d.hbm,
    hbmStacks := (List.range 8).map fun k => (k, { Stack.reset with keep := true }),
    host := { HostPort.reset with
      m0 := d.host.m0, m1 := d.host.m1, rate := d.host.rate, partner := d.host.partner, retrains := d.host.retrains,
      loader := 1, cache := d.host.cache,
      cmdRings := d.host.cmdRings.mapAll fun _ r => { r with destroyCmd := none },
      cplRings := d.host.cplRings.mapAll fun _ r => r.kept, toHost := d.host.toHost },
    comb := { Comb.reset with store := d.comb.store, storeScrub := d.comb.storeScrub },
    mus := d.mus.mapAll fun _ m => { Mu.reset with scratch := m.scratch, scrubRow := m.scrubRow },
    sfus := d.sfus.mapAll fun _ m => { Sfu.reset with sram := m.sram, scrubRow := m.scrubRow },
    sus := d.sus.mapAll fun _ m => { Su.reset with sram := m.sram, scrubRow := m.scrubRow },
    log := { d.log with stream := .off, streamCmd := none, streamPending := none },
    sec := { d.sec with release := 0, flags := 0, fwHash := 0, restarted := true },
    seq := d.seq }

/-- The hub hardware's acts of R448. `cause` 0 watchdog, 1 lockstep. -/
def Device.cpRestart (cause : Nat) (d : Device) : Device :=
  let release := d.sec.release.toNat
  let d := d.haltJob 0xFF 10
  let d := d.record 12 3 .hub (leBytes 1 cause ++ leBytes 3 0 ++ leBytes 4 release)
  let d := d.modSec fun s =>
    if cause = 0 then { s with restartDog := satInc s.restartDog } else { s with restartLock := satInc s.restartLock }
  d.restarted

def execCpLockstep (s : State) : Host.Outcome State Fault Refusal := s.lift (Device.cpRestart 1)
def execCpWatchdog (s : State) : Host.Outcome State Fault Refusal := s.lift (Device.cpRestart 0)

end Sys2Proof.Machine
end

