-- ==== Sys2Proof/Machine/Pins.lean ====
section
/-! DEFINITION. Rails, power-up and power-down, RESET_N and the reset of the device (R403, R451, R452, R487 to R497). -/

namespace Sys2Proof.Machine

/-! ### Functions held off (R493) -/

def Sequencer.on (q : Sequencer) (k : Nat) : Bool := q.railsOn.getLsbD k

/-- Die `k` has its SRAM rail and its diode. -/
def Sequencer.dieOk (q : Sequencer) (k : Nat) : Bool := q.on (10 + k) && !q.diodeFault.getLsbD k

def Sequencer.regionOk (q : Sequencer) (r : Nat) : Bool := q.on (2 + r) && q.dieOk (r / 2)

def Sequencer.stackOk (q : Sequencer) (k : Nat) : Bool := q.regionOk k && q.on 14 && q.on 15 && q.on 16

def Sequencer.portOk (q : Sequencer) (p : Nat) : Bool := q.on 17 && q.on 18 && q.dieOk (p / 3)

/-- Regions, stacks and ports whose rails or diodes have failed are held off (R493). -/
def Device.applyHeldOff (d : Device) : Device :=
  let q := d.seq
  let d := (List.range 8).foldl (fun d r =>
    if q.regionOk r then d
    else d.modPwrRegion r fun g => { g with heldOff := true, ceiling := 0, mode := 3, freq := 0 }) d
  let d := (List.range 8).foldl (fun d k =>
    if q.stackOk k then d else d.modStack k fun s => { s with state := 3, reads := [], writes := [] }) d
  (List.range 12).foldl (fun d p =>
    if q.portOk p then d
    else d.modPort p fun v => if v.life = .off then v else { v with life := .off, sent := [], held := [] }) d

/-! ### Reset (R14, R403, R448, R452, R497) -/

/-- The device as reset leaves it, held in reset: the fuses, the rails and the pins are not state of the reset, and HBM
is written with zeros when its stacks train. -/
def Device.held (d : Device) : Device :=
  { Device.reset with
    now := d.now, free := d.free, hbm := d.hbm,
    host := { HostPort.reset with toHost := d.host.toHost },
    sec := { Security.reset with
      fuses := d.sec.fuses, refLost0 := !d.seq.ref0, refLost1 := !d.seq.ref1 },
    hlt := { Health.reset with
      inputs := d.hlt.inputs.mapAll fun i p =>
        { Input.reset with level := p.level, since := p.since, glitch := if i = 3 then p.glitch else 0 } },
    seq := d.seq }

/-- The hub leaves reset: hub time starts at 0, the boot loader runs and checks the fuses (R452, R453), and the filters of
the inputs take up their levels anew (R14, log 7). -/
def Device.leaveReset (d : Device) : Device :=
  let d := ({ d.held with now := 0 }).modHlt fun h =>
    { h with inputs := h.inputs.mapAll fun _ p => { Input.reset with glitch := p.glitch } }
  let d := d.modSec fun s => { s with fuses := { s.fuses with fuseOk := s.fuses.crcBad.isEmpty } }
  (d.modSeq fun q => { q with resetLow := false, hubHeld := false, okSince := none }).applyHeldOff

/-- The checks of R490 run again at an assertion of RESET_N (R495). -/
def Sequencer.faulty (q : Sequencer) : Bool :=
  q.railsShort != 0 || q.railsWindow != 0 || q.diodeFault != 0 || !q.ref0 || !q.ref1

/-- The sequencer waits to run the whole of R490 again: every rail off, marks cleared. -/
def Sequencer.again (q : Sequencer) : Sequencer :=
  { q with pwrOk := false, status := 1, railsOn := 0, railsShort := 0, railsWindow := 0, checking := none, plan := [],
           offPlan := [], rerun := true }

/-- An assertion of reset: a sequencer with a fault runs R490 again, during power-up too; one that is off or powers down
loses its marks; one without a fault stays as it is (R495, R497). -/
def Sequencer.cleared (q : Sequencer) : Sequencer :=
  if !q.faulty then q
  else if q.pwrEn && q.status != 0 then q.again
  else { q with railsShort := 0, railsWindow := 0 }

def Device.modResetPin (d : Device) (f : Input → Input) : Device := d.modInput 3 f

/-- RESET_N_ASSERT (R432, R495, R497): after the filter the device is in reset. -/
def Device.resetAssert (held : Nat) (d : Device) : Device :=
  if (d.input 3).level then d
  else if held < 50 then d.modResetPin fun p => { p with glitch := satInc p.glitch }
  else
    let d := (d.modResetPin fun p => { p with level := true, since := d.now }).held
    d.modSeq fun q => { q with resetLow := true }.cleared

def execResetNAssert (held : Nat) (s : State) : Host.Outcome State Fault Refusal := s.liftAny (Device.resetAssert held)

/-- PWR_OK has been up for 100 µs (R497). -/
def Device.okLongEnough (d : Device) : Bool := d.seq.pwrOk &&
  (match d.seq.okSince with | some t => decide (t + ns 100000 ≤ d.now) | none => true)

/-- RESET_N_DEASSERT (R452, R497): the boot sequence starts, or waits for PWR_OK + 100 µs. RESET_N glitches count only
since its last deassertion (R439). -/
def Device.resetDeassert (held : Nat) (d : Device) : Device :=
  if !(d.input 3).level then d
  else if held < 50 then d.modResetPin fun p => { p with glitch := satInc p.glitch }
  else
    let d := d.modResetPin fun p => { p with level := false, since := d.now, glitch := 0 }
    if d.okLongEnough then d.leaveReset
    else d.modSeq fun q => { q with resetLow := false, hubHeld := true }

def execResetNDeassert (held : Nat) (s : State) : Host.Outcome State Fault Refusal :=
  s.liftAny (Device.resetDeassert held)

/-- HUB_LEAVES_RESET (R497). -/
def Device.hubLeaves (d : Device) : Device :=
  if d.seq.hubHeld ∧ !d.seq.resetLow ∧ d.okLongEnough then d.leaveReset else d

def execHubLeavesReset (s : State) : Host.Outcome State Fault Refusal := s.liftAny Device.hubLeaves

/-- DEVICE_RESET (R403): 1 ms after the completion of DEV_RESET has been written, as a pulse on RESET_N does. -/
def Device.deviceReset (d : Device) : Device :=
  if d.host.resetDue then
    if d.seq.faulty then (d.held).modSeq fun q => { q.again with hubHeld := true } else d.leaveReset
  else d

def execDeviceReset (s : State) : Host.Outcome State Fault Refusal := s.lift Device.deviceReset

/-! ### Power-up (R490 to R492) -/

/-- What the two inputs count as (R490): both good, or reversed. -/
def clockInputs (khz0 khz1 : Nat) : Bool × Bool × Bool :=
  let a (k : Nat) : Bool := decide (98000 ≤ k) && decide (k ≤ 102000)
  let b (k : Nat) : Bool := decide (153100 ≤ k) && decide (k ≤ 159400)
  if b khz0 && a khz1 then (false, false, true) else (a khz0, b khz1, false)

/-- Steps of R490 after the checks, for rails not marked: `inl d` waits for die d's diode, `inr k` enables rail k. -/
def powerPlan (short : BitVec 19) (diodes : BitVec 5) : List (Nat ⊕ Nat) :=
  let rails (ks : List Nat) : List (Nat ⊕ Nat) := (ks.filter fun k => !short.getLsbD k).map Sum.inr
  rails [0, 1] ++
    (List.range 4).flatMap (fun k =>
      if diodes.getLsbD k then [] else Sum.inl k :: rails [10 + k, 2 + 2 * k, 3 + 2 * k]) ++
    rails [14, 15, 16, 17, 18]

/-- The code that the sequencer shows once it is complete (R492). -/
def Sequencer.doneCode (q : Sequencer) : BitVec 4 :=
  if q.swapped then 0xA
  else if !q.ref0 || !q.ref1 then 0xB
  else if q.railsOn = 0x7FFFF ∧ q.diodeFault = 0 then 2
  else 3

/-- Takes up the next step, or asserts PWR_OK after the last. -/
def Sequencer.advance (q : Sequencer) (now : Nat) : Sequencer :=
  match q.plan with
  | [] => { q with checking := none, pwrOk := true, okSince := some now, status := q.doneCode }
  | .inl _ :: _ => { q with checking := none, status := 4 }
  | .inr k :: rest => { q with checking := some k, plan := rest, status := 1 }

/-- The checks of R490, from what the sequencer measures, and the start of the enables. A mark of an earlier sequence
that no RESET_N has cleared stays, and its rail stays off (R493, R495). -/
def Sequencer.start (q : Sequencer) (m : PowerUp) (now : Nat) : Sequencer :=
  let (g0, g1, sw) := clockInputs m.khz0 m.khz1
  let short := q.railsShort ||| m.short
  let q := { q with pwrEn := true, pwrOk := false, rerun := false, railsOn := 0, railsShort := short,
                    ref0 := g0, ref1 := g1, swapped := sw, diodeFault := m.diodeFault, checking := none, offPlan := [] }
  if short.getLsbD 0 || short.getLsbD 1 then { q with status := 8, plan := [] }
  else if m.diodeFault.getLsbD 4 then { q with status := 9, plan := [] }
  else if q.railsWindow.getLsbD 0 || q.railsWindow.getLsbD 1 then { q with status := 0xC, plan := [] }
  else { q with plan := powerPlan (short ||| q.railsWindow) m.diodeFault }.advance now

/-- The device is without power until the sequence ends: the hub stays held unless RESET_N is low. -/
def Device.powerStart (d : Device) (m : PowerUp) : Device :=
  (d.held).modSeq fun q => { q with hubHeld := !q.resetLow }.start m d.now

/-- PWR_EN_ASSERT (R490). A second assertion gives the measurements of a sequence that RESET_N runs again (R495,
log 16). -/
def Device.pwrEnAssert (m : PowerUp) (d : Device) : Device :=
  let q := d.seq
  if q.rerun ∧ q.pwrEn then d.powerStart m
  else if q.pwrEn ∨ q.status ≠ 0 then d
  else if q.aonValid then d.powerStart m
  else d.modSeq fun q => { q with pwrEn := true }

def execPwrEnAssert (m : PowerUp) (s : State) : Host.Outcome State Fault Refusal := s.liftAny (Device.pwrEnAssert m)

/-- VDD_AON_VALID (R490). -/
def Device.vddAonValid (m : PowerUp) (d : Device) : Device :=
  if d.seq.aonValid then d
  else
    let d := d.modSeq fun q => { q with aonValid := true }
    if d.seq.pwrEn ∧ d.seq.status = 0 then d.powerStart m else d

def execVddAonValid (m : PowerUp) (s : State) : Host.Outcome State Fault Refusal := s.liftAny (Device.vddAonValid m)

/-- DIODE_READY (R490): the diode that the sequencer waits for reads within range. -/
def Device.diodeReady (i : Nat) (d : Device) : Device :=
  d.modSeq fun q =>
    match q.plan with
    | .inl k :: rest => if k = i ∧ q.status = 4 then { q with plan := rest }.advance d.now else q
    | _ => q

def execDiodeReady (i : Fin 4) (s : State) : Host.Outcome State Fault Refusal := s.liftAny (Device.diodeReady i.val)

/-- RAIL_ENABLE_CHECK (R490): the rail enabled last is within 3 % after 2 ms, or is turned off and marked WINDOW. A
WINDOW on rail 0 or 1 leaves only VDD_AON on (R492). -/
def Sequencer.enableCheck (q : Sequencer) (k : Nat) (ok : Bool) (now : Nat) : Sequencer :=
  let bit : BitVec 19 := BitVec.ofNat 19 (2 ^ k)
  if q.checking ≠ some k then q
  else if ok then { q with railsOn := q.railsOn ||| bit }.advance now
  else if k ≤ 1 then { q with railsWindow := q.railsWindow ||| bit, railsOn := 0, checking := none, plan := [], status := 0xC }
  else { q with railsWindow := q.railsWindow ||| bit }.advance now

def execRailEnableCheck (k : Fin 19) (ok : Bool) (s : State) : Host.Outcome State Fault Refusal :=
  s.liftAny fun d => d.modSeq fun q => q.enableCheck k.val ok d.now

/-! ### Power-down and faults (R447, R451, R491, R495, R496) -/

/-- The reverse of the power-up order (R490, R496). -/
def downOrder : List Nat := [18, 17, 16, 15, 14, 9, 8, 13, 7, 6, 12, 5, 4, 11, 3, 2, 10, 1, 0]

/-- PWR_EN_DEASSERT (R496). -/
def Device.pwrEnDeassert (d : Device) : Device :=
  if !d.seq.pwrEn then d
  else
    let d := if d.up then d.haltJob 0xFF 10 else d
    d.modSeq fun q =>
      { q with pwrEn := false, pwrOk := false, status := 0xE, checking := none, plan := [], rerun := false,
               offPlan := downOrder.filter q.on }

def execPwrEnDeassert (s : State) : Host.Outcome State Fault Refusal := s.liftAny Device.pwrEnDeassert

/-- RAIL_OFF_STEP (R496): the next rail turns off; after the last, nothing that the rails fed is kept. -/
def Device.railOffStep (d : Device) : Device :=
  match d.seq.offPlan with
  | k :: rest =>
    let d := d.modSeq fun q => { q with railsOn := q.railsOn &&& ~~~(BitVec.ofNat 19 (2 ^ k)), offPlan := rest }
    if rest = [] then
      ({ d.held with hbm := .reset }).modSeq fun q => if q.status = 0xE then { q with status := 0, hubHeld := true } else q
    else d
  | [] =>
    if d.seq.status = 0xE then d.modSeq fun q => { q with status := 0, hubHeld := true } else d

def execRailOffStep (s : State) : Host.Outcome State Fault Refusal := s.liftAny Device.railOffStep

/-- The rail serves the running job (R495): its region or die is used by a comb of the ACTIVE set; an HBM, hub or UCIe
rail always; a SerDes rail while a port is ON (log 16). -/
def Device.railServesJob (d : Device) (k : Nat) : Bool :=
  d.comb.state = .active &&
  (if 2 ≤ k ∧ k ≤ 9 then d.setMin (k - 2) != 0
   else if 10 ≤ k ∧ k ≤ 13 then d.setMin (2 * (k - 10)) != 0 || d.setMin (2 * (k - 10) + 1) != 0
   else if 17 ≤ k then (List.range 12).any fun p => (d.port p).life = .on
   else true)

/-- A rail leaves its window or its regulator reports a fault (R495). -/
def Device.railFault (k : Nat) (d : Device) : Device :=
  if !d.seq.on k then d
  else
    let d := if d.railServesJob k then d.haltJob 0xFF 10 else d
    let bit : BitVec 19 := BitVec.ofNat 19 (2 ^ k)
    let d := d.modSeq fun q => { q with railsOn := q.railsOn &&& ~~~bit, railsWindow := q.railsWindow ||| bit }
    if k ≤ 1 then
      d.modSeq fun q => { q with status := 0xC, pwrOk := false, plan := [], checking := none, offPlan := downOrder.filter q.on }
    else
      (d.modSeq fun q => if q.pwrOk then { q with status := q.doneCode } else q).applyHeldOff

def execRailFault (k : Fin 19) (s : State) : Host.Outcome State Fault Refusal := s.liftAny (Device.railFault k.val)

/-- A STATUS_WORD that reports a voltage, current or temperature fault: bits 15 VOUT, 5 VOUT_OV_FAULT, 4 IOUT_OC_FAULT,
3 VIN_UV_FAULT and 2 TEMPERATURE of PMBus (log 16). -/
def statusWordFault (w : BitVec 16) : Bool := w &&& 0x803C != 0

/-- PMB_ALERT (R495). -/
def Device.pmbAlert (k : Nat) (w : BitVec 16) (d : Device) : Device := if statusWordFault w then d.railFault k else d

def execPmbAlert (k : Fin 19) (statusWord : BitVec 16) (s : State) : Host.Outcome State Fault Refusal :=
  s.liftAny (Device.pmbAlert k.val statusWord)

/-- CLOCK_RECOUNT (R491): the inputs are counted again; a clock that becomes good releases its functions under R447. -/
def Device.clockRecount (khz0 khz1 : Nat) (d : Device) : Device :=
  if !d.seq.pwrOk then d
  else
    let (g0, g1, sw) := clockInputs khz0 khz1
    d.modSeq fun q =>
      let q := { q with ref0 := g0, ref1 := g1, swapped := sw }
      { q with status := q.doneCode }

def execClockRecount (khz0 khz1 : Nat) (s : State) : Host.Outcome State Fault Refusal :=
  s.liftAny (Device.clockRecount khz0 khz1)

/-- FAULT_N is asserted (R451, R492). -/
def Device.faultN (d : Device) : Bool :=
  d.hlt.trip || d.sec.refLost0 || d.sec.refLost1 || d.sec.restarted || d.seq.status = 3 || decide (8 ≤ d.seq.status.toNat)

end Sys2Proof.Machine
end

