-- ==== Sys2Proof/Machine/Vexlink.lean ====
section
/-! DEFINITION. Vexlink ports and the link layer, bearings and the path of a frame (R331 to R349, R366), with the
commands that configure them. Transactions are in Txn.lean. -/

namespace Sys2Proof.Machine

/-! ### Frames (R338 to R340) -/

/-- Flits of a frame: each takes a link sequence number (R338, R340). -/
def FrameBody.flits : FrameBody → Nat
  | .write t => 1 + (t.data.length - 192 + 255) / 256
  | .readData t => 1 + (t.data.length - 192 + 255) / 256
  | .regData t => 1 + (t.data.length - 192 + 255) / 256
  | _ => 1

/-- A frame of the control class (R339). -/
def FrameBody.control : FrameBody → Bool
  | .linkAck .. => true
  | .strike .. => true
  | .flag .. => true
  | .ack .. => true
  | .nak .. => true
  | .grant .. => true
  | .prune .. => true
  | .placeResp .. => true
  | _ => false

/-- A bulk transaction (R339). -/
def FrameBody.bulk : FrameBody → Bool
  | .write .. => true
  | .readData .. => true
  | .regData .. => true
  | _ => false

/-- The TID of a transaction or request, which a discard answers with NAK UNREACHABLE (R347). -/
def FrameBody.request : FrameBody → Option Word64
  | .flag tid .. => some tid
  | .readReq tid .. => some tid
  | .creditReq tid .. => some tid
  | .withdraw tid => some tid
  | .placeReq tid .. => some tid
  | .regRead tid .. => some tid
  | .write t => some t.tid
  | _ => none

/-- XFER of a multicast transaction, else 0. -/
def FrameBody.xfer : FrameBody → Word
  | .write t => t.xfer
  | _ => 0

/-! ### Chart addresses (R343, R344) -/

def chartDevice (a : Word64) : Nat := bitsNat a.toNat 63 46
def chartSpace (a : Word64) : Nat := bitsNat a.toNat 45 44
def chartOffset (a : Word64) : Nat := a.toNat % 2 ^ 44

/-- Vexlink 1 carries HBM reads and writes, flag writes, strikes and the answers to them, between devices below 65,536
(R335). The DEST of a STRIKE is not stated (log 6), so only its SRC counts. -/
def v1Carries (f : Frame) : Bool :=
  decide (f.src.toNat < 65536) &&
  (decide (f.dest.toNat < 65536) || match f.body with | .strike .. => true | _ => false) &&
  match f.body with
  | .write t => t.xfer == 0 && chartSpace t.address != 1
  | .readReq _ a _ => chartSpace a == 0
  | .creditReq .. => false
  | .withdraw .. => false
  | .placeReq .. => false
  | .placeResp .. => false
  | .regRead .. => false
  | .regData .. => false
  | .prune .. => false
  | .grant .. => false
  | _ => true

/-! ### Bearings (R346, R347) -/

def bearLen (b : Word64) : Nat := bitsNat b.toNat 61 57
def bearPrefix (b : Word64) : Nat := bitsNat b.toNat 56 39
def bearPrimary (b : Word64) : Nat := bitsNat b.toNat 38 35
def bearAlternate (b : Word64) : Nat := bitsNat b.toNat 34 31
def bearMcast (b : Word64) : Nat := bitsNat b.toNat 30 19

/-- A valid entry whose LEN high bits match. -/
def bearMatches (b : Word64) (dest : Nat) : Bool :=
  b.getLsbD 63 && bearPrefix b / 2 ^ (18 - bearLen b) == dest / 2 ^ (18 - bearLen b)

/-- The valid entry with the longest matching prefix. -/
def Vxl.lookup (v : Vxl) (dest : Nat) : Option Word64 :=
  v.bearings.foldl (fun best e =>
    if bearMatches e.2 dest then
      match best with
      | some b => if bearLen b < bearLen e.2 then some e.2 else some b
      | none => some e.2
    else best) none

/-! ### Ports (R336 to R338) -/

def VxlPort.usable (p : VxlPort) : Bool := p.life == .on && !p.retrain

/-- Frames that a replay buffer holds, each flit of a bulk transaction as one (R338). -/
def replayCap : Nat := 2048

/-- The frame whose turn it is to leave, or whose next flit is (R341): control frames come first; a request frame and a
flit of the oldest bulk transaction take turns. On Vexlink 1, control and request frames are one class, in the order in
which they came, and a bulk transaction that has begun is not interrupted (R335). -/
def VxlPort.turn (p : VxlPort) : Option Frame :=
  let begun := p.held.find? fun f => f.flit != 0
  if p.version = 1 then
    match begun with
    | some f => some f
    | none => (p.held.find? fun f => !f.body.bulk).or p.held.head?
  else
    match p.held.find? fun f => f.body.control with
    | some f => some f
    | none =>
      let request := p.held.find? fun f => !f.body.bulk
      let bulk := begun.or (p.held.find? fun f => f.body.bulk)
      if p.requestTurn then request.or bulk else bulk.or request

/-- LEAD_REM counts the wait at the port as residence (R366). -/
def FrameBody.waited (b : FrameBody) (units : Nat) : FrameBody :=
  match b with
  | .strike t lead fb => .strike t (BitVec.ofInt 32 (lead.toInt - ((units + 23) / 24 : Nat))) fb
  | b => b

/-- A frame, or the next flit of one, leaves: it is numbered and kept in the replay buffer (R338). -/
def VxlPort.emit (p : VxlPort) (f : Frame) (now : Nat) : VxlPort :=
  let ns := BitVec.ofNat 32 (min ((now - f.time) / 24) 0xFFFFFFFF)
  { p with
    sent := p.sent ++ [{ f with lseq := p.txSeq, body := f.body.waited (now - f.time) }]
    txSeq := p.txSeq + 1
    held := if f.flit + 1 < f.body.flits then p.held.map fun g => if g == f then { g with flit := g.flit + 1 } else g
            else p.held.erase f
    requestTurn := if f.body.bulk then true else if f.body.control then p.requestTurn else false
    ctrlWait := if f.body.control && decide (p.ctrlWait ≤ ns) then ns else p.ctrlWait }

/-! ### Frames of this device (R338, R343) -/

/-- A frame that this device originates, with 32 hops left. It is routed when the command that made it ends. -/
def Device.post (d : Device) (dest : BitVec 18) (b : FrameBody) : Device :=
  d.modVxl fun v =>
    { v with outbox := v.outbox ++
        [{ flit := 0, time := d.now, hops := 32, dest := dest, src := v.device, lseq := 0, body := b }] }

/-- A frame discarded on its way: a request is answered with a NAK (R347). -/
def Device.refuseFrame (d : Device) (f : Frame) (reason : Nat) : Device :=
  match f.body.request with
  | some tid => d.post f.src (.nak tid (BitVec.ofNat 8 reason) f.body.xfer)
  | none => d

/-- A frame that a Vexlink 1 port does not carry, a copy for a multicast number among them (R335). -/
def Device.v1Refuses (d : Device) (p : Nat) (f : Frame) : Bool :=
  (d.port p).version == 1 &&
  (!v1Carries f || (f.body.request.isSome && (d.vxl.lookup f.dest.toNat).any fun b => bearMcast b != 0))

/-- Frames that wait leave a usable port while its replay buffer has room; one that the port's version does not carry is
refused with UNSUPPORTED. -/
def Device.flushAux (p : Nat) : Nat → Device → Device
  | 0, d => d
  | fuel + 1, d =>
    let v := d.port p
    if !v.usable || decide (replayCap ≤ v.sent.length) then d
    else
      match v.turn with
      | none => d
      | some f =>
        if d.v1Refuses p f then
          Device.flushAux p fuel ((d.modPort p fun v => { v with held := v.held.erase f }).refuseFrame f 7)
        else Device.flushAux p fuel (d.modPort p fun v => v.emit f d.now)

def Device.flushPort (d : Device) (p : Nat) : Device :=
  Device.flushAux p ((d.port p).held.map fun f => f.body.flits).sum d

/-- What a port sends, whatever its kind: the frame comes to wait there, and leaves when its turn comes. -/
def Device.portSend (d : Device) (p : Nat) (f : Frame) : Device :=
  (d.modPort p fun v => { v with held := v.held ++ [{ f with flit := 0, time := d.now }] }).flushPort p

/-- A port leaves ON: VXL_PORT_DOWN, each time (R369). It does not come from an IOU, so it carries region 0xFF (R370);
its ARG is not stated (log 6). -/
def Device.portDown (d : Device) : Device :=
  let (w, d) := d.drawWord
  d.raiseHub 0xFF 0x61 w

/-! ### The path of a frame that is not for this device (R335, R347) -/

/-- What becomes of a frame: it is on its way or waits, or it is discarded and its originator is answered. -/
inductive Sent where
  | done (d : Device)
  | refused (d : Device) (reason : Nat)

def Device.countRoute (d : Device) : Device := d.modVxl fun v => { v with fwdRoute := satInc v.fwdRoute }
def Device.countHold (d : Device) : Device := d.modVxl fun v => { v with fwdHold := satInc v.fwdHold }

/-- The path of a frame: by each port of MCAST, by PRIMARY where it is ON and not retraining, else by ALTERNATE where it
is ON; else it waits at one of them (R347). -/
def Device.route (d : Device) (f : Frame) : Sent :=
  match d.vxl.lookup f.dest.toNat with
  | none => .refused d.countRoute 8
  | some b =>
    if bearMcast b ≠ 0 then
      .done ((List.range 12).foldl (fun d p => if (bearMcast b).testBit p then d.portSend p f else d) d)
    else
      let a := bearPrimary b
      let c := bearAlternate b
      if a < 12 ∧ (d.port a).usable then .done (d.portSend a f)
      else if c < 12 ∧ (d.port c).life = .on then .done (d.portSend c f)
      else if a < 12 then .done (d.portSend a f)
      else if c < 12 then .done (d.portSend c f)
      else .refused d.countHold 8

/-! ### The source table (R343, R354) -/

/-- The device's own number. -/
def Vxl.own (v : Vxl) (n : BitVec 18) : Bool := v.valid && v.device == n

def tidDevice (tid : Word64) : BitVec 18 := BitVec.ofNat 18 (bitsNat tid.toNat 63 46)
def tidOrig (tid : Word64) : BitVec 5 := BitVec.ofNat 5 (bitsNat tid.toNat 45 41)
def tidSeq (tid : Word64) : Nat := tid.toNat % 2 ^ 41

/-- The entry of a TID's device and originator. -/
def SrcEntry.isFor (e : SrcEntry) (tid : Word64) : Bool := e.device == tidDevice tid && e.orig == tidOrig tid

/-- What the source table says of an arriving number. -/
inductive Admit where
  | fresh | done | doing | stale | full
  deriving DecidableEq, Repr

def Vxl.admission (v : Vxl) (tid : Word64) : Admit :=
  match v.src.find? (·.isFor tid) with
  | none => if v.src.length < 4096 then .fresh else .full
  | some e =>
    let n := tidSeq tid
    if e.top < n then .fresh
    else if n + 1024 ≤ e.top then .stale
    else if e.done.contains n then .done
    else if e.doing.contains n then .doing
    else .fresh

/-- Numbers that the window ending at `top` still holds. -/
def inWindow (top : Nat) (l : List Nat) : List Nat := l.filter fun n => decide (top < n + 1024)

/-- A number's transaction begins: the window moves up to it, and its bit is set. -/
def Vxl.start (v : Vxl) (tid : Word64) : Vxl :=
  let n := tidSeq tid
  if v.src.any (·.isFor tid) then
    { v with src := v.src.map fun e =>
        if e.isFor tid then
          let top := max e.top n
          { e with top := top, done := inWindow top e.done, doing := inWindow top (n :: e.doing) }
        else e }
  else { v with src := v.src ++ [{ device := tidDevice tid, orig := tidOrig tid, top := n, done := [], doing := [n] }] }

def Vxl.modSrc (v : Vxl) (tid : Word64) (f : SrcEntry → SrcEntry) : Vxl :=
  { v with src := v.src.map fun e => if e.isFor tid then f e else e }

/-- The transaction has been carried out. -/
def Vxl.finish (v : Vxl) (tid : Word64) : Vxl :=
  v.modSrc tid fun e =>
    if e.doing.contains (tidSeq tid) then
      { e with doing := e.doing.filter (· != tidSeq tid), done := tidSeq tid :: e.done }
    else e

/-- A NAKed transaction leaves its bit clear. -/
def Vxl.unstart (v : Vxl) (tid : Word64) : Vxl :=
  v.modSrc tid fun e => { e with doing := e.doing.filter (· != tidSeq tid) }

/-! ### Training and retraining (R334 to R337, R366) -/

/-- The lanes that carry a port: code 3 four, 2 two, 1 one, 0 none (R334). -/
def widthCode (good : BitVec 4) : Nat :=
  if good = 0xF then 3
  else if good &&& 3 = 3 ∨ good &&& 12 = 12 then 2
  else if good ≠ 0 then 1
  else 0

def widthLanes (code : Nat) : Nat := match code with | 3 => 4 | 2 => 2 | 1 => 1 | _ => 0

/-- The highest mode that both ends allow: 1 50, 2 100, 3 200. -/
def rateCode (modes : BitVec 3) : Nat :=
  if modes.getLsbD 2 then 3 else if modes.getLsbD 1 then 2 else if modes.getLsbD 0 then 1 else 0

/-- Vexlink 2 if both offer it, else Vexlink 1 if both do. Vexlink 1 offers no 200 mode (R332). -/
def versionOf (versions : BitVec 2) : Nat := if versions.getLsbD 1 then 2 else if versions.getLsbD 0 then 1 else 0

/-- The result of a training with what the partner brings, or none where it starts again. -/
def VxlPort.trained (p : VxlPort) (t : Training) : Option VxlPort :=
  let ver := versionOf (p.versions &&& t.versions)
  let modes := p.modes &&& t.modes &&& (if ver = 1 then 3 else 7)
  let rate := rateCode modes
  let w := widthCode t.good
  if ver = 0 ∨ rate = 0 ∨ w = 0 then none
  else
    some { p with version := BitVec.ofNat 2 ver, rate := BitVec.ofNat 2 rate, width := BitVec.ofNat 2 w,
                  reversed := t.reversed, polarity := t.polarity, good := t.good, delay := t.delayPs }

/-- PORT_TRAINED (R334): a STARTING port goes ON, or starts training again. The GOOD lanes of the latest training stand;
without a shared version VERSION reads 0. -/
def Device.portTrained (p : Nat) (t : Training) (d : Device) : Device :=
  if (d.port p).life ≠ .starting then d
  else
    (d.modPort p fun v =>
      match v.trained t with
      | none => { v with good := t.good, version := if versionOf (v.versions &&& t.versions) = 0 then 0 else v.version }
      | some v => { v with life := .on, retrain := false, txSeq := 0, rxSeq := 0, sent := [], tries := 0, rxPart := none }).flushPort
        p

def execPortTrained (p : PortIx) (t : Training) (s : State) : Host.Outcome State Fault Refusal :=
  s.lift (Device.portTrained p.val t)

/-- PORT_RETRAIN (R337). -/
def Device.portRetrain (p : Nat) (d : Device) : Device :=
  let v := d.port p
  if v.life ≠ .on ∨ v.retrain then d
  else d.modPort p fun v => { v with retrain := true, retrains := satInc v.retrains }

/-- What the FEC of a port reports is counted, corrected codewords in units of 1,024 (R371); more than 1,000 uncorrectable
ones in 1 ms make the port retrain (R337). -/
def Device.fecReport (d : Device) (p corrected uncorrectable : Nat) : Device :=
  if corrected = 0 ∧ uncorrectable = 0 then d
  else
    let d := d.modPort p fun v =>
      { v with
        corr := satAdd v.corr ((v.corrSum + corrected) / 1024), corrSum := (v.corrSum + corrected) % 1024,
        uncorr := satAdd v.uncorr uncorrectable,
        fecTimes := (v.fecTimes.filter fun e => decide (d.now ≤ e.1 + 24000000)) ++ [(d.now, uncorrectable)] }
    if 1000 < ((d.port p).fecTimes.map (·.2)).sum then d.portRetrain p else d

/-- Replays of one frame that may fail before the port retrains (R337). -/
def maxTries : Nat := 16

/-- PORT_RETRAIN (R337): a lane has lost lock, 16 consecutive replays of one frame have failed, or the FEC reports
codewords that it could not correct. -/
def Device.retrainFor (p : Nat) (cause : RetrainCause) (d : Device) : Device :=
  match cause with
  | .lostLock => d.portRetrain p
  | .replaysFailed => if maxTries ≤ (d.port p).tries then d.portRetrain p else d
  | .fecErrors n => if (d.port p).life = .on then d.fecReport p 0 n else d

def execPortRetrain (p : PortIx) (cause : RetrainCause) (s : State) : Host.Outcome State Fault Refusal :=
  s.lift (Device.retrainFor p.val cause)

/-- The retrain has failed: buffers and queues are dropped, the port returns to STARTING and VXL_PORT_DOWN is raised. -/
def Device.retrainFail (d : Device) (p : Nat) : Device :=
  (d.modPort p fun v =>
    { v with life := .starting, retrain := false, sent := [], held := [], tries := 0, rxPart := none }).portDown

/-- RETRAIN_DONE (R337): the port replays from its oldest frame not acknowledged; below its minimum width it acts as if
the retrain had failed. -/
def Device.retrainDone (p : Nat) (t : Training) (d : Device) : Device :=
  let v := d.port p
  if v.life ≠ .on ∨ !v.retrain then d
  else
    match v.trained t with
    | none => d
    | some w =>
      if widthLanes w.width.toNat < v.minWidth then (d.modPort p fun _ => w).retrainFail p
      else
        (d.modPort p fun _ =>
          { w with retrain := false, replays := satAdd w.replays w.sent.length, tries := 0, fecTimes := [] }).flushPort p

def execRetrainDone (p : PortIx) (t : Training) (s : State) : Host.Outcome State Fault Refusal :=
  s.lift (Device.retrainDone p.val t)

/-- RETRAIN_TIMEOUT (R337): 100 ms without success. -/
def Device.retrainTimeout (p : Nat) (d : Device) : Device :=
  if (d.port p).life = .on ∧ (d.port p).retrain then d.retrainFail p else d

def execRetrainTimeout (p : PortIx) (s : State) : Host.Outcome State Fault Refusal :=
  s.lift (Device.retrainTimeout p.val)

/-- A port replays from its oldest frame not acknowledged; once 16 replays of that frame have failed it retrains (R337,
R338). -/
def Device.replayAll (d : Device) (p : Nat) : Device :=
  let v := d.port p
  if v.sent.isEmpty then d
  else if maxTries ≤ v.tries then d.portRetrain p
  else d.modPort p fun v => { v with replays := satAdd v.replays v.sent.length, tries := v.tries + 1 }

/-- REPLAY_TIMEOUT (R338): no LINK_ACK has covered a frame within 1 µs, so the port replays. -/
def Device.replay (p : Nat) (d : Device) : Device := if (d.port p).usable then d.replayAll p else d

def execReplayTimeout (p : PortIx) (s : State) : Host.Outcome State Fault Refusal := s.lift (Device.replay p.val)

/-- Frames covered by a cumulative acknowledgement of every frame up to `lseq` leave the replay buffer. -/
def ackFrames (lseq : BitVec 12) (fs : List Frame) : List Frame :=
  fs.dropWhile fun f => decide ((lseq - f.lseq).toNat < 2048)

/-- Frames arrive at the port, or still do while it stops. -/
def VxlPort.takes (p : VxlPort) : Bool := p.usable || p.life == .stopping

/-- The flits of a frame that come with its header: the first, and how many. -/
def flitsOf (h : FrameHdr) (b : FrameBody) : Nat × Nat :=
  match h.part with
  | some q => if b.flits = 1 then (0, 1) else q
  | none => (0, b.flits)

/-- The flits follow those of the transaction that have come before them. -/
def VxlPort.follows (p : VxlPort) (first : Nat) (b : FrameBody) : Bool :=
  first == 0 || p.rxPart == some (first, b)

/-- The receiver's check of a frame, or of flits of one (R338): CRC and FEC hold, it is next in sequence, and the port is
ON. One that fails is answered with a replay request; one that passes with an acknowledgement, and if its TYPE is reserved
it is discarded and counted (R339). A bulk transaction has come once its last flit has. -/
def Device.linkTake (d : Device) (p : Nat) (h : FrameHdr) (b : FrameBody) : Option Device × Device :=
  let v := d.port p
  if !v.takes then (none, d)
  else
    let d := d.fecReport p h.corrected h.uncorrectable
    let (first, n) := flitsOf h b
    if h.good && h.uncorrectable == 0 && h.lseq == v.rxSeq && v.follows first b then
      let next := v.rxSeq + BitVec.ofNat 12 n
      let d := d.modPort p fun v => { v with rxSeq := next, acks := v.acks ++ [(next - 1, false)] }
      if h.reserved then (none, d.modPort p fun v => { v with bad := satInc v.bad })
      else if first + n < b.flits then (none, d.modPort p fun v => { v with rxPart := some (first + n, b) })
      else
        let d := if b.flits = 1 then d else d.modPort p fun v => { v with rxPart := none }
        (some d, d)
    else (none, d.modPort p fun v => { v with acks := v.acks ++ [(v.rxSeq - 1, true)] })

/-- LINK_ACK (R338): it carries no number of its own (log 18). -/
def Device.linkAck (p : Nat) (h : FrameHdr) (lseq : BitVec 12) (replay : Bool) (d : Device) : Device :=
  if !(d.port p).takes then d
  else
    let d := d.fecReport p h.corrected h.uncorrectable
    if !h.good || h.uncorrectable != 0 then d
    else if h.reserved then d.modPort p fun v => { v with bad := satInc v.bad }
    else
      let left := ackFrames lseq (d.port p).sent
      let d := d.modPort p fun v =>
        { v with sent := left, tries := if left.length = v.sent.length then v.tries else 0 }
      let d := d.flushPort p
      if replay then d.replayAll p else d

def execLinkAck (p : PortIx) (h : FrameHdr) (lseq : BitVec 12) (replay : Bool) (s : State) :
    Host.Outcome State Fault Refusal :=
  s.lift (Device.linkAck p.val h lseq replay)

/-- PORT_OFF (R336): every frame is acknowledged, or 10 µs have passed. Frames that have not left go on waiting (R347). -/
def Device.portOff (p : Nat) (d : Device) : Device :=
  let v := d.port p
  if v.life ≠ .stopping then d
  else
    let cmd := v.disableCmd
    let d := d.modPort p fun v =>
      { v with life := if v.pendingEnable then .starting else .off, pendingEnable := false, disableCmd := none, sent := [],
               tries := 0, rxPart := none, retrain := false, version := 0, rate := 0, width := 0 }
    match cmd with
    | some id => d.complete id Status.ok
    | none => d

def execPortOff (p : PortIx) (s : State) : Host.Outcome State Fault Refusal := s.lift (Device.portOff p.val)

/-- DELAY_MEASURE (R366). -/
def execDelayMeasure (p : PortIx) (ps : Word) (s : State) : Host.Outcome State Fault Refusal :=
  s.lift fun d => if (d.port p.val).life = .on then d.modPort p.val fun v => { v with delay := ps } else d

/-! ### Commands (R336, R343, R346, R353, R359, R367, R370) -/

/-- VXL_PORT_CONFIG (R336). -/
def Device.vxlPortConfig (id : CmdId) (d : Device) : Device :=
  d.runCmd 0x0901 id fun ps d =>
    let p := fieldAt ps 0 1
    let modes := fieldAt ps 1 1
    let vers := fieldAt ps 2 1
    let mw := fieldAt ps 3 1
    if 11 < p then d.complete id Status.vxlPort
    else if modes = 0 ∨ 7 < modes ∨ vers = 0 ∨ 3 < vers ∨ ¬(mw = 1 ∨ mw = 2 ∨ mw = 4) then d.complete id Status.vxlRange
    else if (d.port p).life ≠ .off then d.complete id Status.vxlState
    else
      (d.modPort p fun v =>
        { v with modes := BitVec.ofNat 3 modes, versions := BitVec.ofNat 2 vers, minWidth := mw }).complete id Status.ok

def execVxlPortConfig (id : CmdId) (s : State) : Host.Outcome State Fault Refusal := s.lift (Device.vxlPortConfig id)

/-- VXL_PORT_ENABLE (R336, R407, R493). -/
def Device.vxlPortEnable (id : CmdId) (d : Device) : Device :=
  d.runCmd 0x0902 id fun ps d =>
    let p := fieldAt ps 0 1
    if 11 < p then d.complete id Status.vxlPort
    else if fieldAt ps 1 3 ≠ 0 then d.complete id Status.vxlRange
    else if !d.vxl.valid then d.complete id Status.vxlNoId
    else if !d.seq.portOk p then d.complete id Status.vxlState
    else
      match (d.port p).life with
      | .off => (d.modPort p fun v => { v with life := .starting }).complete id Status.ok
      | .stopping => (d.modPort p fun v => { v with pendingEnable := true }).complete id Status.acceptedPending
      | _ => d.complete id Status.vxlState

def execVxlPortEnable (id : CmdId) (s : State) : Host.Outcome State Fault Refusal := s.lift (Device.vxlPortEnable id)

/-- VXL_PORT_DISABLE (R336, R394): it completes at OFF. A port that leaves ON raises VXL_PORT_DOWN (R369). -/
def Device.vxlPortDisable (id : CmdId) (d : Device) : Device :=
  d.runCmd 0x0903 id fun ps d =>
    let p := fieldAt ps 0 1
    if 11 < p then d.complete id Status.vxlPort
    else if fieldAt ps 1 3 ≠ 0 then d.complete id Status.vxlRange
    else
      match (d.port p).life with
      | .off => d.complete id Status.ok
      | .stopping => d.modPort p fun v => { v with pendingEnable := false, disableCmd := some id }
      | life =>
        let d := d.modPort p fun v => { v with life := .stopping, disableCmd := some id }
        if life = .on then d.portDown else d

def execVxlPortDisable (id : CmdId) (s : State) : Host.Outcome State Fault Refusal :=
  s.lift (Device.vxlPortDisable id)

/-- VXL_SET_ID (R343). -/
def Device.vxlSetId (id : CmdId) (d : Device) : Device :=
  d.runCmd 0x0904 id fun ps d =>
    let n := fieldAt ps 0 4
    if 2 ^ 18 ≤ n then d.complete id Status.vxlRange
    else if (List.range 12).any fun p => (d.port p).life ≠ .off then d.complete id Status.vxlState
    else (d.modVxl fun v => { v with valid := true, device := BitVec.ofNat 18 n }).complete id Status.ok

def execVxlSetId (id : CmdId) (s : State) : Host.Outcome State Fault Refusal := s.lift (Device.vxlSetId id)

/-- The entries of VXL_BEARING_SET, by index. -/
def bearingEntries (ps : List Byte) : List (Nat × Word64) :=
  (List.range (fieldAt ps 2 2)).map fun k => (fieldAt ps 0 2 + k, BitVec.ofNat 64 (fieldAt ps (8 + 8 * k) 8))

/-- An entry's fields are in range (R346, R370). -/
def bearingOk (b : Word64) : Bool :=
  decide (bearLen b ≤ 18) && decide (bearPrimary b < 12 ∨ bearPrimary b = 15) &&
  decide (bearAlternate b < 12 ∨ bearAlternate b = 15) && b.toNat % 2 ^ 19 == 0

/-- No two valid entries have the same PREFIX and LEN. -/
def bearingsDistinct : Tab Word64 → Bool
  | [] => true
  | (_, b) :: t =>
    (!b.getLsbD 63 || t.all fun e => !(e.2.getLsbD 63 && bearPrefix e.2 == bearPrefix b && bearLen e.2 == bearLen b)) &&
      bearingsDistinct t

/-- VXL_BEARING_SET (R346, R348). -/
def Device.vxlBearingSet (id : CmdId) (d : Device) : Device :=
  d.runCmd 0x0905 id fun ps d =>
    let n := fieldAt ps 2 2
    let es := bearingEntries ps
    let t := es.foldl (fun t e => t.put e.1 e.2) d.vxl.bearings
    if n < 1 ∨ 64 < n ∨ 1024 < fieldAt ps 0 2 + n ∨ fieldAt ps 4 4 ≠ 0 ∨ !(es.all fun e => bearingOk e.2) ∨
        !bearingsDistinct t then d.complete id Status.vxlRange
    else (d.modVxl fun v => { v with bearings := t }).complete id Status.ok

def execVxlBearingSet (id : CmdId) (s : State) : Host.Outcome State Fault Refusal := s.lift (Device.vxlBearingSet id)

/-- VXL_MCAST_SET (R359). -/
def Device.vxlMcastSet (id : CmdId) (d : Device) : Device :=
  d.runCmd 0x0906 id fun ps d =>
    let g := fieldAt ps 0 1
    let n := fieldAt ps 1 1
    let alias_ := fieldAt ps 4 4
    let devs := (List.range n).map fun k => fieldAt ps (8 + 4 * k) 4
    if 15 < g ∨ 64 < n ∨ fieldAt ps 2 2 ≠ 0 ∨ 2 ^ 18 ≤ alias_ ∨ devs.any (fun x => decide (2 ^ 18 ≤ x)) then
      d.complete id Status.vxlRange
    else
      (d.modVxl fun v =>
        { v with groups := v.groups.put g (BitVec.ofNat 18 alias_, devs.map (BitVec.ofNat 18)) }).complete id Status.ok

def execVxlMcastSet (id : CmdId) (s : State) : Host.Outcome State Fault Refusal := s.lift (Device.vxlMcastSet id)

/-- VXL_E2E_CONFIG (R353, R355, R361). -/
def Device.vxlE2eConfig (id : CmdId) (d : Device) : Device :=
  d.runCmd 0x0908 id fun ps d =>
    let w := fieldAt ps 0 4
    let lag := bitsNat w 29 20
    let grant := bitsNat w 19 10
    let tmo := bitsNat w 7 0
    if bitsNat w 9 8 ≠ 0 ∨ lag < 5 ∨ 1000 < lag ∨ grant < 1 ∨ 1000 < grant ∨ tmo < 10 ∨ 200 < tmo then
      d.complete id Status.vxlRange
    else
      (d.modVxl fun v =>
        { v with retries := BitVec.ofNat 2 (bitsNat w 31 30), mcastLag := BitVec.ofNat 10 lag,
                 grantLimit := BitVec.ofNat 10 grant, timeout := BitVec.ofNat 8 tmo }).complete id Status.ok

def execVxlE2eConfig (id : CmdId) (s : State) : Host.Outcome State Fault Refusal := s.lift (Device.vxlE2eConfig id)

/-- VXL_TICK_ROLE (R367). LEAD is checked for a master; UP must name a port for a member. -/
def Device.vxlTickRole (id : CmdId) (d : Device) : Device :=
  d.runCmd 0x090A id fun ps d =>
    let role := fieldAt ps 0 1
    let up := fieldAt ps 1 1
    let down := fieldAt ps 2 2
    let lead := fieldAt ps 4 4
    if 2 < role ∨ (11 < up ∧ up ≠ 15) ∨ (role = 2 ∧ up = 15) ∨ 2 ^ 12 ≤ down ∨
        (role = 1 ∧ (lead < 1000 ∨ 100000 < lead)) then d.complete id Status.vxlRange
    else if d.tick.life ≠ .off then d.complete id Status.vxlState
    else
      (d.modVxl fun v =>
        { v with role := BitVec.ofNat 2 role, up := BitVec.ofNat 4 up, down := BitVec.ofNat 12 down,
                 lead := BitVec.ofNat 32 lead }).complete id Status.ok

def execVxlTickRole (id : CmdId) (s : State) : Host.Outcome State Fault Refusal := s.lift (Device.vxlTickRole id)

/-! ### Registers (R371) -/

def VxlPort.reg (p : VxlPort) (w : Nat) : Nat :=
  match w with
  | 0 => p.life.code * 2 ^ 30 + natOfBool p.retrain * 2 ^ 29 + p.version.toNat * 2 ^ 27 + p.rate.toNat * 2 ^ 25 +
      p.width.toNat * 2 ^ 23 + natOfBool p.reversed * 2 ^ 22 + natOfBool p.pendingEnable * 2 ^ 21 +
      p.polarity.toNat * 2 ^ 14 + p.good.toNat * 2 ^ 10
  | 1 => p.bad.toNat * 2 ^ 24 + p.uncorr.toNat * 2 ^ 12 + p.corr.toNat
  | 2 => p.retrains.toNat * 2 ^ 16 + p.replays.toNat
  | 3 => p.delay.toNat
  | 4 => p.ctrlWait.toNat
  | _ => 0

/-- A word of the VXL_ block. -/
def Device.vxlReg (d : Device) (off : Nat) : Nat :=
  let v := d.vxl
  match off with
  | 0x000 => natOfBool v.valid * 2 ^ 31 + v.device.toNat
  | 0x004 => v.role.toNat * 2 ^ 30 + v.up.toNat * 2 ^ 26 + v.down.toNat * 2 ^ 14
  | 0x008 => v.lead.toNat
  | 0x00C => v.late.toNat * 2 ^ 16 + v.ignored.toNat
  | 0x010 => v.swarmTick.toNat
  | 0x014 => v.srcBusy.toNat * 2 ^ 16 + v.src.length
  | 0x018 => v.dupStale.toNat * 2 ^ 16 + v.dups.toNat
  | 0x01C => v.timeouts.toNat * 2 ^ 16 + v.resends.toNat
  | 0x020 => v.fail.toNat
  | 0x024 => v.failReason.toNat * 2 ^ 24 + v.failOrig.toNat * 2 ^ 19 + v.failDevice.toNat
  | 0x028 => v.prunes.toNat * 2 ^ 16 + v.transfers.toNat
  | 0x02C => v.mcastLast.toNat
  | 0x030 => v.fwdHold.toNat * 2 ^ 16 + v.fwdRoute.toNat
  | 0x034 => v.retries.toNat * 2 ^ 30 + v.mcastLag.toNat * 2 ^ 20 + v.grantLimit.toNat * 2 ^ 10 + v.timeout.toNat
  | _ =>
    if off % 4 = 0 ∧ 0x100 ≤ off ∧ off < 0x280 then (d.port ((off - 0x100) / 32)).reg (off / 4 % 8) else 0

/-- VXL_STATUS (R400). -/
def Device.vxlStatus (id : CmdId) (d : Device) : Device :=
  d.runCmd 0x0909 id fun _ d =>
    d.complete id Status.ok
      ((List.range 14).flatMap (fun k => leBytes 4 (d.vxlReg (4 * k))) ++
        (List.range 96).flatMap fun k => leBytes 4 (d.vxlReg (0x100 + 4 * k)))

def execVxlStatus (id : CmdId) (s : State) : Host.Outcome State Fault Refusal := s.lift (Device.vxlStatus id)

end Sys2Proof.Machine
end

