-- ==== Sys2Proof/Machine/Registers.lean ====
section
/-! DEFINITION. The counter space (R475, R476): every register block, and COUNTER_READ. The layouts are those of the
register maps R146, R210, R236, R276, R277, R308, R330, R371, R410, R438, R439, R463, R477 and R478. -/

namespace Sys2Proof.Machine

/-! ### Units -/

def Mu.reg (m : Mu) (off : Nat) : Nat :=
  match off with
  | 0x000 => m.ranges.length * 32 + natOfBool (!m.drains.isEmpty) * 16 + natOfBool (m.jobs.any (·.ready)) * 8 + m.state.toNat
  | 0x004 => m.faultCode.toNat * 2 ^ 28 + m.faultReason.toNat * 2 ^ 24 + m.faultInstr.toNat
  | 0x008 => m.faultValue.toNat
  | 0x00C => m.flags.toNat
  | 0x010 => m.tiles.toNat
  | 0x014 => m.drainCount.toNat
  | 0x018 => m.residueErr.toNat
  | 0x01C => m.poisonTiles.toNat
  | 0x020 => m.scratchUncorr.toNat * 2 ^ 16 + m.scratchCorr.toNat
  | 0x024 => m.unit.starve.toNat
  | 0x028 => m.unit.block.toNat
  | 0x02C => m.unit.stale.toNat
  | 0x030 => m.unit.errTokens.toNat
  | _ => 0

def Sfu.reg (m : Sfu) (off : Nat) : Nat :=
  match off with
  | 0x000 => m.engine.vl.toNat * 256 + m.state.toNat
  | 0x004 => m.faultCode.toNat * 2 ^ 28 + m.faultReason.toNat * 2 ^ 24 + m.faultInstr.toNat
  | 0x008 => m.faultValue.toNat
  | 0x00C => m.flags.toNat
  | 0x010 => m.wide.toNat * 2 ^ 16 + m.miss.toNat
  | 0x014 => m.poison.toNat
  | 0x018 => m.sramUncorr.toNat * 2 ^ 16 + m.sramCorr.toNat
  | 0x01C => m.unit.starve.toNat
  | 0x020 => m.unit.block.toNat
  | 0x024 => m.unit.stale.toNat
  | 0x028 => m.unit.errTokens.toNat
  | 0x02C => m.summaries.toNat
  | _ => if 0x040 ≤ off ∧ off < 0x080 then (m.slots.getD ((off - 0x040) / 4) .reset).scale.toNat else 0

/-- The STATE code of a context; one between descriptors reads as running (log 19). -/
def CtxState.code : CtxState → Nat
  | .disabled => 0
  | .between => 2
  | .waiting => 1
  | .running => 2
  | .ended => 3
  | .faulted => 4
  | .fetching => 5

/-- The context runs or waits. -/
def Ctx.active (c : Ctx) : Bool :=
  match c.state with
  | .between => true
  | .waiting => true
  | .running => true
  | .fetching => true
  | _ => false

def activeMask (t : Tab Ctx) : Nat :=
  (List.range 8).foldl (fun m c => m + natOfBool (t.getD c .reset).active * 2 ^ c) 0

def Su.reg (s : Su) (off : Nat) : Nat :=
  match off with
  | 0x000 => activeMask s.ctx * 256 + s.state.toNat
  | 0x004 => s.faultCode.toNat * 2 ^ 28 + s.faultReason.toNat * 2 ^ 24 + s.faultCtx.toNat * 2 ^ 16 + s.faultDesc.toNat
  | 0x008 => s.faultValue.toNat
  | 0x00C => s.errUncorr.toNat * 2 ^ 16 + s.errCorr.toNat
  | 0x010 => s.poisonReads.toNat
  | 0x014 => s.conflict.toNat
  | 0x018 => s.confComb.toNat * 2 ^ 28 + s.confBank.toNat * 2 ^ 24 + natOfBool s.confWrite * 2 ^ 23
  | 0x01C => s.confClk.toNat
  | 0x020 => s.scrubPasses.toNat * 2 ^ 16 + s.scrubRow
  | 0x024 => s.scrubUncorr.toNat * 2 ^ 16 + s.scrubCorr.toNat
  | 0x028 => s.unit.starve.toNat
  | 0x02C => s.unit.block.toNat
  | 0x030 => min (s.unit.stale.toNat + s.unit.errTokens.toNat) 0xFFFF
  | 0x034 => s.landErr.toNat
  | _ =>
    if 0x040 ≤ off ∧ off < 0x060 then
      let c := s.ctx.getD ((off - 0x040) / 4) .reset
      c.state.code * 2 ^ 28 + natOfBool c.inSram * 2 ^ 27 + c.desc
    else if 0x060 ≤ off ∧ off < 0x080 then (s.ctx.getD ((off - 0x060) / 4) .reset).elems.toNat
    else 0

/-- DUTY of an IOU (R277). -/
def dutyCode (u : Nat) : Nat :=
  match siteDuty u with
  | some (.hbm _) => 0
  | some (.bridge _) => 1
  | some (.port _) => 2
  | _ => 3

/-- What IOU_CTX and IOU_CTX_ELEMS of a number show: the plane's context, or a descriptor carried from the number where
the plane leaves it disabled (R277). -/
def Iou.shown (s : Iou) (k : Nat) : Nat × Ctx :=
  let c := s.ctx.getD k .reset
  match s.ctx.find? fun p => decide (8 ≤ p.1) && p.1 % 8 == k with
  | some p => if c.state == .disabled then (5, p.2) else (c.state.code, c)
  | none => (c.state.code, c)

/-- Words of a channel that a bridge IOU's receiving buffers hold (R86); the field shows at most 64. -/
def Device.bridgeHeld (d : Device) (u v : Nat) : Nat :=
  min 64 ((d.switches.map fun p =>
    (p.2.bufs.map fun b =>
      match hop p.1 b.1.port with
      | .bridge _ _ =>
        if b.1.net == .vector && b.1.vc == v && bridgeIou p.1 b.1.port == u then b.2.items.length else 0
      | _ => 0).sum).sum)

def Device.iouQueueReg (d : Device) (u v : Nat) : Nat :=
  let q := (d.iou u).outq v
  let occ := match siteDuty u with | some (.bridge _) => d.bridgeHeld u v | _ => q.closed.length
  occ * 2 ^ 16 + natOfBool q.openWord.isSome * 2 ^ 15 + (match q.openWord with | some w => w.count | none => 0) * 256 +
    q.lastCount.toNat

def Device.iouReg (d : Device) (u off : Nat) : Nat :=
  let s := d.iou u
  match off with
  | 0x000 =>
    let carrying := s.ctx.any fun p => decide (8 ≤ p.1) || (p.2.state == .running && p.2.d.carry)
    activeMask s.ctx * 256 + dutyCode u * 16 + natOfBool carrying * 8 + s.state.toNat
  | 0x004 => s.faultCode.toNat * 2 ^ 28 + s.faultReason.toNat * 2 ^ 24 + s.faultCtx.toNat * 2 ^ 16 + s.faultDesc.toNat
  | 0x008 => s.faultLo.toNat
  | 0x00C => s.faultHi.toNat
  | 0x010 => s.parity.toNat
  | 0x014 => s.bridgeRetry.toNat
  | 0x018 => s.landErr.toNat
  | 0x01C => s.unit.starve.toNat
  | 0x020 => s.unit.block.toNat
  | 0x024 => min (s.unit.stale.toNat + s.unit.errTokens.toNat) 0xFFFF
  | _ =>
    if 0x040 ≤ off ∧ off < 0x060 then d.iouQueueReg u ((off - 0x040) / 4)
    else if 0x060 ≤ off ∧ off < 0x080 then
      let k := (off - 0x060) / 4
      let (st, c) := s.shown k
      st * 2 ^ 28 + c.desc
    else if 0x080 ≤ off ∧ off < 0x0A0 then (s.shown ((off - 0x080) / 4)).2.elems.toNat
    else if 0x0A0 ≤ off ∧ off < 0x0C0 then
      let w := s.windows.getD ((off - 0x0A0) / 4) .reset
      w.state.toNat * 2 ^ 30 + w.queue.length * 2 ^ 18 + w.grantee.toNat
    else 0

/-- The block of a site; a failed site reads STATE 4 and 0 elsewhere (R146, R210, R276). -/
def Device.siteReg (d : Device) (u off : Nat) : Nat :=
  match siteKind u with
  | .iou => d.iouReg u off
  | k =>
    if !d.usable u then (if off = 0 then 4 else 0)
    else match k with
      | .mu => (d.mu u).reg off
      | .sfu => (d.sfu u).reg off
      | _ => (d.su u).reg off

def Switch.reg (s : Switch) (off : Nat) : Nat :=
  if off = 0 then s.parity.toNat * 2 ^ 16 + s.framing.toNat
  else if off = 4 then s.stale.toNat
  else if 0x040 ≤ off ∧ off < 0x070 then (s.sent.getD ((off - 0x040) / 4) 0).toNat
  else if 0x100 ≤ off ∧ off < 0x280 then (s.holds.getD ((off - 0x100) / 4) 0).toNat
  else if 0x280 ≤ off ∧ off < 0x2E0 then (s.holdsCtl.getD ((off - 0x280) / 4) 0).toNat
  else 0

/-! ### Regions and homes -/

def Pilot.reg (p : Pilot) (off : Nat) : Nat :=
  match off with
  | 0x000 => p.comb.toNat * 2 ^ 24 + p.pc.toNat * 2 ^ 15 + natOfBool p.drain * 8 + p.state.toNat
  | 0x004 => p.stopY.toNat * 2 ^ 24 + p.stopX.toNat * 2 ^ 16 + p.cause.toNat
  | 0x008 => p.stallLog2.toNat
  | 0x00C => p.clkWord.toNat
  | 0x010 => p.tick.toNat
  | 0x014 => p.evLost.toNat * 2 ^ 16 + p.evRaised.toNat
  | 0x018 => p.lockGroups.toNat
  | 0x01C => p.lockClk.toNat
  | 0x020 => p.storeUncorr.toNat * 2 ^ 16 + p.storeCorr.toNat
  | 0x024 => p.swaps.toNat
  | _ =>
    if 0x030 ≤ off ∧ off < 0x040 then (p.cnt.getD ((off - 0x030) / 4) 0).toNat
    else if 0x100 ≤ off ∧ off < 0x200 then (p.shape.getD ((off - 0x100) / 4) 0).toNat
    else if 0x200 ≤ off ∧ off < 0x300 then
      let s := p.sums.getD ((off - 0x200) / 8) .reset
      if off % 8 = 0 then s.val.toNat else natOfBool s.poison * 2 ^ 31 + s.ty.toNat * 2 ^ 29 + s.count.toNat
    else 0

/-- Messages in a ring: the head message counts only while it is not in the inbox. -/
def MsgRing.messages (g : MsgRing) : Nat :=
  (g.msgs.filter fun m => !m.wrap).length - natOfBool g.inboxFull

def MsgRing.headMsg (g : MsgRing) : Option RingMsg := g.msgs.find? fun m => !m.wrap

def Endpoint.regState (e : Endpoint) : Nat :=
  e.state.code * 2 ^ 30 + natOfBool e.pendingOpen.isSome * 2 ^ 29 + natOfBool e.busy * 2 ^ 28 + e.last.toNat * 2 ^ 24 +
    e.tries.toNat * 2 ^ 16 + e.naks.toNat

def MsgRing.reg (g : MsgRing) (w : Nat) : Nat :=
  match w with
  | 0 => g.tail * 2 ^ 16 + g.head
  | 1 => g.state.code * 2 ^ 30 + natOfBool g.inboxFull * 2 ^ 29 + min g.messages 0x1FFF * 2 ^ 16 + g.used
  | 2 => match g.headMsg with | some m => m.rows * 2 ^ 24 + m.endpoint.toNat * 2 ^ 16 + m.len.toNat | none => 0
  | _ => match g.headMsg with | some m => m.seq.toNat | none => 0

def Home.barState (h : Home) (b : Nat) : Nat :=
  let k := h.bar b
  natOfBool (h.hasFlag k.release.toNat) * 2 ^ 31 + h.arrived b * 2 ^ 24 + k.misuse.toNat * 2 ^ 16 + k.rounds.toNat

def Home.ep (h : Home) (e : Nat) : Endpoint := h.eps.getD e .reset
def Home.ring (h : Home) (g : Nat) : MsgRing := h.rings.getD g .reset

/-- The home clock of a die runs while either region of the die runs, until a halt stops it (R280, R295). -/
def Device.homeRuns (d : Device) (die : Nat) : Bool :=
  !(d.home die).halted && ((d.pwrRegion (2 * die)).freq != 0 || (d.pwrRegion (2 * die + 1)).freq != 0)

/-- A word of a WAG_ block (R308). RUNNING reads 0 at the moment of reset, as its Reset column says, and then shows
whether the home clock runs (log 7). -/
def Device.wagReg (d : Device) (die off : Nat) : Nat :=
  let h := d.home die
  if off < 0x200 then (List.range 32).foldl (fun m b => m + natOfBool (h.hasFlag (8 * off + b)) * 2 ^ b) 0
  else if off = 0x200 then h.collide.toNat * 2 ^ 16 + natOfBool h.halted * 2 +
    natOfBool (d.homeRuns die && decide (0 < d.now))
  else if off = 0x204 then h.misParity.toNat * 2 ^ 24 + h.misRing.toNat * 2 ^ 16 + h.misCounter.toNat * 256 + h.misBarrier.toNat
  else if off = 0x208 then h.waitLog2W.toNat
  else if off = 0x20C then h.waitLog2E.toNat
  else if off = 0x210 then h.waitMaxW.toNat
  else if off = 0x214 then h.waitMaxE.toNat
  else if off = 0x218 then
    (h.eps.filter fun e => e.2.busy).length * 2 ^ 16 + h.requests.length * 256 + natOfBool (!h.copies.isEmpty) * 128 +
      natOfBool h.kind * 64 + h.index.toNat
  else if 0x300 ≤ off ∧ off < 0x500 then
    let b := (off - 0x300) / 8
    if off % 8 = 0 then
      let k := h.bar b
      natOfBool k.en * 2 ^ 31 + k.n.toNat * 2 ^ 24 + k.release.toNat * 2 ^ 12 + k.base.toNat
    else h.barState b
  else if 0x500 ≤ off ∧ off < 0x700 then
    let k := h.counter ((off - 0x500) / 8)
    if off % 8 = 0 then natOfBool k.en * 2 ^ 31 + natOfBool k.saturated * 2 ^ 30 + k.out.toNat * 2 ^ 12 + k.src.toNat
    else k.thresh.toNat * 2 ^ 16 + k.count.toNat
  else if 0x700 ≤ off ∧ off < 0x900 then
    let e := h.ep ((off - 0x700) / 8)
    if off % 8 = 0 then e.regState else e.seq.toNat
  else if 0x900 ≤ off ∧ off < 0xD00 then (h.ring ((off - 0x900) / 16)).reg (off / 4 % 4)
  else 0

/-! ### The other blocks -/

def Stack.reg (s : Stack) (off : Nat) : Nat :=
  match off with
  | 0x000 => s.temp.toNat * 256 + natOfBool s.hot * 128 + s.split.toNat * 32 + s.state.toNat
  | 0x004 => s.uncorr.toNat * 2 ^ 16 + s.corr.toNat
  | 0x008 => s.inner.toNat
  | 0x00C => s.poisonReads.toNat
  | 0x010 => s.errAddr.toNat % 2 ^ 32
  | 0x014 => s.errAddr.toNat / 2 ^ 32
  | 0x018 => s.rd.toNat
  | 0x01C => s.wr.toNat
  | 0x020 => s.rem.toNat
  | 0x024 => s.scrub.toNat
  | 0x028 => s.lastMs.toNat * 2 ^ 16 + s.passes.toNat
  | _ => 0

def Device.pwrReg (d : Device) (off : Nat) : Nat :=
  match off with
  | 0x000 => d.regPwrState
  | 0x004 => d.pwr.leeway.toNat
  | 0x008 => d.regPwrPackage
  | 0x00C =>
    let any (f : Emergency → Bool) : Nat := natOfBool ((List.range 4).any fun k => f (d.emergency k))
    d.pwr.emergCount.toNat * 2 ^ 16 + any (·.power) * 8 + any (·.external) * 4 + any (·.hbm) * 2 + any (·.thermal)
  | _ =>
    if 0x010 ≤ off ∧ off < 0x030 then
      let r := (off - 0x010) / 4
      let g := d.pwrRegion r
      g.ceiling.toNat * 2 ^ 12 + g.setMin.toNat * 256 + (if g.halted then 0 else g.freq.toNat * 16) + natOfBool (d.below r) * 8 + g.mode.toNat
    else 0

def Device.hltReg (d : Device) (off : Nat) : Nat :=
  let h := d.hlt
  let bits (f : Nat → Bool) : Nat := (List.range 3).foldl (fun m i => m + natOfBool (f i) * 2 ^ i) 0
  match off with
  | 0x000 => natOfBool h.trip * 2 ^ 31 + min h.failed.length 255 * 256 + h.emergMask.toNat * 16 + h.warnMask.toNat
  | 0x018 => h.tEmerg.toNat * 2 ^ 16 + h.tWarn.toNat
  | 0x01C => h.hyst.toNat * 2 ^ 16 + h.tTrip.toNat
  | 0x020 => h.droopLimit.toNat * 2 ^ 16 + h.droopWarn.toNat
  | 0x024 => h.hbmEmerg.toNat
  | 0x048 => bits (fun i => (d.input i).level) * 16 + bits fun i => (d.input i).stuck
  | 0x05C => h.refused.toNat * 2 ^ 16 + natOfBool h.card.isSome
  | 0x060 => match h.card with | some c => fieldAt c 0x10 4 | none => 0
  | 0x064 => d.sec.fuses.serial.toNat % 2 ^ 32
  | 0x068 => d.sec.fuses.serial.toNat / 2 ^ 32
  | _ =>
    if 0x004 ≤ off ∧ off < 0x018 then
      let k := (off - 0x004) / 4
      (h.maxSensor.getD k 0).toNat * 2 ^ 16 + (h.maxTemp.getD k 0).toNat
    else if 0x028 ≤ off ∧ off < 0x048 then
      let g := d.pwrRegion ((off - 0x028) / 4)
      g.droopLimit.toNat * 2 ^ 16 + g.droopWarn.toNat
    else if 0x04C ≤ off ∧ off < 0x05C then
      let i := d.input ((off - 0x04C) / 4)
      i.glitch.toNat * 2 ^ 16 + i.rate.toNat
    else 0

/-- Bytes 4i to 4i + 3 of a hash. -/
def hashWord (h : BitVec 256) (i : Nat) : Nat := fieldAt (beBytes 32 h.toNat) (4 * i) 4

def Device.secReg (d : Device) (off : Nat) : Nat :=
  let s := d.sec
  match off with
  | 0x000 => s.flags.toNat % 8 * 256 + natOfBool s.fuses.testLock * 128 + natOfBool s.fuses.fuseOk * 64 +
      natOfBool s.fuses.keySet * 32 + d.host.loader.toNat % 8
  | 0x004 => s.release.toNat
  | 0x008 => s.fuses.rollback
  | 0x00C => s.fwFail.toNat * 256 + s.fwLast.toNat
  | 0x010 => s.restartLock.toNat * 2 ^ 16 + s.restartDog.toNat
  | 0x014 => s.planeUncorr.toNat * 2 ^ 16 + s.planeCorr.toNat
  | 0x018 => s.records.toNat
  | _ =>
    let i := off / 4 % 8
    if 0x020 ≤ off ∧ off < 0x040 then hashWord s.fuses.keyHash i
    else if 0x040 ≤ off ∧ off < 0x060 then hashWord s.fwHash i
    else if 0x060 ≤ off ∧ off < 0x080 then hashWord s.combHash i
    else if 0x080 ≤ off ∧ off < 0x0A0 then hashWord s.cardHash i
    else if 0x0A0 ≤ off ∧ off < 0x0C0 then hashWord d.fuseHash i
    else 0

def Device.logReg (d : Device) (off : Nat) : Nat :=
  match off with
  | 0x000 => d.log.stream.code * 2 ^ 16 + d.log.queued / 16
  | 0x004 => d.log.p % 2 ^ 32
  | 0x008 => d.log.posHi.toNat
  | 0x00C => d.log.lapped.toNat * 2 ^ 16 + d.log.dropped.toNat % 2 ^ 16
  | _ => 0

/-! ### The counter space (R475) -/

/-- An address lies in a block. -/
def counterMapped (a : Nat) : Bool :=
  let b := a / 0x1000
  decide (b < 5760) || (decide (0x6000 ≤ b) && decide (b < 0x6000 + 5760)) || (decide (0xC000 ≤ b) && decide (b < 0xC008)) ||
  (decide (0xC010 ≤ b) && decide (b < 0xC014)) || (decide (0xC020 ≤ b) && decide (b < 0xC028)) ||
  (decide (0xC030 ≤ b) && decide (b < 0xC036))

/-- The word at an address of the counter space. -/
def Device.counterWord (d : Device) (a : Nat) : Nat :=
  let b := a / 0x1000
  let off := a % 0x1000 / 4 * 4
  if b < 5760 then d.siteReg b off
  else if 0x6000 ≤ b ∧ b < 0x6000 + 5760 then (d.switch (b - 0x6000)).reg off
  else if 0xC000 ≤ b ∧ b < 0xC008 then (d.pilot (b - 0xC000)).reg off
  else if 0xC010 ≤ b ∧ b < 0xC014 then d.wagReg (b - 0xC010) off
  else if 0xC020 ≤ b ∧ b < 0xC028 then (d.stack (b - 0xC020)).reg off
  else if b = 0xC030 then d.vxlReg off
  else if b = 0xC031 then d.pwrReg off
  else if b = 0xC032 then d.hltReg off
  else if b = 0xC033 then d.secReg off
  else if b = 0xC034 then d.logReg off
  else if b = 0xC035 then d.hostReg off
  else 0

/-- What reading a word latches (R410, R478). -/
def Device.counterLatch (d : Device) (a : Nat) : Device :=
  if a = 0xC034004 then d.modLog fun l => { l with posHi := BitVec.ofNat 32 (l.p / 2 ^ 32) }
  else if a = 0xC03500C then d.hostRegLatch 0x00C
  else d

/-- Words in ascending address, each sampled whole (R476). -/
def Device.counterRange (d : Device) : Nat → Nat → List Byte × Device
  | 0, _ => ([], d)
  | n + 1, a =>
    let w := leBytes 4 (d.counterWord a)
    let (rest, d') := (d.counterLatch a).counterRange n (a + 4)
    (w ++ rest, d')

/-- Every word of a range lies in a block. -/
def counterRangeOk (a len : Nat) : Bool := (List.range (len / 4)).all fun k => counterMapped (a + 4 * k)

/-- COUNTER_READ (R475). A misaligned or out-of-range parameter is BAD_PARAM. -/
def Device.counterRead (id : CmdId) (d : Device) : Device :=
  d.runCmd 0x0A03 id fun ps d =>
    let a := fieldAt ps 0 4
    let n := fieldAt ps 4 4
    if a % 4 ≠ 0 ∨ n % 4 ≠ 0 ∨ n < 4 ∨ 4096 < n then d.complete id Status.badParam
    else if !counterRangeOk a n then d.complete id Status.logRange
    else
      let (bs, d) := d.counterRange (n / 4) a
      d.complete id Status.ok bs

def execCounterRead (id : CmdId) (s : State) : Host.Outcome State Fault Refusal := s.lift (Device.counterRead id)

end Sys2Proof.Machine
end

