-- ==== Sys2Proof/Machine/Channels.lean ====
section
/-! DEFINITION. Message channels (R296 to R306): endpoints, rings, the message engine of each die, and the commands that
open and close them. What an engine exchanges with another device goes through the frames of Txn.lean. -/

namespace Sys2Proof.Machine

/-! ### Records (R297, R298) -/

def rgSite (die : Nat) (r : List Byte) : Nat := siteOf die (fieldAt r 2 1) (fieldAt r 3 1)
def rgBase (r : List Byte) : Nat := fieldAt r 4 2
def rgRows (r : List Byte) : Nat := fieldAt r 6 2
def rgInboxBase (r : List Byte) : Nat := fieldAt r 8 2
def rgInboxRows (r : List Byte) : Nat := fieldAt r 0xA 1
def rgInbox (r : List Byte) : Nat := fieldAt r 0xC 2
def rgRelease (r : List Byte) : Nat := fieldAt r 0xE 2

def epSite (die : Nat) (r : List Byte) : Nat := siteOf die (fieldAt r 2 1) (fieldAt r 3 1)
def epBase (r : List Byte) : Nat := fieldAt r 4 2
def epRows (r : List Byte) : Nat := fieldAt r 6 1
def epSend (r : List Byte) : Nat := fieldAt r 8 2
def epDone (r : List Byte) : Nat := fieldAt r 0xA 2
def epFail (r : List Byte) : Nat := fieldAt r 0xC 2
def epDevice (r : List Byte) : Nat := bitsNat (fieldAt r 0x10 8) 17 0
def epDie (r : List Byte) : Nat := bitsNat (fieldAt r 0x10 8) 19 18
def epRing (r : List Byte) : Nat := bitsNat (fieldAt r 0x10 8) 25 20
def epRemote (r : List Byte) : Bool := (fieldAt r 0x10 8).testBit 26
def epRetries (r : List Byte) : Nat := fieldAt r 0x18 1

/-- The site is a usable SU on the die. -/
def Device.suSite (d : Device) (die x y : Nat) : Bool :=
  decide (x < 36) && decide (y < 40) && siteKind (siteOf die x y) == .su && d.usable (siteOf die x y)

/-- Two runs of rows meet. -/
def rowsMeet (a n b m : Nat) : Bool := decide (a < b + m) && decide (b < a + n)

/-- WAG_SITE or WAG_RANGE for a ring record (R299), or none. -/
def Device.ringRefused (d : Device) (die : Nat) (r : List Byte) : Option Nat :=
  if !d.suSite die (fieldAt r 2 1) (fieldAt r 3 1) ∨ 65536 < rgBase r + rgRows r ∨ 65536 < rgInboxBase r + rgInboxRows r ∨
      rowsMeet (rgBase r) (rgRows r) (rgInboxBase r) (rgInboxRows r) then some Status.wagSite
  else if 63 < fieldAt r 0 1 ∨ fieldAt r 1 1 ≠ 0 ∨ rgRows r < 64 ∨ rgInboxRows r < 2 ∨ 64 < rgInboxRows r ∨
      fieldAt r 0xB 1 ≠ 0 ∨ 4095 < rgInbox r ∨ 4095 < rgRelease r ∨ fieldAt r 0x12 6 ≠ 0 ∨
      (d.home die).flagTaken none none (rgInbox r) ∨ (d.home die).flagTaken none none (rgRelease r) then
    some Status.wagRange
  else none

/-- The same for an endpoint record. -/
def Device.endpointRefused (d : Device) (die : Nat) (r : List Byte) : Option Nat :=
  let h := d.home die
  let dest := fieldAt r 0x10 8
  if !d.suSite die (fieldAt r 2 1) (fieldAt r 3 1) ∨ 65536 < epBase r + epRows r then some Status.wagSite
  else if 63 < fieldAt r 0 1 ∨ fieldAt r 1 1 ≠ 0 ∨ epRows r < 1 ∨ 64 < epRows r ∨ fieldAt r 7 1 ≠ 0 ∨ 4095 < epSend r ∨
      4095 < epDone r ∨ 4095 < epFail r ∨ fieldAt r 0xE 2 ≠ 0 ∨ 2 ^ 27 ≤ dest ∨ (!epRemote r ∧ epDevice r ≠ 0) ∨
      1 < fieldAt r 0x19 1 ∨ fieldAt r 0x1A 2 = 0 ∨ fieldAt r 0x1C 2 < fieldAt r 0x1A 2 ∨ fieldAt r 0x1E 2 ≠ 0 ∨
      h.flagTaken none none (epSend r) ∨ h.flagTaken none none (epDone r) ∨ h.flagTaken none none (epFail r) then
    some Status.wagRange
  else none

/-! ### Rows through the background port (R296, R246) -/

/-- The engine reaches an SU while the SU's region runs. -/
def Device.engineReaches (d : Device) (u : Nat) : Bool := d.clockRuns (siteRegion u)

def Device.engineRead (d : Device) (u row : Nat) : List Byte × Bool × Device :=
  let (bs, bad, s) := (d.su u).read row
  let d := d.modSu u fun _ => s
  (bs, bad, if bad then d.suPoison u else d)

def Device.engineWrite (d : Device) (u row : Nat) (bs : List Byte) (poison : Bool) : Device :=
  d.modSu u fun s => s.write row bs poison

/-- Rows copied one by one, a poisoned one with the poison pattern. -/
def Device.engineCopy (d : Device) (src dst : Nat) : List (Nat × Nat) → Device
  | [] => d
  | (a, b) :: rest =>
    let (bs, bad, d) := d.engineRead src a
    (d.engineWrite dst b bs bad).engineCopy src dst rest

/-- Rows read from an SU, each with its poison. -/
def Device.engineRows (d : Device) (u : Nat) : List Nat → List (List Byte × Bool) × Device
  | [] => ([], d)
  | a :: rest =>
    let (bs, bad, d) := d.engineRead u a
    let (more, d) := d.engineRows u rest
    ((bs, bad) :: more, d)

def Device.modEp (d : Device) (die e : Nat) (f : Endpoint → Endpoint) : Device :=
  d.modHome die fun h => { h with eps := h.eps.upd e .reset f }
def Device.modRing (d : Device) (die g : Nat) (f : MsgRing → MsgRing) : Device :=
  d.modHome die fun h => { h with rings := h.rings.upd g .reset f }
def Device.ep (d : Device) (die e : Nat) : Endpoint := (d.home die).ep e
def Device.ring_ (d : Device) (die g : Nat) : MsgRing := (d.home die).ring g

/-- WAG_ENGINE shows the latest operation. -/
def Device.engineAt (d : Device) (die : Nat) (release : Bool) (k : Nat) : Device :=
  d.modHome die fun h => { h with kind := release, index := BitVec.ofNat 6 k }

/-- Bytes that the manual does not state, each of its own (log 6). -/
def Device.drawBytes (d : Device) (n : Nat) : List Byte × Device :=
  ((List.range n).map fun i => Config.freeByte (d.free + i), { d with free := d.free + n })

/-! ### Placement, delivery and release (R302, R303) -/

/-- Placement of a message in a ring: its result and first row, the row of a wrap marker to write, and the ring. -/
def MsgRing.place (g : MsgRing) (m : RingMsg) : PlaceResult × Nat × Option Nat × MsgRing :=
  let rows := rgRows g.record
  let n := m.rows
  let put (row tail used : Nat) (wrap : List RingMsg) : MsgRing :=
    { g with tail := tail, used := used, msgs := g.msgs ++ wrap ++ [{ m with row := row }] }
  if g.state ≠ .on then (.closed, 0, none, g)
  else if rows < n ∨ rgInboxRows g.record < n then (.size, 0, none, g)
  else if g.used = rows then (.nak, 0, none, g)
  else if g.head ≤ g.tail then
    if n ≤ rows - g.tail then
      (.ok, g.tail, none, put g.tail (if g.tail + n = rows then 0 else g.tail + n) (g.used + n) [])
    else if n ≤ g.head then
      (.ok, 0, some g.tail, put 0 n (g.used + (rows - g.tail) + n)
        [{ m with row := g.tail, rows := 0, wrap := true, deliverable := false, remote := none, fill := 0 }])
    else (.nak, 0, none, g)
  else if n ≤ g.head - g.tail then (.ok, g.tail, none, put g.tail (g.tail + n) (g.used + n) [])
  else (.nak, 0, none, g)

/-- A wrap marker row (R300, R302): TYPE 2, ROWS 0 and the reserved fields 0; what else it holds is not stated. -/
def Device.writeWrap (d : Device) (u row : Nat) : Device :=
  let (bs, d) := d.drawBytes 20
  d.engineWrite u row ([2, 0] ++ bs.take 4 ++ [0, 0] ++ bs.drop 4 ++ List.replicate 40 0) false

/-- The engine of `die` places a message in ring `g`. -/
def Device.placeIn (d : Device) (die g : Nat) (m : RingMsg) : PlaceResult × Nat × Device :=
  let (res, row, wrap, ring) := (d.ring_ die g).place m
  let d := d.modRing die g fun _ => ring
  let d :=
    match wrap with
    | some w => d.writeWrap (rgSite die ring.record) (rgBase ring.record + w)
    | none => d
  (res, row, d)

/-- The rows of a message of `n` rows from the ring's row `row`, paired with the inbox rows. -/
def MsgRing.inboxPairs (g : MsgRing) (m : RingMsg) : List (Nat × Nat) :=
  (List.range m.rows).map fun i => (rgBase g.record + m.row + i, rgInboxBase g.record + i)

/-- The message engine of a die runs: it stops with the regions at a halt (R295). -/
def Device.engineOn (d : Device) (die : Nat) : Bool := d.homeRuns die && d.comb.state == .active

/-- The engine can take up an operation: a copy in progress is its operation until it ends (R296). -/
def Device.engineFree (d : Device) (die : Nat) : Bool := d.engineOn die && (d.home die).copies.isEmpty

/-- The head message of a ring is copied into an empty inbox once it is deliverable, by an engine that is free. -/
def Device.tryDeliver (d : Device) (die g : Nat) : Device :=
  let r := d.ring_ die g
  match r.msgs with
  | [] => d
  | m :: _ =>
    let u := rgSite die r.record
    if r.state = .on ∧ !r.inboxFull ∧ m.deliverable ∧ d.engineReaches u ∧ d.engineFree die then
      let d := (d.engineCopy u u (r.inboxPairs m)).engineAt die true g
      (d.modRing die g fun r => { r with inboxFull := true }).engineFlag die (rgInbox r.record) true
    else d

/-- HEAD passes the message that it names and a wrap marker behind it. -/
def MsgRing.release (g : MsgRing) : MsgRing :=
  match g.msgs with
  | [] => { g with inboxFull := false }
  | m :: rest =>
    let rows := rgRows g.record
    let head := if g.head + m.rows = rows then 0 else g.head + m.rows
    let g : MsgRing := { g with head := head, used := g.used - m.rows, msgs := rest, inboxFull := false }
    let g : MsgRing :=
      match rest with
      | w :: rest => if w.wrap && w.row == head then { g with used := g.used - (rows - head), head := 0, msgs := rest } else g
      | [] => g
    if g.used = 0 then { g with head := 0, tail := 0 } else g

/-- The lowest ring of a die whose RELEASE flag is set. -/
def Device.releaseDue (d : Device) (die : Nat) : Option Nat :=
  (List.range 64).find? fun g => let r := d.ring_ die g; r.state == .on && d.flagVal die (rgRelease r.record)

/-- RING_RELEASE (R303). -/
def Device.ringRelease (die g : Nat) (d : Device) : Device :=
  if !d.engineFree die || d.releaseDue die != some g then d
  else
    let r := d.ring_ die g
    let d := (d.engineAt die true g).engineFlag die (rgRelease r.record) false
    if !r.inboxFull then
      (d.modHome die fun h => { h with misRing := satInc h.misRing }).raiseOnce (2 * die) 0x48 (BitVec.ofNat 32 g)
    else (d.modRing die g (·.release)).tryDeliver die g

def execRingRelease (d : Die) (g : Fin 64) (s : State) : Host.Outcome State Fault Refusal :=
  s.lift (Device.ringRelease d.val g.val)

/-! ### Sends (R301) -/

/-- STATUS of R300 for a send that ends. -/
def placeStatus : PlaceResult → Nat
  | .ok => 1
  | .nak => 2
  | .closed => 3
  | .size => 4

/-- A send ends: STATUS is written, then FAIL unless it was delivered, then DONE. -/
def Device.endSend (d : Device) (die e status : Nat) : Device :=
  let r := (d.ep die e).record
  let u := epSite die r
  let d := d.modSu u fun s => s.writePart (epBase r) 4 (leBytes 1 status) false
  let d := d.modEp die e fun x =>
    { x with busy := false, waitReply := false, due := false, copying := false, owed := none, last := BitVec.ofNat 4 status }
  let d := if status = 1 then d else d.engineFlag die (epFail r) true
  d.engineFlag die (epDone r) true

/-- A placement returned NAK: the send waits for its backoff, or ends FULL. -/
def Device.sendNak (d : Device) (die e : Nat) : Device :=
  let x := d.ep die e
  let t := x.tries.toNat + 1
  let d := d.modEp die e fun x => { x with naks := satInc x.naks, tries := BitVec.ofNat 8 (min t 255), waitReply := false }
  if epRetries x.record < t then
    (d.raise (2 * die) 0x49 (BitVec.ofNat 32 (e + 256 * 2))).endSend die e 2
  else d.modEp die e fun x => { x with due := true }

/-- The message as its ring keeps it. -/
def Endpoint.msg (x : Endpoint) (e len : Nat) (remote : Option (BitVec 18)) : RingMsg :=
  { row := 0, rows := x.rows, endpoint := BitVec.ofNat 8 e, len := BitVec.ofNat 16 len, seq := x.seq,
    deliverable := false, wrap := false, remote := remote, fill := x.rows }

/-- LEN of the message in the outbox. -/
def Device.outboxLen (d : Device) (die e : Nat) : Nat :=
  let r := (d.ep die e).record
  fieldAt ((d.su (epSite die r)).sram.bytes (64 * epBase r) 64) 2 2

/-- The header row as the ring holds it (R300); its STATUS byte, which only the outbox uses, is not stated. -/
def Device.ringHeader (d : Device) (die e : Nat) (header : List Byte) : List Byte × Device :=
  let x := d.ep die e
  let (st, d) := d.drawBytes 1
  (header.take 1 ++ leBytes 1 x.rows ++ sliceAt header 2 2 ++ st ++ leBytes 1 e ++ [0, 0] ++ leBytes 4 x.seq.toNat ++
    leBytes 4 (d.vxl.device.toNat + 2 ^ 18 * die) ++ sliceAt header 0x10 8 ++ List.replicate 40 0, d)

/-- The rows that the engine sends for endpoint `e`: the header as the ring holds it, then the payload rows. -/
def Device.messageRows (d : Device) (die e : Nat) : List (List Byte × Bool) × Device :=
  let x := d.ep die e
  let u := epSite die x.record
  let (rows, d) := d.engineRows u ((List.range x.rows).map (epBase x.record + ·))
  match rows with
  | [] => ([], d)
  | (h, bad) :: rest =>
    let (h, d) := d.ringHeader die e h
    ((h, bad) :: rest, d)

/-- The result of a placement reaches the sending engine. -/
def Device.placed (d : Device) (die e : Nat) (res : PlaceResult) (toDie ring row : Nat) : Device :=
  let n := (d.ep die e).rows
  match res with
  | .ok =>
    (d.modEp die e fun x => { x with waitReply := false, copying := true }).modHome die fun h =>
      { h with copies := h.copies ++ [{ endpoint := e, die := toDie, ring := ring, row := row, rows := n }] }
  | .nak => d.sendNak die e
  | res => d.endSend die e (placeStatus res)

/-- What a ring on the same device can still not do for want of a running region. -/
def Device.ringReached (d : Device) (die g : Nat) : Bool :=
  let r := d.ring_ die g
  r.state != .on || d.engineReaches (rgSite die r.record)

/-- One attempt of a send at a ring of this device (R301, R304); another die's engine gets a request. -/
def Device.attemptHere (d : Device) (die e : Nat) : Device :=
  let x := d.ep die e
  let dst := epDie x.record
  let g := epRing x.record
  if dst = die then
    let (res, row, d) := d.placeIn die g (x.msg e (d.outboxLen die e) none)
    d.placed die e res die g row
  else
    (d.modEp die e fun x => { x with waitReply := true }).modHome dst fun h =>
      { h with requests := h.requests ++
          [{ fromDie := die, device := 0, tid := none, endpoint := e, ring := g, rows := x.rows }] }

/-- SEND is set for an endpoint with no send in progress. -/
def Device.sendReady (d : Device) (die e : Nat) : Bool :=
  let x := d.ep die e
  x.state == .on && !x.busy && d.flagVal die (epSend x.record)

/-- The engine may take up endpoint `e` now: nothing of a higher order waits (R296). -/
def Device.sendTurn (d : Device) (die e : Nat) : Bool :=
  d.engineFree die && (d.releaseDue die).isNone && (d.home die).requests.isEmpty &&
  !(List.range e).any (d.sendReady die) && d.engineReaches (epSite die (d.ep die e).record) &&
  (let x := d.ep die e
   epRemote x.record || epDie x.record != die || d.ringReached die (epRing x.record))

/-- The checks of the outbox header; then n and SEQ are set and the first attempt can follow. -/
def Device.takeUpSend (d : Device) (die e : Nat) : Bool × Device :=
  let r := (d.ep die e).record
  let u := epSite die r
  let d := [epSend r, epDone r, epFail r].foldl (fun d f => d.engineFlag die f false) (d.engineAt die false e)
  let (h, bad, d) := d.engineRead u (epBase r)
  let len := fieldAt h 2 2
  let d := d.modEp die e fun x => { x with busy := true, tries := 0, due := false, waitReply := false, copying := false, owed := none }
  if bad then (false, d.endSend die e 6)
  else if fieldAt h 0 1 ≠ 1 ∨ 64 * (epRows r - 1) < len ∨ 4032 < len then (false, d.endSend die e 5)
  else (true, d.modEp die e fun x => { x with rows := 1 + (len + 63) / 64, seq := x.seq + 1 })

/-! ### Copies (R304) -/

/-- The ring's message that begins at a row. -/
def MsgRing.modMsg (g : MsgRing) (row : Nat) (f : RingMsg → RingMsg) : MsgRing :=
  { g with msgs := g.msgs.map fun m => if m.row == row && !m.wrap then f m else m }

/-- MESSAGE_COPY_DONE (R304): the rows are written, the message becomes deliverable, DONE is set. -/
def Device.messageCopyDone (die : Nat) (d : Device) : Device :=
  match (d.home die).copies with
  | [] => d
  | c :: rest =>
    let ring := d.ring_ c.die c.ring
    let u := rgSite c.die ring.record
    if !d.engineOn die || !d.engineReaches u || !d.engineReaches (epSite die (d.ep die c.endpoint).record) then d
    else
      let (rows, d) := d.messageRows die c.endpoint
      let base := rgBase ring.record + c.row
      let d := (rows.zip (List.range rows.length)).foldl (fun d p => d.engineWrite u (base + p.2) p.1.1 p.1.2) d
      let d := d.modHome die fun h => { h with copies := rest }
      let d := d.modRing c.die c.ring fun g => g.modMsg c.row fun m => { m with deliverable := true, fill := 0 }
      (d.endSend die c.endpoint 1).tryDeliver c.die c.ring

def execMessageCopyDone (d : Die) (s : State) : Host.Outcome State Fault Refusal :=
  s.lift (Device.messageCopyDone d.val)

/-- PLACEMENT_REPLY (R304): the oldest reply from another die. -/
def Device.placementReply (die : Nat) (d : Device) : Device :=
  match (d.home die).replies with
  | [] => d
  | p :: rest =>
    if !d.engineFree die || !d.engineReaches (epSite die (d.ep die p.endpoint).record) then d
    else (d.modHome die fun h => { h with replies := rest }).placed die p.endpoint p.result p.die p.ring p.row

def execPlacementReply (d : Die) (s : State) : Host.Outcome State Fault Refusal :=
  s.lift (Device.placementReply d.val)

/-! ### Life cycles (R306) -/

/-- An endpoint opens with a record. -/
def Endpoint.opened (x : Endpoint) (r : List Byte) : Endpoint :=
  { x with state := .on, record := r, pendingOpen := none, busy := false, tries := 0, naks := 0, waitReply := false,
           due := false, copying := false, owed := none, closeCmd := none }

/-- A ring opens: empty, with INBOX and RELEASE clear. -/
def Device.openMsgRing (d : Device) (die g : Nat) (r : List Byte) : Device :=
  let d := d.modRing die g fun x =>
    { x with state := .on, record := r, pendingCreate := none, head := 0, tail := 0, used := 0, msgs := [],
             inboxFull := false, destroyCmd := none }
  (d.engineFlag die (rgInbox r) false).engineFlag die (rgRelease r) false

/-- CHAN_OPEN (R298, R299, R306). -/
def Device.chanOpen (id : CmdId) (d : Device) : Device :=
  d.runCmd 0x0506 id fun ps d =>
    let die := fieldAt ps 0 1
    let r := sliceAt ps 4 32
    let e := fieldAt r 0 1
    if 3 < die ∨ fieldAt ps 1 3 ≠ 0 then d.complete id Status.badParam
    else if d.comb.state ≠ .active then d.complete id Status.wagState
    else
      match d.endpointRefused die r with
      | some st => d.complete id st
      | none =>
        match (d.ep die e).state with
        | .off => (d.modEp die e (·.opened r)).complete id Status.ok
        | .stopping => (d.modEp die e fun x => { x with pendingOpen := some r }).complete id Status.acceptedPending
        | _ => d.complete id Status.wagBusy

def execChanOpen (id : CmdId) (s : State) : Host.Outcome State Fault Refusal := s.lift (Device.chanOpen id)

/-- RING_CREATE (R297, R299, R306). -/
def Device.ringCreate (id : CmdId) (d : Device) : Device :=
  d.runCmd 0x0504 id fun ps d =>
    let die := fieldAt ps 0 1
    let r := sliceAt ps 4 24
    let g := fieldAt r 0 1
    if 3 < die ∨ fieldAt ps 1 3 ≠ 0 then d.complete id Status.badParam
    else if d.comb.state ≠ .active then d.complete id Status.wagState
    else
      match d.ringRefused die r with
      | some st => d.complete id st
      | none =>
        match (d.ring_ die g).state with
        | .off => (d.openMsgRing die g r).complete id Status.ok
        | .stopping => (d.modRing die g fun x => { x with pendingCreate := some r }).complete id Status.acceptedPending
        | _ => d.complete id Status.wagBusy

def execRingCreate (id : CmdId) (s : State) : Host.Outcome State Fault Refusal := s.lift (Device.ringCreate id)

/-- CHAN_CLOSE (R306, R394): the command completes at OFF. -/
def Device.chanClose (id : CmdId) (d : Device) : Device :=
  d.runCmd 0x0507 id fun ps d =>
    let die := fieldAt ps 0 1
    let e := fieldAt ps 1 1
    if 3 < die ∨ 63 < e ∨ fieldAt ps 2 2 ≠ 0 then d.complete id Status.badParam
    else if d.comb.state ≠ .active then d.complete id Status.wagState
    else
      match (d.ep die e).state with
      | .off => d.complete id Status.ok
      | .stopping => d.modEp die e fun x => { x with pendingOpen := none, closeCmd := some id }
      | _ => d.modEp die e fun x => { x with state := .stopping, closeCmd := some id }

def execChanClose (id : CmdId) (s : State) : Host.Outcome State Fault Refusal := s.lift (Device.chanClose id)

/-- RING_DESTROY (R306, R394): the command completes at OFF. -/
def Device.ringDestroy (id : CmdId) (d : Device) : Device :=
  d.runCmd 0x0505 id fun ps d =>
    let die := fieldAt ps 0 1
    let g := fieldAt ps 1 1
    if 3 < die ∨ 63 < g ∨ fieldAt ps 2 2 ≠ 0 then d.complete id Status.badParam
    else if d.comb.state ≠ .active then d.complete id Status.wagState
    else
      match (d.ring_ die g).state with
      | .off => d.complete id Status.ok
      | .stopping => d.modRing die g fun x => { x with pendingCreate := none, destroyCmd := some id }
      | _ => d.modRing die g fun x => { x with state := .stopping, destroyCmd := some id }

def execRingDestroy (id : CmdId) (s : State) : Host.Outcome State Fault Refusal := s.lift (Device.ringDestroy id)

/-- ENDPOINT_OFF (R306): a retry that waits is cancelled; an attempt or copy in progress ends first. -/
def Device.endpointOff (die e : Nat) (d : Device) : Device :=
  let x := d.ep die e
  if x.state ≠ .stopping ∨ (x.busy ∧ !x.due) ∨ (x.busy ∧ !d.engineReaches (epSite die x.record)) then d
  else
    let d := if x.busy then d.endSend die e 3 else d
    let d := d.modEp die e fun x => { x with state := .off, closeCmd := none, pendingOpen := none }
    let d := match x.closeCmd with | some id => d.complete id Status.ok | none => d
    match x.pendingOpen with
    | some r => d.modEp die e (·.opened r)
    | none => d

def execEndpointOff (d : Die) (e : Fin 64) (s : State) : Host.Outcome State Fault Refusal :=
  s.lift (Device.endpointOff d.val e.val)

/-- A copy into the ring is still in progress. -/
def Device.copiesInto (d : Device) (die g : Nat) : Bool :=
  (List.range 4).any (fun k => (d.home k).copies.any fun c => c.die == die && c.ring == g) ||
  (d.ring_ die g).msgs.any fun m => !m.wrap && !m.deliverable

/-- RING_OFF (R306): once copies in progress are complete the messages are discarded. -/
def Device.ringOff (die g : Nat) (d : Device) : Device :=
  let x := d.ring_ die g
  if x.state ≠ .stopping ∨ d.copiesInto die g then d
  else
    let d := d.modRing die g fun x =>
      { x with state := .off, head := 0, tail := 0, used := 0, msgs := [], inboxFull := false, destroyCmd := none,
               pendingCreate := none }
    let d := match x.destroyCmd with | some id => d.complete id Status.ok | none => d
    match x.pendingCreate with
    | some r => d.openMsgRing die g r
    | none => d

def execRingOff (d : Die) (g : Fin 64) (s : State) : Host.Outcome State Fault Refusal :=
  s.lift (Device.ringOff d.val g.val)

/-- CHAN_STATUS (R295, R306): refused from a halt to the next COMB_ACTIVATE; else the record, then the endpoint's two or
the ring's four registers. -/
def Device.chanStatus (id : CmdId) (d : Device) : Device :=
  d.runCmd 0x0508 id fun ps d =>
    let die := fieldAt ps 0 1
    let kind := fieldAt ps 1 1
    let k := fieldAt ps 2 1
    if 3 < die ∨ 1 < kind ∨ 63 < k ∨ fieldAt ps 3 1 ≠ 0 then d.complete id Status.badParam
    else if d.comb.state = .halted ∨ (d.home die).halted then d.complete id Status.wagState
    else if kind = 0 then
      let x := d.ep die k
      d.complete id Status.ok (sliceAt x.record 0 32 ++ leBytes 4 x.regState ++ leBytes 4 x.seq.toNat)
    else
      let x := d.ring_ die k
      d.complete id Status.ok (sliceAt x.record 0 24 ++ (List.range 4).flatMap fun w => leBytes 4 (x.reg w))

def execChanStatus (id : CmdId) (s : State) : Host.Outcome State Fault Refusal := s.lift (Device.chanStatus id)

/-! ### One clk of a home, and its stop at a halt (R280, R285, R295) -/

/-- What follows once a change has been applied: FLAG_WRITE completes, another device's write is acknowledged. -/
def Device.flagDone (d : Device) (q : FlagReq) : Device :=
  let d := match q.cmd with | some id => d.complete id Status.ok | none => d
  match q.tid with
  | some (dev, tid) => (d.modVxl (·.finish tid)).post dev (.ack tid)
  | none => d

/-- One clk of a home: the requests that fail parity are discarded, the others applied. -/
def Device.homeClk (d : Device) (die : Nat) : Device :=
  let (batch, rest) := takeBatch [] (d.home die).reqs
  let good := batch.filter (·.parityOk)
  let d := (d.modHome die fun h => { h with reqs := rest }).applyFlags die good
  let d := good.foldl Device.flagDone d
  (batch.filter fun q => !q.parityOk).foldl (fun d q => d.flagParity die q) d

/-- FLAG_CHANGE (R280). -/
def Device.flagChange (die : Nat) (d : Device) : Device :=
  if !d.homeRuns die || ((d.home die).reqs.isEmpty && !(d.home die).restless) then d else d.homeClk die

/-- Every request that waits at a home is applied, clk by clk. -/
def Device.drainHome (d : Device) (die : Nat) : Nat → Device
  | 0 => d
  | n + 1 => if (d.home die).reqs.isEmpty && !(d.home die).restless then d else (d.homeClk die).drainHome die n

/-- HOME_STOP (R295): after a halt the home applies what has been issued, and stops. -/
def Device.homeStop (die : Nat) (d : Device) : Device :=
  if d.comb.state ≠ .halted ∨ (d.home die).halted then d
  else (d.drainHome die (2 * (d.home die).reqs.length + 2)).modHome die fun h => { h with halted := true }

end Sys2Proof.Machine
end

