-- ==== Sys2Proof/Machine/Copies.lean ====
section
/-! DEFINITION. Transactions as this device originates them (R350), and the copies that the hub makes: MEM_COPY, MEM_FILL
(R405), the reads of host memory (R375 to R377), and the loss of a host module (R374). -/

namespace Sys2Proof.Machine

/-! ### Originators (R350) -/

def makeTid (dev : BitVec 18) (orig seq : Nat) : Word64 := BitVec.ofNat 64 (dev.toNat * 2 ^ 46 + orig * 2 ^ 41 + seq % 2 ^ 41)

/-- Receivers of a multicast transfer that are not yet pruned (R361). -/
def Transfer.active (t : Transfer) : List (BitVec 18) := t.receivers.filter fun r => !t.pruned.contains r

/-- No transaction of an originator that is 1,024 or more numbers behind `n` is still outstanding; the credit request of a
multicast transfer is until every receiver has granted it. -/
def Device.windowOpen (d : Device) (orig n : Nat) : Bool :=
  let old (tid : Word64) : Bool := (tidOrig tid).toNat == orig && decide (tidSeq tid + 1024 ≤ n)
  !(d.vxl.out.any fun o => old o.tid) &&
  !(d.vxl.running.any fun t =>
    t.sent.any (fun p => old p.2.1) || (t.credit.any old && t.active.any fun r => !t.granted.contains r))

/-- The originator may issue its next number. -/
def Device.canOriginate (d : Device) (orig : Nat) : Bool := d.windowOpen orig (d.vxl.seqs.getD orig 0)

/-- Takes the originator's next sequence number. -/
def Device.nextTid (d : Device) (orig : Nat) : Word64 × Device :=
  let n := d.vxl.seqs.getD orig 0
  (makeTid d.vxl.device orig n, d.modVxl fun v => { v with seqs := v.seqs.put orig (n + 1) })

/-- A new transaction; one that must wait, as for its number, is sent later. -/
def Device.originate (d : Device) (orig : Nat) (dest : BitVec 18) (kind : TxnKind) (mk : Word64 → FrameBody)
    (site : Option (Nat × Nat) := none) (cmd : Option CmdId := none) (lasts : List Bool := []) (hold : Bool := false) :
    Device :=
  let hold := hold || !d.canOriginate orig
  let (tid, d) := d.nextTid orig
  let o : Outstanding :=
    { tid := tid, dest := dest, kind := kind, frame := mk tid, waiting := hold, queued := false, resends := 0,
      retries := d.vxl.retries.toNat, site := site, cmd := cmd, lasts := lasts, data := none }
  let d := d.modVxl fun v => { v with out := v.out ++ [o] }
  if hold then d else d.post dest o.frame

/-- The poison mask: bit r marks data bytes 64r to 64r + 63 (R340, R358). -/
def poison64 (flags : List Bool) : Word64 :=
  BitVec.ofNat 64 ((List.range 64).foldl (fun m k => m + natOfBool (((flags.drop (64 * k)).take 64).any id) * 2 ^ k) 0)

/-- The data bytes of a transaction, each with its poison. -/
def txnBytes (t : Txn) : List (Byte × Bool) :=
  (t.data.zip (List.range t.data.length)).map fun p => (p.1, t.poison.getLsbD (p.2 / 64))

/-- A write transaction (R340). -/
def writeBody (address : Nat) (data : List (Byte × Bool)) (final : Bool) (xfer : Word) (tid : Word64) : FrameBody :=
  .write { tid := tid, address := BitVec.ofNat 64 address, op := if final then 2 else 1, xfer := xfer,
           poison := poison64 (data.map (·.2)), data := data.map (·.1) }

/-- Bytes from a chart address to the next boundary between HBM stacks or SUs (R351). -/
def boundaryRoom (a : Nat) : Nat :=
  let off := a % 2 ^ 44
  match bitsNat a 45 44 with
  | 0 => stackBytes - off % stackBytes
  | 1 => 2 ^ 22 - off % 2 ^ 22
  | _ => 4032

/-- Bytes from a chart address on that one transaction may carry (R351): up to 4,032, to the boundary of a stack or SU. -/
def txnRoom (a : Nat) : Nat := min 4032 (boundaryRoom a)

/-- A read of `n` bytes: READ_REQ, or REG_READ in the register space. -/
def readBody (a n : Nat) (tid : Word64) : FrameBody :=
  if bitsNat a 45 44 = 2 then .regRead tid (BitVec.ofNat 64 a) (BitVec.ofNat 16 n)
  else .readReq tid (BitVec.ofNat 64 a) (BitVec.ofNat 16 n)

/-- Bytes that one read may ask for. -/
def readRoom (a : Nat) : Nat := if bitsNat a 45 44 = 2 then 256 else txnRoom a

/-! ### MEM_COPY and MEM_FILL (R405) -/

/-- Ring SRAM written row by row, each row with its own poison. -/
def Device.ringWriteRange (d : Device) : Nat → Nat → List (Byte × Bool) → Device
  | 0, _, _ => d
  | fuel + 1, a, bs =>
    if bs.isEmpty then d
    else
      let part : List (Byte × Bool) := bs.take (64 - a % 64)
      let m := d.ring.writeRow (a / 64) (a % 64) (part.map (·.1)) (part.any (·.2))
      { d with ring := m }.ringWriteRange fuel (a + part.length) (bs.drop (64 - a % 64))

/-- Bytes of ring SRAM, each with its row's poison. -/
def Device.ringRead (d : Device) (a n : Nat) : List (Byte × Bool) := (d.ring.bytes a n).zip (d.ring.badFlags a n)

def copySrcKind (ps : List Byte) : Nat := fieldAt ps 0 1
def copyDstKind (ps : List Byte) : Nat := fieldAt ps 1 1
def copySrc (ps : List Byte) : Nat := fieldAt ps 8 8
def copyDst (ps : List Byte) : Nat := fieldAt ps 16 8
def copyLen (ps : List Byte) : Nat := fieldAt ps 24 8

/-- Poisoned 64-byte units among bytes from address `a` on. -/
def poisonUnits (a : Nat) (bs : List (Byte × Bool)) : Nat :=
  ((List.range bs.length).filter fun i => (bs.getD i (0, false)).2).map (fun i => (a + i) / 64) |>.dedup.length

/-- The reply of a copy: bytes moved, poisoned units. -/
def Cmd.copyReply (c : Cmd) : List Byte := leBytes 8 c.moved ++ leBytes 4 c.poisoned ++ leBytes 4 0

/-- A copy ends. Poisoned data read ends it with HBM_POISON_DATA. -/
def Device.copyEnd (d : Device) (id : CmdId) : Device :=
  match d.findCmd id with
  | none => d
  | some c => d.complete id (if c.poisoned = 0 then Status.ok else Status.hbmPoisonData) c.copyReply

def Device.copyFail (d : Device) (id : CmdId) (status : Nat) (detail : Word) : Device :=
  match d.findCmd id with
  | none => d
  | some c => d.complete id status c.copyReply detail

/-- Reads a local source: ring SRAM or HBM. -/
def Device.copyRead (d : Device) (kind a n : Nat) : List (Byte × Bool) × Device :=
  if kind = 1 then (d.ringRead a n, d) else d.hbmRead .remote a n

/-- Data of a copy reaches its destination: at once, or for a chart address as one transaction. -/
def Device.copyPut (d : Device) (id : CmdId) (bs : List (Byte × Bool)) : Device :=
  match d.findCmd id with
  | none => d
  | some c =>
    let a := copyDst c.params + c.moved
    let note (d : Device) (k : Nat) : Device :=
      d.modCmd id fun c => { c with moved := c.moved + k, poisoned := c.poisoned + poisonUnits (copySrc c.params + c.moved) bs }
    match copyDstKind c.params with
    | 0 => note (d.dwr a bs) bs.length
    | 1 => note (d.ringWriteRange (bs.length + 1) a bs) bs.length
    | 2 => note (d.hbmWrite .remote a bs) bs.length
    | _ => (note d 0).originate 28 (BitVec.ofNat 18 (bitsNat a 63 46)) .write (writeBody a bs false 0) (cmd := some id)

/-- The lowest DRD tag not in use. -/
def HostPort.freeTag (h : HostPort) : Option Nat := (List.range 512).find? fun t => !h.drds.any fun r => r.tag == t

/-- The next part of a copy: a read of host memory, a remote read, or local data for a remote write. -/
def Device.copyStep (d : Device) (id : CmdId) : Device :=
  match d.findCmd id with
  | none => d
  | some c =>
    if c.posted then d
    else if copyLen c.params ≤ c.moved then d.copyEnd id
    else
      let left := copyLen c.params - c.moved
      let src := copySrc c.params + c.moved
      let room := if copyDstKind c.params = 3 then txnRoom (copyDst c.params + c.moved) else left
      match copySrcKind c.params with
      | 0 =>
        match d.host.freeTag with
        | none => d
        | some tag =>
          let n := min 256 (min left room)
          (d.modHost fun h => { h with drds := h.drds ++ [{ tag := tag, cmd := id, len := n }] }).sendHost
            (.drd (BitVec.ofNat 64 src) n tag)
      | 3 =>
        let n := min (readRoom src) (min left room)
        d.originate 28 (BitVec.ofNat 18 (bitsNat src 63 46)) .read (readBody src n) (cmd := some id)
      | k =>
        let (bs, d) := d.copyRead k src (min left room)
        d.copyPut id bs

/-- A range of ring SRAM lies outside the free area (R379). -/
def outsideFree (a n : Nat) : Bool := decide (a < 0x9000) || decide (ringSramBytes < a + n)

/-- A side of a copy that addresses HBM beyond its end, or a stack that is offline (R314, R329). -/
def Device.hbmRefused (d : Device) (kind a n : Nat) : Option Nat :=
  if kind ≠ 2 then none
  else if hbmBytes < a + n ∨ hbmBytes ≤ a then some Status.hbmRange
  else if d.hbmOffline a n then some Status.hbmOffline
  else none

/-- A stack of the command takes no access yet, so the command has not begun to move data. -/
def Device.copyWaits (d : Device) (id : CmdId) : Bool :=
  match d.findCmd id with
  | none => false
  | some c =>
    let fill := c.opcode == 0x0202
    (!fill && copySrcKind c.params == 2 && d.hbmWaits (copySrc c.params) (copyLen c.params)) ||
    ((if fill then copySrcKind c.params else copyDstKind c.params) == 2 &&
      (if fill then d.hbmWaits (fieldAt c.params 8 8) (fieldAt c.params 16 8)
       else d.hbmWaits (copyDst c.params) (copyLen c.params)))

/-- What MEM_COPY refuses: its parameters, a trip, kinds that it does not join, an address that is not memory, a stack
that is offline. -/
def Device.copyRefused (d : Device) (ps : List Byte) : Option Nat :=
  let sk := copySrcKind ps
  let dk := copyDstKind ps
  let n := copyLen ps
  if 3 < sk ∨ 3 < dk ∨ fieldAt ps 2 6 ≠ 0 ∨ n < 1 ∨ 2 ^ 40 < n then some Status.badParam
  else if d.hlt.trip then some Status.hltState
  else if (dk = 0 ∧ (sk = 0 ∨ sk = 3)) ∨ (sk = 1 ∧ outsideFree (copySrc ps) n) ∨ (dk = 1 ∧ outsideFree (copyDst ps) n) then
    some Status.memKind
  else (d.hbmRefused sk (copySrc ps) n).or (d.hbmRefused dk (copyDst ps) n)

/-- The same of MEM_FILL. -/
def Device.fillRefused (d : Device) (ps : List Byte) : Option Nat :=
  let dk := fieldAt ps 0 1
  let a := fieldAt ps 8 8
  let n := fieldAt ps 16 8
  if 3 < dk ∨ fieldAt ps 1 7 ≠ 0 then some Status.badParam
  else if d.hlt.trip then some Status.hltState
  else if dk = 0 ∨ dk = 3 ∨ (dk = 1 ∧ outsideFree a n) then some Status.memKind
  else d.hbmRefused dk a n

/-- MEM_COPY (R405, R430). Local data moves in one step; other copies go on part by part (log 12). -/
def Device.memCopy (id : CmdId) (d : Device) : Device :=
  if !d.hlt.trip ∧ d.copyWaits id then d
  else d.runCmd 0x0201 id fun ps d =>
    let sk := copySrcKind ps
    let dk := copyDstKind ps
    match d.copyRefused ps with
    | some st => d.complete id st
    | none =>
      if (sk = 0 ∨ dk = 0) ∧ !d.host.linkUp then d.copyFail id Status.memHostAbort 0
      else
        let d := d.copyStep id
        if (sk = 1 ∨ sk = 2) ∧ dk ≠ 3 then d.copyEnd id else d

/-- The bytes of a repeating pattern. -/
def fillBytes (pattern : List Byte) (n : Nat) : List (Byte × Bool) := (List.range n).map fun i => (pattern.getD (i % 8) 0, false)

/-- MEM_FILL (R405). -/
def Device.memFill (id : CmdId) (d : Device) : Device :=
  if !d.hlt.trip ∧ d.copyWaits id then d
  else d.runCmd 0x0202 id fun ps d =>
    let dk := fieldAt ps 0 1
    let a := fieldAt ps 8 8
    let n := fieldAt ps 16 8
    match d.fillRefused ps with
    | some st => d.complete id st
    | none =>
      let bs := fillBytes (sliceAt ps 24 8) n
      let d := if dk = 1 then d.ringWriteRange (n + 1) a bs else d.hbmWrite .remote a bs
      d.complete id Status.ok (leBytes 8 n ++ leBytes 8 0)

def execMemFill (id : CmdId) (s : State) : Host.Outcome State Fault Refusal := s.lift (Device.memFill id)

/-! ### Reads of host memory (R374, R377) -/

/-- A read of host memory fails its command. -/
def Device.drdFail (d : Device) (tag : Nat) : Device :=
  match d.host.drds.find? (·.tag == tag) with
  | none => d
  | some r => (d.modHost fun h => { h with drds := h.drds.filter (·.tag != tag) }).copyFail r.cmd Status.memHostAbort 0

/-- DRD_CPL (R377): the data goes on to the destination; a remote destination takes the next part once it has answered. -/
def Device.drdCpl (tag : Nat) (abort : Bool) (bs : List Byte) (d : Device) : Device :=
  match d.host.drds.find? (·.tag == tag) with
  | none => d
  | some r =>
    if abort ∨ bs.length ≠ r.len then d.drdFail tag
    else
      let d := d.modHost fun h => { h with drds := h.drds.filter (·.tag != tag) }
      match d.findCmd r.cmd with
      | none => d
      | some c =>
        if c.posted then d
        else
          let d := d.copyPut r.cmd (bs.map fun b => (b, false))
          if copyDstKind c.params = 3 then d else d.copyStep r.cmd

def execDrdTimeout (tag : Fin 512) (s : State) : Host.Outcome State Fault Refusal := s.lift fun d => d.drdFail tag.val

/-- UCIE_MODULE_DROP (R374): the module retrains, and copies that are moving data to or from host memory fail.
With no module up, no rate and no partner is in force. -/
def Device.moduleDrop (m : Nat) (d : Device) : Device :=
  if !d.host.moduleUp m then d
  else
    let ids := (d.host.cmds.filter fun c => c.running && c.ran && c.opcode == 0x0201 &&
      (copySrcKind c.params == 0 || copyDstKind c.params == 0)).map (·.id)
    let d := d.modHost fun h =>
      { h with m0 := if m = 0 then 1 else h.m0, m1 := if m = 1 then 1 else h.m1, retrains := satInc h.retrains,
               drds := h.drds.filter fun r => !ids.contains r.cmd }
    let d := d.modHost (·.setErr d.now 8)
    let d := if d.host.linkUp then d else d.modHost fun h => { h with rate := 0, partner := 0 }
    ids.foldl (fun d id => d.copyFail id Status.memHostAbort 0) d

def execUcieModuleDrop (m : Fin 2) (s : State) : Host.Outcome State Fault Refusal := s.lift (Device.moduleDrop m.val)

end Sys2Proof.Machine
end

