-- ==== Sys2Proof/Machine/Txn.lean ====
section
/-! DEFINITION. Transactions across devices (R343 to R365): what a sender does with answers, what a receiver does with
requests, multicast, and the routing of every frame that the device has made or accepted. -/

namespace Sys2Proof.Machine

/-! ### NAK reasons (R352, R353, R355) -/

def Nak.busy : Nat := 1
def Nak.noWindow : Nat := 2
def Nak.notGranted : Nat := 3
def Nak.range : Nat := 4
def Nak.offline : Nat := 5
def Nak.readonly : Nat := 6
def Nak.unreachable : Nat := 8
def Nak.pruned : Nat := 9
def Nak.stale : Nat := 0xA
def Nak.halted : Nat := 0xB
def Nak.noId : Nat := 0xC
def Nak.timeout : Nat := 0x10
def Nak.noGrant : Nat := 0x11

/-- The reasons on which a sender resends. -/
def nakResends (reason : Nat) : Bool := reason == Nak.busy || reason == Nak.unreachable

/-! ### Vexlink IOUs of a die (R25, R331) -/

/-- The sites of a die's Vexlink IOUs. -/
def vxlSites (die : Nat) : List Nat :=
  [(12, 0), (14, 0), (21, 0), (23, 0), (0, 19), (0, 20)].map fun p =>
    siteOf die (if die % 2 = 1 then 35 - p.1 else p.1) (if 2 ≤ die then 39 - p.2 else p.2)

/-- The originator of a Vexlink IOU: port × 2 + half (R350). -/
def origOf (u : Nat) : Nat :=
  match siteDuty u with
  | some (.port p) => 2 * p + natOfBool ((vxlSites (siteDie u)).any fun v => siteDuty v == siteDuty u && decide (v < u))
  | _ => 28

/-! ### A transaction ends at its sender (R352 to R357) -/

def Device.findOut (d : Device) (tid : Word64) : Option Outstanding := d.vxl.out.find? (·.tid == tid)

def Device.dropOut (d : Device) (tid : Word64) : Device :=
  d.modVxl fun v => { v with out := v.out.filter (·.tid != tid) }

def Device.modOut (d : Device) (tid : Word64) (f : Outstanding → Outstanding) : Device :=
  d.modVxl fun v => { v with out := v.out.map fun o => if o.tid == tid then f o else o }

/-- Writes of a transfer that a receiver has not acknowledged, or that are still to be sent. -/
def Transfer.writesTo (t : Transfer) (dest : BitVec 18) : Bool :=
  t.active.contains dest &&
  (t.txns.any (·.bulk) || t.sent.any fun p => !t.flags.contains p.2.1 && !p.2.2.contains dest)

/-- Transactions that wait and may now be sent: the originator's numbers allow it (R350), and for a FLAG frame no earlier
write of the originator to the device is outstanding, in a multicast transfer neither (R356). -/
def Device.releasable (d : Device) (seen : List (BitVec 5 × BitVec 18)) : List Outstanding → List Outstanding
  | [] => []
  | o :: os =>
    let key := (tidOrig o.tid, o.dest)
    let orig := (tidOrig o.tid).toNat
    let goes := o.waiting && d.windowOpen orig (tidSeq o.tid)
    match o.kind with
    | .write => if goes then o :: d.releasable (key :: seen) os else d.releasable (key :: seen) os
    | .flag =>
      if goes && !seen.contains key && !(d.vxl.running.any fun t => t.orig == orig && t.writesTo o.dest) then
        o :: d.releasable seen os
      else d.releasable seen os
    | _ => if goes then o :: d.releasable seen os else d.releasable seen os

/-- Sends every transaction that waits and may go. -/
def Device.releaseFlags (d : Device) : Device :=
  (d.releasable [] d.vxl.out).foldl (fun d o =>
    (d.modOut o.tid fun o => { o with waiting := false }).post o.dest o.frame) d

/-- A failure is counted and kept (R357). -/
def Device.countFail (d : Device) (tid : Word64) (dest : BitVec 18) (reason : Nat) : Device :=
  d.modVxl fun v =>
    { v with fail := satInc v.fail, failReason := BitVec.ofNat 8 reason, failOrig := tidOrig tid, failDevice := dest }

/-- What the IOU does beside: the event once per tick, and no more FLAG frames of that context to that device. -/
def Device.remoteFail (d : Device) (u c : Nat) (dest : BitVec 18) : Device :=
  (d.raiseOnceFree (siteRegion u) 0x60).modIou u fun s =>
    { s with withheld := if s.withheld.contains (c, dest) then s.withheld else (c, dest) :: s.withheld }

/-- The flag writes of a context to a device that wait are withheld: each counts as failed. -/
def Device.withholdFlags (d : Device) (u c : Nat) (dest : BitVec 18) (reason : Nat) : Device :=
  let gone := d.vxl.out.filter fun o => o.waiting && o.kind == .flag && o.site == some (u, c) && o.dest == dest
  gone.foldl (fun d o => (d.countFail o.tid dest reason).dropOut o.tid) d

/-- Data bytes that a read asked for. -/
def FrameBody.asked : FrameBody → Nat
  | .readReq _ _ n => n.toNat
  | .regRead _ _ n => n.toNat
  | .write t => t.data.length
  | _ => 0

/-- The oldest read of a context whose data have come delivers elements while the queue towards the grid has room
(R351, R357): reads take effect in the grid in element order. What the last element of a read lacks comes with the next
read. -/
def Device.deliverReads (d : Device) (u c : Nat) : Nat → Device
  | 0 => d
  | fuel + 1 =>
    match d.vxl.out.find? fun o => o.site == some (u, c) && o.kind == .read with
    | none => d
    | some o =>
      match o.data with
      | none => d
      | some bs =>
        let k := d.ctx u c
        let x := k.d
        match o.lasts with
        | [] => ((d.modCtx u c fun k => { k with half := k.half ++ bs }).dropOut o.tid).deliverReads u c fuel
        | last :: rest =>
          if !((d.iou u).inqueue x.vc).room (x.esize != 0) then d
          else
            let m := x.elemBytes - k.half.length
            let part := k.half ++ bs.take m
            let d := (d.packIn u c (part.map (·.1)) last (part.any (·.2))).modCtx u c fun k => { k with half := [] }
            let left := bs.drop m
            let d := if rest = [] ∧ left = [] then d.dropOut o.tid
                     else d.modOut o.tid fun o => { o with lasts := rest, data := some left }
            (d.progress (siteRegion u)).deliverReads u c fuel

/-- An endpoint's rows are still on their way to another device. -/
def Device.rowsOut (d : Device) (die e : Nat) : Bool :=
  d.vxl.out.any fun o => match o.kind with | .rows a b _ => a == die && b == e | _ => false

/-- The sending engine learns the result of a remote placement and writes the rows (R363). Ring rows are addressed as
space 01 with the die, the ring in bits 33:22 and the row relative to BASE (log 20). -/
def Device.remotePlaced (d : Device) (die e : Nat) (dest : BitVec 18) (res : PlaceResult) (row : Nat) : Device :=
  match res with
  | .nak => d.sendNak die e
  | .ok =>
    let r := (d.ep die e).record
    let (rows, d) := d.messageRows die e
    let a := dest.toNat * 2 ^ 46 + 2 ^ 44 + epDie r * 2 ^ 34 + epRing r * 2 ^ 22 + 64 * row
    let bytes (l : List (List Byte × Bool)) : List (Byte × Bool) := l.flatMap fun p => p.1.map fun b => (b, p.2)
    let d := d.modEp die e fun x => { x with waitReply := false, copying := true }
    let d := d.originate (24 + die) dest (.rows die e (rows.length ≤ 63)) (writeBody a (bytes (rows.take 63)) false 0)
    if rows.length ≤ 63 then d
    else d.originate (24 + die) dest (.rows die e true) (writeBody (a + 4032) (bytes (rows.drop 63)) false 0)
  | res => d.endSend die e (placeStatus res)

/-- What another device has answered for a send reaches its engine, which acts on it once it is free and reaches the
outbox, or has still to (R295, R296). The first failure of a send stands. -/
def Device.answerSend (d : Device) (die e : Nat) (o : Owed) : Device :=
  if (d.ep die e).owed.isSome then d
  else if d.engineFree die && d.engineReaches (epSite die (d.ep die e).record) then
    match o with
    | .ends st => d.endSend die e st
    | .placed dev res row => d.remotePlaced die e dev res row
  else d.modEp die e fun x => { x with owed := some o }

/-- Engines act on the answers that they still owe. -/
def Device.payOwed (d : Device) : Device :=
  d.homes.foldl (fun d h => h.2.eps.foldl (fun d q =>
    match q.2.owed with
    | some o => (d.modEp h.1 q.1 fun x => { x with owed := none }).answerSend h.1 q.1 o
    | none => d) d) d

/-- A transaction has been carried out at its destination. -/
def Device.txnDone (d : Device) (o : Outstanding) : Device :=
  let d := d.dropOut o.tid
  match o.kind with
  | .rows die e _ => if d.rowsOut die e || !(d.ep die e).copying then d else d.answerSend die e (.ends 1)
  | .write =>
    let d := d.releaseFlags
    match o.cmd with
    | some id => (d.modCmd id fun c => { c with moved := c.moved + o.frame.asked }).copyStep id
    | none => d
  | _ => d

/-- A transaction fails (R357, R363, R405). -/
def Device.txnFail (d : Device) (o : Outstanding) (reason : Nat) : Device :=
  let d := d.countFail o.tid o.dest reason
  match o.cmd with
  | some id => (d.dropOut o.tid).copyFail id Status.memRemote (BitVec.ofNat 32 reason)
  | none =>
    match o.kind, o.site with
    | .read, some (u, c) =>
      let (bs, d) := d.drawBytes o.frame.asked
      ((d.modOut o.tid fun o => { o with data := some (bs.map fun b => (b, true)) }).remoteFail u c o.dest).deliverReads u c 64
    | .credit, some (u, c) =>
      ((d.dropOut o.tid).remoteFail u c o.dest).modCtx u c fun k => { k with credit := 3, reason := BitVec.ofNat 8 reason }
    | .placement die e, _ =>
      let d := d.dropOut o.tid
      if (d.ep die e).waitReply then d.answerSend die e (.ends 7) else d
    | .rows die e _, _ =>
      let d := d.dropOut o.tid
      if (d.ep die e).copying then d.answerSend die e (.ends 7) else d
    | _, some (u, c) =>
      (((d.dropOut o.tid).remoteFail u c o.dest).withholdFlags u c o.dest reason).releaseFlags
    | _, none => d.dropOut o.tid

/-- Resends with the same TID, if any are left (R353). -/
def Device.resendOr (d : Device) (o : Outstanding) (fail : Device → Device) : Device :=
  if o.resends < o.retries then
    ((d.modOut o.tid fun o => { o with resends := o.resends + 1 }).modVxl fun v => { v with resends := satInc v.resends }).post
      o.dest o.frame
  else fail d

/-! ### Multicast at the sender (R359 to R362) -/

def Device.findTransfer (d : Device) (x : Word) : Option Transfer := d.vxl.running.find? (·.xfer == x)

def Device.modTransfer (d : Device) (x : Word) (f : Transfer → Transfer) : Device :=
  d.modVxl fun v => { v with running := v.running.map fun t => if t.xfer == x then f t else t }

/-- Transactions that every receiver not pruned has acknowledged leave the list. -/
def Transfer.clean (t : Transfer) : Transfer :=
  { t with sent := t.sent.filter fun p => t.active.any fun r => !p.2.2.contains r }

/-- Receivers for which the next transaction waits: a GRANT, or the acknowledgement of the transaction 64 before. After
the last transaction, those that still owe an acknowledgement. -/
def Transfer.waitsFor (t : Transfer) : List (BitVec 18) :=
  let grants := if t.credit.isSome then t.active.filter fun r => !t.granted.contains r else []
  let ended := t.moved == t.len && t.txns.isEmpty
  let acks := t.sent.filter fun p => ended || p.1 + 64 == t.sentCount
  grants ++ (acks.flatMap fun p => t.active.filter fun r => !p.2.2.contains r).filter fun r => !grants.contains r

/-- A transfer is over: the command completes, or its descriptor can (R362). -/
def Device.endTransfer (d : Device) (t : Transfer) : Device :=
  let d := d.modVxl fun v => { v with running := v.running.filter (·.xfer != t.xfer), transfers := satInc v.transfers }
  match t.cmd with
  | none => d
  | some id =>
    let st := if t.pruned = [] then Status.ok else if t.active = [] then Status.vxlAllPruned else Status.partial_
    d.complete id st (leBytes 4 t.pruned.length ++ leBytes 4 0 ++ t.pruned.flatMap fun r => leBytes 4 r.toNat)

/-- The frame of a transfer with its TID and transfer number. -/
def FrameBody.numbered (b : FrameBody) (tid : Word64) (x : Word) : FrameBody :=
  match b with
  | .write w => .write { w with tid := tid, xfer := x }
  | .flag _ chart v => .flag tid chart v
  | b => b

/-- A FLAG frame to a group waits: some write of the same originator is not acknowledged by every receiver (R356). -/
def Device.groupFlagWaits (d : Device) (t : Transfer) : Bool :=
  d.vxl.running.any (fun q => q.orig == t.orig && q.sent.any fun p => !q.flags.contains p.2.1) ||
  d.vxl.out.any fun o => o.kind == .write && (tidOrig o.tid).toNat == t.orig && t.active.contains o.dest

/-- Sends what a transfer may send now: the credit request of one into space 01 first (R360), then its transactions, read
from a stack that takes accesses (R328). A descriptor whose receivers are all pruned runs on, and nothing more is sent
(R362). -/
def Device.pumpTransfer (x : Word) : Nat → Device → Device
  | 0, d => d
  | fuel + 1, d =>
    match d.findTransfer x with
    | none => d
    | some t =>
      let t := t.clean
      let d := d.modTransfer x fun _ => t
      let ended := t.moved == t.len && t.txns.isEmpty
      if t.active = [] ∧ !t.closed then d.modTransfer x fun t => { t with txns := [], sent := [] }
      else if t.active = [] ∨ (ended ∧ t.closed ∧ t.sent = []) then d.endTransfer t
      else if !d.canOriginate t.orig then d
      else if chartSpace t.dst = 1 ∧ t.credit = none then
        let (tid, d) := d.nextTid t.orig
        (d.modTransfer x fun t => { t with credit := some tid }).post t.dest
          (.creditReq tid t.dst (BitVec.ofNat 16 ((t.len + 63) / 64)))
      else if ended ∨ t.waitsFor ≠ [] then d
      else
        match t.txns with
        | w :: rest =>
          if !w.bulk && d.groupFlagWaits t then d
          else
            let (tid, d) := d.nextTid t.orig
            let d := d.modTransfer x fun t =>
              { t with txns := rest, sentCount := t.sentCount + 1, sent := t.sent ++ [(t.sentCount, tid, [])],
                       flags := if w.bulk then t.flags else tid :: t.flags }
            Device.pumpTransfer x fuel (d.post t.dest (w.numbered tid x))
        | [] =>
          let a := t.dst.toNat + t.moved
          let n := min (t.len - t.moved) (min (txnRoom a) (stackBytes - (t.src + t.moved) % stackBytes))
          if d.hbmWaits (t.src + t.moved) n then d
          else
            let (tid, d) := d.nextTid t.orig
            let (bs, d) := d.hbmRead .remote (t.src + t.moved) n
            let d := d.modTransfer x fun t =>
              { t with moved := t.moved + n, sentCount := t.sentCount + 1, sent := t.sent ++ [(t.sentCount, tid, [])] }
            Device.pumpTransfer x fuel (d.post t.dest (writeBody a bs (bitsNat a 45 44 = 1 && t.moved + n == t.len) x tid))

/-- A transfer sends at most its window of 64 in one go. -/
def Device.mcastPump (d : Device) (x : Word) : Device := Device.pumpTransfer x 66 d

/-- A receiver is pruned (R361). -/
def Device.prune (d : Device) (x : Word) (dev : BitVec 18) : Device :=
  match d.findTransfer x with
  | none => d
  | some t =>
    if !t.active.contains dev then d
    else
      let d := d.modTransfer x fun t => { t with pruned := t.pruned ++ [dev] }
      let d := (d.post dev (.prune x)).modVxl fun v => { v with prunes := satInc v.prunes, mcastLast := dev }
      let d :=
        match t.site with
        | some (u, _) => d.raiseFree (siteRegion u) 0x62
        | none => let (w, d) := d.drawWord; d.raiseHub 0xFF 0x62 w
      d.mcastPump x

/-- A new transfer to an alias of a group, or none where no group has the alias. -/
def Device.newTransfer (d : Device) (orig : Nat) (dest : BitVec 18) (t : Transfer) : Option (Word × Device) :=
  match d.vxl.groups.find? fun g => g.2.1 == dest with
  | none => none
  | some g =>
    let x := d.vxl.xferNext
    let d := d.modVxl fun v => { v with xferNext := if x + 1 = 0 then 1 else x + 1 }
    let t := { t with xfer := x, orig := orig, dest := dest, receivers := g.2.2 }
    some (x, d.modVxl fun v => { v with running := v.running ++ [t] })

def Transfer.blank : Transfer :=
  { xfer := 0, orig := 28, dest := 0, receivers := [], pruned := [], sentCount := 0, sent := [], credit := none, granted := [],
    src := 0, dst := 0, len := 0, moved := 0, txns := [], flags := [], closed := false, cmd := none, site := none }

/-- VXL_MCAST_COPY (R359, R362). -/
def Device.vxlMcastCopy (id : CmdId) (d : Device) : Device :=
  d.runCmd 0x0907 id fun ps d =>
    let src := fieldAt ps 0 8
    let dst := BitVec.ofNat 64 (fieldAt ps 8 8)
    let len := fieldAt ps 16 8
    if !d.vxl.valid then d.complete id Status.vxlNoId
    else
      match d.hbmRefused 2 src len with
      | some st => d.complete id st
      | none =>
        let t := { Transfer.blank with src := src, dst := dst, len := len, closed := true, cmd := some id }
        match d.newTransfer 28 (BitVec.ofNat 18 (chartDevice dst)) t with
        | none => d.complete id Status.vxlRange
        | some (x, d) => d.mcastPump x

/-! ### Answers that arrive (R352, R353) -/

/-- The transfer to which a transaction belongs. -/
def Device.transferOf (d : Device) (tid : Word64) : Option Transfer :=
  d.vxl.running.find? fun t => t.sent.any fun p => p.2.1 == tid

def Device.rxAck (d : Device) (src : BitVec 18) (tid : Word64) : Device :=
  match d.transferOf tid with
  | some t =>
    (d.modTransfer t.xfer fun t =>
      { t with sent := t.sent.map fun p => if p.2.1 == tid && !p.2.2.contains src then (p.1, p.2.1, src :: p.2.2) else p }).mcastPump
        t.xfer
  | none =>
    match d.findOut tid with
    | some o => if o.kind == .read || o.kind == .credit || o.waiting then d else d.txnDone o
    | none => d

def Device.rxNak (d : Device) (src : BitVec 18) (tid : Word64) (reason : Nat) (xfer : Word) : Device :=
  if xfer ≠ 0 then (if nakResends reason then d else d.prune xfer src)
  else
    match d.vxl.running.find? fun t => t.credit == some tid || t.sent.any fun p => p.2.1 == tid with
    | some t => if nakResends reason then d else d.prune t.xfer src
    | none =>
      match d.findOut tid with
      | none => d
      | some o =>
        if o.waiting ∨ o.data.isSome then d
        else if nakResends reason then d.resendOr o fun d => d.txnFail o reason
        else d.txnFail o reason

def Device.rxGrant (d : Device) (src : BitVec 18) (tid : Word64) (queued : Bool) : Device :=
  match d.vxl.running.find? fun t => t.credit == some tid with
  | some t =>
    if queued then d
    else (d.modTransfer t.xfer fun t => { t with granted := src :: t.granted }).mcastPump t.xfer
  | none =>
    match d.findOut tid with
    | some o =>
      if o.kind != .credit then d
      else if queued then d.modOut tid fun o => { o with queued := true }
      else
        match o.site with
        | some (u, c) => (d.dropOut tid).modCtx u c fun k => { k with credit := 2 }
        | none => d.dropOut tid
    | none => d

/-- READ_DATA or REG_DATA for a read that is outstanding; any other is discarded (R354). -/
def Device.rxData (d : Device) (t : Txn) : Device :=
  match d.findOut t.tid with
  | none => d
  | some o =>
    if o.kind != .read ∨ o.data.isSome ∨ t.data.length ≠ o.frame.asked then d
    else
      match o.cmd, o.site with
      | some id, _ =>
        let d := (d.dropOut o.tid).copyPut id (txnBytes t)
        match d.findCmd id with
        | some c => if copyDstKind c.params = 3 then d else d.copyStep id
        | none => d
      | none, some (u, c) => (d.modOut o.tid fun o => { o with data := some (txnBytes t) }).deliverReads u c 64
      | none, none => d.dropOut o.tid

def Device.rxPlaceResp (d : Device) (src : BitVec 18) (tid : Word64) (res : PlaceResult) (row : Nat) : Device :=
  match d.findOut tid with
  | some o =>
    (match o.kind with
     | .placement die e =>
       let d := d.dropOut tid
       if (d.ep die e).waitReply then d.answerSend die e (.placed src res row) else d
     | _ => d)
  | none => d

/-! ### Landing windows (R258 to R263) -/

/-- A site, row and record of a window. -/
structure WinAt where
  iou : Nat
  win : Nat
  record : List Byte
  deriving DecidableEq, Repr

def winX (r : List Byte) : Nat := fieldAt r 0 1
def winY (r : List Byte) : Nat := fieldAt r 1 1
def winBase (r : List Byte) : Nat := fieldAt r 4 2
def winRows (r : List Byte) : Nat := fieldAt r 6 2
def winVc (r : List Byte) : Nat := fieldAt r 8 1
def winRelease (r : List Byte) : Nat := fieldAt r 0xA 2

/-- Every window record of a die's active images. -/
def Device.windowsOf (d : Device) (die : Nat) : List WinAt :=
  (vxlSites die).flatMap fun u =>
    (List.range (secNwin (d.section u))).map fun w => { iou := u, win := w, record := secWindow (d.section u) w }

/-- Where an address of space 01 lies: die, x, y and first row; none where it lies outside every SU. -/
def scratchPlace (a : Word64) : Option (Nat × Nat × Nat × Nat) :=
  let off := chartOffset a
  let die := bitsNat off 35 34
  let x := bitsNat off 33 28
  let y := bitsNat off 27 22
  if bitsNat off 43 36 ≠ 0 ∨ off % 64 ≠ 0 ∨ 35 < x ∨ 39 < y then none
  else if siteKind (siteOf die x y) ≠ .su then none
  else some (die, x, y, off % 2 ^ 22 / 64)

/-- The window of a die that holds rows of an SU. -/
def Device.windowAt (d : Device) (die x y row n : Nat) : Option WinAt :=
  (d.windowsOf die).find? fun w =>
    winX w.record == x && winY w.record == y && decide (winBase w.record ≤ row) &&
      decide (row + n ≤ winBase w.record + winRows w.record)

def Device.window (d : Device) (w : WinAt) : Window := (d.iou w.iou).windows.getD w.win .reset

def Device.modWindow (d : Device) (w : WinAt) (f : Window → Window) : Device :=
  d.modIou w.iou fun s => { s with windows := s.windows.upd w.win .reset fun k => { f k with record := w.record } }

/-- A window becomes FREE; the oldest request that waits for it is granted (R260, R355). -/
def Device.freeWindow (d : Device) (w : WinAt) : Device :=
  match (d.window w).queue with
  | [] => d.modWindow w fun k => { k with state := 0, grantee := 0, multi := false, xfer := 0 }
  | (dev, tid, multi) :: rest =>
    let d := d.modWindow w fun k => { k with state := 1, grantee := dev, queue := rest, multi := multi, xfer := 0 }
    (d.modVxl (·.finish tid)).post dev (.grant tid false)

/-- A remote write refused at a window (R261): counted at its IOU, and IOU_LAND raised. -/
def Device.landRefused (d : Device) (u : Nat) : Device :=
  (d.modIou u fun s => { s with landErr := satInc s.landErr }).raiseFree (siteRegion u) 0x45

/-! ### A receiver's answers -/

def Device.nakTo (d : Device) (f : Frame) (tid : Word64) (reason : Nat) : Device :=
  (d.modVxl (·.unstart tid)).post f.src (.nak tid (BitVec.ofNat 8 reason) f.body.xfer)

def Device.ackTo (d : Device) (f : Frame) (tid : Word64) : Device := (d.modVxl (·.finish tid)).post f.src (.ack tid)

/-- A transaction that has to wait for a stack or a region (R328, R365, R414). -/
def Device.park (d : Device) (f : Frame) : Device := d.modVxl fun v => { v with parked := v.parked ++ [f] }

def Device.jobHalted (d : Device) : Bool := d.comb.state == .halted

/-- HBM of a request: a NAK reason, or whether it must wait. -/
def Device.hbmRemote (d : Device) (off n : Nat) : Except Nat Bool :=
  if hbmBytes < off + n ∨ hbmBytes ≤ off then .error Nak.range
  else if d.hbmOffline off n then .error Nak.offline
  else .ok (d.hbmWaits off n)

/-! ### Requests, once the source table admits them -/

/-- The word that heads a landing packet (R262). -/
def landHeader (row rows : Nat) (final : Bool) (tid : Word64) : Nat :=
  le (leBytes 2 row ++ leBytes 2 0 ++ leBytes 2 rows ++ leBytes 1 (natOfBool final) ++ leBytes 1 0 ++ leBytes 8 tid.toNat)

/-- A write into scratchpad that its window accepts goes to the SU as one landing packet (R261, R262). -/
def Device.forwardLanding (d : Device) (f : Frame) (t : Txn) (w : WinAt) (row : Nat) : Device :=
  let r := siteRegion w.iou
  let n := t.data.length / 64
  let vc := winVc w.record
  let comb := d.combOf r
  let d := d.unitSend w.iou .vector (Item.make .vector (landHeader row n (t.op == 2) t.tid) comb vc false)
  let d := (List.range n).foldl (fun d i =>
    d.unitSend w.iou .vector
      (Item.make .vector (le ((t.data.drop (64 * i)).take 64)) comb vc (i + 1 == n) (t.poison.getLsbD i))) d
  let d := d.modWindow w fun k => { k with state := if t.op = 2 then 2 else k.state, xfer := t.xfer }
  d.modVxl fun v =>
    { v with landWaits := v.landWaits ++
        [{ site := siteOf (siteDie w.iou) (winX w.record) (winY w.record), tid := t.tid, src := f.src }] }

/-- A scratchpad write by an IOU of another device. -/
def Device.writeWindow (d : Device) (f : Frame) (t : Txn) : Device :=
  let n := t.data.length
  match scratchPlace t.address with
  | none => d.nakTo f t.tid Nak.range
  | some (die, x, y, row) =>
    if n % 64 ≠ 0 then d.nakTo f t.tid Nak.range
    else
      match d.windowAt die x y row 1 with
      | none => d.nakTo f t.tid Nak.noWindow
      | some w =>
        let k := d.window w
        if k.state ≠ 1 ∨ k.grantee ≠ f.src ∨ winBase w.record + winRows w.record < row + n / 64 then
          (d.landRefused w.iou).nakTo f t.tid Nak.notGranted
        else if !d.clockRuns (siteRegion w.iou) ∨ !d.clockRuns (siteRegion (siteOf die x y)) ∨
            (d.pilot (siteRegion w.iou)).drain then d.park f
        else d.forwardLanding f t w row

/-- Rows of a message that this device's engine has placed for another (R363). -/
def Device.writeRing_ (d : Device) (f : Frame) (t : Txn) : Device :=
  let off := chartOffset t.address
  let die := bitsNat off 35 34
  let g := bitsNat off 33 22
  let row := off % 2 ^ 22 / 64
  let n := t.data.length / 64
  let r := d.ring_ die g
  match r.msgs.find? fun m => !m.wrap && m.remote == some f.src && decide (m.row ≤ row) && decide (row + n ≤ m.row + m.rows) with
  | none => d.nakTo f t.tid Nak.notGranted
  | some m =>
    let u := rgSite die r.record
    if !d.engineReaches u then d.park f
    else
      let d := (List.range n).foldl (fun d i =>
        d.engineWrite u (rgBase r.record + row + i) ((t.data.drop (64 * i)).take 64) (t.poison.getLsbD i)) d
      let left := m.fill - n
      let head := row == m.row
      let d := d.modRing die g fun r => r.modMsg m.row fun m =>
        { m with fill := left, deliverable := m.deliverable || left == 0, remote := if left = 0 then none else m.remote,
                 endpoint := if head then BitVec.ofNat 8 (fieldAt t.data 5 1) else m.endpoint,
                 len := if head then BitVec.ofNat 16 (fieldAt t.data 2 2) else m.len,
                 seq := if head then BitVec.ofNat 32 (fieldAt t.data 8 4) else m.seq }
      (d.ackTo f t.tid).tryDeliver die g

/-- The flag of an element of kind 0x0 in space 10: its die and index (R344). -/
def flagElement (off : Nat) : Nat × Nat := (off / 8 / 4096, off / 8 % 4096)

/-- Flag writes: `n` elements from an offset; the last one is answered when its home has applied it. -/
def Device.writeFlags (d : Device) (p : Nat) (f : Frame) (tid : Word64) (off : Nat) (vals : List Bool) : Device :=
  if bitsNat off 43 40 = 1 then d.nakTo f tid Nak.readonly
  else if off % 8 ≠ 0 ∨ 4 * 4096 * 8 < off + 8 * vals.length then d.nakTo f tid Nak.range
  else
    (List.range vals.length).foldl (fun d i =>
      let e := flagElement (off + 8 * i)
      d.flagReq (7001 + p) e.1 e.2 (vals.getD i false) (tid := if i + 1 = vals.length then some (f.src, tid) else none)) d

/-- WRITE (R344, R352). -/
def Device.carryWrite (d : Device) (p : Nat) (f : Frame) (t : Txn) : Device :=
  let off := chartOffset t.address
  match chartSpace t.address with
  | 0 =>
    (match d.hbmRemote off t.data.length with
     | .error e => d.nakTo f t.tid e
     | .ok true => d.park f
     | .ok false => (d.hbmWrite .remote off (txnBytes t)).ackTo f t.tid)
  | 1 =>
    if d.jobHalted then d.nakTo f t.tid Nak.halted
    else if 24 ≤ (tidOrig t.tid).toNat ∧ (tidOrig t.tid).toNat ≤ 27 then d.writeRing_ f t
    else d.writeWindow f t
  | 2 =>
    if d.jobHalted then d.nakTo f t.tid Nak.halted
    else if bitsNat off 43 40 = 1 then d.nakTo f t.tid Nak.readonly
    else if t.data.length % 8 ≠ 0 then d.nakTo f t.tid Nak.range
    else d.writeFlags p f t.tid off ((List.range (t.data.length / 8)).map fun i => (t.data.getD (8 * i) 0).getLsbD 0)
  | _ => d.nakTo f t.tid Nak.range

/-- FLAG (R352, R356). -/
def Device.carryFlag (d : Device) (p : Nat) (f : Frame) (tid chart : Word64) (v : Bool) : Device :=
  if chartSpace chart ≠ 2 then d.nakTo f tid Nak.range
  else if d.jobHalted then d.nakTo f tid Nak.halted
  else d.writeFlags p f tid (chartOffset chart) [v]

/-- CREDIT_REQ (R260, R352, R355). -/
def Device.carryCredit (d : Device) (f : Frame) (tid chart : Word64) (rows : Nat) : Device :=
  if chartSpace chart ≠ 1 then d.nakTo f tid Nak.range
  else if d.jobHalted then d.nakTo f tid Nak.halted
  else
    match scratchPlace chart with
    | none => d.nakTo f tid Nak.range
    | some (die, x, y, row) =>
      match d.windowAt die x y row rows with
      | none => d.nakTo f tid Nak.noWindow
      | some w =>
        if (d.window w).state = 0 then
          ((d.modWindow w fun k =>
              { k with state := 1, grantee := f.src, multi := !d.vxl.own f.dest, xfer := 0 }).modVxl (·.finish tid)).post f.src (.grant tid false)
        else if 16 ≤ (((d.iou w.iou).windows.map fun k => k.2.queue.length).sum) then d.nakTo f tid Nak.busy
        else (d.modWindow w fun k => { k with queue := k.queue ++ [(f.src, tid, !d.vxl.own f.dest)] }).post f.src (.grant tid true)

/-- PLACE_REQ (R363): it waits for the engine of the die. -/
def Device.carryPlace (d : Device) (f : Frame) (tid : Word64) (die g rows : Nat) : Device :=
  if d.jobHalted then d.nakTo f tid Nak.halted
  else d.modHome die fun h =>
    { h with requests := h.requests ++
        [{ fromDie := 0, device := f.src, tid := some tid, endpoint := 0, ring := g, rows := rows }] }

/-- Carries out an admitted request. -/
def Device.carry (d : Device) (p : Nat) (f : Frame) : Device :=
  match f.body with
  | .write t => d.carryWrite p f t
  | .flag tid chart v => d.carryFlag p f tid chart v
  | .creditReq tid chart rows => d.carryCredit f tid chart rows.toNat
  | .placeReq tid die g rows => d.carryPlace f tid die g rows.toNat
  | _ => d

/-- The kept result of a placement (R363). -/
def Device.keptResult (d : Device) (tid : Word64) : Option (PlaceResult × Nat) :=
  ((List.range 4).flatMap fun die => (d.home die).kept).find? (fun k => k.1 == tid) |>.map (·.2)

/-- The answer to a duplicate (R354): an acknowledgement once the original has completed, a placement's result, or the
grant of a credit as it stands. -/
def Device.answerDuplicate (d : Device) (f : Frame) (tid : Word64) (done : Bool) : Device :=
  match f.body with
  | .placeReq .. =>
    (match d.keptResult tid with
     | some (res, row) => d.post f.src (.placeResp tid res (BitVec.ofNat 16 row))
     | none => d)
  | .creditReq .. => d.post f.src (.grant tid !done)
  | _ => if done then d.post f.src (.ack tid) else d

/-- The source table's check of a write, flag write, credit request or placement (R354). -/
def Device.admitFrame (d : Device) (p : Nat) (f : Frame) (tid : Word64) : Device :=
  match d.vxl.admission tid with
  | .fresh => (d.modVxl (·.start tid)).carry p f
  | .done => (d.modVxl fun v => { v with dups := satInc v.dups }).answerDuplicate f tid true
  | .doing => (d.modVxl fun v => { v with dups := satInc v.dups }).answerDuplicate f tid false
  | .stale => (d.modVxl fun v => { v with dupStale := satInc v.dupStale }).post f.src
      (.nak tid (BitVec.ofNat 8 Nak.stale) f.body.xfer)
  | .full => (d.modVxl fun v => { v with srcBusy := satInc v.srcBusy }).post f.src
      (.nak tid (BitVec.ofNat 8 Nak.busy) f.body.xfer)

/-- A read (R344, R352): data, or a NAK. It is not entered in the source table. -/
def Device.carryRead (d : Device) (f : Frame) (tid chart : Word64) (n : Nat) : Device :=
  let off := chartOffset chart
  let data (op : BitVec 8) (bs : List (Byte × Bool)) : Txn :=
    { tid := tid, address := chart, op := op, xfer := 0, poison := poison64 (bs.map (·.2)), data := bs.map (·.1) }
  match chartSpace chart with
  | 0 =>
    if n < 1 ∨ 4032 < n then d.nakTo f tid Nak.range
    else
      (match d.hbmRemote off n with
       | .error e => d.nakTo f tid e
       | .ok true => d.park f
       | .ok false =>
         let (bs, d) := d.hbmRead .remote off n
         d.post f.src (.readData (data 3 bs)))
  | 1 => d.nakTo f tid Nak.readonly
  | 2 =>
    let a := off % 2 ^ 32
    if bitsNat off 43 32 ≠ 2 ^ 8 ∨ a % 4 ≠ 0 ∨ n % 4 ≠ 0 ∨ n < 4 ∨ 256 < n ∨ !counterRangeOk a n then d.nakTo f tid Nak.range
    else
      let (bs, d) := d.counterRange (n / 4) a
      d.post f.src (.regData (data 4 (bs.map fun b => (b, false))))
  | _ => d.nakTo f tid Nak.range

/-- WITHDRAW (R355): the request leaves its window's queue. -/
def Device.rxWithdraw (d : Device) (tid : Word64) : Device :=
  let d := { d with ious := d.ious.mapAll fun _ s =>
    { s with windows := s.windows.mapAll fun _ w => { w with queue := w.queue.filter fun q => q.2.1 != tid } } }
  d.modVxl (·.finish tid)

/-- The windows of a device that a predicate names. -/
def Device.windowsWhere (d : Device) (p : Window → Bool) : List WinAt :=
  ((List.range 4).flatMap d.windowsOf).filter fun w => p (d.window w)

/-- The first request of a list that answers to a predicate leaves it. -/
def dropFirst {α : Type} (p : α → Bool) : List α → List α
  | [] => []
  | x :: xs => if p x then xs else x :: dropFirst p xs

/-- A pruned receiver (R361): it discards what it has not carried out, and frees the window of that transfer without
setting a flag. DESIGN CHOICE (log 40): PRUNE names the transfer and a credit request does not, so before its first
write the transfer's window is the first one that the sender holds by a request to a multicast number, or else its first
request of that kind that waits. -/
def Device.rxPrune (d : Device) (src : BitVec 18) (x : Word) : Device :=
  let d := d.modVxl fun v =>
    { v with prunedFrom := if v.prunedFrom.contains (src, x) then v.prunedFrom else (src, x) :: v.prunedFrom,
             parked := v.parked.filter fun f => !(f.src == src && f.body.xfer == x) }
  let known := d.windowsWhere fun k => k.state == 1 && k.grantee == src && x != 0 && k.xfer == x
  let ws := if known.isEmpty then
      (d.windowsWhere fun k => k.state == 1 && k.grantee == src && k.multi && k.xfer == 0).take 1 else known
  if !ws.isEmpty then ws.foldl (fun d w => (d.landRefused w.iou).freeWindow w) d
  else
    match d.windowsWhere fun k => k.queue.any fun q => q.1 == src && q.2.2 with
    | w :: _ => d.modWindow w fun k => { k with queue := dropFirst (fun q => q.1 == src && q.2.2) k.queue }
    | [] => d

/-- A frame for this device. -/
def Device.receive (d : Device) (p : Nat) (f : Frame) : Device :=
  match f.body with
  | .linkAck .. => d
  | .strike .. => d
  | .ack tid => d.rxAck f.src tid
  | .nak tid reason xfer => d.rxNak f.src tid reason.toNat xfer
  | .grant tid queued => d.rxGrant f.src tid queued
  | .prune xfer => d.rxPrune f.src xfer
  | .placeResp tid res row => d.rxPlaceResp f.src tid res row.toNat
  | .readData t => d.rxData t
  | .regData t => d.rxData t
  | .withdraw tid => d.rxWithdraw tid
  | .readReq tid chart n => d.carryRead f tid chart n.toNat
  | .regRead tid chart n => d.carryRead f tid chart n.toNat
  | .write t =>
    if t.xfer ≠ 0 ∧ d.vxl.prunedFrom.contains (f.src, t.xfer) then
      d.post f.src (.nak t.tid (BitVec.ofNat 8 Nak.pruned) t.xfer)
    else d.admitFrame p f t.tid
  | .flag tid .. => d.admitFrame p f tid
  | .creditReq tid .. => d.admitFrame p f tid
  | .placeReq tid .. => d.admitFrame p f tid

/-! ### Routing (R343, R345 to R348) -/

/-- The frame's DEST is an alias that this device receives too. -/
def Device.localAlias (d : Device) (dest : BitVec 18) : Bool :=
  match d.vxl.lookup dest.toNat with
  | some b => b.getLsbD 62
  | none => false

/-- A frame of this device, or one that it forwards, goes on its way: to the device itself, or by its bearing. A device
without a number can originate nothing (R352). -/
def Device.dispatchFrame (d : Device) (f : Frame) : Device :=
  if !d.vxl.valid then
    match f.body.request with
    | some tid => d.rxNak f.dest tid Nak.noId 0
    | none => d
  else if d.vxl.own f.dest then d.receive 12 f
  else
    match d.vxl.lookup f.dest.toNat with
    | none => d.countRoute.refuseFrame f Nak.unreachable
    | some b =>
      let d := if b.getLsbD 62 && d.vxl.own f.src then d.receive 12 f else d
      if b.getLsbD 62 && bearMcast b == 0 then d
      else
        match d.route f with
        | .done d => d
        | .refused d reason => d.refuseFrame f reason

/-- Routes every frame that waits for it. -/
def Device.pumpAux : Nat → Device → Device
  | 0, d => d
  | fuel + 1, d =>
    match d.vxl.outbox with
    | [] => d
    | f :: fs => Device.pumpAux fuel ((d.modVxl fun v => { v with outbox := fs }).dispatchFrame f)

/-- Transactions and multicast transfers that waited go on. -/
def Device.wake (d : Device) : Device :=
  let d := if d.vxl.out.any (·.waiting) then d.releaseFlags else d
  d.vxl.running.foldl (fun d t => d.mcastPump t.xfer) d

/-- Frames that one command can make are routed with it; any beyond that follow with the next. -/
def Device.pump (d : Device) : Device := Device.pumpAux 4096 d.wake

/-- Requests that had to wait are tried again. -/
def Device.unpark (d : Device) : Device :=
  let fs := d.vxl.parked
  let d := d.modVxl fun v => { v with parked := [] }
  fs.foldl (fun d f =>
    match f.body with
    | .readReq tid chart n => d.carryRead f tid chart n.toNat
    | _ => d.carry 12 f) d

/-- A frame that passes the link layer (R338) is for this device, is forwarded, or both (R346, R347). -/
def Device.frameIn (p : Nat) (h : FrameHdr) (b : FrameBody) (d : Device) : Device :=
  match d.linkTake p h b with
  | (none, d) => d
  | (some d, _) =>
    let f : Frame := { flit := 0, time := d.now, hops := h.hops, dest := h.dest, src := h.src, lseq := 0, body := b }
    if d.vxl.own f.dest then (d.receive p f).pump
    else
      let here := d.localAlias f.dest
      let onward : Bool := match d.vxl.lookup f.dest.toNat with | some b => !here || bearMcast b != 0 | none => true
      let d := if here then d.receive p f else d
      if !onward then d.pump
      else if f.hops = 0 then (d.countRoute.refuseFrame f Nak.unreachable).pump
      else (d.modVxl fun v => { v with outbox := v.outbox ++ [{ f with hops := f.hops - 1 }] }).pump

end Sys2Proof.Machine
end

