-- ==== Sys2Proof/Machine/Iou.lean ====
section
/-! DEFINITION. What an IOU moves (R262, R264 to R266, R351): STREAM_READ, PACKING_READ, landing packets, windows and the
completion of descriptors; and the commands whose effect goes on through the frames of Txn.lean: the message engine's,
the homes', the copies' and every frame that arrives at a port. -/

namespace Sys2Proof.Machine

/-! ### Writes of a Vexlink IOU (R351, R355 to R357) -/

/-- An alias of one of the device's groups. -/
def Device.isGroup (d : Device) (dest : BitVec 18) : Bool := d.vxl.groups.any fun g => g.2.1 == dest

/-- The multicast transfer of a descriptor, started with its first word. -/
def Device.descTransfer (d : Device) (u c : Nat) (dest : BitVec 18) : Option (Word × Device) :=
  match d.vxl.running.find? fun t => t.site == some (u, c) with
  | some t => some (t.xfer, d)
  | none =>
    let k := d.ctx u c
    let n := k.total * k.d.elemBytes
    d.newTransfer (origOf u) dest
      { Transfer.blank with dst := BitVec.ofNat 64 k.d.start, len := n, moved := n, site := some (u, c) }

/-- A transaction that fails before it is sent: counted, and the event raised (R355, R357). -/
def Device.failUnsent (d : Device) (u c : Nat) (dest : BitVec 18) (reason : Nat) : Device :=
  (d.countFail (makeTid d.vxl.device (origOf u) 0) dest reason).remoteFail u c dest

/-- The bytes that a context has grouped leave as one WRITE; the last of a scratchpad write carries FINAL. -/
def Device.flushGroup (d : Device) (u c : Nat) (final : Bool) : Device :=
  let k := d.ctx u c
  match k.group with
  | none => d
  | some (a, bs) =>
    let dest := BitVec.ofNat 18 (chartDevice a)
    let d := d.modCtx u c fun k => { k with group := none }
    let fin := final && chartSpace a == 1
    if k.credit = 3 then d.failUnsent u c dest k.reason.toNat
    else if d.isGroup dest then
      match d.descTransfer u c dest with
      | none => d
      | some (x, d) =>
        match writeBody a.toNat bs fin 0 0 with
        | .write t => (d.modTransfer x fun r => { r with txns := r.txns ++ [.write t] }).mcastPump x
        | _ => d
    else d.originate (origOf u) dest .write (writeBody a.toNat bs fin 0) (site := some (u, c))

/-- FLAG frames for the flag elements of a word, to a device or to every receiver of a group: sent once every earlier
write of the IOU to the device has been acknowledged; a withheld one counts as failed (R351, R356, R357, R359). -/
def Device.sendFlags (d : Device) (u c : Nat) (w : PackWord) : Device :=
  (List.range (w.count / 8)).foldl (fun d i =>
    let a := BitVec.ofNat 64 (w.address + 8 * i)
    let dest := BitVec.ofNat 18 (chartDevice a)
    let v := (w.bytes.getD (8 * i) 0).getLsbD 0
    if (d.iou u).withheld.contains (c, dest) then d.modVxl fun x => { x with fail := satInc x.fail }
    else if d.isGroup dest then
      match d.descTransfer u c dest with
      | none => d
      | some (x, d) => (d.modTransfer x fun r => { r with txns := r.txns ++ [.flag 0 a v] }).mcastPump x
    else
      let hold := d.vxl.out.any (fun o => o.kind == .write && o.dest == dest && (tidOrig o.tid).toNat == origOf u) ||
        d.vxl.running.any fun t => t.orig == origOf u && t.writesTo dest
      d.originate (origOf u) dest .flag (fun tid => .flag tid a v) (site := some (u, c)) (hold := hold)) d

/-- A word whose space needs a credit that has not come (R355). -/
def Device.needsCredit (d : Device) (u : Nat) (w : PackWord) : Bool :=
  let k := d.ctx u w.ctx
  bitsNat w.address 45 44 == 1 && decide (k.credit.toNat < 2) && !d.isGroup (BitVec.ofNat 18 (bitsNat w.address 63 46))

/-- CREDIT_REQ for the window that holds the first row of a descriptor (R355). -/
def Device.askCredit (d : Device) (u : Nat) (w : PackWord) : Device :=
  let k := d.ctx u w.ctx
  if k.credit ≠ 0 then d
  else
    (d.modCtx u w.ctx fun k => { k with credit := 1 }).originate (origOf u) (BitVec.ofNat 18 (bitsNat w.address 63 46)) .credit
      (fun tid => .creditReq tid (BitVec.ofNat 64 k.d.start) (BitVec.ofNat 16 k.total)) (site := some (u, w.ctx))

/-- Bytes begin a new transaction: a gap, a boundary, or 4,032 bytes (R351). -/
def startsNew (g : Option (Word64 × List (Byte × Bool))) (address count : Nat) : Bool :=
  match g with
  | none => false
  | some (a, bs) => a.toNat + bs.length != address || decide (txnRoom a.toNat < bs.length + count)

/-- Bytes of a context join those that its next transaction groups, or begin a new one. -/
def Device.groupBytes (d : Device) (u c address : Nat) (bytes : List (Byte × Bool)) : Device :=
  let d := if startsNew (d.ctx u c).group address bytes.length then d.flushGroup u c false else d
  d.modCtx u c fun k =>
    { k with group := match k.group with
        | some (a, bs) => some (a, bs ++ bytes)
        | none => some (BitVec.ofNat 64 address, bytes) }

/-- No further word of a descriptor can come. -/
def Device.wordsDone (d : Device) (u c : Nat) : Bool :=
  let k := d.ctx u c
  k.state == .running && k.d.kind == 2 && k.moved == k.total &&
  !((d.iou u).outQ.any fun q => q.2.closed.any (fun w => w.ctx == c) || q.2.openWord.any fun w => w.ctx == c)

/-- One closed word towards a Vexlink port. -/
def Device.vxlQueueWrite (d : Device) (u v : Nat) (w : PackWord) (rest : List PackWord) : Device :=
  let pop (d : Device) : Device := d.modOutQ u v fun q => { q with closed := rest }
  if w.count = 0 then pop d
  else if !d.canOriginate (origOf u) then d
  else if d.needsCredit u w then d.askCredit u w
  else
    let c := w.ctx
    let (w, d) := (pop d).checkPack u w
    if bitsNat w.address 45 40 = 0x20 then d.sendFlags u c w
    else
      let bytes := (w.bytes.take w.count).map fun b => (b, w.poison)
      let cut := boundaryRoom w.address
      let d :=
        if cut < w.count then
          (d.groupBytes u c w.address (bytes.take cut)).groupBytes u c (w.address + cut) (bytes.drop cut)
        else d.groupBytes u c w.address bytes
      if d.wordsDone u c then d.flushGroup u c true else d

/-- One closed word towards the hub: ring SRAM (R380). -/
def Device.hubQueueWrite (d : Device) (w : PackWord) : Device :=
  if w.count = 0 then d
  else d.ringWriteRange 66 w.address ((w.bytes.take w.count).map fun b => (b, w.poison))

/-- PACKING_READ (R271): the read side of a queue delivers a closed word. -/
def Device.packingRead (u v : Nat) (toGrid : Bool) (d : Device) : Device :=
  if !d.streams u || siteKind u != .iou then d
  else if toGrid then
    let d := d.packToGrid u v
    ((d.iou u).ctx.map (·.1)).foldl (fun d c => d.deliverReads u c 64) d
  else
    match ((d.iou u).outq v).closed with
    | [] => d
    | w :: rest =>
      (match siteDuty u with
       | some (.hbm _) =>
         let (w, d) := (d.modOutQ u v fun q => { q with closed := rest }).checkPack u w
         d.hbmQueueWrite u w
       | some .hub =>
         let (w, d) := (d.modOutQ u v fun q => { q with closed := rest }).checkPack u w
         d.hubQueueWrite w
       | some (.port _) => (d.vxlQueueWrite u v w rest).pump
       | _ => d).progress (siteRegion u)

def execPackingRead (u : SiteIx) (v : Fin 8) (toGrid : Bool) (s : State) : Host.Outcome State Fault Refusal :=
  s.lift (Device.packingRead u.val v.val toGrid)

/-! ### Reads (R351) -/

/-- How many elements from `k` on lie at rising adjacent addresses within `room` bytes, at most `fuel`. -/
def runLength (x : Desc) (k total room : Nat) : Nat → Nat
  | 0 => 0
  | fuel + 1 =>
    let n := x.elemBytes
    if total ≤ k ∨ room < n then 0
    else if k + 1 < total ∧ x.addr (k + 1) = x.addr k + n then 1 + runLength x (k + 1) total (room - n) fuel
    else 1

/-- Element `k` follows the one before it at the next address. -/
def Desc.adjacent (x : Desc) (k : Nat) : Bool := x.addr k == x.addr (k - 1) + x.elemBytes

/-- STREAM_READ of a Vexlink IOU: the next READ_REQ or REG_READ, as many elements as it groups. An element that
straddles a boundary is read in two parts (R351). -/
def Device.vxlIssue (d : Device) (u c : Nat) : Device :=
  let k := d.ctx u c
  let x := k.d
  if k.total ≤ k.moved ∨ !d.canOriginate (origOf u) then d
  else
    let a := (BitVec.ofInt 64 (x.addr k.moved + k.asked)).toNat
    let room := readRoom a
    let ask (d : Device) (bytes : Nat) (lasts : List Bool) : Device :=
      d.originate (origOf u) (BitVec.ofNat 18 (bitsNat a 63 46)) .read (readBody a bytes) (site := some (u, c)) (lasts := lasts)
    let first := x.elemBytes - k.asked
    if room < first ∧ bitsNat a 45 44 = 0 then
      ((ask d room []).modCtx u c fun k => { k with asked := k.asked + room }).progress (siteRegion u)
    else
      let n := 1 + (if k.moved + 1 < k.total ∧ x.adjacent (k.moved + 1) then
        runLength x (k.moved + 1) k.total (room - first) 503 else 0)
      let used := first + (n - 1) * x.elemBytes
      let next := k.moved + n
      let tail := if next < k.total ∧ x.adjacent next ∧ room - used < x.elemBytes ∧ bitsNat a 45 44 = 0 ∧ room < 4032 then
        room - used else 0
      let lasts := (List.range n).map fun i => ({ k with moved := k.moved + i } : Ctx).elemLast
      ((ask d (used + tail) lasts).modCtx u c fun k =>
        { k with moved := next, asked := tail, elems := satAdd k.elems n,
                 lastSent := { k with moved := next }.sentLast }).progress (siteRegion u)

/-- STREAM_READ (R242, R265). -/
def Device.streamRead (u c : Nat) (d : Device) : Device :=
  if !d.streams u then d
  else if siteKind u = .su then d.suRead u c
  else
    match (d.ctxKeys u c).find? fun k => (d.ctx u k).runs 1 && decide ((d.ctx u k).moved < (d.ctx u k).total) with
    | none => d
    | some k =>
      match siteDuty u with
      | some (.hbm _) => d.hbmIssue u k
      | some .hub => d.hubIssue u k
      | some (.port _) => (d.vxlIssue u k).pump
      | _ => d

def execStreamRead (u : SiteIx) (c : Fin 8) (s : State) : Host.Outcome State Fault Refusal :=
  s.lift (Device.streamRead u.val c.val)

/-! ### Completion (R252, R356, R362) -/

/-- What a Vexlink descriptor still groups leaves, and its multicast transfer closes. -/
def Device.closeDesc (d : Device) (u c : Nat) : Device :=
  if !d.wordsDone u c || !d.canOriginate (origOf u) then d
  else
    let d := d.flushGroup u c true
    match d.vxl.running.find? fun t => t.site == some (u, c) with
    | some t => (d.modTransfer t.xfer fun r => { r with closed := true }).mcastPump t.xfer
    | none => d

def execDescriptorComplete (u : SiteIx) (c : Fin 8) (s : State) : Host.Outcome State Fault Refusal :=
  s.lift fun d =>
    match siteDuty u.val with
    | some (.port _) =>
      if d.streams u.val then
        (((d.ctxKeys u.val c.val).foldl (fun d k => d.closeDesc u.val k) d).pump).descriptorComplete u.val c.val
      else d
    | _ => d.descriptorComplete u.val c.val

/-! ### Landing packets and windows (R260, R262) -/

/-- A landing packet in error. -/
def Device.landError (d : Device) (u : Nat) : Device :=
  (d.modSu u fun s => { s with landErr := satInc s.landErr }).raiseFree (siteRegion u) 0x42

/-- The last row of a landing packet is written: DONE_FLAG under FINAL, and the write is acknowledged. -/
def Device.landDone (d : Device) (u c : Nat) (final : Bool) : Device :=
  let k := d.ctx u c
  let d := if final then (match k.d.done with | some (die, f) => d.flagReq u die f true | none => d) else d
  match d.vxl.landWaits.find? fun w => w.site == u && w.tid == k.landTid with
  | some w =>
    ((d.modVxl fun v => { v with landWaits := v.landWaits.filter fun x => x != w }).modVxl (·.finish w.tid)).post w.src
      (.ack w.tid)
  | none => d

/-- One word of a landing packet for LAND context `c`. -/
def Device.landWord (d : Device) (u c : Nat) (w : Item) : Device :=
  let k := d.ctx u c
  let set (l : Option (Nat × Nat × Bool × Bool)) (d : Device) : Device := d.modCtx u c fun k => { k with land := l }
  match k.land with
  | none =>
    let bs := w.bytes
    let row := fieldAt bs 0 2
    let n := fieldAt bs 4 2
    let final := (fieldAt bs 6 1).testBit 0
    let first := k.d.start / 64
    let d := d.modCtx u c fun k => { k with landTid := BitVec.ofNat 64 (fieldAt bs 8 8) }
    if row < first ∨ first + k.total < row + n ∨ n = 0 ∨ 63 < n then
      set (if w.last then none else some (0, 0, false, true)) (d.landError u)
    else if w.last then d.landError u
    else set (some (row, n, final, false)) d
  | some (row, n, final, discard) =>
    if discard then (if w.last then set none d else d)
    else
      let d := d.pathAWrite u row w.bytes w.poison
      let d := d.modCtx u c fun k => { k with elems := satInc k.elems }
      if n = 1 then set (if w.last then none else some (0, 0, false, true)) (d.landDone u c final)
      else if w.last then set none (d.landError u)
      else set (some (row + 1, n - 1, final, false)) d

/-- LANDING_PACKET (R262): the next word of a landing packet. -/
def Device.landingPacket (u c : Nat) (d : Device) : Device :=
  if !d.streams u || siteKind u != .su || (d.su u).bankWrite.isSome ||
      (List.range 8).find? (d.canWrite u) != some c || !(d.ctx u c).runs 4 then d
  else
    let q : BufKey := ⟨.vector, 4, (d.ctx u c).d.vc⟩
    match (d.unit u).queue q with
    | [] => d
    | w :: _ => ((d.landWord u c w).popUnit u q).pump

def execLandingPacket (u : SiteIx) (c : Fin 8) (s : State) : Host.Outcome State Fault Refusal :=
  s.lift (Device.landingPacket u.val c.val)

/-- WINDOW_RELEASE (R260): the IOU sees the RELEASE flag of a FILLED window, clears it and frees the window. -/
def Device.windowRelease (u w : Nat) (d : Device) : Device :=
  match (d.windowsOf (siteDie u)).find? fun k => k.iou == u && k.win == w with
  | none => d
  | some k =>
    let f := winRelease k.record
    let die := bitsNat f 13 12
    let i := f % 4096
    if !d.live (siteRegion u) || (d.window k).state != 2 || !f.testBit 15 || !d.flagVal die i ||
        (d.home die).reqs.any (fun q => q.src == u && q.flag == i && !q.value) then d
    else ((d.flagReq u die i false).freeWindow k).pump

def execWindowRelease (u : SiteIx) (w : Fin 8) (s : State) : Host.Outcome State Fault Refusal :=
  s.lift (Device.windowRelease u.val w.val)

/-! ### The message engines (R296, R301, R304, R363) -/

/-- One attempt of a send, at this device or another. -/
def Device.attempt (d : Device) (die e : Nat) : Device :=
  let x := d.ep die e
  if epRemote x.record then
    (d.modEp die e fun x => { x with waitReply := true }).originate (24 + die) (BitVec.ofNat 18 (epDevice x.record))
      (.placement die e) fun tid => .placeReq tid (epDie x.record) (epRing x.record) (BitVec.ofNat 8 x.rows)
  else d.attemptHere die e

/-- CHAN_SEND (R301). -/
def Device.chanSend (die e : Nat) (d : Device) : Device :=
  if !d.sendReady die e || !d.sendTurn die e || !d.canOriginate (24 + die) then d
  else
    let (ok, d) := d.takeUpSend die e
    if ok then (d.attempt die e).pump else d

def execChanSend (d : Die) (e : Fin 64) (s : State) : Host.Outcome State Fault Refusal :=
  s.lift (Device.chanSend d.val e.val)

/-- SEND_RETRY (R301): the backoff of a send has ended. -/
def Device.sendRetry (die e : Nat) (d : Device) : Device :=
  let x := d.ep die e
  if x.state ≠ .on ∨ !x.busy ∨ !x.due ∨ !d.sendTurn die e ∨ !d.canOriginate (24 + die) then d
  else (((d.engineAt die false e).modEp die e fun x => { x with due := false }).attempt die e).pump

def execSendRetry (d : Die) (e : Fin 64) (s : State) : Host.Outcome State Fault Refusal :=
  s.lift (Device.sendRetry d.val e.val)

/-- PLACEMENT_REQUEST (R296, R302): the oldest request from another die or device. -/
def Device.placementRequest (die : Nat) (d : Device) : Device :=
  match (d.home die).requests with
  | [] => d
  | q :: rest =>
    if !d.engineFree die || (d.releaseDue die).isSome || !d.ringReached die q.ring then d
    else
      let d := (d.modHome die fun h => { h with requests := rest }).engineAt die false q.endpoint
      match q.tid with
      | none =>
        let (res, row, d) :=
          d.placeIn die q.ring ((d.ep q.fromDie q.endpoint).msg q.endpoint (d.outboxLen q.fromDie q.endpoint) none)
        d.modHome q.fromDie fun h =>
          { h with replies := h.replies ++ [{ endpoint := q.endpoint, die := die, ring := q.ring, result := res, row := row }] }
      | some tid =>
        let m : RingMsg :=
          { row := 0, rows := q.rows, endpoint := 0, len := 0, seq := 0, deliverable := false, wrap := false,
            remote := some q.device, fill := q.rows }
        let (res, row, d) := d.placeIn die q.ring m
        let d := d.modHome die fun h => { h with kept := ((tid, res, row) :: h.kept).take 64 }
        ((d.modVxl (·.finish tid)).post q.device (.placeResp tid res (BitVec.ofNat 16 row))).pump

def execPlacementRequest (d : Die) (s : State) : Host.Outcome State Fault Refusal :=
  s.lift (Device.placementRequest d.val)

/-- PLACEMENT_TIMEOUT (R363): the oldest remote message of a ring that is not all written is poisoned and becomes
deliverable. -/
def Device.placementTimeout (die g : Nat) (d : Device) : Device :=
  let r := d.ring_ die g
  match r.msgs.find? fun m => !m.wrap && m.remote.isSome && !m.deliverable with
  | none => d
  | some m =>
    let u := rgSite die r.record
    if !d.engineOn die || !d.engineReaches u then d
    else
      let row := rgBase r.record + m.row
      let d := d.engineWrite u row ((d.su u).sram.bytes (64 * row) 64) true
      (d.modRing die g fun r => r.modMsg m.row fun m => { m with deliverable := true, remote := none, fill := 0 }).tryDeliver die g

def execPlacementTimeout (d : Die) (g : Fin 64) (s : State) : Host.Outcome State Fault Refusal :=
  s.lift (Device.placementTimeout d.val g.val)

def execFlagChange (d : Die) (s : State) : Host.Outcome State Fault Refusal :=
  s.lift fun dev => (dev.flagChange d.val).pump

def execHomeStop (d : Die) (s : State) : Host.Outcome State Fault Refusal :=
  s.lift fun dev => (dev.homeStop d.val).pump

/-! ### Copies and stacks -/

def execMemCopy (id : CmdId) (s : State) : Host.Outcome State Fault Refusal := s.lift fun d => (d.memCopy id).pump

def execDrdCpl (tag : Fin 512) (abort : Bool) (bytes : List Byte) (s : State) : Host.Outcome State Fault Refusal :=
  s.liftIf (.drdCpl tag abort bytes) fun d => (d.drdCpl tag.val abort bytes).pump

def execVxlMcastCopy (id : CmdId) (s : State) : Host.Outcome State Fault Refusal := s.lift fun d => (d.vxlMcastCopy id).pump

/-- SELF_REFRESH_EXIT (R328, R365): remote transactions that waited for the stack are carried out. -/
def execSelfRefreshExit (k : StackIx) (s : State) : Host.Outcome State Fault Refusal :=
  s.lift fun d => ((d.selfRefreshExit k.val).unpark).pump

/-! ### Frames that arrive (R339, R344 to R363) -/

def execFlag (p : PortIx) (h : FrameHdr) (tid chart : BitVec 64) (value : Bool) (s : State) :
    Host.Outcome State Fault Refusal :=
  s.lift (Device.frameIn p.val h (.flag tid chart value))

def execAck (p : PortIx) (h : FrameHdr) (tid : BitVec 64) (s : State) : Host.Outcome State Fault Refusal :=
  s.lift (Device.frameIn p.val h (.ack tid))

def execNak (p : PortIx) (h : FrameHdr) (tid : BitVec 64) (reason : BitVec 8) (xfer : Word) (s : State) :
    Host.Outcome State Fault Refusal :=
  s.lift (Device.frameIn p.val h (.nak tid reason xfer))

def execGrant (p : PortIx) (h : FrameHdr) (tid : BitVec 64) (queued : Bool) (s : State) :
    Host.Outcome State Fault Refusal :=
  s.lift (Device.frameIn p.val h (.grant tid queued))

def execPrune (p : PortIx) (h : FrameHdr) (xfer : Word) (s : State) : Host.Outcome State Fault Refusal :=
  s.lift (Device.frameIn p.val h (.prune xfer))

def execPlaceResp (p : PortIx) (h : FrameHdr) (tid : BitVec 64) (result : PlaceResult) (row : BitVec 16) (s : State) :
    Host.Outcome State Fault Refusal :=
  s.lift (Device.frameIn p.val h (.placeResp tid result row))

def execReadReq (p : PortIx) (h : FrameHdr) (tid chart : BitVec 64) (len : BitVec 16) (s : State) :
    Host.Outcome State Fault Refusal :=
  s.lift (Device.frameIn p.val h (.readReq tid chart len))

def execCreditReq (p : PortIx) (h : FrameHdr) (tid chart : BitVec 64) (rows : BitVec 16) (s : State) :
    Host.Outcome State Fault Refusal :=
  s.lift (Device.frameIn p.val h (.creditReq tid chart rows))

def execWithdraw (p : PortIx) (h : FrameHdr) (tid : BitVec 64) (s : State) : Host.Outcome State Fault Refusal :=
  s.lift (Device.frameIn p.val h (.withdraw tid))

def execPlaceReq (p : PortIx) (h : FrameHdr) (tid : BitVec 64) (die : Die) (ring : Fin 64) (rows : BitVec 8) (s : State) :
    Host.Outcome State Fault Refusal :=
  s.lift (Device.frameIn p.val h (.placeReq tid die.val ring.val rows))

def execRegRead (p : PortIx) (h : FrameHdr) (tid chart : BitVec 64) (len : BitVec 16) (s : State) :
    Host.Outcome State Fault Refusal :=
  s.lift (Device.frameIn p.val h (.regRead tid chart len))

def execWriteTxn (p : PortIx) (h : FrameHdr) (t : Txn) (s : State) : Host.Outcome State Fault Refusal :=
  s.liftIf (.writeTxn p h t) (Device.frameIn p.val h (.write t))

def execReadData (p : PortIx) (h : FrameHdr) (t : Txn) (s : State) : Host.Outcome State Fault Refusal :=
  s.liftIf (.readData p h t) (Device.frameIn p.val h (.readData t))

def execRegData (p : PortIx) (h : FrameHdr) (t : Txn) (s : State) : Host.Outcome State Fault Refusal :=
  s.liftIf (.regData p h t) (Device.frameIn p.val h (.regData t))

/-! ### Limits that run out (R347, R353 to R355, R361) -/

/-- FORWARD_HOLD_EXPIRY (R347): the oldest frame that waits at a port, and has not begun to leave, is discarded. -/
def Device.holdExpiry (p : Nat) (d : Device) : Device :=
  match (d.port p).held.find? fun f => f.flit == 0 with
  | none => d
  | some f => ((d.modPort p fun v => { v with held := v.held.erase f }).countHold.refuseFrame f Nak.unreachable).pump

def execForwardHoldExpiry (p : PortIx) (s : State) : Host.Outcome State Fault Refusal := s.lift (Device.holdExpiry p.val)

/-- E2E_TIMEOUT (R353). -/
def Device.e2eTimeout (tid : Word64) (d : Device) : Device :=
  match d.findOut tid with
  | none => d
  | some o =>
    if o.waiting ∨ o.queued ∨ o.data.isSome then d
    else
      (d.resendOr o fun d => (d.modVxl fun v => { v with timeouts := satInc v.timeouts }).txnFail o Nak.timeout).pump

def execE2eTimeout (tid : BitVec 64) (s : State) : Host.Outcome State Fault Refusal := s.lift (Device.e2eTimeout tid)

/-- GRANT_LIMIT_EXPIRY (R355). -/
def Device.grantLimit (tid : Word64) (d : Device) : Device :=
  match d.findOut tid with
  | some o => if o.kind == .credit then ((d.post o.dest (.withdraw tid)).txnFail o Nak.noGrant).pump else d
  | none => d

def execGrantLimitExpiry (tid : BitVec 64) (s : State) : Host.Outcome State Fault Refusal := s.lift (Device.grantLimit tid)

/-- MCAST_LAG_EXPIRY (R361): one receiver alone has held a transfer. -/
def Device.mcastLag (x : Word) (dev : BitVec 18) (d : Device) : Device :=
  match d.findTransfer x with
  | none => d
  | some t =>
    let w := t.clean.waitsFor
    if w.contains dev && w.all (· == dev) then (d.prune x dev).pump else d

def execMcastLagExpiry (xfer : Word) (dev : BitVec 18) (s : State) : Host.Outcome State Fault Refusal :=
  s.lift (Device.mcastLag xfer dev)

/-- SOURCE_ENTRY_EXPIRY (R354). -/
def execSourceEntryExpiry (dev : BitVec 18) (orig : BitVec 5) (s : State) : Host.Outcome State Fault Refusal :=
  s.lift fun d => d.modVxl fun v => { v with src := v.src.filter fun e => !(e.device == dev && e.orig == orig) }

end Sys2Proof.Machine
end

