-- ==== Sys2Proof/Machine/Pilots.lean ====
section
/-! DEFINITION. The pilots (R211 to R236): the control program, every control instruction, summary registers, events,
lockstep, and the pilot's side of a swap up to the drain flag (R57, R228, R229). -/

namespace Sys2Proof.Machine

/-! ### The control program (R214 to R218) -/

/-- The control-program block of a comb in a region's program store; empty where the region has none. -/
def Device.programIn (d : Device) (r c : Nat) : List Byte := (d.comb.store.getD (16 * r + c) .reset).program

def progLength (prog : List Byte) : Nat := fieldAt prog 0 2

def progWord (prog : List Byte) (i : Nat) : Nat := fieldAt prog (16 + 8 * i) 8

/-- What the store says of the row that holds instruction `i`. -/
def Device.progMark (d : Device) (r i : Nat) : Option RowMark :=
  Tab.find (d.comb.store.getD (16 * r + d.combOf r) .reset).progMarks ((16 + 8 * i) / 64)

/-- The issue stage is free: the region has started, the program runs, and neither a wait nor an instruction of this clk
holds it (R218). -/
def Device.pilotReady (d : Device) (r : Nat) : Bool :=
  let p := d.pilot r
  d.started r && d.comb.state == .active && p.state == 1 && p.waitc == 0 && p.busy == 0

/-- A fetch meets an uncorrectable row (R215). -/
def Device.storeFail (d : Device) (r : Nat) : Device :=
  ((d.modPilot r fun p => { p with storeUncorr := satInc p.storeUncorr }).raiseFree r 0x24).stopRegion r 0xFF 0xFF 6

/-- The issue stage fetches the instruction at PC and, if its opcode is `opc`, issues it. -/
def Device.pilotIssue (d : Device) (r opc : Nat) (act : Nat → Device → Device) : Device :=
  if !d.pilotReady r then d
  else
    let i := (d.pilot r).pc.toNat
    let w := progWord (d.programIn r (d.combOf r)) i
    match d.progMark r i with
    | none => if bitsNat w 63 58 = opc then act w d else d
    | some .correctable =>
      if bitsNat w 63 58 = opc then act w (d.modPilot r fun p => { p with storeCorr := satInc p.storeCorr }) else d
    | some .poison => d.storeFail r
    | some .uncorrectable => d.storeFail r

/-- The next instruction to issue, in a later clk. -/
def Pilot.goto (p : Pilot) (i : Nat) : Pilot := { p with pc := BitVec.ofNat 9 i, state := 1, busy := 1 }
/-- A branch taken holds the issue stage 2 clk (R218). -/
def Pilot.jump (p : Pilot) (i : Nat) : Pilot := { p.goto i with busy := 2 }
def Pilot.next (p : Pilot) : Pilot := p.goto (p.pc.toNat + 1)

/-- An instruction whose effect on its own pilot is `f`. -/
def Device.pilotStep (d : Device) (r : Nat) (f : Pilot → Pilot) : Device := d.modPilot r fun p => (f p).next

/-! ### Summary registers (R220, R221) -/

def Pilot.sum (p : Pilot) (k : Nat) : Summary := p.sums.getD k .reset

/-- The value that a summary leaves in a register that holds `held`. -/
def combineValue (op ty : Nat) (held v : Word) : Word :=
  match op with
  | 1 => extreme true ty held v
  | 2 => (addTy ty held v).1
  | 3 => held ||| v
  | 4 => extreme false ty held v
  | _ => v

def Summary.combine (s : Summary) (m : SummaryMsg) : Summary :=
  { val := combineValue m.op m.ty.toNat s.val m.val, ty := m.ty, poison := s.poison || m.poison, count := satInc s.count }

/-- Summary `a` reaches its register before `b`: it is due in an earlier clk of the region, of `clk` units each; or in the
same clk, where SFU summaries come first, in ascending y and then x, and PUBs follow in ascending region (R221). -/
def SummaryMsg.before (clk : Nat) (a b : SummaryMsg) : Bool :=
  if a.due / clk != b.due / clk then decide (a.due / clk < b.due / clk)
  else if a.pub != b.pub then !a.pub
  else decide (a.src < b.src)

/-- The summary of a list that comes first, and the rest in their order. -/
def firstSummary (clk : Nat) : List SummaryMsg → Option (SummaryMsg × List SummaryMsg)
  | [] => none
  | m :: ms =>
    match firstSummary clk ms with
    | none => some (m, [])
    | some (n, rest) => if n.before clk m then some (n, m :: rest) else some (m, ms)

/-- A summary reaches its register, or is discarded as stale (R60, R220). -/
def Device.takeSummary (d : Device) (r : Nat) (m : SummaryMsg) : Device :=
  if m.epoch = (d.pilot r).comb then
    d.modPilot r fun p => { p with sums := p.sums.upd m.idx .reset (·.combine m), arrived := p.arrived ++ [m] }
  else d.staleReport r

/-- SUMMARY_ARRIVAL (R220, R221): the next summary on its way to the pilot. -/
def Device.summaryArrival (r : Nat) (d : Device) : Device :=
  if !d.live r then d
  else
    match firstSummary (clkUnits (d.pwrRegion r).freq.toNat) (d.pilot r).sumBus with
    | none => d
    | some (m, rest) => (d.modPilot r fun p => { p with sumBus := rest }).takeSummary r m

def execSummaryArrival (r : Region) (s : State) : Host.Outcome State Fault Refusal :=
  s.lift (Device.summaryArrival r.val)

/-- Clears summary registers `lo` to `hi`; what has arrived there in this clk is applied after the clear (R220). -/
def Pilot.clearSums (p : Pilot) (lo hi : Nat) : Pilot :=
  let within (k : Nat) : Bool := decide (lo ≤ k) && decide (k ≤ hi)
  let kept := p.sums.filter fun e => !within e.1
  let sums := (p.arrived.filter fun m => within m.idx).foldl (fun (t : Tab Summary) m => t.upd m.idx .reset (·.combine m)) kept
  { p with sums := sums }

/-- CLRS (R220). -/
def Device.clrs (r : Nat) (d : Device) : Device :=
  d.pilotIssue r 0xA fun w d => d.pilotStep r (·.clearSums (bitsNat w 57 53) (bitsNat w 52 48))

def execClrs (r : Region) (s : State) : Host.Outcome State Fault Refusal := s.lift (Device.clrs r.val)

/-- When a summary that pilot `r` publishes now reaches pilot `q`: 8 clk later on the same die, and 40 ns later, the
latest that R211 allows, on another one (log 24). -/
def Device.pubDue (d : Device) (r q : Nat) : Nat :=
  if r / 2 = q / 2 then d.now + 8 * clkUnits (d.pwrRegion r).freq.toNat else d.now + ns 40

/-- PUB (R220): to each pilot of MASK, where it acts as a WRITE. -/
def Device.pub (r : Nat) (d : Device) : Device :=
  d.pilotIssue r 9 fun w d =>
    let k := bitsNat w 57 53
    let mask := bitsNat w 52 45
    let p := d.pilot r
    let s := p.sum k
    let m (q : Nat) : SummaryMsg :=
      { pub := true, src := r, sent := d.now, due := d.pubDue r q, idx := k, op := 0, ty := s.ty, val := s.val,
        poison := s.poison, epoch := p.comb }
    let d := (List.range 8).foldl (fun d q =>
      if mask.testBit q then d.modPilot q fun t => { t with sumBus := t.sumBus ++ [m q] } else d) d
    d.pilotStep r id

def execPub (r : Region) (s : State) : Host.Outcome State Fault Refusal := s.lift (Device.pub r.val)

/-! ### Shape registers, loops and branches (R222, R223, R226, R227) -/

/-- Writes a shape register; the bus carries the old value for 4 clk more (R95, R218). -/
def Pilot.setShape (p : Pilot) (reg : Nat) (v : Word) : Pilot :=
  { p with shape := p.shape.put reg v, shapeDue := p.shapeDue ++ [{ reg := reg, old := p.shape.getD reg 0, left := 4 }] }

/-- SETSH (R222). -/
def Device.setsh (r : Nat) (d : Device) : Device :=
  d.pilotIssue r 1 fun w d =>
    let reg := bitsNat w 57 52
    let src := bitsNat w 51 50
    let s := (d.pilot r).sum (bitsNat w 49 45)
    let bad := src == 1 && s.poison
    let v : Word :=
      if src = 0 then BitVec.ofNat 32 (bitsNat w 31 0)
      else if src = 1 then (if s.poison then 0 else s.val)
      else s.count.setWidth 32
    let d := if bad then d.raiseFree r 0x0B else d
    d.pilotStep r (·.setShape reg v)

def execSetsh (r : Region) (s : State) : Host.Outcome State Fault Refusal := s.lift (Device.setsh r.val)

/-- The largest value that the entries allow a shape register of a region: the smallest of those that cover it (R37). -/
def shapeMaxOf (es : List ShapeMax) (r reg : Nat) : Option Nat :=
  match (es.filter fun e => e.mask.getLsbD r && e.reg == reg).map (·.max.toNat) with
  | [] => none
  | m :: ms => some (ms.foldl min m)

def Device.shapeMax (d : Device) (r reg : Nat) : Option Nat :=
  match d.comb.set with
  | none => none
  | some s => shapeMaxOf s.shapeMax r reg

/-- LOOPP (R223). -/
def Device.loopp (r : Nat) (d : Device) : Device :=
  d.pilotIssue r 6 fun w d =>
    let k := bitsNat w 57 56
    let reg := bitsNat w 54 49
    let p := d.pilot r
    let read := if w.testBit 55 then (p.shape.getD reg 0).toNat else bitsNat w 31 0
    let limit := if w.testBit 55 then d.shapeMax r reg else none
    let clamped := match limit with | some m => decide (m < read) | none => false
    let bound := max 1 (match limit with | some m => min read m | none => read)
    let d := if clamped then d.raiseFree r 0x0C else d
    let n := (p.cnt.getD k 0).toNat + 1
    if n < bound then
      d.modPilot r fun p => { p with cnt := p.cnt.put k (BitVec.ofNat 32 n) }.jump (bitsNat w 41 33)
    else d.pilotStep r fun p => { p with cnt := p.cnt.put k 0 }

def execLoopp (r : Region) (s : State) : Host.Outcome State Fault Refusal := s.lift (Device.loopp r.val)

/-- COND of a BR on a register that is not poisoned (R216, R226). GE and GT compare the other way round, so that a NaN
fails them. -/
def brHolds (cond ty : Nat) (x imm : Word) : Bool :=
  match cond with
  | 0 => true
  | 1 => compareTy ty 0 x imm
  | 2 => compareTy ty 1 x imm
  | 3 => compareTy ty 2 x imm
  | 4 => compareTy ty 3 imm x
  | 5 => compareTy ty 3 x imm
  | _ => compareTy ty 2 imm x

/-- BR (R226, R227): a backward BR that has been taken LIMIT times falls through. -/
def Device.br (r : Nat) (d : Device) : Device :=
  d.pilotIssue r 5 fun w d =>
    let cond := bitsNat w 57 55
    let target := bitsNat w 41 33
    let p := d.pilot r
    let i := p.pc.toNat
    let s := p.sum (bitsNat w 54 50)
    let bad := cond != 0 && s.poison
    let holds := !bad && brHolds cond s.ty.toNat s.val (BitVec.ofNat 32 (bitsNat w 31 0))
    let back := decide (target ≤ i)
    let n := p.taken.getD i 0
    let d := if bad then d.raiseFree r 0x0B else d
    if holds ∧ (!back ∨ n < bitsNat w 49 42) then
      d.modPilot r fun p => { p with taken := if back then p.taken.put i (n + 1) else p.taken }.jump target
    else d.pilotStep r id

def execBr (r : Region) (s : State) : Host.Outcome State Fault Refusal := s.lift (Device.br r.val)

/-! ### Tokens, flags, events and waits (R224, R225, R231, R218) -/

/-- TOKEN (R224): the system lane carries it to every unit or switch of the region. -/
def Device.tokenOp (r : Nat) (d : Device) : Device :=
  d.pilotIssue r 7 fun w d => d.pilotStep r fun p => { p with tokens := p.tokens ++ [BitVec.ofNat 16 (bitsNat w 15 0)] }

def execToken (r : Region) (s : State) : Host.Outcome State Fault Refusal := s.lift (Device.tokenOp r.val)

/-- SETF (R216, R225). -/
def Device.setf (r : Nat) (d : Device) : Device :=
  d.pilotIssue r 3 fun w d =>
    (d.flagReq (6000 + r) (bitsNat w 57 56) (bitsNat w 55 44) (w.testBit 43)).pilotStep r id

def execSetf (r : Region) (s : State) : Host.Outcome State Fault Refusal := s.lift (Device.setf r.val)

/-- EVENT (R231). -/
def Device.userEvent (r : Nat) (d : Device) : Device :=
  d.pilotIssue r 8 fun w d =>
    let arg := if w.testBit 52 then ((d.pilot r).sum (bitsNat w 57 53)).val else 0
    (d.raise r (0x8000 + bitsNat w 14 0) arg).pilotStep r id

def execEvent (r : Region) (s : State) : Host.Outcome State Fault Refusal := s.lift (Device.userEvent r.val)

/-- WAITF (R225): the wait begins. -/
def Device.waitf (r : Nat) (d : Device) : Device :=
  d.pilotIssue r 2 fun w d =>
    let die := bitsNat w 57 56
    let f := bitsNat w 55 44
    let sense := w.testBit 43
    d.modPilot r fun p =>
      { p with state := 2, wait := some { what := .flag die f sense, clk := 0, seen := d.flagVal die f == sense } }

def execWaitf (r : Region) (s : State) : Host.Outcome State Fault Refusal := s.lift (Device.waitf r.val)

/-- A wait of the pilot ends and the next instruction can issue. -/
def Device.endWait (d : Device) (r : Nat) : Device := d.modPilot r fun p => { p with wait := none }.next

/-- WAITF_END (R218, R282). -/
def Device.waitfEnd (r : Nat) (d : Device) : Device :=
  match (d.pilot r).wait with
  | some w =>
    match w.what with
    | .flag die f sense => if d.live r ∧ (w.seen ∨ d.flagVal die f = sense) then d.endWait r else d
    | .summary _ _ => d
  | none => d

def execWaitfEnd (r : Region) (s : State) : Host.Outcome State Fault Refusal := s.lift (Device.waitfEnd r.val)

/-- WAITS (R218): the wait begins. -/
def Device.waits (r : Nat) (d : Device) : Device :=
  d.pilotIssue r 4 fun w d =>
    d.modPilot r fun p =>
      { p with state := 3, wait := some { what := .summary (bitsNat w 57 53) (bitsNat w 15 0), clk := 0, seen := false } }

def execWaits (r : Region) (s : State) : Host.Outcome State Fault Refusal := s.lift (Device.waits r.val)

/-- WAITS_END (R218). -/
def Device.waitsEnd (r : Nat) (d : Device) : Device :=
  match (d.pilot r).wait with
  | some w =>
    match w.what with
    | .summary k n => if d.live r ∧ n ≤ ((d.pilot r).sum k).count.toNat then d.endWait r else d
    | .flag .. => d
  | none => d

def execWaitsEnd (r : Region) (s : State) : Host.Outcome State Fault Refusal := s.lift (Device.waitsEnd r.val)

/-- WAITC (R218): it holds the issue stage COUNT clk, its own among them. -/
def Device.waitcOp (r : Nat) (d : Device) : Device :=
  d.pilotIssue r 0xB fun w d => d.modPilot r fun p => { p with waitc := BitVec.ofNat 32 (bitsNat w 31 0) }

def execWaitc (r : Region) (s : State) : Host.Outcome State Fault Refusal := s.lift (Device.waitcOp r.val)

/-- WAITC_END (R218): its last clk. -/
def Device.waitcEnd (r : Nat) (d : Device) : Device :=
  if d.live r ∧ (d.pilot r).waitc = 1 then d.modPilot r fun p => { p with waitc := 0 }.next else d

def execWaitcEnd (r : Region) (s : State) : Host.Outcome State Fault Refusal := s.lift (Device.waitcEnd r.val)

/-- NOP (R216). -/
def execPilotNop (r : Region) (s : State) : Host.Outcome State Fault Refusal :=
  s.lift fun d => d.pilotIssue r.val 0xD fun _ d => d.pilotStep r.val id

/-! ### Lockstep (R233, R234) -/

/-- The last element that satisfies a test is taken out. -/
def dropLast_ {α : Type} (p : α → Bool) (l : List α) : List α :=
  match takeFirst p l.reverse with
  | some (_, rest) => rest.reverse
  | none => l

/-- What the instruction of this clk has sent to others is taken back: a flag request, a published summary, or a swap
target (R234). `p` is the pilot as its clk began. -/
def Device.withdraw (d : Device) (r : Nat) (p : Pilot) : Device :=
  let w := progWord (d.programIn r (d.combOf r)) p.pc.toNat
  let others (f : Pilot → Pilot) : Device :=
    (List.range 8).foldl (fun d q => if q = r then d else d.modPilot q f) d
  let moved := (d.pilot r).pc != p.pc
  match bitsNat w 63 58 with
  | 3 =>
    if moved then d.modHome (bitsNat w 57 56) fun h => { h with reqs := dropLast_ (fun q => q.src == 6000 + r) h.reqs } else d
  | 9 => if moved then others fun q => { q with sumBus := dropLast_ (fun m => m.pub && m.src == r) q.sumBus } else d
  | 0xC =>
    if (d.pilot r).ownTarget && !p.ownTarget then
      others fun q => { q with ringIn := dropLast_ (fun t => t.no == p.swapNo) q.ringIn }
    else d
  | _ => d

/-- The copies of a pilot have differed: no output and no state of the clk leaves the pilot, but for its bookkeeping of
events that the hub has already received (R234). -/
def Device.backToClk (d : Device) (r : Nat) : Device :=
  match d.clkPilots.find r with
  | none => d
  | some p =>
    (d.withdraw r p).modPilot r fun q =>
      { p with events := q.events.filter fun e => !(e.clk == q.clkWord && e.comb == q.comb.setWidth 8) }

/-- LOCKSTEP (R234). -/
def Device.lockstep (r : Nat) (groups : BitVec 8) (d : Device) : Device :=
  if !d.live r then d
  else
    let clk := (d.pilot r).clkWord
    let d := (d.backToClk r).modPilot r fun p => { p with lockGroups := groups, lockClk := clk }
    let d := d.record 7 2 (d.atRegion r) (leBytes 1 groups.toNat ++ leBytes 3 0 ++ leBytes 4 clk.toNat)
    (d.raiseFree r 0x22).stopRegion r 0xFF 0xFF 3

def execLockstep (r : Region) (groups : BitVec 8) (s : State) : Host.Outcome State Fault Refusal :=
  s.lift (Device.lockstep r.val groups)

/-! ### The start of a swap (R57, R228, R229) -/

/-- The comb uses the region: it has a region image there (R37, R47). -/
def Device.usesRegion (d : Device) (c r : Nat) : Bool :=
  match d.combs[c]? with
  | some x => x.regions.contains r
  | none => false

/-- The units of a region that the active comb uses: those whose unit section is not empty. -/
def Device.usedUnits (d : Device) (r : Nat) : List Nat :=
  (regionSites r).filter fun u => d.usable u && !(d.section u).isEmpty

def Device.allMarkers (d : Device) (r : Nat) : Bool := (d.usedUnits r).all fun u => (d.pilot r).markers.contains u

/-- Target and EOT of the SWAP that the pilot has reached, as far as it has any. -/
def Device.ownSwap (d : Device) (r : Nat) : Option SwapTarget :=
  let p := d.pilot r
  let w := progWord (d.programIn r (d.combOf r)) p.pc.toNat
  if p.state = 4 ∧ !p.ownTarget ∧ !p.issued ∧ bitsNat w 63 58 = 0xC ∧ d.usesRegion (d.combOf r) r then
    some { target := bitsNat w 57 54, eot := w.testBit 53, no := p.swapNo }
  else none

/-- The pilot holds, or has on its way from the ring, two targets of one swap that differ (R228). -/
def Pilot.conflict (p : Pilot) : Bool :=
  let ts := p.target.toList ++ p.ringIn
  ts.any fun t => ts.any fun x => x.no == t.no && x != t

/-- Pilots that meet two targets that differ stop with cause 5, each raising its event; the job halts (R228). -/
def Device.swapMismatch (d : Device) (r : Nat) : Device :=
  let differs (q : Nat) : Bool := q == r || (d.live q && (d.pilot q).conflict)
  let d := (List.range 8).foldl (fun e q =>
    if differs q then (e.raiseFree q 0x23).modPilot q fun p => if p.state = 6 then p else p.stop 0xFF 0xFF 5 else e) d
  d.haltJob r 10

/-- A pilot that knows the target has the plane loader turn to it if the load in progress is of another comb (R41). -/
def Pilot.learn (p : Pilot) (t : SwapTarget) : Pilot :=
  let p := { p with target := some t }
  if p.loading = some t.target then p else { p with loading := some t.target, loaded := false }

/-- With every marker of its region and at its SWAP, the pilot sends the target on the ring and sets its drain flag. -/
def Device.trySwap (d : Device) (r : Nat) : Device :=
  match d.ownSwap r with
  | none => d
  | some t =>
    if !d.allMarkers r then d
    else
      let d := (List.range 8).foldl (fun d q =>
        if q = r then d else d.modPilot q fun p => { p with ringIn := p.ringIn ++ [t] }) d
      let d := d.modPilot r fun p => { p with ownTarget := true, drain := true }
      match (d.pilot r).target with
      | some t' => if t' = t then d else d.swapMismatch r
      | none => d.modPilot r (·.learn t)

/-- SWAP (R228). -/
def Device.swapOp (r : Nat) (d : Device) : Device :=
  d.pilotIssue r 0xC fun _ d => (d.modPilot r fun p => { p with state := 4 }).trySwap r

def execSwap (r : Region) (s : State) : Host.Outcome State Fault Refusal := s.lift (Device.swapOp r.val)

/-- SWAP_TARGET (R228, R229): a target of a later swap waits until the pilot has completed the earlier ones and has
taken its strike, and one of the same swap, or of the last, is compared. A pilot that the old comb does not use learns
the target here, and takes part if the new comb uses its region. -/
def Device.swapTarget (r : Nat) (d : Device) : Device :=
  let p := d.pilot r
  match p.ringIn with
  | [] => d
  | t :: ts =>
    if !d.live r ∨ d.comb.state ≠ .active ∨ p.idleUntilStrike ∨ p.swapNo < t.no then d
    else
      let d := d.modPilot r fun p => { p with ringIn := ts }
      match p.target, p.lastTarget with
      | some t', _ => if t'.no = t.no ∧ t' ≠ t then d.swapMismatch r else d
      | none, l =>
        if t.no < p.swapNo then
          match l with
          | some t' => if t'.no = t.no ∧ t' ≠ t then d.swapMismatch r else d
          | none => d
        else
        let d := d.modPilot r (·.learn t)
        if d.usesRegion (d.combOf r) r then d
        else d.modPilot r fun p => { p with state := 4, drain := d.usesRegion t.target r }

def execSwapTarget (r : Region) (s : State) : Host.Outcome State Fault Refusal := s.lift (Device.swapTarget r.val)

end Sys2Proof.Machine
end

