-- ==== Sys2Proof/Machine/Tick.lean ====
section
/-! DEFINITION. The tick (R50 to R56, R62 to R65): its commands, strikes from the timer, from TICK_IN and from the swarm
(R366 to R369), staged values, the start of a tick in each region, and tick reports. -/

namespace Sys2Proof.Machine

/-! ### Tick reports (R62, R64, R65) -/

/-- The 32 bytes of a report of a tick that ends at hub time `stop` in comb `last`. Fields of a tick that never started
are not stated (log 6). -/
def Device.reportBytes (d : Device) (status last stop : Nat) : List Byte :=
  let t := d.tick
  let strike := match t.running with | some k => (k.time - t.strike0) / 24 | none => (Config.freeWord d.free).toNat
  let delay :=
    match t.running with
    | some _ => t.startDelay
    | none => (Config.freeWord (d.free + 1)).toNat
  let dur := match t.firstClk with | some c => (stop - c) / 24 | none => (Config.freeWord (d.free + 2)).toNat
  leBytes 8 t.number ++ leBytes 8 strike ++ leBytes 4 delay ++ leBytes 4 (min dur 0xFFFFFFFF) ++ leBytes 2 status ++
    leBytes 2 t.skipped.toNat ++ leBytes 1 t.events.toNat ++ leBytes 1 last ++ leBytes 2 (t.flags.toNat % 256)

/-- Posts a report (R65, R406): the logbook keeps it whatever happens on the ring. -/
def Device.postReport (d : Device) (status last stop : Nat) : Device :=
  let bs := d.reportBytes status last stop
  let d := { d with free := d.free + 3 }
  let d := (d.logEnter hubSource 1 bs).postUnsolicited d.tick.cfg.cpl 0x0401 bs true
  d.modTick fun t =>
    { t with running := none, firstClk := none, startDelay := 0, woken := false, late := false, overrun := false,
             skipped := 0, events := 0, flags := 0 }

/-- HALT_REPORT (R64): every region has stopped. -/
def Device.haltReport (d : Device) : Device :=
  if d.comb.halting ∧ !d.comb.haltReported ∧ (List.range 8).all (fun r => (d.pilot r).state == 6) then
    (d.modComb fun c => { c with halting := false, haltReported := true }).postReport 0x8405 d.comb.combAtHalt.toNat
      d.comb.haltTime
  else d

def execHaltReport (s : State) : Host.Outcome State Fault Refusal := s.lift Device.haltReport

/-! ### Commands (R50, R54 to R56) -/

/-- The minimum period of the loaded set; 0 with none. -/
def Device.tmin (d : Device) : Nat := match d.comb.set with | some s => s.tmin | none => 0

def sourceOf (n : Nat) : Source := match n with | 0 => .internal | 1 => .external | _ => .swarm

/-- TICK_CONFIG (R50, R55). While ON the policy acts from the next strike, which the old period and window still time. -/
def Device.tickConfig (id : CmdId) (d : Device) : Device :=
  d.runCmd 0x0401 id fun ps d =>
    let period := fieldAt ps 0 4
    let src := fieldAt ps 4 1
    let pol := fieldAt ps 5 1
    let cpl := fieldAt ps 6 1
    let win := fieldAt ps 8 4
    if period < 50000 ∨ 1000000000 < period ∨ period % 10 ≠ 0 ∨ 2 < src ∨ 1 < pol ∨ fieldAt ps 7 1 ≠ 0 ∨
        (src ≠ 0 ∧ (win < 100 ∨ period / 8 < win)) then d.complete id Status.badParam
    else if d.tick.life ≠ .off ∧ (sourceOf src ≠ d.tick.cfg.source ∨ cpl ≠ d.tick.cfg.cpl) then
      d.complete id Status.tickState
    else if 15 < cpl ∨ (d.cplRing cpl).life ≠ .on then d.complete id Status.badRing
    else if period < d.tmin then d.complete id Status.tickPeriod
    else
      let c : TickCfg := { period := period, source := sourceOf src, catchUp := pol == 1, cpl := cpl, window := win }
      (d.modTick fun t =>
        if t.life = .on then { t with cfg := { t.cfg with catchUp := c.catchUp }, next := some c }
        else { t with cfg := c, next := none, configured := true }).complete id Status.ok

def execTickConfig (id : CmdId) (s : State) : Host.Outcome State Fault Refusal := s.lift (Device.tickConfig id)

/-- The configured source can strike (R54, R367). With no TICK_CONFIG since reset there is no source. -/
def Device.sourceUsable (d : Device) : Bool :=
  d.tick.configured &&
  match d.tick.cfg.source with
  | .internal => true
  | .external => !(d.input 0).stuck
  | .swarm => d.vxl.role == 2 && (d.port d.vxl.up.toNat).life == .on

/-- The values staged for the start are those of the run that begins (R56). -/
def stagedStart (l : List Staged) : List Staged := (l.filter (·.later)).map fun x => { x with later := false }

/-- The tick waits for its first strike. An edge that TICK_IN has shown before plays no part. -/
def Device.tickStarting (d : Device) : Device :=
  ((d.modTick fun t =>
    { t with life := .starting, coming := 0, held := none, pendingStart := false, staged := stagedStart t.staged }).modInput
      0 fun p => { p with edge := false }).modVxl fun v =>
        { v with announced := [], fallbackSent := false, struckNos := [] }

/-- The tick is OFF (R54, R419): TICK_STOP commands complete, and a pending start takes effect. A period and window that
TICK_CONFIG has changed time every later strike (R55). -/
def Device.tickOff (d : Device) : Device :=
  let ids := (d.host.cmds.filter fun c => c.running && c.ran && c.opcode == 0x0403).map (·.id)
  let d := (d.modTick fun t => { t with life := .off, held := none, cfg := t.next.getD t.cfg, next := none }).idleFreqs
  let d := (d.modVxl fun v => { v with announced := [], fallbackSent := false })
  let d := ids.foldl (fun d id => d.complete id Status.ok) d
  if d.tick.pendingStart then d.tickStarting else d

/-- TICK_START (R54, R430, R447). -/
def Device.tickStart (id : CmdId) (d : Device) : Device :=
  d.runCmd 0x0402 id fun _ d =>
    if d.hlt.trip ∨ d.clockLost then d.complete id Status.hltState
    else if d.tick.life = .starting ∨ d.tick.life = .on then d.complete id Status.tickState
    else if d.comb.state ≠ .active then d.complete id Status.tickNoJob
    else if !d.sourceUsable then d.complete id Status.tickSource
    else if d.tick.cfg.period < d.tmin then d.complete id Status.tickPeriod
    else if d.tick.life = .stopping then
      (d.modTick fun t => { t with pendingStart := true }).complete id Status.acceptedPending
    else d.tickStarting.complete id Status.ok

def execTickStart (id : CmdId) (s : State) : Host.Outcome State Fault Refusal := s.lift (Device.tickStart id)

/-- Staged values of the tick that runs on to its end: those that a pilot has still to load at its strike (R56). -/
def Tick.stagedRunning (t : Tick) : List Staged :=
  t.staged.filter fun x => t.running.isSome && !x.later && decide (x.tick ≤ t.number)

/-- TICK_STOP (R54, R56): a strike that CATCH_UP holds starts no tick. DESIGN CHOICE (log 32): values staged for a
pending start stay when TICK_STOP cancels that start. -/
def Device.tickStop (id : CmdId) (d : Device) : Device :=
  d.runCmd 0x0403 id fun _ d =>
    match d.tick.life with
    | .off => d.complete id Status.ok
    | .starting => ((d.modTick fun t => { t with staged := [] }).tickOff).complete id Status.ok
    | .on =>
      let d := d.modTick fun t => { t with life := .stopping, held := none, staged := t.stagedRunning }
      if d.tick.running.isNone then d.tickOff else d
    | .stopping => d.modTick fun t => { t with pendingStart := false }

def execTickStop (id : CmdId) (s : State) : Host.Outcome State Fault Refusal := s.lift (Device.tickStop id)

/-- An entry of TICK_STAGE (R56). -/
structure StageEntry where
  mask : Nat
  reg : Nat
  value : Nat
  bad : Bool
  deriving DecidableEq, Repr

def stageEntries (ps : List Byte) : List StageEntry :=
  (List.range (fieldAt ps 8 2)).map fun i =>
    let o := 16 + 8 * i
    { mask := fieldAt ps o 1, reg := fieldAt ps (o + 1) 1, value := fieldAt ps (o + 4) 4,
      bad := fieldAt ps (o + 2) 2 != 0 || decide (63 < fieldAt ps (o + 1) 1) }

def TickCfg.shortest (c : TickCfg) : Nat :=
  ns (match c.source with | .internal => c.period | _ => c.period - c.window)

/-- The earliest moment at which the strike of tick `n` can arrive, while ON (R55, R56). -/
def Tick.earliestOf (t : Tick) (n : Nat) : Nat :=
  t.prevStrike + t.cfg.shortest + (n - t.coming) * (t.next.getD t.cfg).shortest

/-- The tick number is one that values can be staged for now (R56). -/
def Device.stageTimely (d : Device) (n : Nat) : Bool :=
  let t := d.tick
  match t.life with
  | .starting => false
  | .on => (n == t.number + 1 || n == t.number + 2) && decide (t.coming ≤ n) && decide (d.now + ns 5000 ≤ t.earliestOf n)
  | _ => decide (n ≤ 1)

/-- Two values are staged for one tick. -/
def Staged.sameTick (x y : Staged) : Bool := x.later == y.later && x.tick == y.tick

/-- One staged value: it replaces an earlier one for the same tick, region and register. -/
def putStaged (l : List Staged) (x : Staged) : List Staged :=
  l.filter (fun y => !(y.sameTick x && y.region == x.region && y.reg == x.reg)) ++ [x]

/-- The entries of a TICK_STAGE, one value for each region that a mask names. DESIGN CHOICE (log 32): the limit of 256
counts these values, each a region and a register, over one tick, as the sentence on replacing counts them. -/
def stageAll (later : Bool) (n : Nat) (l : List Staged) (es : List StageEntry) : List Staged :=
  es.foldl (fun l e => (List.range 8).foldl (fun l r =>
    if e.mask.testBit r then
      putStaged l { later := later, tick := n, region := r, reg := e.reg, value := BitVec.ofNat 32 e.value }
    else l) l) l

/-- TICK_STAGE (R56). -/
def Device.tickStage (id : CmdId) (d : Device) : Device :=
  d.runCmd 0x0404 id fun ps d =>
    let n := fieldAt ps 0 8
    let es := stageEntries ps
    let beyond (e : StageEntry) : Bool :=
      (List.range 8).any fun r =>
        e.mask.testBit r && match d.shapeMax r e.reg with | some m => decide (m < e.value) | none => false
    if es.length = 0 ∨ 64 < es.length ∨ fieldAt ps 10 6 ≠ 0 ∨ es.any (·.bad) then d.complete id Status.badParam
    else if es.any beyond then d.complete id Status.shapeRange
    else if !d.stageTimely n then d.complete id Status.tickStageLate
    else
      let later := d.tick.life != .on
      let l := stageAll later n d.tick.staged es
      if 256 < (l.filter fun x => x.later == later && x.tick == n).length then d.complete id Status.tickStageFull
      else (d.modTick fun t => { t with staged := l }).complete id Status.ok

def execTickStage (id : CmdId) (s : State) : Host.Outcome State Fault Refusal := s.lift (Device.tickStage id)

/-- TICK_STATUS (R54). -/
def Device.tickStatus (id : CmdId) (d : Device) : Device :=
  d.runCmd 0x0405 id fun _ d =>
    let t := d.tick
    d.complete id Status.ok (leBytes 1 t.life.code ++ leBytes 7 0 ++ leBytes 8 t.number ++ leBytes 4 t.early.toNat ++
      leBytes 4 t.missing.toNat ++ leBytes 4 t.skippedAll.toNat ++ leBytes 4 d.host.lostReports.toNat)

def execTickStatus (id : CmdId) (s : State) : Host.Outcome State Fault Refusal := s.lift (Device.tickStatus id)

/-! ### Strikes (R51, R56, R62, R415, R419) -/

/-- Tick `k` starts: the strike goes to every pilot, and the frequencies change. -/
def Device.beginTick (d : Device) (k : Strike) (late : Bool) : Device :=
  let woken := d.pwr.state == 1 && d.pwr.wakeTo.isNone
  let d := d.modTick fun t =>
    { t with number := k.number, running := some k, held := none, firstClk := none, startDelay := 0, woken := woken,
             late := late, overrun := false,
             flags := t.flags ||| (if late then 1 else 0) ||| (if k.fallback then 2 else 0) }
  let d := (List.range 8).foldl (fun d r => d.modPilot r fun p => { p with strikeDue := true }) d
  d.ungate.strikeFreqs

/-- A strike takes place at hub time `time`: it starts a tick, or the overrun policy decides (R62). -/
def Device.strikeAt (d : Device) (time : Nat) (fallback : Bool) : Device :=
  let t := d.tick
  if t.life ≠ .starting ∧ t.life ≠ .on then d
  else
    let first := t.life == .starting
    let k : Strike := { number := t.coming, time := time, fallback := fallback }
    let d := d.modTick fun t =>
      { t with life := .on, coming := k.number + 1, prevStrike := time, strike0 := if first then time else t.strike0,
               cfg := t.next.getD t.cfg, next := none }
    let d := d.modVxl fun v => { v with fallbackSent := false }
    if first ∨ (t.running.isNone ∧ t.held.isNone) then d.beginTick k false
    else
      let d := if t.running.isSome then d.modTick fun t => { t with overrun := true } else d
      if d.tick.cfg.catchUp ∧ d.tick.cfg.source ≠ .swarm ∧ t.held.isNone then
        d.modTick fun t => { t with held := some k }
      else d.modTick fun t => { t with skippedAll := satInc t.skippedAll, skipped := satInc t.skipped }

/-- CAUGHT_UP_TICK_START (R62). -/
def Device.caughtUp (d : Device) : Device :=
  match d.tick.held with
  | some k => if d.tick.running.isNone ∧ d.tick.life = .on then d.beginTick k true else d
  | none => d

def execCaughtUpTickStart (s : State) : Host.Outcome State Fault Refusal := s.lift Device.caughtUp

/-- A STRIKE frame to each ON port of the DOWN mask (R366, R367): `lead` ps from its arrival or its making, less its
residence in the device by that port, in ns, and the port's delay. Its DEST is not stated (log 6); LEAD_REM is rounded
down to ns. -/
def Device.sendStrikes (d : Device) (f : Frame) (tick : Word) (leadPs : Int) (fallback : Bool) (residence : List Nat) :
    Device :=
  (List.range 12).foldl (fun d p =>
    if d.vxl.down.getLsbD p && (d.port p).life == .on then
      d.portSend p
        { f with body := .strike tick (BitVec.ofInt 32 ((leadPs - 1000 * (residence.getD p 0 : Nat) - (d.port p).delay.toNat) / 1000)) fallback }
    else d) d

/-- The header of a STRIKE that this device originates (R338). -/
def Device.ownStrike (d : Device) : Frame × Device :=
  let (w, d) := d.drawWord
  ({ flit := 0, time := d.now, hops := 32, dest := w.setWidth 18, src := d.vxl.device, lseq := 0, body := .strike 0 0 false }, d)

/-- The device's timer or TICK_IN strikes at `time`: a master announces the strike and takes it LEAD later (R367). -/
def Device.strikeOrAnnounce (d : Device) (time : Nat) (fallback : Bool) : Device :=
  if d.vxl.role = 1 then
    let n := d.tick.coming + d.vxl.announced.length
    let lead := d.vxl.lead.toNat
    let (f, d) := d.ownStrike
    (d.sendStrikes f (BitVec.ofNat 32 n) (1000 * lead) fallback []).modVxl fun v =>
      { v with announced := v.announced ++ [(n, time + ns lead, fallback)] }
  else d.strikeAt time fallback

/-- The time from which the period runs for the next strike of the device's own timer: that of the strike before it, or
for a master the moment at which it announced it. -/
def Device.strikeBase (d : Device) : Nat :=
  if d.vxl.role = 1 then
    (match d.vxl.announced.getLast? with | some a => a.2.1 | none => d.tick.prevStrike) - ns d.vxl.lead.toNat
  else d.tick.prevStrike

/-- The tick has had, or announced, its first strike. -/
def Device.struck (d : Device) : Bool := d.tick.life == .on || (d.tick.life == .starting && !d.vxl.announced.isEmpty)

/-- Period and window that time the strike after every announced one (R55). -/
def Device.timing (d : Device) : TickCfg :=
  if d.vxl.announced.isEmpty then d.tick.cfg else d.tick.next.getD d.tick.cfg

/-- The device is parked, deep or waking: a first strike waits for the end of the wake (R414). -/
def Device.asleep (d : Device) : Bool := decide (2 ≤ d.pwr.state.toNat) || d.pwr.wakeTo.isSome

/-- TICK_TIMER_STRIKE (R50, R54): the first strike of INTERNAL falls as soon as the timer says; each later one a period
after the strike before it. -/
def Device.timerStrike (d : Device) : Device :=
  if d.tick.cfg.source ≠ .internal then d
  else if d.struck then
    let due := d.strikeBase + ns d.timing.period
    if d.now < due then d else d.strikeOrAnnounce due false
  else if d.tick.life = .starting ∧ !d.asleep then d.strikeOrAnnounce d.now false
  else d

def execTickTimerStrike (s : State) : Host.Outcome State Fault Refusal := s.lift Device.timerStrike

/-- TICK_IN_EDGE (R52, R54): the filter has accepted an edge. After the close of the window the fallback strike comes
first. -/
def Device.tickInEdge (d : Device) : Device :=
  if !(d.input 0).edge then d
  else
    let taken := d.modInput 0 fun p => { p with edge := false }
    if d.tick.cfg.source ≠ .external then taken
    else if d.struck then
      let c := d.timing
      let base := d.strikeBase
      if d.now < base + ns (c.period - c.window) then taken.modTick fun t => { t with early := satInc t.early }
      else if base + ns (c.period + c.window) < d.now then d
      else taken.strikeOrAnnounce d.now false
    else if d.tick.life = .starting then (if d.asleep then d else taken.strikeOrAnnounce d.now false)
    else taken

def execTickInEdge (s : State) : Host.Outcome State Fault Refusal := s.lift Device.tickInEdge

/-- FALLBACK_STRIKE (R52, R53): the window has closed. DESIGN CHOICE (log 35): a member's fallback strike takes the
master number after the last. -/
def Device.fallback (d : Device) : Device :=
  let c := d.timing
  let due := d.strikeBase + ns (c.period + c.window)
  if d.tick.life ≠ .on ∨ c.source = .internal ∨ d.now < due ∨ (c.source = .swarm ∧ !d.vxl.announced.isEmpty) then d
  else
    let n := match d.vxl.lastMaster with | some w => w + 1 | none => 0
    let d := if d.vxl.role = 2 then d.modVxl fun v => { v with lastMaster := some n, struckNos := n :: v.struckNos } else d
    (d.modTick fun t => { t with missing := satInc t.missing }).strikeOrAnnounce due true

def execFallbackStrike (s : State) : Host.Outcome State Fault Refusal := s.lift Device.fallback

/-- An announced strike is due: the device strikes (R367, R369). -/
def Device.announcedStrike (d : Device) : Device :=
  match d.vxl.announced with
  | [] => d
  | (n, time, fb) :: rest =>
    if d.now < time ∨ (d.tick.life = .starting ∧ d.asleep) then d
    else
      let d := d.modVxl fun v =>
        { v with announced := rest,
                 struckNos := if v.role = 2 then BitVec.ofNat 32 n :: v.struckNos else v.struckNos,
                 swarmTick := if v.role = 2 then BitVec.ofNat 32 n else v.swarmTick,
                 lastMaster := if v.role = 2 then some (BitVec.ofNat 32 n) else v.lastMaster }
      d.strikeAt time (fb && d.vxl.role == 1)

/-- MASTER_STRIKE (R367). -/
def execMasterStrike (s : State) : Host.Outcome State Fault Refusal :=
  s.lift fun d => if d.vxl.role = 1 then d.announcedStrike else d

/-- A member whose source is SWARM takes a STRIKE from its UP port (R366 to R369). -/
def Device.takeStrike (d : Device) (p : Nat) (f : Frame) (tick lead : Word) (fb : Bool) (residence : List Nat) :
    Device :=
  let v := d.vxl
  if v.role ≠ 2 then d
  else if p ≠ v.up.toNat ∨ v.struckNos.contains tick ∨ v.announced.any (fun a => a.1 == tick.toNat) then
    d.modVxl fun v => { v with ignored := satInc v.ignored }
  else if d.tick.cfg.source ≠ .swarm ∨ !d.tick.configured then d
  else
    let ahead := lead.toInt
    let d := if ahead < 0 then (d.modVxl fun v => { v with late := satInc v.late }).raiseHub 0xFF 0x63 lead else d
    let d :=
      if f.hops = 0 then d.countRoute
      else d.sendStrikes { f with hops := f.hops - 1 } tick (1000 * ahead) fb residence
    if d.tick.life = .starting ∨ d.tick.life = .on then
      let d := d.modVxl fun v => { v with announced := v.announced ++ [(tick.toNat, d.now + ns ahead.toNat, fb)] }
      if ahead ≤ 0 then d.announcedStrike else d
    else d

/-- STRIKE (R366 to R369). -/
def Device.strikeFrame (p : Nat) (h : FrameHdr) (tick lead : Word) (fb : Bool) (residence : List Nat)
    (d : Device) : Device :=
  match d.linkTake p h (FrameBody.strike tick lead fb) with
  | (none, d) => d
  | (some d, _) =>
    d.takeStrike p { flit := 0, time := d.now, hops := h.hops, dest := h.dest, src := h.src, lseq := 0, body := .strike tick lead fb } tick lead fb
      residence

def execStrike (p : PortIx) (h : FrameHdr) (tick leadRem : Word) (fallback : Bool) (residence : List Nat) (s : State) :
    Host.Outcome State Fault Refusal :=
  s.lift (Device.strikeFrame p.val h tick leadRem fallback residence)

/-- FALLBACK_STRIKE_SEND (R369): LEAD before the fallback strike that a member will take. Its number follows the last
one struck. -/
def Device.fallbackSend (d : Device) : Device :=
  let v := d.vxl
  let c := d.tick.cfg
  let lead := v.lead.toNat
  if v.role ≠ 2 ∨ c.source ≠ .swarm ∨ d.tick.life ≠ .on ∨ v.fallbackSent ∨ !v.announced.isEmpty ∨
      d.now + ns lead < d.tick.prevStrike + ns (c.period + c.window) then d
  else
    let n := match v.lastMaster with | some w => w + 1 | none => 0
    let (f, d) := d.ownStrike
    (d.sendStrikes f n (1000 * lead) true []).modVxl fun v => { v with fallbackSent := true }

def execFallbackStrikeSend (s : State) : Host.Outcome State Fault Refusal := s.lift Device.fallbackSend

/-! ### The strike at a pilot (R51, R56, R177, R222, R230, R236, R293) -/

/-- The staged values that a region loads at the strike of tick `n`, in the order of their ticks. -/
def stagedFor (l : List Staged) (r n : Nat) : List Staged :=
  let mine := l.filter fun x => !x.later && x.region == r && decide (x.tick ≤ n)
  mine.filter (fun x => x.tick != n) ++ mine.filter (fun x => x.tick == n)

/-- The counters of a unit at its presets, from the section in its active plane. -/
def Device.freshCounters (d : Device) (u : Nat) : Tab Counter :=
  let sec := d.section u
  if sec.isEmpty then [] else d.presets u sec

/-- Watchdog limits that were to take effect at the next strike. -/
def Device.newLimits (d : Device) (r : Nat) : Device :=
  (d.modPilot r fun p => { p with stallLog2 := p.stallNext.getD p.stallLog2, stallNext := none }).modHome (r / 2) fun h =>
    if r % 2 = 0 then { h with waitLog2W := h.waitNextW.getD h.waitLog2W, waitNextW := none }
    else { h with waitLog2E := h.waitNextE.getD h.waitLog2E, waitNextE := none }

/-- PILOT_STRIKE: the strike reaches a pilot, and its region takes the first clk of the ENTRY comb (R51, R84, R230,
R278). A region that is still in the end-of-tick swap takes it afterwards. -/
def Device.pilotStrike (r : Nat) (d : Device) : Device :=
  let p := d.pilot r
  if !p.strikeDue ∨ !p.idleUntilStrike ∨ !d.live r ∨ d.comb.state ≠ .active then d
  else
    let n := d.tick.number
    let vals := stagedFor d.tick.staged r n
    let d := d.modTick fun t => { t with staged := t.staged.filter fun x => !(!x.later && x.region == r && decide (x.tick ≤ n)) }
    let prog := d.programIn r (d.combOf r)
    let d := (d.newLimits r).modPilot r fun p =>
      { p with strikeDue := false, idleUntilStrike := false, drain := false, tick := BitVec.ofNat 32 n, combClk := 0, pc := 0,
               state := if prog.isEmpty then 0 else 1, once := [], staleInTick := false, stall := 0, busy := 0,
               shapeDue := p.shapeDue.filter fun e => !(vals.any fun x => x.reg == e.reg),
               shape := vals.foldl (fun t x => t.put x.reg x.value) p.shape }
    let d := (regionSites r).foldl (fun d u =>
      if (d.section u).isEmpty then d else d.modUnit u fun m => { m with cnt := d.freshCounters u }) d
    let d := { d with sfus := d.sfus.mapAll fun u m =>
                        if siteRegion u = r then { m with slots := m.slots.mapAll fun _ s => s.strike } else m }
    let d := d.releaseHolds r
    let k := match d.tick.running with | some k => k.time | none => d.now
    if !d.usesRegion (d.combOf r) r then d
    else
      let d := if d.tick.firstClk.isSome then d else
        d.modTick fun t =>
          { t with firstClk := some d.now, startDelay := if t.late || t.woken then (d.now - k) / 24 else 0 }
      d.modComb fun c => { c with runStart := some (match c.runStart with | some t => t | none => d.now) }

def execPilotStrike (r : Region) (s : State) : Host.Outcome State Fault Refusal := s.lift (Device.pilotStrike r.val)

end Sys2Proof.Machine
end

