-- ==== Sys2Proof/Machine/Swap.lean ====
section
/-! DEFINITION. Planes and swaps (R40 to R42, R57 to R61, R63, R229, R263, R266, R469): end-of-comb markers, plane
loads, the issue and the completion of a swap, the start of a comb in every unit, and the end of a tick. -/

namespace Sys2Proof.Machine

/-! ### Plane store (R40, R41, R444) -/

def Device.storeSlot (d : Device) (r c : Nat) : StoreSlot := d.comb.store.getD (16 * r + c) .reset

/-- The image rows of a slot that stand before those of site `u`: images lie in ascending order of sites (log 21). -/
def StoreSlot.rowOf (s : StoreSlot) (u : Nat) : Nat :=
  ((s.units.filter fun p => decide (p.1 < u)).map fun p => p.2.length / 64).sum

/-- Rows of the unit-image area of a slot. -/
def slotImageRows : Nat := 23040

/-- The row of the site table that holds the entry of site `u`. -/
def StoreSlot.tableRow (s : StoreSlot) (u : Nat) : Nat :=
  slotImageRows + (s.units.filter fun p => decide (p.1 < u)).length / 8

/-- A row that its code cannot correct, or that holds the poison pattern. -/
def rowBroken (k : Option RowMark) : Bool :=
  match k with
  | some .correctable => false
  | some _ => true
  | none => false

/-- The rows of a plane that a load of site `u` spoils: those whose rows in the store are broken, or every row where the
row of the site table is. -/
def StoreSlot.loadMarks (s : StoreSlot) (u : Nat) : Tab RowMark :=
  let n := (s.units.getD u []).length / 64
  let first := s.rowOf u
  let table := rowBroken (s.unitMarks.find (s.tableRow u))
  ((List.range n).filter fun k => table || rowBroken (s.unitMarks.find (first + k))).map fun k => (k, .uncorrectable)

/-- Rows of an image that a plane holds, from a first one on: those of the switch section in the switch plane, and the
others in the unit plane (R73, log 30). -/
def planeRows (img : List Byte) (sw : Bool) : Nat × Nat :=
  let n := ceilDiv img.length 64
  let k := min n (ceilDiv (swLength img) 64)
  if sw then (0, k) else (k, n - k)

/-- The part of a table of marked rows that lies in the unit plane, or in the switch plane, of an image. -/
def marksIn (img : List Byte) (sw : Bool) (t : Tab RowMark) : Tab RowMark :=
  t.filter fun p => decide (p.1 < (planeRows img false).1) == sw

/-- The plane that a load of comb `c` writes at site `u`: an empty one where the comb does not use the site. -/
def StoreSlot.plane (s : StoreSlot) (u c : Nat) : Plane :=
  match s.units.find u with
  | some img => { comb := some c, image := img, marks := marksIn img false (s.loadMarks u) }
  | none => .reset

/-- Marks of the switch plane that it writes. -/
def StoreSlot.swMarks (s : StoreSlot) (u : Nat) : Tab RowMark :=
  match s.units.find u with
  | some img => marksIn img true (s.loadMarks u)
  | none => []

/-- Sites whose planes or units hold something. -/
def Device.touched (d : Device) (u : Nat) : Bool :=
  (d.switches.find u).isSome ||
  (match siteKind u with
   | .mu => (d.mus.find u).isSome
   | .sfu => (d.sfus.find u).isSome
   | .su => (d.sus.find u).isSome
   | .iou => (d.ious.find u).isSome)

/-- Writes the idle planes of one site from the store. -/
def Device.loadIdle (d : Device) (r c u : Nat) : Device :=
  let p := (d.storeSlot r c).plane u c
  if p = .reset ∧ !d.touched u then d
  else d.modSwitch u fun s => { s with idle := p, swIdle := (d.storeSlot r c).swMarks u, idleReload := false }

/-- PLANE_LOAD_DONE (R41, R445): the load in progress ends; or the planes that the scrubber found bad are reloaded. -/
def Device.planeLoadDone (r : Nat) (d : Device) : Device :=
  if !d.clockRuns r ∨ d.comb.state ≠ .active then d
  else
    match (d.pilot r).loading with
    | none => d
    | some c =>
      if (d.pilot r).loaded then
        (regionSites r).foldl (fun d u => if (d.switch u).idleReload then d.loadIdle r c u else d) d
      else ((regionSites r).foldl (fun d u => d.loadIdle r c u) d).modPilot r fun p => { p with loaded := true }

def execPlaneLoadDone (r : Region) (s : State) : Host.Outcome State Fault Refusal :=
  s.lift (Device.planeLoadDone r.val)

/-! ### End-of-comb markers (R57, R119, R190, R255, R266) -/

/-- KIND of the descriptor that a context of an SU runs, or is to take up next. -/
def Device.kindNow (d : Device) (u : Nat) (c : Ctx) : Nat :=
  match c.state with
  | .between => (Desc.parse (if c.inSram then c.bytes else secDesc (d.section u) c.desc)).kind
  | .fetching => (Desc.parse ((d.su u).sram.bytes (64 * c.desc) 64)).kind
  | _ => c.d.kind

/-- A context holds back the marker of its SU: one other than LAND until its chain has ended, a LAND only with a packet
that it has written in part (R255). -/
def Device.holdsSu (d : Device) (u : Nat) (c : Ctx) : Bool :=
  !c.copyPipe.isEmpty ||
  (match c.state with
   | .disabled => false
   | .ended => false
   | .running => c.d.kind != 4 || c.land.any fun l => !l.2.2.2
   | _ => d.kindNow u c != 4)

/-- A context holds back the marker of its IOU: a descriptor with CARRY that has been taken up does not. -/
def Ctx.holdsIou (c : Ctx) : Bool :=
  match c.state with
  | .disabled => false
  | .ended => false
  | .waiting => !c.d.carry
  | .running => !c.d.carry
  | _ => true

/-- The unit has nothing more to do in this comb. -/
def Device.combDone (d : Device) (u : Nat) : Bool :=
  (d.unit u).out.isEmpty &&
  (match siteKind u with
   | .mu => (d.mu u).state == 2
   | .sfu => (d.sfu u).state == 2
   | .su => !((d.su u).ctx.any fun p => d.holdsSu u p.2)
   | .iou => !((d.iou u).ctx.any fun p => decide (p.1 < 8) && p.2.holdsIou))

/-- EOC_MARKER (R57): the marker of a unit reaches the pilot. -/
def Device.eocMarker (u : Nat) (d : Device) : Device :=
  let r := siteRegion u
  let d := d.drainOut u
  if !d.unitRuns u ∨ (d.unit u).eocSent ∨ !d.combDone u then d
  else
    let d := d.modUnit u fun m => { m with eocSent := true }
    let d :=
      match siteKind u with
      | .su => d.modSu u fun s => { s with state := 2 }
      | .iou => d.modIou u fun s => { s with state := 2 }
      | _ => d
    (d.modPilot r fun p => { p with markers := u :: p.markers }).trySwap r

def execEocMarker (u : SiteIx) (s : State) : Host.Outcome State Fault Refusal := s.lift (Device.eocMarker u.val)

/-! ### The issue of a swap (R57, R60, R63) -/

/-- The regions that take part in a swap between two combs: those that either uses (R57, R229). -/
def Device.parties (d : Device) (old new : Nat) : List Nat :=
  (List.range 8).filter fun q => d.usesRegion old q || d.usesRegion new q

/-- Region `q` shows its drain flag for swap `no`, or has completed that swap. -/
def Device.drained (d : Device) (no q : Nat) : Bool :=
  let p := d.pilot q
  decide (no < p.swapNo) || (p.swapNo == no && p.drain && p.state == 4)

/-- Region `r` may issue its swap to `c`: every drain flag that R57 names is set, and the load of `c` has finished. -/
def Device.mayIssue (d : Device) (r c : Nat) : Bool :=
  let p := d.pilot r
  let ps := d.parties p.comb.toNat c
  p.loading == some c && p.loaded && !((regionSites r).any fun u => (d.switch u).idleReload) &&
  (!ps.contains r || ps.all (d.drained p.swapNo))

/-- Tokens of the system lane, from index `next` on, that have not reached a switch (ROUTE) or a unit (any other). -/
def Device.laneLeft (d : Device) (r next : Nat) (route : Bool) : Nat :=
  (((d.pilot r).tokens.drop next).filter fun t => (tokType t == 5) == route).length

/-- What the switch of a site still holds: items of its buffers, words of its delay lines, and ROUTE tokens at its L
output or on their way on the system lane. -/
def Device.switchLeft (d : Device) (u : Nat) : Nat :=
  let s := d.switch u
  (s.bufs.map fun p => p.2.items.length).sum + (s.lines.map fun p => p.2.length).sum + s.routeAt.length +
    (if s.active.comb.isSome then d.laneLeft (siteRegion u) s.laneNext true else 0)

/-- What the queues of a unit still hold, with the tokens on their way to it on the system lane. -/
def Device.unitLeft (d : Device) (u : Nat) : Nat :=
  let m := d.unit u
  (m.inq.map fun p => p.2.length).sum +
    (if !(d.section u).isEmpty && d.usable u then d.laneLeft (siteRegion u) m.laneNext false else 0)

/-- Every item in the queues of a site, and every token on its way there, is discarded as stale (R57, R60). -/
def Device.flushSite (d : Device) (u : Nat) : Device :=
  let n := d.switchLeft u
  let k := d.unitLeft u
  if n = 0 ∧ k = 0 then d
  else
    let d := (List.range n).foldl (fun d _ => d.staleSwitch u) d
    let d := (List.range k).foldl (fun d _ => d.staleUnit u) d
    let seen := (d.pilot (siteRegion u)).tokens.length
    (d.modSwitch u fun s =>
      { s with bufs := (s.bufs.map fun p => (p.1, { p.2 with items := [], taken := [] })).filter fun p => p.2 != .reset,
               lines := [], routeAt := [], laneNext := seen }).modUnit u fun m => { m with inq := [], laneNext := seen }

/-- Discards what the queues of a region hold. -/
def Device.flushRegion (d : Device) (r : Nat) : Device := (regionSites r).foldl (fun d u => d.flushSite u) d

/-- The last region of a comb issues its swap: a run beyond BUDGET is late (R63). -/
def Device.checkLate (d : Device) (r : Nat) (w : SwapRun) : Device :=
  let budget := match d.combs[w.old]? with | some c => c.budget | none => 0
  match w.began with
  | some t => if t + ns budget < d.now then (d.raiseFree r 0x02).modTick fun t => { t with flags := t.flags ||| 0x40 } else d
  | none => d

/-- Region `q` has issued swap `no`. -/
def Device.hasIssued (d : Device) (no q : Nat) : Bool :=
  let p := d.pilot q
  decide (no < p.swapNo) || (p.swapNo == no && p.issued)

/-- Swap `t.no` of the device, at the first issue of a region that takes part: the run of its old comb began with the swap
before it, or at the strike (R63). -/
def Device.newSwap (d : Device) (old : Nat) (t : SwapTarget) : SwapRun :=
  { old := old, target := t, last := d.now, first := none, reload := none,
    began := match d.comb.swaps.find (t.no - 1) with
      | some w => if w.target.eot then d.comb.runStart else w.first
      | none => d.comb.runStart }

/-- What the device keeps of a swap that region `r` issues; the last region to issue it judges the run. -/
def Device.noteIssue (d : Device) (r : Nat) (t : SwapTarget) : Device :=
  let ps := d.parties (d.combOf r) t.target
  if !ps.contains r then d
  else
    let w := d.comb.swaps.getD t.no (d.newSwap (d.combOf r) t)
    let d := d.modComb fun c => { c with swaps := c.swaps.put t.no w }
    if ps.all (d.hasIssued t.no) then d.checkLate r w else d

/-- SWAP_ISSUE (R57, R229). The queues of the region discard what they hold 48 clk later. -/
def Device.swapIssue (r : Nat) (d : Device) : Device :=
  let p := d.pilot r
  match p.target with
  | none => d
  | some t =>
    if !d.live r ∨ d.comb.state ≠ .active ∨ p.issued ∨ !d.mayIssue r t.target then d
    else
      let d := d.modPilot r fun p => { p with issued := true, state := 4, swaps := satInc p.swaps, switchClk := 64 }
      d.noteIssue r t

def execSwapIssue (r : Region) (s : State) : Host.Outcome State Fault Refusal := s.lift (Device.swapIssue r.val)

/-! ### The start of a comb in a unit (R42, R178, R182, R252, R263, R266) -/

/-- What every unit has as a comb starts. -/
def Device.freshUnit (d : Device) (u : Nat) (m : Unit) : Unit :=
  { m with inq := [], out := [], run := [], cnt := d.freshCounters u, doneLevels := [], branch := none, laneNext := 0,
           eocSent := false, closed := [], raises := [], loops := [] }

def Engine.fresh (e : Engine) : Engine := { Engine.reset with upset := e.upset }

/-- STATE of a unit as a comb starts: 1 running, 0 with an empty plane. -/
def Device.startState (d : Device) (u : Nat) : BitVec 3 := if !(d.section u).isEmpty && d.usable u then 1 else 0

def Device.startMu (d : Device) (u : Nat) : Device :=
  d.modMu u fun m =>
    { m with unit := d.freshUnit u m.unit, engine := m.engine.fresh, state := d.startState u, pc := 0, vecInstr := 0,
             vecWait := false, acc := [], residue := [], ranges := [], jobs := [], drains := [] }

/-- `slots` says what becomes of each scale slot. -/
def Device.startSfu (d : Device) (u : Nat) (slots : Nat → Slot → Slot) : Device :=
  d.modSfu u fun m =>
    { m with unit := d.freshUnit u m.unit, engine := m.engine.fresh, state := d.startState u,
             slots := (List.range 16).foldl (fun t s =>
               let x := slots s (t.getD s .reset)
               if x = .reset ∧ (Tab.find t s).isNone then t else t.put s x) m.slots }

/-- The contexts of a section: each enabled one is about to take up its FIRST descriptor. -/
def freshCtxs (sec : List Byte) : Tab Ctx :=
  ((List.range 8).filter (ctxEnabled sec)).map fun c => (c, { Ctx.reset with state := .between, desc := ctxFirst sec c })

def Device.startSu (d : Device) (u : Nat) : Device :=
  d.modSu u fun s => { s with unit := d.freshUnit u s.unit, state := d.startState u, ctx := freshCtxs (d.section u) }

/-- The windows of a section: one whose record names the same site, BASE and ROWS as a present one keeps its state. -/
def freshWindows (sec : List Byte) (old : Tab Window) : Tab Window :=
  (List.range (secNwin sec)).map fun w =>
    let r := secWindow sec w
    let same (x : Window) : Bool :=
      winX x.record == winX r && winY x.record == winY r && winBase x.record == winBase r && winRows x.record == winRows r
    (w, match (old.map (·.2)).find? same with
        | some x => { x with record := r }
        | none => { Window.reset with record := r })

/-- Descriptors that run on across the swap, with the keys from 8 on under which they do. -/
def carriedKeys (t : Tab Ctx) : List (Nat × Nat) :=
  (t.filter fun p => decide (p.1 < 8) && (p.2.state == .waiting || p.2.state == .running) && p.2.d.carry).map fun p =>
    (p.1, (((List.range (t.length + 1)).map fun j => p.1 + 8 * (j + 1)).find? fun k => (t.find k).isNone).getD (p.1 + 8))

def renameKey (m : List (Nat × Nat)) (c : Nat) : Nat :=
  match m.find? fun p => p.1 == c with
  | some p => p.2
  | none => c

def PackQueue.rename (m : List (Nat × Nat)) (q : PackQueue) : PackQueue :=
  let f (w : PackWord) : PackWord := { w with ctx := renameKey m w.ctx }
  { q with closed := q.closed.map f, openWord := q.openWord.map f }

/-- What belongs to a carried descriptor follows it. -/
def Device.renameCtxs (d : Device) (u : Nat) (m : List (Nat × Nat)) : Device :=
  if m.isEmpty then d
  else
    let site (s : Option (Nat × Nat)) : Option (Nat × Nat) :=
      match s with
      | some (v, c) => some (if v = u then (v, renameKey m c) else (v, c))
      | none => none
    let d := d.modIou u fun s =>
      { s with outQ := s.outQ.mapAll fun _ q => q.rename m, inQ := s.inQ.mapAll fun _ q => q.rename m }
    let rd (x : HbmRead) : HbmRead := if x.site = u then { x with ctx := renameKey m x.ctx } else x
    let wr (x : HbmWrite) : HbmWrite := if x.site = u then { x with ctx := renameKey m x.ctx } else x
    let d := { d with hbmStacks := d.hbmStacks.mapAll fun _ k => { k with reads := k.reads.map rd, writes := k.writes.map wr } }
    let out (o : Outstanding) : Outstanding := { o with site := site o.site }
    let run (t : Transfer) : Transfer := { t with site := site t.site }
    d.modVxl fun v => { v with out := v.out.map out, running := v.running.map run }

def Device.startIou (d : Device) (u : Nat) : Device :=
  let sec := d.section u
  let m := carriedKeys (d.iou u).ctx
  let d := d.renameCtxs u m
  d.modIou u fun s =>
    let carried := (s.ctx.filter fun p => decide (8 ≤ p.1) || m.any fun q => q.1 == p.1).map fun p => (renameKey m p.1, p.2)
    { s with unit := d.freshUnit u s.unit, state := d.startState u,
             ctx := carried.foldl (fun t p => t.put p.1 p.2) (freshCtxs sec), windows := freshWindows sec s.windows,
             withheld := [] }

/-- The unit of a site starts the comb in its active plane. -/
def Device.startUnit (d : Device) (u : Nat) (slots : Nat → Slot → Slot) : Device :=
  match siteKind u with
  | .mu => d.startMu u
  | .sfu => d.startSfu u slots
  | .su => d.startSu u
  | .iou => d.startIou u

/-! ### The switch clk (R42, R59, R84) -/

/-- A site switches planes, and its unit starts; what its hold buffers hold stays there (R84). -/
def Device.switchSite (d : Device) (u : Nat) : Device :=
  if !d.touched u then d
  else
    let d := d.modSwitch u fun s =>
      { s with active := s.idle, idle := s.active, swActive := s.swIdle, swIdle := s.swActive, bank := false,
               laneNext := 0, lastSent := [], bankNext := none, lines := [], routeAt := [], closed := [],
               bufs := (s.bufs.map fun p => (p.1, { Buf.reset with items := p.2.items, hold := p.2.hold })).filter
                 fun p => p.2 != .reset }
    d.startUnit u fun s x => x.swapped (slotRecord (d.section u) s)

/-- A plane whose CRC does not match: a row of it is broken. -/
def planeBad (k : Tab RowMark) : Bool := k.any fun p => rowBroken (some p.2)

/-- Sites of the region whose idle planes do not match their CRC. -/
def Device.badIdle (d : Device) (r : Nat) : List Nat :=
  (regionSites r).filter fun u => planeBad (d.switch u).idle.marks || planeBad (d.switch u).swIdle

/-- Units reload their images, and the switch clk of the region moves to 192 (R59). -/
def Device.reloadPlanes (d : Device) (r c : Nat) (bad : List Nat) : Device :=
  let d := bad.foldl (fun d u => d.loadIdle r c u) d
  let d := (d.modPilot r fun p => { p with reloaded := true, switchClk := 128 }).modTick fun t =>
    { t with flags := t.flags ||| 4 }
  let u := bad.headD 0
  let no := (d.pilot r).swapNo
  match d.comb.swaps.find no with
  | none => d
  | some w =>
    let first := match w.reload with | some (q, _, _, _) => decide (r < q) | none => true
    d.modComb fun k =>
      { k with swaps := k.swaps.put no { w with reload := if first then some (r, siteX u, siteY u, 128) else w.reload } }

/-- A pilot as its region starts comb `c`, at the strike if `eot`; the drain flag stands until the comb's first clk (R220,
R223, R227, R230, R278). -/
def Pilot.startComb (p : Pilot) (c succ : Nat) (eot program : Bool) : Pilot :=
  { p with comb := BitVec.ofNat 4 c, pc := 0, busy := 0, drain := eot && p.drain, combClk := 0, cnt := [],
           sums := [], taken := [],
           state := if !program then 0 else if eot then 5 else 1, wait := none, waitc := 0, markers := [], target := none,
           ownTarget := false, issued := false, swapNo := p.swapNo + 1, lastTarget := p.target, switchClk := 64,
           reloaded := false, tokens := [], loading := some succ,
           loaded := false, idleUntilStrike := eot, stall := 0, progress := false }

def Device.successor (d : Device) (c : Nat) : Nat := match d.combs[c]? with | some x => x.successor | none => 0

/-- The swap record (R469). -/
def Device.swapRecord (d : Device) (w : SwapRun) : List Byte :=
  let first := w.first.getD w.last
  leBytes 8 d.tick.number ++ leBytes 1 w.old ++ leBytes 1 w.target.target ++
    leBytes 1 (natOfBool w.target.eot + 2 * natOfBool w.reload.isSome) ++
    (match w.reload with
     | some (r, x, y, n) => leBytes 1 r ++ leBytes 1 x ++ leBytes 1 y ++ leBytes 2 n
     | none => leBytes 1 0xFF ++ leBytes 2 0xFFFF ++ leBytes 2 0) ++
    leBytes 8 (first / 24) ++ leBytes 4 ((w.last - first) / 24) ++ leBytes 4 0

/-- The end of a tick in comb `last`, at hub time `stop` (R54, R62, R65). -/
def Device.endTick (d : Device) (last stop : Nat) : Device :=
  if d.tick.running.isNone then d
  else
    let status := if d.tick.overrun then 0x4401 else if d.tick.flags.getLsbD 5 then 0x4402 else 0
    let d := d.postReport status last stop
    if d.tick.life = .stopping then d.tickOff else d

/-- The last region that takes part has completed the swap: the target is the active comb. -/
def Device.swapDone (d : Device) (w : SwapRun) : Device :=
  let d := d.logEnter hubSource 3 (d.swapRecord w)
  let d := d.modComb fun c =>
    { c with active := some w.target.target, swapNo := c.swapNo + 1, swaps := c.swaps.del w.target.no,
             runStart := if w.target.eot then none else w.first }
  let d := (List.range 8).foldl (fun d q => if d.live q then d else d.modPilot q fun p => { p with missed := true }) d
  if w.target.eot then d.endTick w.old w.last else d.markBelow

/-- Swaps that every region taking part has completed are done, in their order. -/
def Device.settleSwaps : Nat → Device → Device
  | 0, d => d
  | n + 1, d =>
    match d.comb.swaps.find d.comb.swapNo with
    | none => d
    | some w =>
      if (d.parties w.old w.target.target).all fun q => decide (w.target.no < (d.pilot q).swapNo) then
        Device.settleSwaps n (d.swapDone w)
      else d

/-- A region that takes part in swap `t` has completed it. -/
def Device.noteDone (d : Device) (r : Nat) (t : SwapTarget) : Device :=
  match d.comb.swaps.find t.no with
  | none => d
  | some w =>
    if !(d.parties w.old t.target).contains r then d
    else
      let d := d.modComb fun c =>
        { c with swaps := c.swaps.put t.no { w with first := some (w.first.getD d.now), last := d.now } }
      Device.settleSwaps d.comb.swaps.length d

/-- Summaries that arrived in the clk of a swap are applied after its clear, but for those of another comb (R60, R220). -/
def Device.applyAfter (d : Device) (r : Nat) : List SummaryMsg → Device
  | [] => d
  | m :: ms => (d.takeSummary r m).applyAfter r ms

/-- A region completes its swap. -/
def Device.completeSwap (d : Device) (r : Nat) (t : SwapTarget) : Device :=
  let d := d.flushRegion r
  let late := (d.pilot r).arrived
  let d := d.modPilot r fun p =>
    { p.startComb t.target (d.successor t.target) t.eot (!(d.programIn r t.target).isEmpty) with arrived := [] }
  let d := { d.applyAfter r late with clkPilots := d.clkPilots.del r }
  let d := (regionSites r).foldl (fun d u => d.switchSite u) d
  let d := if t.eot then d else d.releaseHolds r
  d.noteDone r t

/-- SWAP_COMPLETE (R57, R59). -/
def Device.swapComplete (r : Nat) (d : Device) : Device :=
  let p := d.pilot r
  match p.target with
  | none => d
  | some t =>
    if !d.live r ∨ d.comb.state ≠ .active ∨ !p.issued ∨ p.switchClk ≠ 0 then d
    else
      match d.badIdle r with
      | [] => d.completeSwap r t
      | u :: us =>
        if p.reloaded then (d.raiseFree r 0x2A).stopRegion r (siteX u) (siteY u) 4
        else d.reloadPlanes r t.target (u :: us)

def execSwapComplete (r : Region) (s : State) : Host.Outcome State Fault Refusal :=
  s.lift (Device.swapComplete r.val)

/-! ### REGION_START (R229, R418) -/

/-- The planes of a region take up comb `c` outside a swap of the whole device. -/
def Device.loadActive (d : Device) (r c : Nat) (slots : Nat → Nat → Slot → Slot) : Device :=
  (regionSites r).foldl (fun d u =>
    let p := (d.storeSlot r c).plane u c
    if p = .reset ∧ !d.touched u then d
    else
      (d.modSwitch u fun s =>
        { s with active := p, swActive := (d.storeSlot r c).swMarks u, bank := false, laneNext := 0, lastSent := [], bufs := [], bankNext := none,
                 lines := [], routeAt := [], closed := [] }).startUnit u
        (slots u)) d

/-- A region that was parked or stopped while swaps completed issues one swap to the comb that is active, before its first
clk (R229). -/
def Device.catchUp (d : Device) (r : Nat) : Device :=
  let p := d.pilot r
  match d.comb.state, d.comb.active with
  | .active, some c =>
    if !p.missed ∨ !d.live r then d
    else
      let no := d.comb.swapNo
      let d := d.modPilot r fun p =>
        { p.startComb c (d.successor c) d.tick.running.isNone (!(d.programIn r c).isEmpty) with
          swaps := satInc p.swaps, swapNo := no, missed := false,
          strikeDue := p.strikeDue && d.tick.running.isNone, ringIn := p.ringIn.filter fun t => decide (no ≤ t.no) }
      { d with clkPilots := d.clkPilots.del r }.loadActive r c fun u s x => x.swapped (slotRecord (unitSection ((d.storeSlot r c).plane u c).image) s)
  | _, _ => d

/-- REGION_START (R229, R418): a stopped region whose start has been commanded runs again. -/
def Device.regionStart (r : Nat) (d : Device) : Device :=
  match (d.pwrRegion r).startCmd with
  | none => d
  | some id => ((d.startRegionClock r).complete id Status.ok).catchUp r

def execRegionStart (r : Region) (s : State) : Host.Outcome State Fault Refusal := s.lift (Device.regionStart r.val)

end Sys2Proof.Machine
end

