-- ==== Sys2Proof/Machine/Check.lean ====
section
/-! DEFINITION. What firmware proves of one unit image at load: the format of its switch section and unit section
(check 1 of R45; R74 to R77, R113 to R123, R135, R137, R145, R151, R168, R174, R181, R186, R191 to R196, R247, R251,
R256, R259, R264, R265, R315, R351) and its claims (check 3; R77, R144, R256, R257, R355). -/

namespace Sys2Proof.Machine

/-- A bit below `width` is set that lies in no field of `fs`, each a pair of its highest and lowest bit. -/
def strayBits (width w : Nat) (fs : List (Nat × Nat)) : Bool :=
  (List.range width).any fun k => w.testBit k && !(fs.any fun f => decide (f.2 ≤ k) && decide (k ≤ f.1))

/-! ### Switch sections (R74 to R77) -/

/-- The bits of an entry that a layout names, and the width of the entry. -/
def entryFields : Net → Nat × List (Nat × Nat)
  | .vector => (64, [(63, 6)])
  | .scalar => (32, [(31, 17)])
  | .control => (16, [(15, 4)])

/-- The entry words of one network. -/
def entryWords (img : List Byte) : Net → List Nat
  | .vector => (List.range (swNv img)).map fun k => fieldAt img (16 + 8 * k) 8
  | .scalar => (List.range (swNs img)).map fun k => fieldAt img (16 + 8 * swNv img + 4 * k) 4
  | .control => (List.range (swNc img)).map fun k => fieldAt img (16 + 8 * swNv img + 4 * swNs img + 2 * k) 2

/-- An entry that is not idle and that R77 refuses by itself, with slot period `p`. -/
def Route.refused (e : Route) (net : Net) (p : Nat) : Bool :=
  match net with
  | .vector =>
    e.mode == 3 || decide (5 < e.out) || decide (5 < e.src) || decide (p ≤ e.slot) ||
      (if e.mode = 1 then e.adds != 0 || e.fmt != 0 else e.adds.testBit e.src || e.adds.testBit e.out)
  | .scalar => e.mode != 1 || decide (4 < e.out) || decide (4 < e.src) || decide (p ≤ e.slot)
  | .control => decide (4 < e.out) || decide (4 < e.src) || e.slot == 3 || e.srcVc == 3

def Route.sameOutput (e f : Route) : Bool := e.bank == f.bank && e.out == f.out && e.slot == f.slot

/-- Two entries of a list name the same bank, output and slot or lane. -/
def outputsClash : List Route → Bool
  | [] => false
  | e :: es => es.any e.sameOutput || outputsClash es

def routesRefused (img : List Byte) (net : Net) : Bool :=
  let es := (routesOf img net).filter (·.mode != 0)
  (entryWords img net).any (fun w => strayBits (entryFields net).1 w (entryFields net).2) ||
    es.any (fun e => e.refused net (swPeriod img)) || outputsClash es

/-- Check 1 of a switch section; `body` is the unit image without its CRC. -/
def switchRefused (body : List Byte) : Bool :=
  let need := 16 + 8 * swNv body + 4 * swNs body + 2 * swNc body
  let len := swLength body
  decide (body.length < 16) || swPeriod body == 0 || decide (8 < swPeriod body) || fieldAt body 1 1 != 0 ||
  fieldAt body 10 6 != 0 || decide (96 < swNv body) || decide (80 < swNs body) || decide (30 < swNc body) ||
  len % 4 != 0 || decide (len < need) || decide (body.length < len) || !allZero ((body.take len).drop need) ||
  routesRefused body .vector || routesRefused body .scalar || routesRefused body .control

/-- A port of site `u` that one network can use: R88 gives tap ports the vector network only. -/
def portLinked (u : Nat) (net : Net) (p : Nat) : Bool :=
  match hop u p with
  | .none => false
  | .tap _ _ => net == .vector
  | _ => true

/-- Check 3 of a switch section (R77): a port without a link, or the L port of a switch-only image. -/
def switchUnlinked (img : List Byte) (u : Nat) : Bool :=
  let only := (unitSection img).isEmpty
  [Net.vector, Net.scalar, Net.control].any fun net =>
    ((routesOf img net).filter (·.mode != 0)).any fun e =>
      (e.out :: e.ports).any fun p => if p = 4 then only else !portLinked u net p

/-! ### Counter records and branch tables (R114, R120, R196) -/

def countersRefused (sec : List Byte) (off : Nat) : Bool :=
  (List.range 8).any fun i =>
    let k := counterRecAt sec off i
    decide (2 < k.bsrc) || decide (63 < k.sreg) || decide (1 < k.action) || fieldAt sec (off + 12 * i + 11) 1 != 0

/-- A branch-table entry lies outside a program of `n` places. -/
def branchesRefused (sec : List Byte) (n : Nat) : Bool :=
  (List.range 16).any fun i =>
    let e := fieldAt sec (0x70 + 2 * i) 2
    e != 0xFFFF && decide (n ≤ e)

/-! ### Vector programs (R181, R191 to R196) -/

/-- What a vector instruction uses: whether each field of word 0 is used, the vector registers, the scalar registers
(first and number), and whether only an SFU has it. -/
structure VUse where
  fields : List Bool
  vregs : List Nat
  sregs : List (Nat × Nat)
  sfuOnly : Bool
  deriving DecidableEq, Repr

/-- Scalar registers that a VRED writes (R200). -/
def vredWrites (code : Nat) : Nat :=
  if code = 5 ∨ code = 6 then 2 else if 8 ≤ code then 2 * (code - 7) else 1

/-- Fields D, A, B, TY and X of word 0 as each opcode uses them; none for a reserved opcode (R192). A field whose value
the opcode fixes at 0, as F32 in VFN, VQNT and VBQ, counts as unused. -/
def VIns.use (v : VIns) : Option VUse :=
  let n := bitsNat v.w1 31 28 + 1
  let mk (f : List Bool) (vr : List Nat) (sr : List (Nat × Nat)) (only : Bool) : Option VUse := some ⟨f, vr, sr, only⟩
  let t := true
  let f := false
  match v.opc with
  | 0x01 => mk [t, t, t, t, f] [v.d, v.a, v.b] [] f
  | 0x02 => mk [t, t, t, t, f] [v.d, v.a, v.b] [] f
  | 0x03 => mk [t, t, t, t, f] [v.d, v.a, v.b] [] f
  | 0x04 => mk [t, t, t, t, f] [v.d, v.a, v.b] [] f
  | 0x05 => mk [t, t, t, t, f] [v.d, v.a, v.b] [] f
  | 0x06 => mk [t, t, t, t, f] [v.d, v.a, v.b] [] f
  | 0x07 => mk [t, t, f, t, f] [v.d, v.a] [] f
  | 0x08 => mk [t, t, f, t, f] [v.d, v.a] [] f
  | 0x09 => mk [t, t, t, t, t] [v.d, v.a, v.b] [] f
  | 0x0A => mk [t, t, t, f, f] [v.d, v.a, v.b] [] f
  | 0x0B => mk [t, t, f, f, f] [v.d, v.a] [] f
  | 0x0C => mk [t, t, f, t, t] [v.d, v.a] [] f
  | 0x0D => mk [t, t, f, f, t] [v.d, v.a] [] f
  | 0x0E => mk [t, t, f, t, t] [v.d, v.a] [] f
  | 0x0F => mk [t, f, f, f, f] [v.d] [] f
  | 0x10 => mk [t, t, f, f, f] [v.d] [(v.a, 1)] f
  | 0x11 => mk [t, t, f, f, t] [v.a] [(v.d, 1)] f
  | 0x12 => mk [t, t, f, f, t] [v.d, v.a] [] t
  | 0x13 =>
    let idxv := v.x.testBit 4
    mk [t, t, idxv, t, t] (if idxv then [v.a, v.b] else [v.a]) [(v.d, vredWrites (v.x % 16))] f
  | 0x14 => mk [t, t, f, t, t] [] [(v.d, 2), (v.a, 2)] t
  | 0x15 => mk [t, t, t, t, t] [] [(v.d, 1), (v.a, 1), (v.b, 1)] f
  | 0x16 => mk [t, t, f, f, t] [v.d, v.a] [] t
  | 0x17 => mk [f, f, t, f, t] [] [] t
  | 0x18 => mk [t, f, f, f, t] [] [(v.d, 1)] t
  | 0x19 => mk [t, t, t, f, t] [v.d, v.a] [(v.b, 1)] t
  | 0x1A => mk [t, t, t, t, f] [v.d, v.a] [(v.b, 1)] t
  | 0x1B => mk [t, t, f, t, t] [] [(v.a, 1)] t
  | 0x20 => mk [t, f, f, t, f] [v.d] [] f
  | 0x21 => mk [f, t, f, t, f] [v.a] [] f
  | 0x22 => mk [t, f, f, f, f] [] [(v.d, n)] f
  | 0x23 => mk [f, t, f, f, f] [] [(v.a, n)] f
  | 0x24 => mk [t, f, f, t, f] [v.d] [] t
  | 0x25 => mk [f, t, f, t, f] [v.a] [] t
  | 0x26 => mk [t, f, f, f, f] [] [(v.d, n)] t
  | 0x27 => mk [f, t, f, f, f] [] [(v.a, n)] t
  | 0x28 => mk [t, f, f, f, f] [] [(v.d, 1)] f
  | 0x29 => mk [f, f, f, f, f] [] [] f
  | 0x30 => mk [f, v.x == 1, t, f, t] [] (if v.x = 2 then [(v.b, 1)] else []) f
  | 0x31 => mk [f, t, f, f, f] [] [(v.a, 1)] f
  | 0x3E => mk [f, f, f, f, f] [] [] f
  | 0x3F => mk [f, f, f, f, f] [] [] f
  | _ => none

/-- Formats, SIGNED and TY of a vector load, store, receive or send (R193 to R195). -/
def formatRefused (v : VIns) : Bool :=
  let f := bitsNat v.w1 31 28
  let int := f == 5 || f == 6
  decide (8 < f) || (v.w1.testBit 27 && !int) || (decide (1 ≤ f) && decide (f ≤ 4) && v.ty != 0) || (int && v.ty == 0)

/-- Sub-operations, modes, word 1, and the slots that an instruction names; `n` is the program's length in 4-byte
units. -/
def VIns.subRefused (v : VIns) (mu : Bool) (sec : List Byte) (n : Nat) : Bool :=
  let slotAbsent (s : Nat) : Bool := decide (15 < s) || (slotRec sec s).isNone
  match v.opc with
  | 0x09 => decide (3 < v.x)
  | 0x0C => decide (2 < v.x)
  | 0x0D => decide (31 < v.x)
  | 0x0E => decide (31 < v.x)
  | 0x12 => decide (10 < v.x)
  | 0x13 =>
    let code := v.x % 16
    code == 7 || (v.x.testBit 4 && decide (code < 5)) || (mu && decide (4 < code))
  | 0x14 => decide (1 < v.x)
  | 0x15 => decide (4 < v.x)
  | 0x16 => slotAbsent v.x
  | 0x17 =>
    v.x.testBit 5 || slotAbsent (v.x % 16) || (decide (31 < v.b) && v.b != 63) ||
      (match slotRec sec (v.x % 16) with | some r => !r.leader && v.b != 63 | none => true)
  | 0x18 => slotAbsent v.x
  | 0x19 => decide (1 < v.x)
  | 0x1A => v.ty == 2
  | 0x1B => decide (31 < v.d) || decide (4 < v.x)
  | 0x20 => formatRefused v
  | 0x21 => formatRefused v
  | 0x22 => v.w1.testBit 27
  | 0x23 => v.w1.testBit 27
  | 0x24 => formatRefused v || strayBits 32 v.w1 [(31, 24)]
  | 0x25 => formatRefused v || strayBits 32 v.w1 [(31, 23)]
  | 0x26 =>
    strayBits 32 v.w1 [(31, 28), (26, 24)] ||
      (List.range 16).any fun s => match slotRec sec s with | some r => r.vc == bitsNat v.w1 26 24 | none => false
  | 0x27 => strayBits 32 v.w1 [(31, 28), (26, 23)]
  | 0x29 => strayBits 32 v.w1 [(31, 6)] || decide (n ≤ bitsNat v.w1 17 6)
  | 0x30 => decide (2 < v.x) || (v.x == 1 && decide (7 < v.a))
  | _ => false

/-- An instruction that R181 or R196 refuses by itself. -/
def VIns.refused (v : VIns) (mu : Bool) (sec : List Byte) (n : Nat) : Bool :=
  match v.use with
  | none => true
  | some k =>
    (mu && k.sfuOnly) || v.ty == 3 ||
    (k.fields.zip [v.d, v.a, v.b, v.ty, v.x]).any (fun p => !p.1 && p.2 != 0) ||
    (!mu && k.vregs.any fun r => decide (31 < r)) || k.sregs.any (fun p => decide (16 < p.1 + p.2)) ||
    v.subRefused mu sec n

/-- Checks a program from offset `pc` on; the last instruction is VEND and ends the program. -/
def vectorRefused (mu : Bool) (sec prog : List Byte) : Nat → Nat → Bool
  | 0, _ => true
  | fuel + 1, pc =>
    let n := prog.length / 4
    let v := vinsAt prog pc
    let nxt := pc + if twoWords v.opc then 2 else 1
    v.refused mu sec n || decide (n < nxt) ||
      (if nxt = n then v.opc != 0x3F else vectorRefused mu sec prog fuel nxt)

def vprogRefused (mu : Bool) (sec prog : List Byte) : Bool := vectorRefused mu sec prog (prog.length / 4 + 1) 0

/-! ### MU sections (R113, R116 to R123, R135, R137, R145, R151, R168) -/

def operandRefused (w fmt : Nat) (isA vex : Bool) : Bool :=
  let x := OpDesc.parse w
  let float := decide (3 ≤ fmt)
  let int4 := if isA then fmt == 2 else fmt == 1 || fmt == 2
  decide (1 < x.src) || x.zpMode == 3 || (x.zpMode == 2 && (isA || vex)) || (float && (x.signed || x.zpMode != 0)) ||
  (x.zpMode != 1 && x.zpValue != 0) || (int4 && decide (15 < x.zpValue)) || x.pitch == 0 || w % 128 != 0

def mmaRefused (w0 w1 w2 w3 : Nat) : Bool :=
  let t := Tile.ofMma w0 w1 w2 w3
  decide (9 < t.fmt) || t.accMode == 3 || decide (5 < t.group) || (t.group != 0 && decide (3 ≤ t.fmt)) || t.m == 0 ||
  t.n == 0 || t.k == 0 || t.bsrcM == 3 || t.bsrcN == 3 || t.bsrcK == 3 || decide (61 < t.breg) || w0 % 8 != 0 ||
  w3 % 1024 != 0 || operandRefused w1 t.fmt true false || operandRefused w2 t.fmt false false

def vmmaRefused (w0 w1 w2 w3 : Nat) : Bool :=
  let fmt := bitsNat w0 57 54
  !(fmt == 0 || (decide (3 ≤ fmt) && decide (fmt ≤ 8))) || bitsNat w0 53 52 == 3 || bitsNat w0 45 0 != 0 || w3 != 0 ||
  operandRefused w1 fmt true true || operandRefused w2 fmt false true

def drainRefused (ncfg w0 w1 w2 w3 : Nat) : Bool :=
  let x := DrainOp.parse w0 w1 w2
  decide (ncfg ≤ x.ocfg) || x.m == 0 || x.n == 0 || x.bsrcM == 3 || x.bsrcN == 3 || decide (62 < x.breg) ||
  w0 % 64 != 0 || decide (1 < x.dest) || (x.dest == 0 && x.pitch == 0) || w1 % 128 != 0 || bitsNat w2 51 0 != 0 ||
  w3 != 0

/-- Tile-program instruction `i` uses a reserved opcode or value, or points outside its program or table (R120). -/
def tileRefused (sec : List Byte) (i : Nat) : Bool :=
  let w0 := muWord sec i 0
  let w1 := muWord sec i 1
  let w2 := muWord sec i 2
  let w3 := muWord sec i 3
  let rest := w1 != 0 || w2 != 0 || w3 != 0
  match muOpc sec i with
  | 1 => mmaRefused w0 w1 w2 w3
  | 2 => vmmaRefused w0 w1 w2 w3
  | 3 => drainRefused (muNcfg sec) w0 w1 w2 w3
  | 4 => bitsNat w0 57 0 != 0 || rest
  | 5 => bitsNat w0 31 0 != 0 || rest || decide (muNinstr sec ≤ bitsNat w0 43 32)
  | 6 => strayBits 58 w0 [(57, 57), (47, 32)] || rest || decide (muVecLen sec ≤ 4 * bitsNat w0 47 32)
  | 7 => bitsNat w0 57 0 != 0 || rest
  | 8 => bitsNat w0 57 0 != 0 || rest
  | _ => true

def outcfgRefused (bs : List Byte) : Bool :=
  let c := OutCfg.parse bs
  let fmt := fieldAt bs 0 1
  decide (6 < fmt) || (fieldAt bs 1 1).testBit 7 || decide (3 < fieldAt bs 2 1) ||
  (decide (fmt ≤ 4) && (c.signed || c.zero != 0)) || ((fmt == 0 || fmt == 5 || fmt == 6) && c.inf)

def muRefused (sec : List Byte) : Bool :=
  let n := muNinstr sec
  n == 0 || decide (56 < n) || decide (8 < muNcfg sec) || fieldAt sec 7 1 != 0 || muVecLen sec % 4 != 0 ||
  fieldAt sec 12 4 != 0 || decide (sec.length < 0x90 + 16 * muNcfg sec + 32 * n + muVecLen sec) ||
  countersRefused sec 0x10 || branchesRefused sec n ||
  (List.range (muNcfg sec)).any (fun k => outcfgRefused (muOutcfg sec k)) ||
  (List.range n).any (tileRefused sec) || muOpc sec (n - 1) != 7 ||
  (muVecLen sec != 0 && vprogRefused true sec (muVector sec))

/-! ### MU claims (R144) -/

/-- The largest value that an indexing counter can hold, where the load knows its bound; every extent grows with it. -/
def counterTop (k : CounterRec) (shapeMax : Nat → Option Nat) : Option Nat :=
  let bound := if k.bsrc = 0 then some k.bound else if k.bsrc = 2 then shapeMax k.sreg else none
  bound.map fun b => max k.preset (if k.action = 0 then b - 1 else b)

/-- An extent of `last` rows at counter value `v`, indexed by counter `cnt` if `en`, passes row 4,095. -/
def extentOver (top : Nat → Option Nat) (en : Bool) (cnt : Nat) (last : Nat → Nat) : Bool :=
  if en then (match top cnt with | some v => decide (4095 < last v) | none => false) else decide (4095 < last 0)

/-- A shape-register bound whose shape maximum lies above the tile dimension. -/
def boundOver (shapeMax : Nat → Option Nat) (bsrc reg dim : Nat) : Bool :=
  bsrc == 1 && (match shapeMax reg with | some m => decide (dim < m) | none => false)

/-- The accumulator rule for a range of `n` words. -/
def accOver (top : Nat → Option Nat) (base n : Nat) (en : Bool) (cnt stride : Nat) : Bool :=
  decide (15360 < n) ||
  (if en then (match top cnt with | some v => decide (15360 < base + v * stride * 32 + n) | none => false)
   else decide (15360 < base + n))

def tileOver (top shapeMax : Nat → Option Nat) (t : Tile) : Bool :=
  let (ra, ca) := t.a.shape t.m t.k
  let (rb, cb) := t.b.shape t.k t.n
  let ba := (fmtA t.fmt).bits
  let bb := (fmtB t.fmt).bits
  accOver top t.accBase (t.m * t.n) t.accEn t.accCnt t.accStride ||
  decide (t.a.pitch < spanRows ba ca) || decide (t.b.pitch < spanRows bb cb) ||
  extentOver top t.a.idxEn t.a.cnt (fun v => lastRow (t.a.base + v * t.a.stride) t.a.pitch ba ra ca) ||
  extentOver top t.b.idxEn t.b.cnt (fun v => lastRow (t.b.base + v * t.b.stride) t.b.pitch bb rb cb) ||
  (t.tableNeeded && extentOver top t.b.idxEn t.b.cnt fun v =>
    t.b.base + v * t.b.stride + t.tblBase + ceilDiv t.k t.groupLen * t.recordRows - 1) ||
  boundOver shapeMax t.bsrcM t.breg t.m || boundOver shapeMax t.bsrcN (t.breg + 1) t.n ||
  boundOver shapeMax t.bsrcK (t.breg + 2) t.k

def drainOver (top shapeMax : Nat → Option Nat) (x : DrainOp) (c : OutCfg) : Bool :=
  let bits := outBits c.fmt
  accOver top x.accBase (x.m * x.n) x.accEn x.accCnt x.accStride ||
  (x.dest == 0 &&
    (decide (x.pitch < spanRows bits x.n) ||
      extentOver top x.idxEn x.cnt fun v => lastRow (x.base + v * x.stride) x.pitch bits x.m x.n)) ||
  (c.scaleEn && decide (4095 < vectorLast c.scaleRow (if c.perRow then x.m else x.n))) ||
  (c.biasEn && decide (4095 < vectorLast c.biasRow x.n)) ||
  boundOver shapeMax x.bsrcM x.breg x.m || boundOver shapeMax x.bsrcN (x.breg + 1) x.n

/-- Check 3 of an MU section, with the shape maxima of its region. -/
def muOver (sec : List Byte) (shapeMax : Nat → Option Nat) : Bool :=
  let top (i : Nat) : Option Nat := counterTop (counterRecAt sec 0x10 i) shapeMax
  (List.range (muNinstr sec)).any fun i =>
    match muOpc sec i with
    | 1 => tileOver top shapeMax (tileAt sec i)
    | 2 => bitsNat (muWord sec i 0) 49 46 == 15 || tileOver top shapeMax (tileAt sec i)
    | 3 =>
      let x := drainAt sec i
      drainOver top shapeMax x (.parse (muOutcfg sec x.ocfg))
    | _ => false

/-! ### SFU sections (R174, R186, R196) -/

/-- A slot record that R174 refuses, whether its slot is in use or not. -/
def slotRefused (bs : List Byte) : Bool :=
  let flags := fieldAt bs 3 1
  let margin := fieldAt bs 8 4
  let init := fieldAt bs 12 4
  decide (1 < fieldAt bs 0 1) || decide (3 < fieldAt bs 1 1) || bitsNat flags 7 2 != 0 || fieldAt bs 18 14 != 0 ||
  decide (16 < fieldAt bs 2 1) || (margin != 0 && !(decide (0x3F800000 ≤ margin) && decide (margin ≤ 0x40800000))) ||
  !(decide (0x00800000 ≤ init) && decide (init ≤ 0x7F7FFFFF)) || decide (63 < fieldAt bs 16 1) ||
  (!flags.testBit 1 && fieldAt bs 16 1 != 0) || decide (7 < fieldAt bs 17 1)

def sfuRefused (sec : List Byte) : Bool :=
  let len := fieldAt sec 4 4
  let prog := sfuProgram sec
  len % 4 != 0 || decide (len < 4) || fieldAt sec 10 6 != 0 ||
  decide (sec.length < 0x90 + 32 * sfuSlotsBelow sec 16 + len) || countersRefused sec 0x10 ||
  branchesRefused sec (len / 4) ||
  (List.range 16).any (fun s => (sfuMask sec).testBit s && slotRefused (slotBytes sec s)) || vprogRefused false sec prog

/-! ### SU and IOU sections (R247, R251, R256, R259, R264, R265, R315, R351) -/

/-- Two enabled contexts of one direction whose first descriptors use one virtual channel. -/
def channelsClash : List (Nat × Nat) → Bool
  | [] => false
  | p :: ps => ps.contains p || channelsClash ps

/-- Direction and channel of the first descriptor of each enabled context; a COPY has none. -/
def firstChannels (sec : List Byte) : List (Nat × Nat) :=
  ((List.range 8).filter (ctxEnabled sec)).filterMap fun c =>
    let x := Desc.parse (secDesc sec (ctxFirst sec c))
    if x.kind = 3 then none else some (if x.kind = 1 then 0 else 1, x.vc)

/-- A window record that is not as R259 lays it out; its site is an SU of the die. -/
def windowRefused (die : Nat) (w : List Byte) : Bool :=
  let x := fieldAt w 0 1
  let y := fieldAt w 1 1
  decide (35 < x) || decide (39 < y) || siteKind (siteOf die x y) != .su || fieldAt w 2 2 != 0 || fieldAt w 6 2 == 0 ||
  decide (65536 < fieldAt w 4 2 + fieldAt w 6 2) || decide (7 < fieldAt w 8 1) || fieldAt w 9 1 != 0 ||
  (fieldAt w 10 2).testBit 14 || fieldAt w 12 4 != 0

/-- What the duty of an IOU asks of a descriptor beyond R256. -/
def dutyRefused (duty : Duty) (bs : List Byte) : Bool :=
  let x := Desc.parse bs
  match duty with
  | .hbm _ => x.start % x.elemBytes != 0 || x.shape.any fun p => p.2 % x.elemBytes != 0
  | .port _ =>
    let space := bitsNat x.start 45 44
    space == 3 || (space == 1 && (x.kind == 1 || x.esize != 0))
  | .hub => false
  | .bridge _ => true

/-- Check 1 of an SU or IOU section at site `u`. -/
def streamRefused (u : Nat) (sec : List Byte) : Bool :=
  let nd := secNdesc sec
  let duty := siteDuty u
  let nw := if duty = none then 0 else secNwin sec
  let serves := match duty with | some (.port _) => true | _ => false
  decide (16 < nd) || decide (8 < nw) || (nw != 0 && !serves) || fieldAt sec 6 2 != 0 || fieldAt sec 0x18 8 != 0 ||
  (duty.isNone && fieldAt sec 5 1 != 0) || decide (sec.length < 0x80 + 64 * nd + 16 * nw) || countersRefused sec 0x20 ||
  (List.range 8).any (fun c =>
    bitsNat (fieldAt sec (8 + 2 * c) 1) 7 1 != 0 || (ctxEnabled sec c && decide (nd ≤ ctxFirst sec c))) ||
  (List.range nd).any (fun k =>
    let bs := secDesc sec k
    descBad bs duty.isNone ||
      (match (Desc.parse bs).next with | some (inSram, i) => !inSram && decide (nd ≤ i) | none => false) ||
      (match duty with | some x => dutyRefused x bs | none => false)) ||
  channelsClash (firstChannels sec) || (List.range nw).any fun w => windowRefused (siteDie u) (secWindow sec w)

/-- Check 3 of a descriptor (R256, R257). -/
def descOver (u : Nat) (bs : List Byte) : Bool :=
  let x := Desc.parse bs
  let (lo, hi) := x.extent x.outer
  let (a, b) := spaceOf u
  decide (lo < a) || decide (b < hi) || (x.kind == 3 && decide (b < x.dest + 64 * x.elements x.outer - 1))

/-! ### A unit image (R38, R73, R501) -/

/-- Check 1 of the unit image of site `u`: the section is read as the type of unit that stands there. -/
def imageRefused (u : Nat) (img : List Byte) : Bool :=
  let body := img.take (img.length - 4)
  let off := swLength body
  let len := if body.length < off + 4 then 0 else fieldAt body off 4
  let sec := unitSection img
  !crcEndOk img || switchRefused body || decide (body.length < off + len) ||
  !allZero (body.drop (off + len)) || (len != 0 && decide (len < 4)) ||
  (len != 0 &&
    (match siteKind u with
     | .mu => muRefused sec
     | .sfu => sfuRefused sec
     | .su => streamRefused u sec
     | .iou => streamRefused u sec))

/-- The site and rows of a landing window. -/
def windowsOf (u : Nat) (img : List Byte) : List (Nat × Nat × Nat) :=
  match siteDuty u with
  | some (.port _) =>
    let sec := unitSection img
    if sec.isEmpty then []
    else (List.range (secNwin sec)).map fun w =>
      let r := secWindow sec w
      (siteOf (siteDie u) (fieldAt r 0 1) (fieldAt r 1 1), fieldAt r 4 2, fieldAt r 6 2)
  | _ => []

/-- Two windows overlap. -/
def windowsClash : List (Nat × Nat × Nat) → Bool
  | [] => false
  | w :: ws => ws.any (fun v => v.1 == w.1 && rangesMeet v.2.1 v.2.2 w.2.1 w.2.2) || windowsClash ws

/-- Check 3 of the unit image of site `u` (R31, R73, R77, R144, R256, R355); `windows` are those of every Vexlink IOU of
its die. -/
def imageOver (usable : Bool) (u : Nat) (img : List Byte) (shapeMax : Nat → Option Nat)
    (windows : List (Nat × Nat × Nat)) : Bool :=
  let sec := unitSection img
  switchUnlinked img u ||
  (!sec.isEmpty &&
    (!usable ||
      (match siteKind u with
       | .mu => muOver sec shapeMax
       | .sfu => false
       | _ =>
         (List.range (secNdesc sec)).any (fun k => descOver u (secDesc sec k)) ||
           (!(windowsOf u img).isEmpty && windowsClash windows))))

end Sys2Proof.Machine
end

