-- ==== Sys2Proof/Machine/Program.lean ====
section
/-! DEFINITION. What firmware proves of a control program at load: its format (R214, R216, R217), the edges it adds to
the graph of combs (R49), and its longest path (R48, R90, R218, R219). A program is the list of its instructions. -/

namespace Sys2Proof.Machine

def pOpc (w : Nat) : Nat := bitsNat w 63 58

/-- TARGET of a BR or LOOPP. -/
def pTarget (w : Nat) : Nat := bitsNat w 41 33

/-- The bits below the opcode that an opcode names; none for a reserved opcode (R216). -/
def pFields (opc : Nat) : Option (List (Nat × Nat)) :=
  match opc with
  | 1 => some [(57, 45), (31, 0)]
  | 2 => some [(57, 43)]
  | 3 => some [(57, 43)]
  | 4 => some [(57, 53), (15, 0)]
  | 5 => some [(57, 33), (31, 0)]
  | 6 => some [(57, 49), (41, 33), (31, 0)]
  | 7 => some [(15, 0)]
  | 8 => some [(57, 52), (14, 0)]
  | 9 => some [(57, 45)]
  | 10 => some [(57, 48)]
  | 11 => some [(31, 0)]
  | 12 => some [(57, 53)]
  | 13 => some []
  | _ => none

/-- Instruction `i` of a program of `n` in region `r`, in a set of `combs` combs that starts with `entry`, breaks R216 or
R217 by itself. -/
def pRefused (combs entry r n i w : Nat) : Bool :=
  let imm := bitsNat w 31 0
  let t := pTarget w
  match pFields (pOpc w) with
  | none => true
  | some fs =>
    strayBits 58 w fs ||
    (match pOpc w with
     | 1 => bitsNat w 51 50 == 3 || (bitsNat w 51 50 != 0 && imm != 0)
     | 4 => bitsNat w 15 0 == 0
     | 5 =>
       bitsNat w 57 55 == 7 || decide (n ≤ t) || (bitsNat w 57 55 == 0 && (bitsNat w 54 50 != 0 || imm != 0)) ||
         (decide (i < t) == (bitsNat w 49 42 != 0))
     | 6 => decide (n ≤ t) || decide (i < t) || (w.testBit 55 == (imm != 0))
     | 7 => bitsNat w 15 12 == 0 || decide (5 < bitsNat w 15 12)
     | 9 => bitsNat w 52 45 == 0 || (bitsNat w 52 45).testBit r
     | 10 => decide (bitsNat w 52 48 < bitsNat w 57 53)
     | 11 => imm == 0
     | 12 => decide (combs ≤ bitsNat w 57 54) || (w.testBit 53 && bitsNat w 57 54 != entry)
     | _ => false)

/-- Where the program can go on after instruction `i`. -/
def pNext (i w : Nat) : List Nat :=
  match pOpc w with
  | 5 => if bitsNat w 57 55 = 0 ∧ i < pTarget w then [pTarget w] else [pTarget w, i + 1]
  | 6 => [pTarget w, i + 1]
  | 12 => []
  | _ => [i + 1]

/-- Follows every path from the instructions `todo`; one that leaves the program is an error (R217). -/
def pathRunsOff (prog : List Nat) : Nat → List Nat → List Nat → Bool
  | _, _, [] => false
  | 0, _, _ :: _ => false
  | fuel + 1, seen, i :: todo =>
    if seen.contains i then pathRunsOff prog fuel seen todo
    else
      match prog[i]? with
      | none => true
      | some w => pathRunsOff prog fuel (i :: seen) (pNext i w ++ todo)

/-- Check 1 of a program. -/
def programRefused (combs entry r : Nat) (prog : List Nat) : Bool :=
  prog.zipIdx.any (fun p => pRefused combs entry r prog.length p.2 p.1) || pathRunsOff prog (3 * prog.length + 3) [] [0]

/-- A LOOPP on a shape register without a shape maximum (R217, check 6). -/
def loopUnbounded (shapeMax : Nat → Option Nat) (prog : List Nat) : Bool :=
  prog.any fun w => pOpc w == 6 && w.testBit 55 && (shapeMax (bitsNat w 54 49)).isNone

/-- Targets and EOT of the swaps of a program (R49). -/
def programSwaps (prog : List Nat) : List (Nat × Bool) :=
  (prog.filter fun w => pOpc w == 12).map fun w => (bitsNat w 57 54, w.testBit 53)

/-! ### The longest path (R219), in units of 1/24 ns -/

/-- What a path is measured with: the die of the pilot, its clk period, and the shape maxima of its region. -/
structure PathEnv where
  die : Nat
  period : Nat
  shapeMax : Nat → Option Nat

/-- Time of an instruction that does not branch. A wait counts as its signal bound; the swap ends the path. -/
def PathEnv.cost (e : PathEnv) (w : Nat) : Nat :=
  match pOpc w with
  | 2 => if bitsNat w 57 56 = e.die then ns 40 else ns 80
  | 4 => max (24 * e.period) (ns 40)
  | 11 => bitsNat w 31 0 * e.period
  | _ => e.period

/-- A BR or LOOPP that goes back. -/
def goesBack (i w : Nat) : Bool := (pOpc w == 5 || pOpc w == 6) && decide (pTarget w ≤ i)

/-- Times that a backward branch is taken when a path comes to it: LIMIT, or one less than the loop's bound (log 23). -/
def PathEnv.taken (e : PathEnv) (w : Nat) : Nat :=
  if pOpc w = 5 then bitsNat w 49 42
  else max 1 (if w.testBit 55 then (e.shapeMax (bitsNat w 54 49)).getD 1 else bitsNat w 31 0) - 1

def maxOpt (a b : Option Nat) : Option Nat :=
  match a, b with
  | none, b => b
  | a, none => a
  | some a, some b => some (max a b)

def addOpt (a b : Option Nat) : Option Nat :=
  match a, b with
  | some a, some b => some (a + b)
  | _, _ => none

/-- The longest of a set of paths, apart for those without a wait and those with one: a wait is what takes a path across a
region boundary (R90, log 23). -/
structure PathTime where
  plain : Option Nat
  waited : Option Nat
  deriving DecidableEq, Repr

/-- No path. -/
def PathTime.none : PathTime := { plain := .none, waited := .none }

/-- The path that takes no time. -/
def PathTime.zero : PathTime := { plain := some 0, waited := .none }

/-- One instruction. -/
def PathTime.of (time : Nat) (wait : Bool) : PathTime :=
  if wait then { plain := .none, waited := some time } else { plain := some time, waited := .none }

def PathTime.best (x : PathTime) : Option Nat := maxOpt x.plain x.waited

/-- Either path. -/
def PathTime.or (x y : PathTime) : PathTime := { plain := maxOpt x.plain y.plain, waited := maxOpt x.waited y.waited }

/-- One path after the other. -/
def PathTime.seq (x y : PathTime) : PathTime :=
  { plain := addOpt x.plain y.plain, waited := maxOpt (addOpt x.waited y.best) (addOpt x.plain y.waited) }

/-- `n` paths one after the other. -/
def PathTime.times (n : Nat) (x : PathTime) : PathTime :=
  if n = 0 then zero
  else { plain := x.plain.map (n * ·), waited := if x.waited.isSome then x.best.map (n * ·) else .none }

/-- Where a walk goes on from index `i` to `j`: a time found already, or one beyond the end of its range. -/
def pathAt (hi : Nat) (after : Nat → PathTime) (i : Nat) (later : List PathTime) (j : Nat) : PathTime :=
  if j ≤ i then .none else if hi ≤ j then after j else later.getD (j - i - 1) .none

/-- The longest path on from instruction `i`, which does not go back, with `at_` the longest from any later one. A SWAP
ends the path if `swapEnds`. -/
def PathEnv.forward (e : PathEnv) (swapEnds : Bool) (i w : Nat) (at_ : Nat → PathTime) : PathTime :=
  if pOpc w = 12 then (if swapEnds then .zero else .none)
  else if pOpc w = 5 then
    ((PathTime.of (2 * e.period) false).seq (at_ (pTarget w))).or
      (if bitsNat w 57 55 = 0 then .none else (PathTime.of e.period false).seq (at_ (i + 1)))
  else (PathTime.of (e.cost w) (pOpc w == 2 || pOpc w == 4)).seq (at_ (i + 1))

/-- The longest path over instructions `lo` to `hi` - 1, whose later continuations are `after`. `bodies` gives the body of
each backward branch. A LOOPP is taken to its bound at every pass (R223); a backward BR falls through here, since its
count is one for the whole run (R227). -/
def PathEnv.walk (e : PathEnv) (prog : List Nat) (bodies : Tab PathTime) (swapEnds : Bool) (lo hi : Nat)
    (after : Nat → PathTime) : PathTime :=
  let step (k : Nat) (later : List PathTime) : List PathTime :=
    let i := lo + k
    let w := prog.getD i 0
    let at_ := pathAt hi after i later
    (if goesBack i w then
      let on := (PathTime.of e.period false).seq (at_ (i + 1))
      if pOpc w = 6 then (PathTime.times (e.taken w) ((PathTime.of (2 * e.period) false).seq (bodies.getD i .none))).seq on
      else on
    else e.forward swapEnds i w at_) :: later
  ((List.range (hi - lo)).foldr step []).headD (after lo)

/-- The body of each backward branch: from its target to the branch, not counting it. Loops that end earlier come first. -/
def PathEnv.bodies (e : PathEnv) (prog : List Nat) : Tab PathTime :=
  (List.range prog.length).foldl (fun t i =>
    let w := prog.getD i 0
    if goesBack i w then t.put i (e.walk prog t false (pTarget w) i fun j => if j = i then .zero else .none) else t) []

/-- The longest path from the first instruction to a SWAP (R219): at a backward branch, LOOPP or BR, the path takes it as
often as it may and then falls through, or leaves the body by a forward branch in its last pass. -/
def PathEnv.programTime (e : PathEnv) (prog : List Nat) : PathTime :=
  let bodies := e.bodies prog
  let step (i : Nat) (later : List PathTime) : List PathTime :=
    let w := prog.getD i 0
    let at_ := pathAt prog.length (fun _ => .none) i later
    (if goesBack i w then
      let n := e.taken w
      let back := PathTime.of (2 * e.period) false
      let body := bodies.getD i .none
      let on := (PathTime.of e.period false).seq (at_ (i + 1))
      let out := e.walk prog bodies true (pTarget w) i fun j => if j = i then .none else at_ j
      (on.or (((back.seq body).times n).seq on)).or
        (if n = 0 then .none else (((back.seq body).times (n - 1)).seq back).seq out)
    else e.forward true i w at_) :: later
  ((List.range prog.length).foldr step []).headD .none

end Sys2Proof.Machine
end

