-- ==== Sys2Proof/Machine/Load.lean ====
section
/-! DEFINITION. The comb set image and the load-time checks (R36 to R39, R45 to R49, R90, R100, R101, R214, R217, R329,
R500): what an image holds, the six checks with their refusal details, COMB_LOAD and COMB_VERIFY. -/

namespace Sys2Proof.Machine

/-! ### The image (R36 to R38, R214) -/

def imgCombs (img : List Byte) : Nat := fieldAt img 8 1
def imgEntry (img : List Byte) : Nat := fieldAt img 9 1
def imgSplit (img : List Byte) : Nat := fieldAt img 10 1
def imgTmin (img : List Byte) : Nat := fieldAt img 12 4
def imgLength (img : List Byte) : Nat := fieldAt img 16 8
def imgShapeOff (img : List Byte) : Nat := fieldAt img 0x18 4
def imgShapeN (img : List Byte) : Nat := fieldAt img 0x1C 2

/-- The descriptor of comb `c`. -/
def imgDesc (img : List Byte) (c : Nat) : List Byte := sliceAt img (0x40 + 0xA0 * c) 0xA0

def descMinfreq (ds : List Byte) (r : Nat) : Nat := bitsNat (fieldAt ds 4 4) (4 * r + 3) (4 * r)
def descBudget (ds : List Byte) : Nat := fieldAt ds 8 4

/-- Bursts of class `k` (0 read, 1 write, 2 remote) for stack `s`. -/
def descBursts (ds : List Byte) (k s : Nat) : Nat := fieldAt ds (0x10 + 0x20 * k + 4 * s) 4

def descRegion (ds : List Byte) (r : Nat) : Nat := fieldAt ds (0x70 + 4 * r) 4

/-- The regions of which the comb has a region image. -/
def descRegions (ds : List Byte) : List Nat := (List.range 8).filter fun r => descRegion ds r != 0

def imgShapes (img : List Byte) : List ShapeMax :=
  (List.range (imgShapeN img)).map fun k =>
    let o := imgShapeOff img + 8 * k
    { mask := BitVec.ofNat 8 (fieldAt img o 1), reg := fieldAt img (o + 1) 1, max := BitVec.ofNat 32 (fieldAt img (o + 4) 4) }

/-- A region image: its bytes. -/
def imgRegion (img : List Byte) (off : Nat) : List Byte := (img.drop off).take (fieldAt img (off + 4) 4)

def regUnits (reg : List Byte) : Nat := fieldAt reg 0 2

/-- Where the control-program block of a region image starts. -/
def regBlockAt (reg : List Byte) : Nat := (8 + 8 * regUnits reg + 63) / 64 * 64

/-- Bytes of the control-program block: head, instructions, CRC. -/
def regBlockLen (reg : List Byte) : Nat := 20 + 8 * fieldAt reg (regBlockAt reg) 2

def regBlock (reg : List Byte) : List Byte := (reg.drop (regBlockAt reg)).take (regBlockLen reg)

def blockProgram (block : List Byte) : List Nat := (List.range (progLength block)).map (progWord block)

/-- A site entry: x, y, length and offset of the unit image. -/
structure SiteEntry where
  x : Nat
  y : Nat
  len : Nat
  off : Nat
  deriving DecidableEq, Repr

def regEntries (reg : List Byte) : List SiteEntry :=
  (List.range (regUnits reg)).map fun k =>
    let o := 8 + 8 * k
    { x := fieldAt reg o 1, y := fieldAt reg (o + 1) 1, len := fieldAt reg (o + 2) 2, off := fieldAt reg (o + 4) 4 }

def SiteEntry.site (e : SiteEntry) (r : Nat) : Nat := siteOf (r / 2) e.x e.y

def SiteEntry.image (e : SiteEntry) (reg : List Byte) : List Byte := (reg.drop e.off).take e.len

/-! ### Refusal details (R46) -/

/-- Comb, region, x and y of a refusal; none where a byte does not apply. -/
structure Detail where
  comb : Option Nat
  region : Option Nat
  site : Option (Nat × Nat)
  deriving DecidableEq, Repr

def Detail.nowhere : Detail := { comb := none, region := none, site := none }
def Detail.atComb (c : Nat) : Detail := { comb := some c, region := none, site := none }
def Detail.atRegion (c r : Nat) : Detail := { comb := some c, region := some r, site := none }
def Detail.atSite (c r x y : Nat) : Detail := { comb := some c, region := some r, site := some (x, y) }

def Detail.bytes (d : Detail) (check : Nat) : List Byte :=
  leBytes 1 check ++ leBytes 1 (d.comb.getD 0xFF) ++ leBytes 1 (d.region.getD 0xFF) ++
    (match d.site with | some (x, y) => leBytes 1 x ++ leBytes 1 y | none => leBytes 2 0xFFFF) ++ leBytes 3 0

/-! ### Check 1: format -/

def headerRefused (img : List Byte) : Bool :=
  let n := imgCombs img
  fieldAt img 0 4 != 0x434F4D42 || fieldAt img 6 2 != 2 || fieldAt img 11 1 != 0 || fieldAt img 0x1E 2 != 0 ||
  !allZero ((img.drop 0x24).take 28) || imgLength img % 64 != 0 || decide (imgLength img < 0x40 + 0xA0 * n) ||
  crc32 (img.take 0x20 ++ leBytes 4 0 ++ img.drop 0x24) != fieldAt img 0x20 4 || n == 0 || decide (16 < n) ||
  decide (n ≤ imgEntry img) || decide (3 < imgSplit img) || decide (imgTmin img < 50000) ||
  decide (1000000000 < imgTmin img) || decide (512 < imgShapeN img) ||
  (imgShapeN img != 0 && decide (img.length < imgShapeOff img + 8 * imgShapeN img)) ||
  (List.range (imgShapeN img)).any fun k =>
    let o := imgShapeOff img + 8 * k
    decide (63 < fieldAt img (o + 1) 1) || fieldAt img (o + 2) 2 != 0

def descRefused (img : List Byte) (c : Nat) : Bool :=
  let ds := imgDesc img c
  let n := imgCombs img
  let s := fieldAt ds 1 1
  fieldAt ds 0 1 != c || decide (n ≤ s) || (s == c && n != 1) || fieldAt ds 2 2 != 0 || fieldAt ds 12 4 != 0 ||
  fieldAt ds 0x90 16 != 0 || (List.range 8).any fun r => decide (4 < descMinfreq ds r)

/-- A site entry that lies outside its region or its region image, or names a site twice. -/
def entryRefused (reg : List Byte) (r : Nat) (before : List SiteEntry) (e : SiteEntry) : Bool :=
  let b := regBlockAt reg
  let n := regBlockLen reg
  e.x / 18 != r % 2 || decide (35 < e.x) || decide (39 < e.y) || before.any (fun f => f.x == e.x && f.y == e.y) ||
  decide (e.len < 64) || decide (2048 < e.len) || e.len % 64 != 0 || decide (e.off < 8 + 8 * regUnits reg) ||
  decide (reg.length < e.off + e.len) || (decide (e.off < b + n) && decide (b < e.off + e.len)) ||
  imageRefused (e.site r) (e.image reg)

/-- The first site entry that check 1 refuses. -/
def entriesRefused (reg : List Byte) (r : Nat) : List SiteEntry → List SiteEntry → Option SiteEntry
  | _, [] => none
  | before, e :: es => if entryRefused reg r before e then some e else entriesRefused reg r (e :: before) es

def blockRefused (img reg : List Byte) (r : Nat) : Bool :=
  let block := regBlock reg
  let n := progLength block
  decide (reg.length < regBlockAt reg + regBlockLen reg) || n == 0 || decide (512 < n) ||
  !allZero ((block.drop 2).take 14) || !crcEndOk block ||
  programRefused (imgCombs img) (imgEntry img) r (blockProgram block)

/-- Check 1 of a region image. -/
def regionRefused (img : List Byte) (c r : Nat) : Option Detail :=
  let off := descRegion (imgDesc img c) r
  let reg := imgRegion img off
  if img.length < off + 8 ∨ 720 < regUnits reg ∨ fieldAt img (off + 2) 2 ≠ 0 ∨ fieldAt img (off + 4) 4 < 8 + 8 * regUnits reg ∨
      img.length < off + fieldAt img (off + 4) 4 ∨ blockRefused img reg r then some (.atRegion c r)
  else (entriesRefused reg r [] (regEntries reg)).map fun e => .atSite c r e.x e.y

/-- Check 1 (R45): the header, the shape maxima, the descriptors, then the region images in order (log 22). -/
def checkFormat (img : List Byte) : Option Detail :=
  if headerRefused img then some .nowhere
  else
    let combs := List.range (imgCombs img)
    match combs.find? (descRefused img) with
    | some c => some (.atComb c)
    | none => combs.findSome? fun c => (descRegions (imgDesc img c)).findSome? fun r => regionRefused img c r

/-! ### Check 3: resources -/

/-- The landing windows of every Vexlink IOU of a die in one comb. -/
def dieWindows (img : List Byte) (c die : Nat) : List (Nat × Nat × Nat) :=
  ((descRegions (imgDesc img c)).filter fun r => r / 2 == die).flatMap fun r =>
    let reg := imgRegion img (descRegion (imgDesc img c) r)
    (regEntries reg).flatMap fun e => windowsOf (e.site r) (e.image reg)

def Device.checkResources (d : Device) (img : List Byte) : Option Detail :=
  (List.range (imgCombs img)).findSome? fun c =>
    let ds := imgDesc img c
    match (List.range 8).find? fun s => decide ((d.stack s).state = 3) && (List.range 3).any fun k => descBursts ds k s != 0 with
    | some s => some (.atRegion c s)
    | none =>
      (descRegions ds).findSome? fun r =>
        let reg := imgRegion img (descRegion ds r)
        if descMinfreq ds r = 0 then some (.atRegion c r)
        else
          ((regEntries reg).find? fun e =>
            imageOver (d.usable (e.site r)) (e.site r) (e.image reg) (shapeMaxOf (imgShapes img) r)
              (dieWindows img c (r / 2))).map fun e => .atSite c r e.x e.y

/-! ### Check 4: frequency (R418, R493) -/

def Device.checkFrequency (d : Device) (img : List Byte) : Option Detail :=
  (List.range (imgCombs img)).findSome? fun c =>
    ((List.range 8).find? fun r =>
      let g := d.pwrRegion r
      decide ((if g.heldOff then 0 else g.ceiling.toNat) < descMinfreq (imgDesc img c) r)).map fun r => .atRegion c r

/-! ### Check 5: bisection (R100, R101) -/

/-- What the entries of a comb drive over a link: the sending site and output, and WORDS. -/
structure LinkLoad where
  site : Nat
  out : Nat
  words : Nat
  deriving DecidableEq, Repr

/-- The vector entries of a comb whose output is not L. -/
def linkLoads (img : List Byte) (c : Nat) : List LinkLoad :=
  let ds := imgDesc img c
  (descRegions ds).flatMap fun r =>
    let reg := imgRegion img (descRegion ds r)
    (regEntries reg).flatMap fun e =>
      let im := e.image reg
      ((routesOf im .vector).zip (entryWords im .vector)).filterMap fun p =>
        if p.1.mode = 0 ∨ p.1.out = 4 then none
        else some { site := e.site r, out := p.1.out, words := bitsNat p.2 63 32 }

/-- Rates in bytes per 10 ns: a link at code `c`, and a bridge channel between codes `a` and `b`. -/
def linkRate (c : Nat) : Nat := 256 * c
def channelRate (a b : Nat) : Nat := min 1000 (min (linkRate a) (linkRate b))

/-- Rate of the link at output `out` of site `u`, with the codes of a comb. -/
def rateOf (code : Nat → Nat) (u out : Nat) : Nat :=
  match hop u out with
  | .seam v _ => linkRate (min (code (siteRegion u)) (code (siteRegion v)))
  | .bridge v _ => channelRate (code (siteRegion u)) (code (siteRegion v))
  | _ => linkRate (code (siteRegion u))

/-- D exceeds what a rate moves in BUDGET. -/
def overRate (words rate budget : Nat) : Bool := decide (rate * budget < 640 * words)

/-- A cut, as the regions it joins in one direction: sending and receiving region and the channels or links between
them. -/
structure Cut where
  seam : Bool
  parts : List (Nat × Nat × Nat)
  deriving DecidableEq, Repr

/-- The seam cuts and the bridge cuts, each in both directions (R81, R85). -/
def cuts : List Cut :=
  ((List.range 4).flatMap fun d =>
    [{ seam := true, parts := [(2 * d, 2 * d + 1, 40)] }, { seam := true, parts := [(2 * d + 1, 2 * d, 40)] }]) ++
  ((List.range 4).flatMap fun d =>
    let e := d ^^^ 1
    let n := d ^^^ 2
    [{ seam := false, parts := [(2 * d + (1 - d % 2), 2 * e + (1 - e % 2), 20)] },
     { seam := false, parts := [(2 * d, 2 * n, 10), (2 * d + 1, 2 * n + 1, 10)] }])

/-- The load crosses the cut. -/
def Cut.crosses (k : Cut) (l : LinkLoad) : Bool :=
  match hop l.site l.out with
  | .seam v _ => k.seam && k.parts.any fun p => p.1 == siteRegion l.site && p.2.1 == siteRegion v
  | .bridge v _ => !k.seam && k.parts.any fun p => p.1 == siteRegion l.site && p.2.1 == siteRegion v
  | _ => false

def Cut.rate (k : Cut) (code : Nat → Nat) : Nat :=
  (k.parts.map fun p => p.2.2 * (if k.seam then linkRate (min (code p.1) (code p.2.1)) else channelRate (code p.1) (code p.2.1))).sum

def wordsOf (ls : List LinkLoad) : Nat := (ls.map (·.words)).sum

/-- The region that sends the largest share of the loads. -/
def largestShare (ls : List LinkLoad) (rs : List Nat) : Nat :=
  let share (r : Nat) : Nat := wordsOf (ls.filter fun l => siteRegion l.site == r)
  rs.foldl (fun best r => if share best < share r then r else best) (rs.headD 0)

def checkBisection (img : List Byte) : Option Detail :=
  (List.range (imgCombs img)).findSome? fun c =>
    let ds := imgDesc img c
    let ls := linkLoads img c
    let code := descMinfreq ds
    let budget := descBudget ds
    match cuts.find? fun k => overRate (wordsOf (ls.filter k.crosses)) (k.rate code) budget with
    | some k => some (.atRegion c (largestShare (ls.filter k.crosses) (k.parts.map (·.1))))
    | none =>
      (ls.find? fun l =>
        overRate (wordsOf (ls.filter fun m => m.site == l.site && m.out == l.out)) (rateOf code l.site l.out) budget).map
        fun l => .atSite c (siteRegion l.site) (siteX l.site) (siteY l.site)

/-! ### Check 6: budget (R48, R49, R90, R217) -/

/-- One clk at a frequency code (R47), in 1/24 ns. -/
def codePeriod (c : Nat) : Nat := 60 / c

/-- Regions of a comb with the programs that its pilots run there. -/
def combPrograms (img : List Byte) (c : Nat) : List (Nat × List Nat) :=
  let ds := imgDesc img c
  (descRegions ds).map fun r => (r, blockProgram (regBlock (imgRegion img (descRegion ds r))))

/-- The first term of W(c), in 1/24 ns, and the region that sets it. A control path runs over no seam and no bridge,
since no link of a pilot but the system lane, which stays in its region, uses the grid (R211, R213); one that waits may
cross a region boundary, and then has the start skew once (R90, log 23). -/
def controlBound (img : List Byte) (c : Nat) : Nat × Nat :=
  let ds := imgDesc img c
  let ps := combPrograms img c
  let skew := if 1 < ps.length then ns 40 + ((ps.map fun p => codePeriod (descMinfreq ds p.1)).foldl max 0) else 0
  let times := ps.map fun p =>
    let e : PathEnv := { die := p.1 / 2, period := codePeriod (descMinfreq ds p.1), shapeMax := shapeMaxOf (imgShapes img) p.1 }
    let t := e.programTime p.2
    ((maxOpt t.plain (t.waited.map (· + skew))).getD 0, p.1)
  times.foldl (fun a t => if a.1 < t.1 then t else a) (times.headD (0, 0))

/-- Slots of a frame of 20 that SPLIT gives a class (R317). -/
def splitSlots (split k : Nat) : Nat :=
  (match split with | 0 => [11, 6, 3] | 1 => [14, 5, 1] | 2 => [9, 9, 2] | _ => [8, 6, 6]).getD k 0

/-- The largest burst term of W(c), in 1/24 ns as numerator and denominator, and its stack. -/
def burstBound (img : List Byte) (c : Nat) : Nat × Nat × Nat :=
  let ds := imgDesc img c
  let terms := (List.range 3).flatMap fun k => (List.range 8).map fun s =>
    (24 * 12800 * descBursts ds k s, 28672 * splitSlots (imgSplit img) k, s)
  terms.foldl (fun a t => if a.1 * t.2.1 < t.1 * a.2.1 then t else a) (0, 1, 0)

/-- BUDGET(c) below W(c): the region that R46 names. -/
def budgetShort (img : List Byte) (c : Nat) : Option Nat :=
  let b := ns (descBudget (imgDesc img c))
  let (t, r) := controlBound img c
  let (num, den, s) := burstBound img c
  if b < t ∨ b * den < num then some (if num < t * den then r else s) else none

/-- The swap edges of a comb. -/
def combEdges (img : List Byte) (c : Nat) : List (Nat × Bool) := (combPrograms img c).flatMap fun p => programSwaps p.2

/-- Combs reached by one more edge that is not an end-of-tick swap. -/
def reachMore (edges : Nat → List (Nat × Bool)) (cs : List Nat) : List Nat :=
  (List.range 16).filter fun t => cs.contains t || cs.any fun c => (edges c).contains (t, false)

/-- Combs from which one more edge leads to the end-of-tick swap. -/
def backward (edges : Nat → List (Nat × Bool)) (cs : List Nat) : List Nat :=
  (List.range 16).filter fun c => cs.contains c || (edges c).any fun e => e.2 || cs.contains e.1

def iter {α : Type} (f : α → α) : Nat → α → α
  | 0, a => a
  | n + 1, a => iter f n (f a)

/-- The swap allowance for a target (R49), in 1/24 ns. -/
def swapAllowance (img : List Byte) (t : Nat) : Nat :=
  let ds := imgDesc img t
  let lens := (descRegions ds).map fun r => (fieldAt img (descRegion ds r + 4) 4, r)
  let top := (lens.map (·.1)).foldl max 0
  let load := ((lens.filter fun p => p.1 == top).map fun p => (p.1 + 63) / 64 * codePeriod (descMinfreq ds p.2)).foldl max 0
  let slow := (((List.range 8).map (descMinfreq ds)).filter (· != 0)).map codePeriod
  ns 40 + 64 * slow.foldl max 0 + load

/-- The largest sum of a path from each comb to the end-of-tick swap, in one more round. -/
def pathSums (img : List Byte) (edges : Nat → List (Nat × Bool)) (t : Tab (Option Nat)) : Tab (Option Nat) :=
  (List.range (imgCombs img)).map fun c =>
    (c, ((edges c).map fun e =>
      if e.2 then some (ns (descBudget (imgDesc img c)) + swapAllowance img e.1)
      else (Tab.getD t e.1 none).map fun v => ns (descBudget (imgDesc img c)) + swapAllowance img e.1 + v).foldl maxOpt none)

/-- The conditions of R49 on the graph of combs. -/
def graphRefused (img : List Byte) : Option Detail :=
  let table := (List.range (imgCombs img)).map fun c => (c, combEdges img c)
  let edges (c : Nat) : List (Nat × Bool) := Tab.getD table c []
  let reach := iter (reachMore edges) 16 [imgEntry img]
  let good := iter (backward edges) 16 []
  match reach.find? fun c => (iter (reachMore edges) 16 (((edges c).filter fun e => !e.2).map (·.1))).contains c with
  | some c => some (.atComb c)
  | none =>
    match reach.find? fun c => !good.contains c with
    | some c => some (.atComb c)
    | none =>
      match Tab.getD (iter (pathSums img edges) 16 []) (imgEntry img) none with
      | some v => if ns (imgTmin img) < v then some .nowhere else none
      | none => none

def checkBudget (img : List Byte) : Option Detail :=
  let combs := List.range (imgCombs img)
  match combs.findSome? fun c =>
      ((combPrograms img c).find? fun p => loopUnbounded (shapeMaxOf (imgShapes img) p.1) p.2).map fun p =>
        Detail.atRegion c p.1 with
  | some x => some x
  | none =>
    match combs.findSome? fun c => (budgetShort img c).map fun r => Detail.atRegion c r with
    | some x => some x
    | none => graphRefused img

/-! ### The checks in order (R45) -/

/-- Status and detail of the first check that refuses the image. -/
def Device.checkImage (d : Device) (img : List Byte) : Option (Nat × List Byte) :=
  match checkFormat img with
  | some x => some (Status.combFormat, x.bytes 1)
  | none =>
    if fieldAt img 4 2 ≠ 2 then some (Status.combTarget, Detail.nowhere.bytes 2)
    else
      match d.checkResources img with
      | some x => some (Status.combResource, x.bytes 3)
      | none =>
        match d.checkFrequency img with
        | some x => some (Status.combFrequency, x.bytes 4)
        | none =>
          match checkBisection img with
          | some x => some (Status.combBisection, x.bytes 5)
          | none => (checkBudget img).map fun x => (Status.combBudget, x.bytes 6)

/-! ### COMB_LOAD and COMB_VERIFY (R44, R430, R460, R500) -/

/-- What the command finds wrong before it reads the image. -/
def Device.loadRange (d : Device) (a n : Nat) : Option Nat :=
  if a % 64 ≠ 0 then some Status.badParam
  else if hbmBytes < a + n ∨ hbmBytes ≤ a then some Status.hbmRange
  else if d.hbmOffline a n then some Status.hbmOffline
  else none

/-- Firmware reads the header and then the first LENGTH bytes; none if a burst is poisoned or the header's LENGTH is
larger than the command's. -/
def Device.readImage (d : Device) (a n : Nat) : Option (List Byte) × Device :=
  if n < 64 then (none, d)
  else
    let (head, d) := d.hbmRead .remote a 64
    let len := imgLength (head.map (·.1))
    if head.any (·.2) ∨ n < len then (none, d)
    else
      let (rest, d) := d.hbmRead .remote (a + 64) (len - 64)
      if rest.any (·.2) then (none, d) else (some ((head ++ rest).map (·.1)), d)

/-- The set that an image describes. -/
def imgSet (img : List Byte) : CombSet :=
  { entry := imgEntry img, split := BitVec.ofNat 2 (imgSplit img), tmin := imgTmin img,
    combs := (List.range (imgCombs img)).map fun c =>
      let ds := imgDesc img c
      { successor := fieldAt ds 1 1, minfreq := BitVec.ofNat 32 (fieldAt ds 4 4), budget := descBudget ds, regions := descRegions ds },
    shapeMax := imgShapes img }

/-- The plane stores and program stores that an image fills (R40, R214). -/
def imgStore (img : List Byte) : Tab StoreSlot :=
  (List.range (imgCombs img)).foldl (fun t c =>
    let ds := imgDesc img c
    (descRegions ds).foldl (fun t r =>
      let reg := imgRegion img (descRegion ds r)
      let units := (regEntries reg).foldl (fun us e => Tab.put us (e.site r) (e.image reg)) []
      t.put (16 * r + c) { StoreSlot.reset with units := units, program := regBlock reg }) t) []

/-- A set that has passed its checks is loaded. -/
def Device.installSet (d : Device) (img : List Byte) : Device :=
  (d.modComb fun c => { c with state := .loaded, set := some (imgSet img), store := imgStore img, active := none }).modSec
    fun s => { s with combHash := sha256 img }

/-- The body of COMB_LOAD and COMB_VERIFY. -/
def Device.loadCmd (d : Device) (id : CmdId) (ps : List Byte) (install : Bool) : Device :=
  let a := fieldAt ps 0 8
  let n := fieldAt ps 8 8
  match d.loadRange a n with
  | some st => d.complete id st
  | none =>
    let (img, d) := d.readImage a n
    match img with
    | none => d.complete id Status.combFormat (Detail.nowhere.bytes 1)
    | some img =>
      match d.checkImage img with
      | some (st, detail) => d.complete id st detail
      | none => (if install then d.installSet img else d).complete id Status.ok

/-- A stack under an image that the command would read takes no access yet. -/
def Device.loadWaits (d : Device) (id : CmdId) : Bool :=
  match d.findCmd id with
  | none => false
  | some c =>
    let a := fieldAt c.params 0 8
    let n := fieldAt c.params 8 8
    (d.loadRange a n).isNone && d.hbmWaits a n

/-- What COMB_LOAD refuses before it reads the image. -/
def Device.loadRefused (d : Device) (ps : List Byte) : Option Nat :=
  if d.hlt.trip then some Status.hltState
  else if d.comb.state = .active ∨ d.comb.state = .halted then some Status.combState
  else d.loadRange (fieldAt ps 0 8) (fieldAt ps 8 8)

/-- COMB_LOAD. -/
def Device.combLoad (id : CmdId) (d : Device) : Device :=
  if !d.hlt.trip ∧ (d.comb.state = .empty ∨ d.comb.state = .loaded) ∧ d.loadWaits id then d
  else d.runCmd 0x0301 id fun ps d =>
    if d.hlt.trip then d.complete id Status.hltState
    else if d.comb.state = .active ∨ d.comb.state = .halted then d.complete id Status.combState
    else d.loadCmd id ps true

def execCombLoad (id : CmdId) (s : State) : Host.Outcome State Fault Refusal := s.lift (Device.combLoad id)

/-- COMB_VERIFY. -/
def Device.combVerify (id : CmdId) (d : Device) : Device :=
  if d.loadWaits id then d else d.runCmd 0x0302 id fun ps d => d.loadCmd id ps false

def execCombVerify (id : CmdId) (s : State) : Host.Outcome State Fault Refusal := s.lift (Device.combVerify id)

end Sys2Proof.Machine
end

