-- ==== Sys2Proof/Machine/Comb.lean ====
section
/-! DEFINITION. COMB_ACTIVATE, COMB_UNLOAD and COMB_STATUS (R43, R44, R105, R146, R178, R210, R236, R260, R276, R277,
R295, R306, R308, R317, R330, R364, R419, R460, R465, R477). -/

namespace Sys2Proof.Machine

/-! ### What activation clears -/

/-- STARVE, BLOCK and the error counters of a unit. -/
def Unit.cleared (m : Unit) : Unit := { m with starve := 0, block := 0, stale := 0, errTokens := 0 }

/-- The LOG_SW_ registers (R477) and what the switch of the previous job still holds. -/
def Switch.cleared (s : Switch) : Switch :=
  { Switch.reset with active := s.active, idle := s.idle, swActive := s.swActive, swIdle := s.swIdle,
                      idleReload := s.idleReload, scrubRows := s.scrubRows }

/-- Every MU_ register but MU_STATUS (R146); the scratchpad stays. -/
def Mu.cleared (m : Mu) : Mu :=
  { m with unit := m.unit.cleared, faultCode := 0, faultReason := 0, faultInstr := 0, faultValue := 0, flags := 0,
           tiles := 0, drainCount := 0, residueErr := 0, poisonTiles := 0, scratchUncorr := 0, scratchCorr := 0 }

/-- Every SFU_ register but SFU_STATUS and the slot scales (R210); the SRAM stays. -/
def Sfu.cleared (m : Sfu) : Sfu :=
  { m with unit := m.unit.cleared, faultReason := 0, faultCode := 0, faultInstr := 0, faultValue := 0, flags := 0,
           wide := 0, miss := 0, poison := 0, sramUncorr := 0, sramCorr := 0, summaries := 0 }

/-- Every SU_ register but SU_STATUS, SU_SCRUB and SU_SCRUB_ERR (R276); the SRAM stays. -/
def Su.cleared (m : Su) : Su :=
  { m with unit := m.unit.cleared, ctx := [], bankRead := none, bankWrite := none, copyRead := none, copyReader := none,
           copyWrite := none, copyWas := none, lostB := false, before := [],
           faultCode := 0, faultReason := 0, faultCtx := 0, faultDesc := 0, faultValue := 0,
           errUncorr := 0, errCorr := 0, poisonReads := 0, conflict := 0, confComb := 0, confBank := 0,
           confWrite := false, confClk := 0, landErr := 0 }

/-- Every IOU_ register but IOU_BRIDGE_RETRY (R277). Descriptors, queues and windows of the previous job end (R260,
R364). -/
def Iou.cleared (m : Iou) : Iou := { Iou.reset with unit := m.unit.cleared, bridgeRetry := m.bridgeRetry }

/-- Every PLT_ register but PLT_STALL_LIMIT (R236); events that have not left the pilot stay on their way (R231). -/
def Pilot.cleared (p : Pilot) : Pilot :=
  { Pilot.reset with stallLog2 := p.stallLog2, stallNext := p.stallNext, events := p.events }

/-- Every WAG_ register but WAG_WAIT_LIMIT, with flags, barriers, counters, endpoints, rings and the engine's queues
(R295, R308). The results kept for other devices stay (R363). -/
def Home.cleared (h : Home) : Home :=
  { Home.reset with waitLog2W := h.waitLog2W, waitLog2E := h.waitLog2E, waitNextW := h.waitNextW,
                    waitNextE := h.waitNextE, kept := h.kept }

/-- A context key that no context has: for writes of the previous job that a controller still holds. -/
def noCtx : Nat := 0xFFFF

/-- The burst counters (R330) and the split (R317); writes that a controller has accepted stay in its queue (R64). -/
def Stack.activated (s : Stack) (split : BitVec 2) : Stack :=
  { s with rd := 0, wr := 0, rem := 0, split := split, reads := [], writes := s.writes.map fun w => { w with ctx := noCtx } }

/-- Transactions of the previous job's descriptors and engines are abandoned (R295, R364). -/
def Vxl.abandon (v : Vxl) : Vxl :=
  { v with out := v.out.filter (fun o => o.site.isNone && (match o.kind with
                    | .placement _ _ => false
                    | .rows _ _ _ => false
                    | _ => true)),
           running := v.running.filter (·.site.isNone), landWaits := [] }

/-- Everything that activation clears. -/
def Device.clearJob (d : Device) (split : BitVec 2) : Device :=
  let d :=
    { d with switches := d.switches.mapAll fun _ s => s.cleared, mus := d.mus.mapAll fun _ m => m.cleared,
             sfus := d.sfus.mapAll fun _ m => m.cleared, sus := d.sus.mapAll fun _ m => m.cleared,
             ious := d.ious.mapAll fun _ m => m.cleared, crossings := [], clkPilots := [] }
  let d := (List.range 8).foldl (fun d r => d.modPilot r Pilot.cleared) d
  let d := (List.range 4).foldl (fun d k => d.modHome k Home.cleared) d
  let d := (List.range 8).foldl (fun d k => d.modStack k (·.activated split)) d
  (d.modVxl Vxl.abandon).modTick fun t => { t with staged := [], held := none, running := none }

/-! ### What activation starts -/

/-- The record of a slot of SFU `u` in the ENTRY comb, or else in the first comb in image order that uses it (R178). -/
def Device.slotInit (d : Device) (entry u s : Nat) : Option SlotRec :=
  (entry :: List.range d.combs.length).findSome? fun c =>
    slotRec (unitSection ((d.storeSlot (siteRegion u) c).plane u c).image) s

/-- A slot as activation leaves it (R178). DESIGN CHOICE (log 22): where the ENTRY comb leaves the slot unused, the comb
whose record gave INIT_SCALE counts as the one that last used it. -/
def Slot.activated (r : Option SlotRec) (x : Slot) : Slot :=
  match r with
  | some r => Slot.reset.fresh r
  | none => { x with hist := 4, history := [], cur := 0, redoUsed := false, closedInTick := false, used := none,
                     stats := .reset, reports := [], closing := none, waitMsg := false, waitClk := 0 }

/-- The SFU sites for which the set holds a unit image. -/
def Device.sfuSites (d : Device) : List Nat :=
  (d.comb.store.flatMap fun p => p.2.units.map (·.1)).filter fun u => siteKind u = .sfu

/-- A region takes up the ENTRY comb: its active planes are loaded, the plane loader starts on the SUCCESSOR, and its
pilot waits for the strike (R41, R43, R51). -/
def Device.startRegion (d : Device) (entry r : Nat) : Device :=
  let d := d.modPilot r fun p =>
    { p.startComb entry (d.successor entry) true (!(d.programIn r entry).isEmpty) with swapNo := 0 }
  d.loadActive r entry fun u s x => x.activated (d.slotInit entry u s)

/-- Set minima and frequencies at activation (R416, R419). The regions that a halt held run again. -/
def Device.activatePower (d : Device) : Device :=
  let d := (List.range 8).foldl (fun d r =>
    d.modPwrRegion r fun g => { g with halted := false, setMin := BitVec.ofNat 4 (d.setMin r) }) d
  let d := (List.range 8).foldl (fun d r => d.placeRegion d.pwr.state.toNat r) d
  d.idleFreqs

/-- The job marker (R465, R466). -/
def Device.jobMarker (d : Device) (s : CombSet) : Device :=
  d.logEnter hubSource 7 (leBytes 8 d.hubNs ++ leBytes 1 s.combs.length ++ leBytes 1 s.entry ++ leBytes 6 0)

/-- Activation of a loaded set. A halt report that is still owed is posted first. -/
def Device.activate (d : Device) (s : CombSet) : Device :=
  let d := d.haltReport.clearJob s.split
  let d := d.modComb fun c =>
    { c with state := .active, active := some s.entry, haltRegion := 0xFF, combAtHalt := 0xFF, runStart := none,
             swapNo := 0, swaps := [], halting := false, haltReported := false }
  let d := d.sfuSites.foldl (fun d u => d.modSfu u id) d
  let d := (List.range 8).foldl (fun d r => d.startRegion s.entry r) d
  d.activatePower.jobMarker s

/-- COMB_ACTIVATE (R43, R44, R430, R447). -/
def Device.combActivate (id : CmdId) (d : Device) : Device :=
  d.runCmd 0x0303 id fun _ d =>
    if d.hlt.trip ∨ d.clockLost then d.complete id Status.hltState
    else if d.comb.state = .active ∧ d.tick.life ≠ .off then d.complete id Status.combState
    else
      match d.comb.state, d.comb.set with
      | .empty, _ => d.complete id Status.combState
      | _, none => d.complete id Status.combState
      | _, some s => (d.activate s).complete id Status.ok

def execCombActivate (id : CmdId) (s : State) : Host.Outcome State Fault Refusal := s.lift (Device.combActivate id)

/-! ### COMB_UNLOAD and COMB_STATUS (R44) -/

/-- The set is gone, and with it the measurement (R460); preset 0 applies again (R317). The homes of a halted job have
stopped by then (R295). -/
def Device.unload (d : Device) : Device :=
  let d := (List.range 4).foldl (fun d k => d.homeStop k) d
  let d := d.modComb fun c => { c with state := .empty, set := none, store := [], active := none }
  let d := (List.range 8).foldl (fun d k => d.modStack k fun s => { s with split := 0 }) d
  let d := d.modSec fun s => { s with combHash := 0 }
  (List.range 8).foldl (fun d r => d.placeRegion d.pwr.state.toNat r) d

/-- COMB_UNLOAD. -/
def Device.combUnload (id : CmdId) (d : Device) : Device :=
  d.runCmd 0x0304 id fun _ d =>
    if d.comb.state = .active ∧ d.tick.life ≠ .off then d.complete id Status.combState
    else if d.comb.state = .empty then d.complete id Status.ok
    else d.unload.complete id Status.ok

def execCombUnload (id : CmdId) (s : State) : Host.Outcome State Fault Refusal := s.lift (Device.combUnload id)

/-- The reply of COMB_STATUS (R400). -/
def Device.combStatusReply (d : Device) : List Byte :=
  leBytes 1 d.comb.state.code ++ leBytes 1 d.activeComb ++ leBytes 1 d.haltingRegion ++ leBytes 1 d.combs.length ++
    leBytes 4 0

/-- COMB_STATUS. -/
def Device.combStatus (id : CmdId) (d : Device) : Device :=
  d.runCmd 0x0305 id fun _ d => d.complete id Status.ok d.combStatusReply

def execCombStatus (id : CmdId) (s : State) : Host.Outcome State Fault Refusal := s.lift (Device.combStatus id)

end Sys2Proof.Machine
end

