-- ==== Sys2Proof/Machine/Clock.lean ====
section
/-! DEFINITION. What passing time does by itself: the effect of a step with no command waiting (log 2). Hub time moves
on by 1/4.8 of a ns; each region whose clock has an edge then begins its next clk (R10, R72, R103, R105, R293). -/

namespace Sys2Proof.Machine

/-! ### Counts of waiting (R72, R105) -/

/-- The clock of a region has an edge now. -/
def Device.edge (d : Device) (r : Nat) : Bool :=
  d.clockRuns r && decide (d.now % clkUnits (d.pwrRegion r).freq.toNat = 0)

/-- The buffers that an output holds in this clk: those with a head for its entry, where it cannot take the head up: it
cannot send, or the entry's delay line is full (R72, R102). -/
def Device.heldBy (d : Device) (u : Nat) (net : Net) (out lane : Nat) : List BufKey :=
  let sw := d.switch u
  match d.routeNow u net out lane with
  | none => []
  | some e =>
    let waiting := (e.keys net).filter fun k => (sw.headFor e k).isSome
    let slot := match net with | .control => lane | _ => e.slot
    let sent := sw.lastSent.getD (sendKey net out lane) 0 == (d.pilot (siteRegion u)).combClk + 1
    let free := if e.delay = 0 then sent || d.hasRoom u net out slot else decide ((sw.line e).length < lineCap)
    if (e.delay == 0 && sent) || (waiting.length == (e.keys net).length && free) then [] else waiting

/-- Every output of a switch, with the lanes of a control output. -/
def outputs : List (Net × Nat × Nat) :=
  (List.range 6).flatMap fun out =>
    (.vector, out, 0) :: (.scalar, out, 0) :: (List.range 4).map fun lane => (.control, out, lane)

/-- A buffer counts one HOLD. -/
def Switch.countHold (s : Switch) (k : BufKey) : Switch :=
  match k.net with
  | .vector => { s with holds := s.holds.upd (16 * k.port + k.vc) 0 satInc }
  | .scalar => { s with holds := s.holds.upd (16 * k.port + 8 + k.vc) 0 satInc }
  | .control => { s with holdsCtl := s.holdsCtl.upd (4 * k.port + k.vc) 0 satInc }

/-- HOLD of one switch for the clk that ends. -/
def Device.holdSwitch (d : Device) (u : Nat) : Device :=
  let sw := d.switch u
  if sw.active.comb.isNone || sw.bufs.isEmpty || d.comb.state ≠ .active then d
  else
    let ks := (outputs.flatMap fun o => d.heldBy u o.1 o.2.1 o.2.2).eraseDups
    if ks.isEmpty then d else d.modSwitch u fun s => ks.foldl Switch.countHold s

/-- A stream word that a job still needs has not come. -/
def Mu.wordMissing (m : Mu) : Bool :=
  m.jobs.any fun j => !j.ready && [j.a, j.b].any fun o =>
    !o.fill.isEmpty && (m.unit.queue ⟨.vector, 4, (OpDesc.parse o.desc.toNat).vc⟩).isEmpty

/-- A receive whose next word has not come. -/
def recvMissing (e : Engine) (m : Unit) : Bool :=
  match e.recv with
  | some j => j.left != 0 && (m.queue ⟨j.net, 4, j.vc⟩).isEmpty
  | none => false

/-- An instruction, or a stream, of the unit waits for an input, or loses an access (R105, R187, R206, R242). -/
def Device.starves (d : Device) (u : Nat) : Bool :=
  match siteKind u with
  | .mu => (d.mu u).wordMissing || recvMissing (d.mu u).engine (d.mu u).unit || (d.mu u).lost
  | .sfu => recvMissing (d.sfu u).engine (d.sfu u).unit || (d.sfu u).closing
  | .su =>
    let ctxs := List.range 8
    (ctxs.any fun c => let k := d.ctx u c; k.runs 2 && decide (k.moved < k.total) && !d.canWrite u c) ||
      decide (1 < (ctxs.filter (d.canRead u)).length) || decide (1 < (ctxs.filter (d.canWrite u)).length) || d.pathBWaits u
  | .iou => (d.iou u).ctx.any fun p =>
      p.2.runs 2 && decide (p.2.moved < p.2.total) &&
        ((d.iou u).unit.nextIn (if p.2.d.esize = 0 then .vector else .scalar) p.2.d.vc).isNone

/-- A word or a read of the unit waits for a credit. -/
def Device.blocks (d : Device) (u : Nat) : Bool :=
  !(d.unit u).out.isEmpty ||
  (siteKind u == .mu && (d.mu u).drains.head?.any fun j => j.toNet && j.word.isSome) ||
  (siteKind u == .iou && !(d.pilot (siteRegion u)).drain && (List.range 8).any fun v =>
    match ((d.iou u).inqueue v).closed with
    | w :: _ => !d.gridRoom u v || (w.tag && !d.credit u .scalar v)
    | [] => false) ||
  (siteKind u == .su && (List.range 8).any fun c =>
    let k := d.ctx u c
    k.runs 1 && decide (k.moved < k.total) && !d.canRead u c)

/-- STARVE and BLOCK of a unit that runs, for the clk that ends. -/
def Device.countUnit (d : Device) (u : Nat) : Device :=
  if !d.unitRuns u then d
  else
    let s := d.starves u
    let b := d.blocks u
    if !s && !b then d
    else d.modUnit u fun m =>
      { m with starve := if s then satInc m.starve else m.starve, block := if b then satInc m.block else m.block }

/-! ### Waits (R293) -/

def Ctx.wait (c : Ctx) : Ctx := match c.state with | .waiting => { c with waitClk := c.waitClk + 1 } | _ => c

def Slot.wait (s : Slot) : Slot := if s.closing.isSome || s.waitMsg then { s with waitClk := s.waitClk + 1 } else s

/-- Every wait of a region has lasted one clk more. -/
def Device.passWaits (d : Device) (r : Nat) : Device :=
  let d := d.modPilot r fun p =>
    { p with wait := match p.wait with | some w => some { w with clk := w.clk + 1 } | none => none }
  { d with
    sus := d.sus.mapAll fun u m => if siteRegion u = r then { m with ctx := m.ctx.mapAll fun _ c => c.wait } else m,
    ious := d.ious.mapAll fun u m => if siteRegion u = r then { m with ctx := m.ctx.mapAll fun _ c => c.wait } else m,
    sfus := d.sfus.mapAll fun u m => if siteRegion u = r then { m with slots := m.slots.mapAll fun _ s => s.wait } else m }

/-- The longest wait of a region now, in WAG_WAIT_MAX. -/
def Device.longestWait (d : Device) (r : Nat) : Device :=
  let ws := (match (d.pilot r).wait with | some w => [w.timed] | none => []) ++
    ((d.sfus.map (·.1) ++ d.sus.map (·.1) ++ d.ious.map (·.1)).filter fun u => siteRegion u == r).flatMap d.siteWaits
  let most := BitVec.ofNat 32 (min (ws.foldl (fun n w => max n w.clk) 0) 0xFFFFFFFF)
  if most = 0 then d
  else d.modHome (r / 2) fun h =>
    if r % 2 = 0 then { h with waitMaxW := if h.waitMaxW ≤ most then most else h.waitMaxW }
    else { h with waitMaxE := if h.waitMaxE ≤ most then most else h.waitMaxE }

/-! ### A clk -/

/-- The counts of a pilot and its region: PLT_COMB_CLK, WAITC, the issue stage, the shape bus, the switch clk of a swap,
and the stall count (R59, R95, R103,
R218, R230). -/
def Pilot.clk (p : Pilot) (active held : Bool) : Pilot :=
  { p with combClk := p.combClk + 1, waitc := if p.waitc ≤ 1 then p.waitc else p.waitc - 1,
           busy := p.busy - 1,
           shapeDue := (p.shapeDue.filter fun e => decide (1 < e.left)).map fun e => { e with left := e.left - 1 },
           switchClk := if p.issued then p.switchClk - 1 else p.switchClk, arrived := [],
           stall := if active && !p.drain && !p.progress && held then p.stall + 1 else 0, progress := false }

/-- No access of the new clk has been made (R242 to R244). -/
def Su.clk (s : Su) : Su :=
  { s with bankRead := none, bankWrite := none, copyRead := none, copyReader := none, copyWrite := none, copyWas := none,
           lostB := false, before := [] }

/-- No scratchpad bank has been used in the new clk (R107, R108). -/
def Mu.clk (m : Mu) : Mu := { m with readers := [], writers := [], before := [], lost := false }

/-- No SRAM bank has been used in the new clk (R197). -/
def Sfu.clk (m : Sfu) : Sfu := { m with readers := [], writers := [], before := [] }

/-- No counter has been raised in the new clk (R95). -/
def Unit.clk (m : Unit) : Unit := { m with raises := [], loops := [] }

/-- The memories and counters of a unit begin a clk. -/
def Device.clkUnit (d : Device) (u : Nat) : Device :=
  let d := d.modUnit u Unit.clk
  match siteKind u with
  | .mu => d.modMu u Mu.clk
  | .sfu => d.modSfu u Sfu.clk
  | .su => d.modSu u Su.clk
  | .iou => d

/-- What the units of a region take up in a clk without a command: stream words and operands, received words, and a
drain's words. The operand fetcher comes before the output stage, and both before the vector engine (R107). -/
def Device.unitClk (d : Device) (u : Nat) : Device :=
  if !d.unitRuns u then d
  else
    match siteKind u with
    | .mu =>
      let d := d.muFill u
      let d := d.recvPump u 1
      ((d.drainClk u).drainOut u)
    | .sfu => (d.recvPump u 1).drainOut u
    | _ => d.drainOut u

/-- A switch begins its next clk: a bank that a ROUTE token has named becomes active (R96). -/
def Device.clkSwitch (d : Device) (u : Nat) : Device :=
  if (d.switch u).bankNext.isNone then d else d.modSwitch u Switch.nextBank

/-- A region begins its next clk. In clk 48 of a swap, 16 before the switch clk, its queues discard what they hold
(R57). -/
def Device.regionClk (d : Device) (r : Nat) : Device :=
  let here (l : List Nat) : List Nat := l.filter fun u => siteRegion u == r
  let units := here (d.mus.map (·.1) ++ d.sfus.map (·.1) ++ d.sus.map (·.1) ++ d.ious.map (·.1))
  let d := (here (d.switches.map (·.1))).foldl (fun d u => d.holdSwitch u) d
  let d := units.foldl (fun d u => d.countUnit u) d
  let active := d.comb.state == .active
  let held := d.anyHeld r
  let flush := (d.pilot r).issued && (d.pilot r).switchClk == 17
  let d := d.modPilot r fun p => p.clk active held
  let d := if flush then d.flushRegion r else d
  let d := (here (d.switches.map (·.1))).foldl (fun d u => d.clkSwitch u) d
  let d := units.foldl (fun d u => d.clkUnit u) d
  let d := { d with clkPilots := d.clkPilots.put r (d.pilot r) }
  units.foldl (fun d u => d.unitClk u) ((d.passWaits r).longestWait r)

/-- A region whose clock runs between an end-of-tick swap and the strike: only the waits of descriptors that the swap has
carried go on (R293, R418). -/
def Device.idleClk (d : Device) (r : Nat) : Device := (d.passWaits r).longestWait r

/-- A clk of the homes: one in which nothing has arrived may still change a home (R280, R291). -/
def Device.homesClk (d : Device) : Device :=
  if d.now % 15 ≠ 0 then d
  else (List.range 4).foldl (fun d k => if d.homeRuns k && (d.home k).restless then d.homeClk k else d) d

/-- Deliveries that could not take place when their row came, as while a region's clock was stopped (R303). -/
def Device.deliverRings (d : Device) : Device :=
  d.homes.foldl (fun d p => p.2.rings.foldl (fun d q => d.tryDeliver p.1 q.1) d) d

/-- What the hub does with time: it selects the power state (R412 to R415), a member strikes when its announced strike
is due (R366, R369), and work that had to wait goes on. -/
def Device.hubClk (d : Device) : Device :=
  let d := d.modHost fun h => { h with cmdRings := h.cmdRings.mapAll fun _ q => { q with resume := false } }
  let d := d.settle
  let d := if d.vxl.role = 2 then d.announcedStrike else d
  let d := if d.vxl.parked.isEmpty then d else d.unpark
  d.homesClk.payOwed.deliverRings.pump

/-- Time passes by 5 units of 1/24 ns. -/
def Device.timeStep (d : Device) : Device :=
  let d := { d with now := d.now + 5 }
  if !d.up then d
  else
    let d := (List.range 8).foldl (fun d r => d.catchUp r) d
    ((List.range 8).foldl (fun d r =>
      if !d.edge r then d else if d.started r then d.regionClk r else if d.live r then d.idleClk r else d) d).hubClk

end Sys2Proof.Machine
end

