-- ==== Sys2Proof/Machine/Scrub.lean ====
section
/-! DEFINITION. The scrubbers: rows of the units, the ring SRAM and the logbook (R273 to R275, R379, R465), and the
configuration planes, plane stores and program stores (R444, R445). -/

namespace Sys2Proof.Machine

/-! ### Row scrubbers (R273, R274) -/

/-- Rows of the store that a scrubber reads. -/
def scrubRows (k : UnitKind) : Nat :=
  match k with
  | .mu => 4096
  | .sfu => 1024
  | .su => 65536
  | .iou => 0

/-- The record of an uncorrectable row (R450). The logbook has no store code: that byte is free (log 6). -/
def Device.scrubRecord (d : Device) (w : RecPlace) (store : Byte) (row : Nat) : Device :=
  d.record 3 1 w ([store] ++ leBytes 3 0 ++ leBytes 4 row)

/-- What a scrub read leaves for the write-back, and whether the row is uncorrectable. -/
def scrubFind (m : Mem) (row : Nat) : Option Nat × Bool :=
  match m.mark row with
  | some .correctable => (some row, false)
  | some .uncorrectable => (none, true)
  | _ => (none, false)

/-- The scrubber of an MU takes a bank's read port only in a clk in which no other reader uses it (R107). -/
def Device.scrubMu (d : Device) (u : Nat) : Device :=
  let m := d.mu u
  if m.scrubBack.isSome || !m.readFree [m.scrubRow] then d
  else
    let (back, bad) := scrubFind m.scratch m.scrubRow
    let d := d.modMu u fun m =>
      { m with scrubBack := back, scrubRow := (m.scrubRow + 1) % scrubRows .mu,
               scratchUncorr := if bad then satInc m.scratchUncorr else m.scratchUncorr }
    if bad then d.scrubRecord (d.atSite u) 1 m.scrubRow else d

/-- The scrubber of an SFU, likewise: a program that reads every bank in every clk starves it (R197, R275). -/
def Device.scrubSfu (d : Device) (u : Nat) : Device :=
  let m := d.sfu u
  if m.scrubBack.isSome || m.readers.contains (sfuBank m.scrubRow) then d
  else
    let (back, bad) := scrubFind m.sram m.scrubRow
    let d := d.modSfu u fun m =>
      { m with scrubBack := back, scrubRow := (m.scrubRow + 1) % scrubRows .sfu,
               sramUncorr := if bad then satInc m.sramUncorr else m.sramUncorr }
    if bad then d.scrubRecord (d.atSite u) 2 m.scrubRow else d

/-- The scrubber of an SU takes a bank's read port only while no path reads the bank (R240). -/
def Device.scrubSu (d : Device) (u : Nat) : Device :=
  let s := d.su u
  let bank := s.scrubRow % 16
  if s.scrubBack.isSome ∨ s.bankRead = some bank ∨ s.copyRead = some bank then d
  else
    let (back, bad) := scrubFind s.sram s.scrubRow
    let wrap := decide (scrubRows .su ≤ s.scrubRow + 1)
    let d := d.modSu u fun s =>
      { s with scrubBack := back, scrubRow := if wrap then 0 else s.scrubRow + 1,
               scrubPasses := if wrap then satInc s.scrubPasses else s.scrubPasses,
               scrubUncorr := if bad then satInc s.scrubUncorr else s.scrubUncorr }
    if bad then d.scrubRecord (d.atSite u) 0 s.scrubRow else d

def Device.scrubRing (d : Device) : Device :=
  let row := d.ringScrub
  if d.ringBack.isSome then d
  else
    let (back, bad) := scrubFind d.ring row
    let d := { d with ringBack := back, ringScrub := (row + 1) % 131072 }
    if bad then d.scrubRecord .hub 3 row else d

def Device.scrubLog (d : Device) : Device :=
  let row := d.log.scrubRow
  if d.log.scrubBack.isSome then d
  else
    let (back, bad) := scrubFind d.log.mem row
    let d := d.modLog fun l => { l with scrubBack := back, scrubRow := (row + 1) % 262144 }
    if bad then { d with free := d.free + 1 }.scrubRecord .hub (Config.freeByte d.free) row else d

/-- SCRUB_READ (R273, R274). -/
def Device.scrubRead (w : ScrubStore) (d : Device) : Device :=
  match w with
  | .ringSram => d.scrubRing
  | .logbook => d.scrubLog
  | .unit u =>
    if !d.clockRuns (siteRegion u.val) ∨ !d.usable u.val then d
    else
      match siteKind u.val with
      | .mu => d.scrubMu u.val
      | .sfu => d.scrubSfu u.val
      | .su => d.scrubSu u.val
      | .iou => d

def execScrubRead (w : ScrubStore) (s : State) : Host.Outcome State Fault Refusal := s.lift (Device.scrubRead w)

/-- The corrected row in place, if no program has written it meanwhile: a write leaves no correctable mark. -/
def scrubPut (m : Mem) (row : Nat) : Option Mem :=
  match m.mark row with
  | some .correctable => some (m.setMark row none)
  | _ => none

/-- The write-back of an MU or SFU waits for a clk in which no other writer uses the bank. -/
def Device.backMu (d : Device) (u : Nat) : Device :=
  match (d.mu u).scrubBack with
  | none => d
  | some row =>
    if !(d.mu u).writeFree [row] then d else
    d.modMu u fun m =>
      let m := { m with scrubBack := none }
      match scrubPut m.scratch row with
      | some x => { m with scratch := x, scratchCorr := satInc m.scratchCorr }
      | none => m

def Device.backSfu (d : Device) (u : Nat) : Device :=
  match (d.sfu u).scrubBack with
  | none => d
  | some row =>
    if (d.sfu u).writers.contains (sfuBank row) then d else
    d.modSfu u fun m =>
      let m := { m with scrubBack := none }
      match scrubPut m.sram row with
      | some x => { m with sram := x, sramCorr := satInc m.sramCorr }
      | none => m

/-- The write-back of an SU waits for a clk in which no path writes the bank. -/
def Device.backSu (d : Device) (u : Nat) : Device :=
  let s := d.su u
  match s.scrubBack with
  | none => d
  | some row =>
    if s.bankWrite = some (row % 16) ∨ s.copyWrite.any (fun k => k % 16 == row % 16) then d
    else
      d.modSu u fun s =>
        let s := { s with scrubBack := none }
        match scrubPut s.sram row with
        | some x => { s with sram := x, scrubCorr := satInc s.scrubCorr }
        | none => s

def Device.backRing (d : Device) : Device :=
  match d.ringBack with
  | none => d
  | some row => { d with ringBack := none, ring := (scrubPut d.ring row).getD d.ring }

def Device.backLog (d : Device) : Device :=
  match d.log.scrubBack with
  | none => d
  | some row => d.modLog fun l => { l with scrubBack := none, mem := (scrubPut l.mem row).getD l.mem }

/-- SCRUB_WRITEBACK (R274). -/
def Device.scrubBack (w : ScrubStore) (d : Device) : Device :=
  match w with
  | .ringSram => d.backRing
  | .logbook => d.backLog
  | .unit u =>
    if !d.clockRuns (siteRegion u.val) then d
    else
      match siteKind u.val with
      | .mu => d.backMu u.val
      | .sfu => d.backSfu u.val
      | .su => d.backSu u.val
      | .iou => d

def execScrubWriteback (w : ScrubStore) (s : State) : Host.Outcome State Fault Refusal := s.lift (Device.scrubBack w)

/-! ### Plane scrubbers (R444, R445) -/

/-- The record of a plane or store row (R450). -/
def Device.planeRecord (d : Device) (sev : Nat) (w : RecPlace) (plane outcome slot row : Nat) : Device :=
  d.record 9 sev w (leBytes 1 plane ++ leBytes 1 outcome ++ leBytes 1 slot ++ leBytes 1 0 ++ leBytes 4 row)

def Device.planeCorrected (d : Device) : Device := d.modSec fun s => { s with planeCorr := satInc s.planeCorr }
def Device.planeBroken (d : Device) : Device := d.modSec fun s => { s with planeUncorr := satInc s.planeUncorr }

/-- What the check bits of plane `which` of a site say, by row: 0 unit active, 1 unit idle, 2 switch active, 3 switch
idle. -/
def Switch.planeMarks (s : Switch) (which : Nat) : Tab RowMark :=
  match which with
  | 0 => s.active.marks
  | 1 => s.idle.marks
  | 2 => s.swActive
  | _ => s.swIdle

/-- A corrected row. -/
def Switch.clearMark (s : Switch) (which row : Nat) : Switch :=
  match which with
  | 0 => { s with active := { s.active with marks := s.active.marks.del row } }
  | 1 => { s with idle := { s.idle with marks := s.idle.marks.del row } }
  | 2 => { s with swActive := s.swActive.del row }
  | _ => { s with swIdle := s.swIdle.del row }

/-- The row of plane `which` that the scrubber of a site reads next, and where it then stands; none in an empty plane. -/
def Switch.scrubAt (s : Switch) (which : Nat) : Option (Nat × Nat) :=
  let (first, n) := planeRows (if which % 2 = 0 then s.active else s.idle).image (2 ≤ which)
  if n = 0 then none
  else
    let p := s.scrubRows.getD which 0 % n
    some (first + p, (p + 1) % n)

/-- The scrubber of a site reads the next row of one of its planes (R444, R445). -/
def Device.scrubPlane (d : Device) (u which : Nat) : Device :=
  let r := siteRegion u
  match (d.switch u).scrubAt which with
  | none => d
  | some (row, next) =>
    let mark := ((d.switch u).planeMarks which).find row
    let d := d.modSwitch u fun s => { s with scrubRows := s.scrubRows.put which next }
    match mark with
    | none => d
    | some .correctable =>
      let d := (d.modSwitch u (·.clearMark which row)).planeCorrected
      if which % 2 = 1 then d
      else
        ((d.planeRecord 0 (d.atSite u) which 0 0xFF row).raiseOnce r 0x81 (BitVec.ofNat 32 row)).modTick fun t =>
          { t with flags := t.flags ||| 0x80 }
    | some _ =>
      let d := d.planeBroken
      if which % 2 = 1 then (d.planeRecord 1 (d.atSite u) which 1 0xFF row).modSwitch u fun s => { s with idleReload := true }
      else ((d.planeRecord 2 (d.atSite u) which 2 0xFF row).raiseFree r 0x2A).stopRegion r (siteX u) (siteY u) 4

/-- Rows that the scrubber of a region's stores reads in a pass: unit images, site tables, programs. -/
def storeImageRows : Nat := 368640
def storeTableRows : Nat := 1440
def storeProgRows : Nat := 1040

/-- Slot and row of the slot at a place of the pass; the rows of a site table follow those of the images. -/
def storePlace (p : Nat) : Nat × Nat :=
  if p < storeImageRows then (p / slotImageRows, p % slotImageRows)
  else if p < storeImageRows + storeTableRows then
    ((p - storeImageRows) / 90, slotImageRows + (p - storeImageRows) % 90)
  else ((p - storeImageRows - storeTableRows) / 65, (p - storeImageRows - storeTableRows) % 65)

/-- The scrubber of a region's stores reads its next row, if that row lies in the store that is named. -/
def Device.scrubStores (d : Device) (r : Nat) (program : Bool) : Device :=
  let p := d.comb.storeScrub.getD r 0
  if decide (storeImageRows + storeTableRows ≤ p) != program then d
  else
    let (slot, row) := storePlace p
    let d := d.modComb fun c =>
      { c with storeScrub := c.storeScrub.put r ((p + 1) % (storeImageRows + storeTableRows + storeProgRows)) }
    let x := d.storeSlot r slot
    match (if program then x.progMarks else x.unitMarks).find row with
    | none => d
    | some .correctable =>
      let d := d.modComb fun c =>
        { c with store := c.store.put (16 * r + slot)
                   (if program then { x with progMarks := x.progMarks.del row } else { x with unitMarks := x.unitMarks.del row }) }
      if program then d.modPilot r fun p => { p with storeCorr := satInc p.storeCorr } else d.planeCorrected
    | some _ =>
      let d := d.planeRecord 1 (d.atRegion r) (if program then 5 else 4) 3 slot row
      if program then d.modPilot r fun p => { p with storeUncorr := satInc p.storeUncorr }
      else d.planeBroken.raise r 0x82 (BitVec.ofNat 32 (row % 2 ^ 16 + 2 ^ 16 * slot))

/-- PLANE_SCRUB_READ (R444, R445). -/
def Device.planeScrub (w : PlaneStore) (d : Device) : Device :=
  match w with
  | .plane u which => if d.clockRuns (siteRegion u.val) then d.scrubPlane u.val which.val else d
  | .planeStore r => if d.clockRuns r.val then d.scrubStores r.val false else d
  | .programStore r => if d.clockRuns r.val then d.scrubStores r.val true else d

def execPlaneScrubRead (w : PlaneStore) (s : State) : Host.Outcome State Fault Refusal := s.lift (Device.planeScrub w)

end Sys2Proof.Machine
end

