-- ==== Sys2Proof/Machine/Start.lean ====
section
/-! DEFINITION. COMMAND_START (R391, R392): when a taken command starts, and what it is refused for at that moment. -/

namespace Sys2Proof.Machine

/-- The row of an opcode: what the command does once it has started. -/
def rowOf (op : Nat) : CmdId → Device → Device :=
  match op with
  | 0x0101 => Device.hello
  | 0x0102 => Device.statusCmd
  | 0x0103 => Device.factoryMap
  | 0x0104 => Device.romRead
  | 0x0105 => Device.hringCreate
  | 0x0106 => Device.hringDestroy
  | 0x0107 => Device.eventRoute
  | 0x0108 => Device.devReset
  | 0x0303 => Device.combActivate
  | 0x0304 => Device.combUnload
  | 0x0305 => Device.combStatus
  | 0x0401 => Device.tickConfig
  | 0x0402 => Device.tickStart
  | 0x0403 => Device.tickStop
  | 0x0404 => Device.tickStage
  | 0x0405 => Device.tickStatus
  | 0x0501 => Device.flagWrite
  | 0x0502 => Device.barrierConfig
  | 0x0503 => Device.counterConfig
  | 0x0504 => Device.ringCreate
  | 0x0505 => Device.ringDestroy
  | 0x0506 => Device.chanOpen
  | 0x0507 => Device.chanClose
  | 0x0508 => Device.chanStatus
  | 0x0601 => Device.leewaySet
  | 0x0602 => Device.pwrStateCmd
  | 0x0603 => Device.pwrRegionCmd
  | 0x0604 => Device.pwrStatus
  | 0x0605 => Device.pwrLimit
  | 0x0701 => Device.hltRead
  | 0x0702 => Device.devcardLoad
  | 0x0703 => Device.watchdogSet
  | 0x0704 => Device.inputClear
  | 0x0705 => Device.hltThresh
  | 0x0803 => Device.certRead
  | 0x0804 => Device.secStatus
  | 0x0901 => Device.vxlPortConfig
  | 0x0902 => Device.vxlPortEnable
  | 0x0903 => Device.vxlPortDisable
  | 0x0904 => Device.vxlSetId
  | 0x0905 => Device.vxlBearingSet
  | 0x0906 => Device.vxlMcastSet
  | 0x0907 => Device.vxlMcastCopy
  | 0x0908 => Device.vxlE2eConfig
  | 0x0909 => Device.vxlStatus
  | 0x090A => Device.vxlTickRole
  | 0x0A02 => Device.logStream
  | 0x0A03 => Device.counterRead
  | 0x0A04 => Device.logStatus
  | _ => fun _ d => d

/-- The commands that move much data or do much work say what they refuse without it. -/
def Device.refusedFor (d : Device) (op : Nat) (ps : List Byte) : Option Nat :=
  match op with
  | 0x0201 => d.copyRefused ps
  | 0x0202 => d.fillRefused ps
  | 0x0301 => d.loadRefused ps
  | 0x0302 => d.loadRange (fieldAt ps 0 8) (fieldAt ps 8 8)
  | 0x0801 => if d.host.loader = 2 then some Status.fwState else none
  | 0x0A01 => d.logRefused ps
  | _ => none

/-- A packet that completes a command with bit 15 of its status set, without effect (R17), waits to be written. -/
def Device.refusalPosted (d : Device) (id : CmdId) : Bool :=
  (d.cplRing (d.cmdRing id.ring.val).cpl).waiting.any fun p =>
    p.cache && p.ring == BitVec.ofNat 8 id.ring.val && p.seq == id.seq && p.status.getLsbD 15

/-- The device in which a command that has started is refused, if its checks refuse it as the device stands now (R392). -/
def Device.startRefused (d : Device) (id : CmdId) (op : Nat) (ps : List Byte) : Option Device :=
  match d.refusedFor op ps with
  | some st => some ((d.modCmd id fun c => { c with ran := true }).complete id st)
  | none =>
    let t := rowOf op id d
    if t.refusalPosted id then some t else none

/-- A command that has started. ATTEST reports the registers as they stand at that moment (R460). -/
def Device.begun (id : CmdId) (d : Device) : Device :=
  d.modCmd id fun c =>
    { c with started := true, front := if c.opcode.toNat = 0x0802 then d.reportFront c.params else [] }

/-- COMMAND_START (R391, R392): checks 1 to 4, and then those of the command itself, which see the device as it stands
when the command starts. A command that they do not refuse goes on with its own row (log 12). -/
def Device.commandStart (id : CmdId) (d : Device) : Device :=
  match d.findCmd id with
  | none => d
  | some c =>
    if c.started || c.posted || !d.host.mayStart c || !d.pwr.allows c.opcode.toNat then d
    else
      let t := d.begun id
      match d.startCheck c with
      | some st => t.complete id st
      | none => (t.startRefused id c.opcode.toNat c.params).getD t

def execCommandStart (id : CmdId) (s : State) : Host.Outcome State Fault Refusal := s.lift (Device.commandStart id)

end Sys2Proof.Machine
end

