-- ==== Sys2Proof/Machine/Dispatch.lean ====
section
/-! DEFINITION. Which meaning each command has: one arm for each constructor of `Instr`. -/

namespace Sys2Proof.Machine

def exec (i : Instr) (s : State) : Host.Outcome State Fault Refusal :=
  match i with
  | .hwr off bytes => Sys2Proof.Machine.execHwr off bytes s
  | .hrd off len tag => Sys2Proof.Machine.execHrd off len tag s
  | .hostTimeRead tag => Sys2Proof.Machine.execHostTimeRead tag s
  | .doorbell q v => Sys2Proof.Machine.execDoorbell q v s
  | .cplHeadWrite q v => Sys2Proof.Machine.execCplHeadWrite q v s
  | .resume q v => Sys2Proof.Machine.execResume q v s
  | .registerWrite off v => Sys2Proof.Machine.execRegisterWrite off v s
  | .drdCpl tag abort bytes => Sys2Proof.Machine.execDrdCpl tag abort bytes s
  | .drdTimeout tag => Sys2Proof.Machine.execDrdTimeout tag s
  | .ucieTrain m full rate partner => Sys2Proof.Machine.execUcieTrain m full rate partner s
  | .ucieModuleDrop m => Sys2Proof.Machine.execUcieModuleDrop m s
  | .packetTake q => Sys2Proof.Machine.execPacketTake q s
  | .commandStart id => Sys2Proof.Machine.execCommandStart id s
  | .completionWrite q => Sys2Proof.Machine.execCompletionWrite q s
  | .notifyIntervalEnd q => Sys2Proof.Machine.execNotifyIntervalEnd q s
  | .hello id => Sys2Proof.Machine.execHello id s
  | .status id => Sys2Proof.Machine.execStatus id s
  | .factoryMap id => Sys2Proof.Machine.execFactoryMap id s
  | .romRead id => Sys2Proof.Machine.execRomRead id s
  | .hringCreate id => Sys2Proof.Machine.execHringCreate id s
  | .hringDestroy id => Sys2Proof.Machine.execHringDestroy id s
  | .hringOff cpl q => Sys2Proof.Machine.execHringOff cpl q s
  | .eventRoute id => Sys2Proof.Machine.execEventRoute id s
  | .devReset id => Sys2Proof.Machine.execDevReset id s
  | .deviceReset => Sys2Proof.Machine.execDeviceReset s
  | .memCopy id => Sys2Proof.Machine.execMemCopy id s
  | .memFill id => Sys2Proof.Machine.execMemFill id s
  | .combLoad id => Sys2Proof.Machine.execCombLoad id s
  | .combVerify id => Sys2Proof.Machine.execCombVerify id s
  | .combActivate id => Sys2Proof.Machine.execCombActivate id s
  | .combUnload id => Sys2Proof.Machine.execCombUnload id s
  | .combStatus id => Sys2Proof.Machine.execCombStatus id s
  | .tickConfig id => Sys2Proof.Machine.execTickConfig id s
  | .tickStart id => Sys2Proof.Machine.execTickStart id s
  | .tickStop id => Sys2Proof.Machine.execTickStop id s
  | .tickStage id => Sys2Proof.Machine.execTickStage id s
  | .tickStatus id => Sys2Proof.Machine.execTickStatus id s
  | .flagWrite id => Sys2Proof.Machine.execFlagWrite id s
  | .barrierConfig id => Sys2Proof.Machine.execBarrierConfig id s
  | .counterConfig id => Sys2Proof.Machine.execCounterConfig id s
  | .ringCreate id => Sys2Proof.Machine.execRingCreate id s
  | .ringDestroy id => Sys2Proof.Machine.execRingDestroy id s
  | .chanOpen id => Sys2Proof.Machine.execChanOpen id s
  | .chanClose id => Sys2Proof.Machine.execChanClose id s
  | .chanStatus id => Sys2Proof.Machine.execChanStatus id s
  | .endpointOff d e => Sys2Proof.Machine.execEndpointOff d e s
  | .ringOff d g => Sys2Proof.Machine.execRingOff d g s
  | .leewaySet id => Sys2Proof.Machine.execLeewaySet id s
  | .pwrState id => Sys2Proof.Machine.execPwrState id s
  | .pwrRegion id => Sys2Proof.Machine.execPwrRegion id s
  | .pwrStatus id => Sys2Proof.Machine.execPwrStatus id s
  | .pwrLimit id => Sys2Proof.Machine.execPwrLimit id s
  | .hltRead id => Sys2Proof.Machine.execHltRead id s
  | .devcardLoad id => Sys2Proof.Machine.execDevcardLoad id s
  | .watchdogSet id => Sys2Proof.Machine.execWatchdogSet id s
  | .inputClear id => Sys2Proof.Machine.execInputClear id s
  | .hltThresh id => Sys2Proof.Machine.execHltThresh id s
  | .fwLoad id => Sys2Proof.Machine.execFwLoad id s
  | .attest id => Sys2Proof.Machine.execAttest id s
  | .certRead id => Sys2Proof.Machine.execCertRead id s
  | .secStatus id => Sys2Proof.Machine.execSecStatus id s
  | .vxlPortConfig id => Sys2Proof.Machine.execVxlPortConfig id s
  | .vxlPortEnable id => Sys2Proof.Machine.execVxlPortEnable id s
  | .vxlPortDisable id => Sys2Proof.Machine.execVxlPortDisable id s
  | .portOff p => Sys2Proof.Machine.execPortOff p s
  | .vxlSetId id => Sys2Proof.Machine.execVxlSetId id s
  | .vxlBearingSet id => Sys2Proof.Machine.execVxlBearingSet id s
  | .vxlMcastSet id => Sys2Proof.Machine.execVxlMcastSet id s
  | .vxlMcastCopy id => Sys2Proof.Machine.execVxlMcastCopy id s
  | .vxlE2eConfig id => Sys2Proof.Machine.execVxlE2eConfig id s
  | .vxlStatus id => Sys2Proof.Machine.execVxlStatus id s
  | .vxlTickRole id => Sys2Proof.Machine.execVxlTickRole id s
  | .logRead id => Sys2Proof.Machine.execLogRead id s
  | .logStream id => Sys2Proof.Machine.execLogStream id s
  | .counterRead id => Sys2Proof.Machine.execCounterRead id s
  | .logStatus id => Sys2Proof.Machine.execLogStatus id s
  | .tickTimerStrike => Sys2Proof.Machine.execTickTimerStrike s
  | .tickInEdge => Sys2Proof.Machine.execTickInEdge s
  | .fallbackStrike => Sys2Proof.Machine.execFallbackStrike s
  | .pilotStrike r => Sys2Proof.Machine.execPilotStrike r s
  | .caughtUpTickStart => Sys2Proof.Machine.execCaughtUpTickStart s
  | .masterStrike => Sys2Proof.Machine.execMasterStrike s
  | .eocMarker u => Sys2Proof.Machine.execEocMarker u s
  | .swapTarget r => Sys2Proof.Machine.execSwapTarget r s
  | .swapIssue r => Sys2Proof.Machine.execSwapIssue r s
  | .swapComplete r => Sys2Proof.Machine.execSwapComplete r s
  | .planeLoadDone r => Sys2Proof.Machine.execPlaneLoadDone r s
  | .wordSend u net out lane => Sys2Proof.Machine.execWordSend u net out lane s
  | .seamArrival u port net v => Sys2Proof.Machine.execSeamArrival u port net v s
  | .seamRelockDone d => Sys2Proof.Machine.execSeamRelockDone d s
  | .bridgeWordArrival u port net v ok => Sys2Proof.Machine.execBridgeWordArrival u port net v ok s
  | .step u lane => Sys2Proof.Machine.execStep u lane s
  | .bound u lane => Sys2Proof.Machine.execBound u lane s
  | .done u lane => Sys2Proof.Machine.execDone u lane s
  | .branchTok u lane => Sys2Proof.Machine.execBranchTok u lane s
  | .route u lane => Sys2Proof.Machine.execRoute u lane s
  | .stallWatchdog r => Sys2Proof.Machine.execStallWatchdog r s
  | .haltReport => Sys2Proof.Machine.execHaltReport s
  | .mma u => Sys2Proof.Machine.execMma u s
  | .vmma u => Sys2Proof.Machine.execVmma u s
  | .drain u => Sys2Proof.Machine.execDrain u s
  | .fence u => Sys2Proof.Machine.execFence u s
  | .loop u => Sys2Proof.Machine.execLoop u s
  | .vec u => Sys2Proof.Machine.execVec u s
  | .endOp u => Sys2Proof.Machine.execEndOp u s
  | .muNop u => Sys2Proof.Machine.execMuNop u s
  | .mmaRetire u => Sys2Proof.Machine.execMmaRetire u s
  | .drainComplete u => Sys2Proof.Machine.execDrainComplete u s
  | .vadd u => Sys2Proof.Machine.execVadd u s
  | .vsub u => Sys2Proof.Machine.execVsub u s
  | .vmul u => Sys2Proof.Machine.execVmul u s
  | .vfma u => Sys2Proof.Machine.execVfma u s
  | .vmax u => Sys2Proof.Machine.execVmax u s
  | .vmin u => Sys2Proof.Machine.execVmin u s
  | .vabs u => Sys2Proof.Machine.execVabs u s
  | .vneg u => Sys2Proof.Machine.execVneg u s
  | .vcmp u => Sys2Proof.Machine.execVcmp u s
  | .vsel u => Sys2Proof.Machine.execVsel u s
  | .vmov u => Sys2Proof.Machine.execVmov u s
  | .vcvt u => Sys2Proof.Machine.execVcvt u s
  | .vshl u => Sys2Proof.Machine.execVshl u s
  | .vshr u => Sys2Proof.Machine.execVshr u s
  | .viota u => Sys2Proof.Machine.execViota u s
  | .vbcast u => Sys2Proof.Machine.execVbcast u s
  | .vext u => Sys2Proof.Machine.execVext u s
  | .vfn u => Sys2Proof.Machine.execVfn u s
  | .vred u => Sys2Proof.Machine.execVred u s
  | .sarg u => Sys2Proof.Machine.execSarg u s
  | .sop u => Sys2Proof.Machine.execSop u s
  | .vqnt u => Sys2Proof.Machine.execVqnt u s
  | .sclose u => Sys2Proof.Machine.execSclose u s
  | .scaleReport u slot => Sys2Proof.Machine.execScaleReport u slot s
  | .scaleMessage u slot => Sys2Proof.Machine.execScaleMessage u slot s
  | .sscale u => Sys2Proof.Machine.execSscale u s
  | .vbq u => Sys2Proof.Machine.execVbq u s
  | .vbx u => Sys2Proof.Machine.execVbx u s
  | .vsum u => Sys2Proof.Machine.execVsum u s
  | .vld u => Sys2Proof.Machine.execVld u s
  | .vst u => Sys2Proof.Machine.execVst u s
  | .sld u => Sys2Proof.Machine.execSld u s
  | .sst u => Sys2Proof.Machine.execSst u s
  | .vrecv u => Sys2Proof.Machine.execVrecv u s
  | .vsend u => Sys2Proof.Machine.execVsend u s
  | .srecv u => Sys2Proof.Machine.execSrecv u s
  | .ssend u => Sys2Proof.Machine.execSsend u s
  | .sli u => Sys2Proof.Machine.execSli u s
  | .vloop u => Sys2Proof.Machine.execVloop u s
  | .setvl u => Sys2Proof.Machine.execSetvl u s
  | .setidx u => Sys2Proof.Machine.execSetidx u s
  | .vnop u => Sys2Proof.Machine.execVnop u s
  | .vend u => Sys2Proof.Machine.execVend u s
  | .setsh r => Sys2Proof.Machine.execSetsh r s
  | .waitf r => Sys2Proof.Machine.execWaitf r s
  | .waitfEnd r => Sys2Proof.Machine.execWaitfEnd r s
  | .setf r => Sys2Proof.Machine.execSetf r s
  | .waits r => Sys2Proof.Machine.execWaits r s
  | .waitsEnd r => Sys2Proof.Machine.execWaitsEnd r s
  | .br r => Sys2Proof.Machine.execBr r s
  | .loopp r => Sys2Proof.Machine.execLoopp r s
  | .token r => Sys2Proof.Machine.execToken r s
  | .event r => Sys2Proof.Machine.execEvent r s
  | .pub r => Sys2Proof.Machine.execPub r s
  | .clrs r => Sys2Proof.Machine.execClrs r s
  | .waitc r => Sys2Proof.Machine.execWaitc r s
  | .waitcEnd r => Sys2Proof.Machine.execWaitcEnd r s
  | .swap r => Sys2Proof.Machine.execSwap r s
  | .pilotNop r => Sys2Proof.Machine.execPilotNop r s
  | .summaryArrival r => Sys2Proof.Machine.execSummaryArrival r s
  | .lockstep r groups => Sys2Proof.Machine.execLockstep r groups s
  | .eventReceive src => Sys2Proof.Machine.execEventReceive src s
  | .flagChange d => Sys2Proof.Machine.execFlagChange d s
  | .waitWatchdog r => Sys2Proof.Machine.execWaitWatchdog r s
  | .homeStop d => Sys2Proof.Machine.execHomeStop d s
  | .chanSend d e => Sys2Proof.Machine.execChanSend d e s
  | .sendRetry d e => Sys2Proof.Machine.execSendRetry d e s
  | .placementRequest d => Sys2Proof.Machine.execPlacementRequest d s
  | .placementReply d => Sys2Proof.Machine.execPlacementReply d s
  | .messageCopyDone d => Sys2Proof.Machine.execMessageCopyDone d s
  | .ringRelease d g => Sys2Proof.Machine.execRingRelease d g s
  | .placementTimeout d g => Sys2Proof.Machine.execPlacementTimeout d g s
  | .descriptorStart u c => Sys2Proof.Machine.execDescriptorStart u c s
  | .descriptorWaitEnd u c => Sys2Proof.Machine.execDescriptorWaitEnd u c s
  | .descriptorFetch u c => Sys2Proof.Machine.execDescriptorFetch u c s
  | .streamRead u c => Sys2Proof.Machine.execStreamRead u c s
  | .streamWrite u c => Sys2Proof.Machine.execStreamWrite u c s
  | .streamCopy u c => Sys2Proof.Machine.execStreamCopy u c s
  | .descriptorComplete u c => Sys2Proof.Machine.execDescriptorComplete u c s
  | .landingPacket u c => Sys2Proof.Machine.execLandingPacket u c s
  | .windowRelease u w => Sys2Proof.Machine.execWindowRelease u w s
  | .packingWrite u v => Sys2Proof.Machine.execPackingWrite u v s
  | .packingRead u v toGrid => Sys2Proof.Machine.execPackingRead u v toGrid s
  | .scrubRead w => Sys2Proof.Machine.execScrubRead w s
  | .scrubWriteback w => Sys2Proof.Machine.execScrubWriteback w s
  | .planeScrubRead w => Sys2Proof.Machine.execPlaneScrubRead w s
  | .hbmReadReturn k => Sys2Proof.Machine.execHbmReadReturn k s
  | .hbmWriteAccept k => Sys2Proof.Machine.execHbmWriteAccept k s
  | .patrolScrub k => Sys2Proof.Machine.execPatrolScrub k s
  | .innerCountRead k n => Sys2Proof.Machine.execInnerCountRead k n s
  | .hbmTempRead k temp => Sys2Proof.Machine.execHbmTempRead k temp s
  | .selfRefreshEntry k => Sys2Proof.Machine.execSelfRefreshEntry k s
  | .selfRefreshExit k => Sys2Proof.Machine.execSelfRefreshExit k s
  | .hbmTrain k ok => Sys2Proof.Machine.execHbmTrain k ok s
  | .portTrained p t => Sys2Proof.Machine.execPortTrained p t s
  | .portRetrain p cause => Sys2Proof.Machine.execPortRetrain p cause s
  | .retrainDone p t => Sys2Proof.Machine.execRetrainDone p t s
  | .retrainTimeout p => Sys2Proof.Machine.execRetrainTimeout p s
  | .replayTimeout p => Sys2Proof.Machine.execReplayTimeout p s
  | .linkAck p h lseq replay => Sys2Proof.Machine.execLinkAck p h lseq replay s
  | .strike p h tick leadRem fallback residence => Sys2Proof.Machine.execStrike p h tick leadRem fallback residence s
  | .flag p h tid chart value => Sys2Proof.Machine.execFlag p h tid chart value s
  | .ack p h tid => Sys2Proof.Machine.execAck p h tid s
  | .nak p h tid reason xfer => Sys2Proof.Machine.execNak p h tid reason xfer s
  | .grant p h tid queued => Sys2Proof.Machine.execGrant p h tid queued s
  | .prune p h xfer => Sys2Proof.Machine.execPrune p h xfer s
  | .placeResp p h tid result row => Sys2Proof.Machine.execPlaceResp p h tid result row s
  | .readReq p h tid chart len => Sys2Proof.Machine.execReadReq p h tid chart len s
  | .creditReq p h tid chart rows => Sys2Proof.Machine.execCreditReq p h tid chart rows s
  | .withdraw p h tid => Sys2Proof.Machine.execWithdraw p h tid s
  | .placeReq p h tid die ring rows => Sys2Proof.Machine.execPlaceReq p h tid die ring rows s
  | .regRead p h tid chart len => Sys2Proof.Machine.execRegRead p h tid chart len s
  | .writeTxn p h t => Sys2Proof.Machine.execWriteTxn p h t s
  | .readData p h t => Sys2Proof.Machine.execReadData p h t s
  | .regData p h t => Sys2Proof.Machine.execRegData p h t s
  | .forwardHoldExpiry p => Sys2Proof.Machine.execForwardHoldExpiry p s
  | .e2eTimeout tid => Sys2Proof.Machine.execE2eTimeout tid s
  | .grantLimitExpiry tid => Sys2Proof.Machine.execGrantLimitExpiry tid s
  | .mcastLagExpiry xfer dev => Sys2Proof.Machine.execMcastLagExpiry xfer dev s
  | .sourceEntryExpiry dev orig => Sys2Proof.Machine.execSourceEntryExpiry dev orig s
  | .delayMeasure p ps => Sys2Proof.Machine.execDelayMeasure p ps s
  | .sensorRead readings => Sys2Proof.Machine.execSensorRead readings s
  | .tripClear => Sys2Proof.Machine.execTripClear s
  | .emergencyStep d => Sys2Proof.Machine.execEmergencyStep d s
  | .emergencyEnd d => Sys2Proof.Machine.execEmergencyEnd d s
  | .packagePowerSample deciwatts => Sys2Proof.Machine.execPackagePowerSample deciwatts s
  | .voltDroop r lowest => Sys2Proof.Machine.execVoltDroop r lowest s
  | .oscillatorSample r count => Sys2Proof.Machine.execOscillatorSample r count s
  | .gatingEnd => Sys2Proof.Machine.execGatingEnd s
  | .wakeComplete => Sys2Proof.Machine.execWakeComplete s
  | .regionStart r => Sys2Proof.Machine.execRegionStart r s
  | .tickInPin high ns => Sys2Proof.Machine.execTickInPin high ns s
  | .throttleN low ns => Sys2Proof.Machine.execThrottleN low ns s
  | .wakePin high ns => Sys2Proof.Machine.execWakePin high ns s
  | .inputStuck n => Sys2Proof.Machine.execInputStuck n s
  | .resetNAssert ns => Sys2Proof.Machine.execResetNAssert ns s
  | .resetNDeassert ns => Sys2Proof.Machine.execResetNDeassert ns s
  | .pwrEnAssert m => Sys2Proof.Machine.execPwrEnAssert m s
  | .diodeReady n => Sys2Proof.Machine.execDiodeReady n s
  | .railEnableCheck k ok => Sys2Proof.Machine.execRailEnableCheck k ok s
  | .pwrEnDeassert => Sys2Proof.Machine.execPwrEnDeassert s
  | .railOffStep => Sys2Proof.Machine.execRailOffStep s
  | .railFault k => Sys2Proof.Machine.execRailFault k s
  | .pmbAlert k statusWord => Sys2Proof.Machine.execPmbAlert k statusWord s
  | .clockRecount khz0 khz1 => Sys2Proof.Machine.execClockRecount khz0 khz1 s
  | .pllLockLoss r => Sys2Proof.Machine.execPllLockLoss r s
  | .refclkLoss n => Sys2Proof.Machine.execRefclkLoss n s
  | .clockRecovered src r => Sys2Proof.Machine.execClockRecovered src r s
  | .cpLockstep => Sys2Proof.Machine.execCpLockstep s
  | .cpWatchdog => Sys2Proof.Machine.execCpWatchdog s
  | .logEntryWrite => Sys2Proof.Machine.execLogEntryWrite s
  | .logStreamRow => Sys2Proof.Machine.execLogStreamRow s
  | .hubLeavesReset => Sys2Proof.Machine.execHubLeavesReset s
  | .vddAonValid m => Sys2Proof.Machine.execVddAonValid m s
  | .fallbackStrikeSend => Sys2Proof.Machine.execFallbackStrikeSend s

end Sys2Proof.Machine
end

