-- ==== Sys2Proof/Safety.lean ====
section
/-! DEFINITION. The terms that the statements use: what a command answers, when a host command acts, and what counts as
a sound state. -/

namespace Sys2Proof.Machine

/-- The hub runs, and the device is `d` (R497). -/
def State.runs (s : State) (d : Device) : Prop := s.dev = d ∧ d.up = true

/-- A command answers a next state: the device becomes `d` and the queue of commands stays as it is. -/
def State.answers (s : State) (c : Instr) (d : Device) : Prop := exec c s = .next { s with dev := d }

/-- The host command `id` has opcode `op` and parameters `ps`, has started, and its row has not yet acted (R391,
R392). -/
def Device.ready (d : Device) (id : CmdId) (op : Nat) (ps : List Byte) : Prop :=
  ∃ c, d.findCmd id = some c ∧ c.started = true ∧ c.ran = false ∧ c.posted = false ∧ c.opcode = BitVec.ofNat 16 op ∧
    c.params = ps

/-- The device in which the row of command `id` has acted. -/
def Device.acted (d : Device) (id : CmdId) : Device := d.modCmd id fun c => { c with ran := true }

/-- At the head of command ring `q` lies a whole and sound command packet with header `h` and parameters `ps`, and the
device may take it: no ring before it in the round of visits has anything to take (R390). -/
def Device.packetAt (d : Device) (q : Nat) (h : Header) (ps : List Byte) : Prop :=
  let r := d.cmdRing q
  let a := r.base + 64 * r.head.toNat
  let n := packetEntries h.plen
  r.life = .on ∧ r.held = false ∧ (d.cplRing r.cpl).blocked = false ∧ d.host.cmds.length < 64 ∧ r.head ≠ r.tail ∧
    h = Header.parse (d.ring.bytes a 64) ∧ h.kind = 1 ∧ h.reservedZero = true ∧ h.flags / 4 % 4 = 0 ∧ h.flags < 128 ∧
    h.plen ≤ 4096 ∧ r.head.toNat + n ≤ r.entries ∧ n ≤ (r.tail.toNat + r.entries - r.head.toNat) % r.entries ∧
    crc32 ((d.ring.bytes a (64 + h.plen)).take 0x3C ++ leBytes 4 0 ++ (d.ring.bytes a (64 + h.plen)).drop 64) = h.crc ∧
    d.ring.rangeBad a (64 * n) = false ∧ (∀ k ∈ d.host.before q, d.visit k = none) ∧ ps = (d.ring.bytes a (64 + h.plen)).drop 64

/-- The head of a command ring behind a packet of `n` entries. -/
def CmdRing.headAfter (r : CmdRing) (n : Nat) : BitVec 16 :=
  if r.head.toNat + n = r.entries then 0 else BitVec.ofNat 16 (r.head.toNat + n)

/-- The frame that a link command brings: its port, header and body. LINK_ACK has no number of its own, and is none of
these (R338, R339). -/
def linkFrame : Instr → Option (PortIx × FrameHdr × FrameBody)
  | .strike p h tick lead fb _ => some (p, h, .strike tick lead fb)
  | .flag p h tid chart v => some (p, h, .flag tid chart v)
  | .ack p h tid => some (p, h, .ack tid)
  | .nak p h tid reason xfer => some (p, h, .nak tid reason xfer)
  | .grant p h tid queued => some (p, h, .grant tid queued)
  | .prune p h xfer => some (p, h, .prune xfer)
  | .placeResp p h tid res row => some (p, h, .placeResp tid res row)
  | .readReq p h tid chart len => some (p, h, .readReq tid chart len)
  | .creditReq p h tid chart rows => some (p, h, .creditReq tid chart rows)
  | .withdraw p h tid => some (p, h, .withdraw tid)
  | .placeReq p h tid die ring rows => some (p, h, .placeReq tid die.val ring.val rows)
  | .regRead p h tid chart len => some (p, h, .regRead tid chart len)
  | .writeTxn p h t => some (p, h, .write t)
  | .readData p h t => some (p, h, .readData t)
  | .regData p h t => some (p, h, .regData t)
  | _ => none

/-- The frame passes the checks of port `p` (R338): the port is ON or stopping, CRC and FEC hold, it is next in sequence,
and its flits follow those of the transaction that have come. -/
def Device.linkOk (d : Device) (p : Nat) (h : FrameHdr) (b : FrameBody) : Prop :=
  (d.port p).takes = true ∧ h.good = true ∧ h.uncorrectable = 0 ∧ h.lseq = (d.port p).rxSeq ∧
    (d.port p).follows (flitsOf h b).1 b = true

/-- The device in which port `p` has taken the flits of a frame and acknowledged them (R338, R371). -/
def Device.flitsTaken (d : Device) (p : Nat) (h : FrameHdr) (b : FrameBody) : Device :=
  let next := (d.port p).rxSeq + BitVec.ofNat 12 (flitsOf h b).2
  (d.fecReport p h.corrected h.uncorrectable).modPort p fun v =>
    { v with rxSeq := next, acks := v.acks ++ [(next - 1, false)] }

/-- A frame of no reserved TYPE passes the link layer of port `p`, and with it all of the transaction has come (R338,
R339). -/
def Device.hears (d : Device) (p : Nat) (h : FrameHdr) (b : FrameBody) : Prop :=
  d.linkOk p h b ∧ h.reserved = false ∧ b.flits ≤ (flitsOf h b).1 + (flitsOf h b).2

/-- The device in which port `p` has taken such a frame. -/
def Device.heard (d : Device) (p : Nat) (h : FrameHdr) (b : FrameBody) : Device :=
  if b.flits = 1 then d.flitsTaken p h b else (d.flitsTaken p h b).modPort p fun v => { v with rxPart := none }

/-- A frame with DEST `dest` is for this device and no other: its own number, or an alias that its bearing only keeps here
(R346). -/
def Device.forHere (d : Device) (dest : BitVec 18) : Prop :=
  d.vxl.own dest = true ∨ ∃ b, d.vxl.lookup dest.toNat = some b ∧ b.getLsbD 62 = true ∧ bearMcast b = 0

/-- The pilot of region `r` is free to issue, and the sound instruction at its PC is `w`, of opcode `opc` (R214, R216). -/
def Device.pilotAt (d : Device) (r opc w : Nat) : Prop :=
  d.pilotReady r = true ∧ d.progMark r (d.pilot r).pc.toNat = none ∧
    progWord (d.programIn r (d.combOf r)) (d.pilot r).pc.toNat = w ∧ bitsNat w 63 58 = opc

/-- The vector engine of site `u` stands at instruction `i` of opcode `opc`, with no upset: a receive in progress has no word
to take up and still writes no register that the instruction names (R186, R187). -/
def Device.vecAt (d : Device) (u opc : Nat) (i : VIns) : Prop :=
  d.vecRuns u = true ∧ d.recvPump u 40 = d ∧ (d.eng u).hazard (d.vecProgram u) i = false ∧ (d.eng u).upset = false ∧
    d.vins u = i ∧ i.opc = opc

/-- The device after an instruction of the vector engine whose effect gives `t`: the program goes on behind it (R192). -/
def Device.vecStep (d : Device) (u opc : Nat) (t : Device) : Device :=
  (t.vecGoto u ((d.eng u).pc + if twoWords opc then 2 else 1)).progress (siteRegion u)

/-- A lane result in D: lanes 0 to VL − 1 from `f`, the flags of every lane, and the poison of the sources (R183, R185,
R198). -/
def Device.lanesInto (d : Device) (u r : Nat) (poison : Bool) (f : Nat → Word × Flags) : Device :=
  let ws := (d.eng u).active.map f
  (d.modEng u (·.putV r (ws.map (·.1)) poison)).vecFlags u (ws.foldl (fun f w => f.or w.2) Flags.none) poison

/-- A scalar result in S[r] (R198). -/
def Device.scalarInto (d : Device) (u r : Nat) (w : Word) (f : Flags) (poison : Bool) : Device :=
  (d.modEng u (·.putS r w poison)).vecFlags u f poison

/-- Scalar results in S[r] and the registers behind it, all with one poison (R198, R200). -/
def Device.scalarsInto (d : Device) (u r : Nat) (ws : List Word) (f : Flags) (poison : Bool) : Device :=
  (d.modEng u (·.putSs r (ws.map fun w => (w, poison)))).vecFlags u f poison

/-- The token at the head of lane `lane` of unit `u` is `t`; `m` is the unit without it (R94). -/
def Device.tokenAt (d : Device) (u lane : Nat) (t : BitVec 16) (m : Unit) : Prop :=
  d.unitRuns u = true ∧ d.headToken u lane = some (t, m)

/-- The pin and sequencer commands, which act whatever the hub's state (R490 to R497). -/
def onPins : Instr → Bool
  | .resetNAssert .. | .resetNDeassert .. | .pwrEnAssert .. | .diodeReady .. | .railEnableCheck .. | .pwrEnDeassert
  | .railOffStep | .railFault .. | .pmbAlert .. | .clockRecount .. | .hubLeavesReset | .vddAonValid .. => true
  | _ => false

/-- Every command that waits is one that the protocols allow. -/
def State.queueOk (s : State) : Prop := ∀ c ∈ s.pending, c.wellFormed = true

/-- The byte stores of the hub are in their canonical form: ring SRAM, HBM and the logbook. -/
def Device.storesOk (d : Device) : Prop := d.ring.wf = true ∧ d.hbm.wf = true ∧ d.log.mem.wf = true

end Sys2Proof.Machine
end

