-- ==== Sys2Proof/Certificates/Slice0/Obligations.lean ====
section
/-! DEFINITION. The statements for the provers. `s.runs d` says that the hub runs and that the device of state `s` is `d`;
`s.answers c d'` that command `c` answers the next state in which the device is `d'` and the queue is as it was, so each
such conclusion is also the command's frame. -/

section

open Sys2Proof Sys2Proof.Machine

/-! ### The queue, the idle step, reset -/

/-- The block takes the command at the front of its queue. -/
def Obligations.StepRunsFrontCommand : Prop :=
  ∀ (s : State) (c : Instr), step { s with pending := c :: s.pending } = exec c s

/-- On an empty queue a quantum of time passes and nothing waits (the model's choice, log 2); while the hub is off or in
reset, time is all that moves. -/
def Obligations.IdleStepPassesTime : Prop :=
  ∀ (s : State), s.pending = [] →
    step s = .next { s with dev := s.dev.timeStep } ∧
    (s.dev.up = false → s.dev.timeStep = { s.dev with now := s.dev.now + 5 })

/-- Commands are taken first in, first out: a meaning neither adds to the queue nor takes from it. -/
def Obligations.QueueIsFifo : Prop :=
  ∀ (s t : State) (c : Instr) (cs : List Instr), s.pending = c :: cs → step s = .next t → t.pending = cs

/-- A command that the protocols do not allow is refused; every other command of the table answers a next state, in
every state (log 3 says which those are). -/
def Obligations.EveryAdmittedCommandCompletes : Prop :=
  ∀ (s : State) (c : Instr),
    (c.wellFormed = true → ∃ t, exec c s = .next t) ∧ (c.wellFormed = false → exec c s = .refused .illFormed)

/-- While the hub is off or held in reset, no command but those of the pins and the power sequencer changes anything. -/
def Obligations.HubInResetTakesNoEffect : Prop :=
  ∀ (s t : State) (c : Instr), s.dev.up = false → onPins c = false → exec c s = .next t → t = s

/-- What the spec states of reset: boot loader running, rings 0 of 256 entries at their bases ON, no job, tick OFF, no
device number, memory cleared, limits and thresholds at their defaults (R14, R379, R381, R386, R452).
Reset has that invariant. -/
def Obligations.ResetValues : Prop :=
  (let d := State.reset.dev
   State.reset.pending = [] ∧ d.up = true ∧ d.host.loader = 0 ∧ d.host.version = 0 ∧ d.host.irqMask = 1 ∧
   d.cmdRing 0 = { CmdRing.reset with life := .on, entries := 256, base := 0x1000 } ∧
   d.cplRing 0 = { CplRing.reset with life := .on, entries := 256, base := 0x5000, phase := true } ∧
   (∀ q, q ≠ 0 → (d.cmdRing q).life = .off ∧ (d.cplRing q).life = .off) ∧
   d.comb.state = .empty ∧ d.tick.life = .off ∧ d.vxl.valid = false ∧
   (∀ a, d.ring.byte a = 0) ∧ (∀ a, d.log.mem.byte a = 0) ∧
   (∀ r, (d.pilot r).stallLog2 = 16 ∧ (d.home (r / 2)).waitLog2W = 21 ∧ (d.home (r / 2)).waitLog2E = 21)) ∧
  (State.reset.dev.storesOk ∧ State.reset.queueOk)

/-! ### The invariant -/

/-- Every step keeps the stores of the hub in their canonical form, and the queue free of commands that the protocols do
not allow. -/
def Obligations.StoresStayCanonical : Prop :=
  ∀ (s t : State), s.dev.storesOk → s.queueOk → step s = .next t → t.dev.storesOk ∧ t.queueOk

/-! ### The host window (R375 to R379, R383, R384, R390, R410) -/

/-- HWR: below 0x1000 nothing, in the rest of ring SRAM the bytes, four bytes of register space the register, else a
window error (R376, R378, R379). HRD: the bytes of ring SRAM with their poison mask, a register's four bytes, or zeros
with UNMAPPED and a window error; a poisoned row sets HOST_ERR.POISON (R376, R378, R379). HOST_TIME_READ returns bits
31:0 of hub time and latches bits 63:32 into HOST_TIME_HI (R410). -/
def Obligations.HostWindowAccess : Prop :=
  (∀ (s : State) (d : Device) (off : Nat) (bs : List Byte), s.runs d → Instr.wellFormed (.hwr off bs) = true →
     (off < 0x1000 → s.answers (.hwr off bs) d) ∧
     (0x1000 ≤ off → off < 0x800000 → s.answers (.hwr off bs) { d with ring := d.ring.write off bs }) ∧
     (0x800000 ≤ off → off < 0x801000 → bs.length = 4 →
       s.answers (.hwr off bs) (d.writeHostReg (off - 0x800000) (BitVec.ofNat 32 (le bs)))) ∧
     (0x801000 ≤ off ∨ (0x800000 ≤ off ∧ bs.length ≠ 4) →
       s.answers (.hwr off bs) d.windowError)) ∧
  (∀ (s : State) (d : Device) (off len : Nat) (tag : Fin 256), s.runs d → Instr.wellFormed (.hrd off len tag) = true →
     (off < 0x800000 → (∀ i, i < len → d.ring.rowBad ((off + i) / 64) = false) →
       s.answers (.hrd off len tag) (d.sendHost (.hrdCpl tag.val (d.ring.bytes off len) false 0))) ∧
     (off < 0x800000 → (∃ i, i < len ∧ d.ring.rowBad ((off + i) / 64) = true) →
       s.answers (.hrd off len tag)
         ((d.modHost (·.setErr d.now 4)).sendHost
           (.hrdCpl tag.val (d.ring.bytes off len) false (poisonMask (d.ring.badFlags off len))))) ∧
     (0x800000 ≤ off → off < 0x801000 → len = 4 → off ≠ 0x80000C →
       s.answers (.hrd off len tag) (d.sendHost (.hrdCpl tag.val (leBytes 4 (d.hostReg (off - 0x800000))) false 0))) ∧
     (0x801000 ≤ off ∨ (0x800000 ≤ off ∧ len ≠ 4) →
       s.answers (.hrd off len tag) (d.windowError.sendHost (.hrdCpl tag.val (List.replicate len 0) true 0)))) ∧
  (∀ (s : State) (d : Device) (tag : Fin 256), s.runs d →
     s.answers (.hostTimeRead tag)
       ({ d with host := { d.host with timeHi := BitVec.ofNat 32 (d.hubNs / 2 ^ 32) } }.sendHost
         (.hrdCpl tag.val (leBytes 4 (d.hubNs % 2 ^ 32)) false 0))) ∧
  (∀ d : Device,
     d.windowError.host.err = d.host.err ||| 1 ∧ d.windowError.host.errWindow = satInc d.host.errWindow ∧
     (d.modHost (·.setErr d.now 4)).host.err = d.host.err ||| 4 ∧ { d.windowError with host := d.host } = d)

/-- REGISTER_WRITE: IRQ_PENDING and HOST_ERR clear the bits written 1 but for those set in the same clk, IRQ_MASK takes
the value, the ring registers act as DOORBELL, CPL_HEAD_WRITE and RESUME do, and every other offset ignores the write
(R11, R12, R410). CPL_HEAD_WRITE: the head is stored; a value of ENTRIES or more is ignored and counted as a doorbell
error (R384). RESUME: a held ring continues at NEW_HEAD (R390). -/
def Obligations.RegisterWrites : Prop :=
  (∀ (s : State) (d : Device) (v : Word), s.runs d →
     s.answers (.registerWrite 0x014 v) (d.modHost (·.clearIrq d.now (BitVec.setWidth 16 v))) ∧
     s.answers (.registerWrite 0x018 v) { d with host := { d.host with irqMask := BitVec.setWidth 16 v } } ∧
     s.answers (.registerWrite 0x01C v) (d.modHost (·.clearErr d.now (BitVec.setWidth 4 v))) ∧
     (d.host.freshAt ≠ d.now →
       (d.host.clearIrq d.now (BitVec.setWidth 16 v)).irqPending = d.host.irqPending &&& ~~~(BitVec.setWidth 16 v) ∧
       (d.host.clearErr d.now (BitVec.setWidth 4 v)).err = d.host.err &&& ~~~(BitVec.setWidth 4 v)) ∧
     (∀ q : RingIx, (((d.host.setIrq d.now q.val).clearIrq d.now (BitVec.setWidth 16 v)).irqPending.getLsbD q.val) = true) ∧
     (∀ bits, ((d.host.setErr d.now bits).clearErr d.now (BitVec.setWidth 4 v)).err &&& bits = bits) ∧
     (∀ q : RingIx, s.answers (.registerWrite (0x100 + 16 * q.val) v) (d.ringDoorbell q.val v)) ∧
     (∀ q : RingIx, s.answers (.registerWrite (0x108 + 16 * q.val) v) (d.writeCtrl q.val v)) ∧
     (∀ q : RingIx, s.answers (.registerWrite (0x204 + 16 * q.val) v) (d.writeCplHead q.val v)) ∧
     (∀ off, off % 4 = 0 → off < 0x1000 → off ∉ [0x014, 0x018, 0x01C] →
       (off < 0x100 ∨ 0x300 ≤ off ∨ (off < 0x200 ∧ off % 16 ∉ [0, 8]) ∨ (0x200 ≤ off ∧ off % 16 ≠ 4)) →
       s.answers (.registerWrite off v) d)) ∧
  (∀ (s : State) (d : Device) (q : RingIx) (v : Word), s.runs d →
     (v.toNat % 65536 < (d.cplRing q.val).entries →
       s.answers (.cplHeadWrite q v) (d.modCplRing q.val fun r => { r with head := BitVec.setWidth 16 v })) ∧
     ((d.cplRing q.val).entries ≤ v.toNat % 65536 → s.answers (.cplHeadWrite q v) d.doorbellError) ∧
     d.doorbellError.host.err = d.host.err ||| 2 ∧ d.doorbellError.host.errDoorbell = satInc d.host.errDoorbell ∧
     { d.doorbellError with host := d.host } = d) ∧
  (∀ (s : State) (d : Device) (q : RingIx) (v : Word), s.runs d → (d.cmdRing q.val).life ≠ .off →
     (d.cmdRing q.val).held = true → v.getLsbD 16 = true → v.toNat % 65536 < (d.cmdRing q.val).entries →
     ∃ d', s.answers (.resume q v) d' ∧
       d'.cmdRing q.val = { d.cmdRing q.val with newHead := BitVec.setWidth 16 v, head := BitVec.setWidth 16 v,
                                                 held := false, resume := true } ∧
       (∀ k, k ≠ q.val → d'.cmdRing k = d.cmdRing k) ∧ { d' with host := d.host } = d)

/-- DOORBELL and the taking of packets (R383): a tail below ENTRIES is stored while the ring is ON; any other is ignored,
counted and shown in HOST_ERR; one that repeats the tail changes no ring; a packet is not taken before all its entries lie
before the tail. -/
def Obligations.DoorbellStoresTail : Prop :=
  ∀ (s : State) (d : Device) (q : RingIx) (v : Word), s.runs d →
    let r := d.cmdRing q.val
    let t := v.toNat % 65536
    (r.life = .on → t < r.entries →
      s.answers (.doorbell q v) (d.modCmdRing q.val fun r => { r with tail := BitVec.ofNat 16 t })) ∧
    (r.life ≠ .on ∨ r.entries ≤ t →
      s.answers (.doorbell q v) d.doorbellError ∧ d.doorbellError.host.err = d.host.err ||| 2 ∧
        d.doorbellError.host.errDoorbell = satInc d.host.errDoorbell ∧ { d.doorbellError with host := d.host } = d) ∧
    (r.life = .on → t < r.entries → t = r.tail.toNat →
      ∃ d', s.answers (.doorbell q v) d' ∧ (∀ k, d'.cmdRing k = d.cmdRing k) ∧
        { d' with host := { d'.host with cmdRings := d.host.cmdRings } } = d) ∧
    (let h := Header.parse (d.ring.bytes (r.base + 64 * r.head.toNat) 64)
     r.life = .on → r.head ≠ r.tail → h.kind = 1 → h.reservedZero = true → h.flags / 4 % 4 = 0 → h.flags < 128 →
         h.plen ≤ 4096 →
     r.head.toNat + packetEntries h.plen ≤ r.entries →
     (r.tail.toNat + r.entries - r.head.toNat) % r.entries < packetEntries h.plen → s.answers (.packetTake q) d)

/-! ### Packets, starts and completions (R384 to R386, R390 to R396) -/

/-- PACKET_TAKE: a sound packet whose SEQ is NEXT becomes a command in progress, the head passes it and NEXT rises; a
smaller SEQ that no command or cached completion bears is answered SEQ_STALE, a larger one SEQ_GAP; the round of visits
goes on with the next ring (R390).
COMMAND_START: a taken command that the rules of R392 let start begins to run; one that fails a check of R391, or a check
of its own as the device stands then, completes with that check's status. -/
def Obligations.PacketsBecomeCommands : Prop :=
  (∀ (s : State) (d : Device) (q : RingIx) (h : Header) (ps : List Byte), s.runs d → d.packetAt q.val h ps →
     d.findCmd ⟨q, h.seq⟩ = none → (∀ p ∈ d.host.cache, ¬(p.ring = BitVec.ofNat 8 q.val ∧ p.seq = h.seq)) →
     let moved := d.modCmdRing q.val fun r => { r with head := r.headAfter (packetEntries h.plen) }
     let visited (t : Device) : Device := t.modHost fun hp => { hp with nextVisit := (q.val + 1) % 16 }
     (h.seq = (d.cmdRing q.val).next →
       s.answers (.packetTake q)
         (visited ((moved.modCmdRing q.val fun r => { r with next := r.next + 1 }).modHost fun hp =>
           { hp with cmds := hp.cmds ++
               [{ id := ⟨q, h.seq⟩, opcode := BitVec.ofNat 16 h.opcode, flags := BitVec.ofNat 8 h.flags, tag := h.tag,
                  params := ps, started := false, ran := false, posted := false, replay := 0, moved := 0,
                  poisoned := 0, front := [] }] }))) ∧
     ((h.seq - (d.cmdRing q.val).next).toInt < 0 →
       s.answers (.packetTake q) (visited (moved.refusePacket q.val h Status.seqStale))) ∧
     (0 < (h.seq - (d.cmdRing q.val).next).toInt →
       s.answers (.packetTake q) (visited (moved.refusePacket q.val h Status.seqGap)))) ∧
  (∀ (s : State) (d : Device) (id : CmdId) (c : Cmd), s.runs d → d.findCmd id = some c → c.started = false →
     c.posted = false → d.host.mayStart c = true → d.pwr.allows c.opcode.toNat = true →
     let begun := d.modCmd id fun c =>
       { c with started := true, front := if c.opcode.toNat = 0x0802 then d.reportFront c.params else [] }
     (d.startCheck c = none → begun.startRefused id c.opcode.toNat c.params = none → s.answers (.commandStart id) begun) ∧
     (∀ t, d.startCheck c = none → begun.startRefused id c.opcode.toNat c.params = some t →
       s.answers (.commandStart id) t) ∧
     (∀ st, d.startCheck c = none → begun.refusedFor c.opcode.toNat c.params = some st →
       begun.startRefused id c.opcode.toNat c.params = some ((begun.acted id).complete id st)) ∧
     (∀ st, d.startCheck c = some st → s.answers (.commandStart id) (begun.complete id st)))

/-- A command that completes: its completion packet, with its own OPCODE, SEQ, TAG, NOTIFY and FENCE, waits last on the
ring paired with its command ring, and the command will not complete again (R387, R388, R395). -/
def Obligations.CompletionWaitsInOrder : Prop :=
  ∀ (d : Device) (id : CmdId) (c : Cmd) (status : Nat) (payload : List Byte) (detail : Word),
    d.findCmd id = some c → c.posted = false →
    let t := d.complete id status payload detail
    (t.cplRing (d.cmdRing id.ring.val).cpl).waiting =
      (d.cplRing (d.cmdRing id.ring.val).cpl).waiting ++
        [{ opcode := c.opcode, kind := 2, flags := c.flags &&& 3, seq := c.id.seq, status := BitVec.ofNat 16 status,
           ring := BitVec.ofNat 8 c.id.ring.val, tag := c.tag, detail := detail, payload := payload, cache := true }] ∧
    t.findCmd id = some { c with posted := true } ∧ t.complete id status payload detail = t ∧
    { t with host := d.host } = d

/-- COMPLETION_WRITE: the oldest waiting completion is written once there is room, the command ends, and NOTIFY follows
where its command asked for it (R384, R386, R395).
NOTIFY_INTERVAL_END: the NOTIFY that was held back is sent if the link is up; otherwise the ring is free to notify
(R386). -/
def Obligations.CompletionIsWritten : Prop :=
  (∀ (s : State) (d : Device) (q : RingIx) (p : Packet) (rest : List Packet), s.runs d →
     (d.cplRing q.val).life ≠ .off → (d.cplRing q.val).waiting = p :: rest → (d.cplRing q.val).hasRoom p = true →
     p.cache = true → p.flags.getLsbD 2 = false →
     let written := ((d.modCplRing q.val fun r => { r with waiting := rest }).writePacket q.val p).endCommand q.val p
     s.answers (.completionWrite q) (if p.flags.getLsbD 0 then written.notify q.val else written)) ∧
  (∀ (s : State) (d : Device) (q : RingIx), s.runs d → (d.cplRing q.val).quiet = true →
     ((d.cplRing q.val).owed = true → d.host.linkUp = true →
       s.answers (.notifyIntervalEnd q)
         ((d.sendHost (.notify q.val)).modCplRing q.val fun r =>
           { r with owed := false, quiet := decide (0 < r.interval) })) ∧
     ((d.cplRing q.val).owed = false →
       s.answers (.notifyIntervalEnd q) (d.modCplRing q.val fun r => { r with quiet := false })))

/-- UCIE_TRAIN: a module that is down runs at full or half width with the rate and partner found, and nothing else of the
device changes but that, when the link comes up with it, one NOTIFY leaves for each ring with its pending and mask bits
set, or is owed where the ring is in its interval (R374, R386); a module that runs stays as it is.
UCIE_MODULE_DROP: a module that runs retrains, counted and shown in HOST_LINK, with no rate and partner once neither runs;
each copy to or from host memory that is moving data fails with MEM_HOST_ABORT, and ticks, combs, memory and Vexlink go on
as they were (R374). -/
def Obligations.UcieModules : Prop :=
  (∀ (s : State) (d : Device) (m : Fin 2) (full : Bool) (rate : Fin 7) (partner : Fin 4), s.runs d → 1 ≤ rate.val →
     1 ≤ partner.val →
     (d.host.moduleUp m.val = true → s.answers (.ucieTrain m full rate partner) d) ∧
     (d.host.moduleUp m.val = false →
       let st : BitVec 2 := if full then 3 else 2
       let told (q : Nat) : Bool := !d.host.linkUp && d.host.irqPending.getLsbD q && d.host.irqMask.getLsbD q
       ∃ t, s.answers (.ucieTrain m full rate partner) t ∧
         t.host.m0 = (if m = 0 then st else d.host.m0) ∧ t.host.m1 = (if m = 1 then st else d.host.m1) ∧
         t.host.rate.toNat = rate.val ∧ t.host.partner.toNat = partner.val ∧
         t.host.toHost = d.host.toHost ++
           ((List.range 16).filter fun q => told q && !(d.cplRing q).quiet).map HostMsg.notify ∧
         (∀ q, (t.cplRing q).owed = ((d.cplRing q).owed || (decide (q < 16) && told q && (d.cplRing q).quiet))) ∧
         t.host.irqPending = d.host.irqPending ∧ t.host.cmds = d.host.cmds ∧ t.host.cmdRings = d.host.cmdRings ∧
         { t with host := d.host } = d)) ∧
  (∀ (s : State) (d : Device) (m : Fin 2), s.runs d →
     (d.host.moduleUp m.val = false → s.answers (.ucieModuleDrop m) d) ∧
     (d.host.moduleUp m.val = true →
       ∃ t, s.answers (.ucieModuleDrop m) t ∧
         t.host.m0 = (if m = 0 then 1 else d.host.m0) ∧ t.host.m1 = (if m = 1 then 1 else d.host.m1) ∧
         t.host.retrains = satInc d.host.retrains ∧ t.host.err = d.host.err ||| 8 ∧
         (t.host.linkUp = false → t.host.rate = 0 ∧ t.host.partner = 0) ∧
         (t.host.linkUp = true → t.host.rate = d.host.rate ∧ t.host.partner = d.host.partner) ∧
         (∀ id c, d.findCmd id = some c → c.running = true → c.ran = true → c.opcode = 0x0201 →
           copySrcKind c.params = 0 ∨ copyDstKind c.params = 0 →
           t.findCmd id = some { c with posted := true } ∧
             ∃ p ∈ (t.cplRing (d.cmdRing id.ring.val).cpl).waiting,
               p.seq = id.seq ∧ p.status = BitVec.ofNat 16 Status.memHostAbort) ∧
         { t with host := d.host } = d))

/-! ### Device commands (R32, R398 to R408) -/

/-- HELLO agrees the highest common version and replies; STATUS, FACTORY_MAP and ROM_READ reply (R32, R398, R401,
R402). -/
def Obligations.IdentityCommandsReply : Prop :=
  ∀ (s : State) (d : Device) (id : CmdId) (ps : List Byte), s.runs d →
    (∀ v, d.ready id 0x0101 ps → fieldAt ps 2 2 = 0 → agreeVersion d.host.loader (fieldAt ps 0 1) (fieldAt ps 1 1) =
        some v →
      d.comb.state = .empty →
      s.answers (.hello id)
        (((d.acted id).modHost fun h => { h with version := BitVec.ofNat 8 v }).complete id Status.ok (d.helloReply v))) ∧
    (d.ready id 0x0102 ps → s.answers (.status id) ((d.acted id).complete id Status.ok d.statusReply)) ∧
    (d.ready id 0x0103 ps → s.answers (.factoryMap id) ((d.acted id).complete id Status.ok d.factoryMapBytes)) ∧
    (∀ bs, d.ready id 0x0104 ps → fieldAt ps 1 3 = 0 → 1 ≤ fieldAt ps 8 4 → fieldAt ps 8 4 ≤ 4096 →
      romBytes (fieldAt ps 0 1) = some bs → fieldAt ps 4 4 + fieldAt ps 8 4 ≤ bs.length →
      s.answers (.romRead id)
        ((d.acted id).complete id Status.ok ((bs.drop (fieldAt ps 4 4)).take (fieldAt ps 8 4))))

/-- HRING_CREATE opens a command ring that is OFF; HRING_DESTROY stops a ring, or completes at once for one that is OFF;
HRING_OFF completes the destroy (R407, R408). -/
def Obligations.HostRingLifeCycle : Prop :=
  ∀ (s : State) (d : Device) (id : CmdId) (ps : List Byte) (q : RingIx), s.runs d → q.val ≠ 0 →
    (d.ready id 0x0105 ps → fieldAt ps 0 1 = 0 → fieldAt ps 1 1 = q.val → fieldAt ps 13 3 = 0 → 128 ≤ fieldAt ps 4 4 →
      fieldAt ps 4 4 ≤ 65536 → fieldAt ps 8 4 % 64 = 0 → d.ringAreaOk false q.val (fieldAt ps 8 4) (fieldAt ps 4 4) = true →
      fieldAt ps 12 1 ≤ 15 → (d.cplRing (fieldAt ps 12 1)).life = .on → (d.cmdRing q.val).life = .off →
      s.answers (.hringCreate id)
        (((d.acted id).modCmdRing q.val (·.opened
          { entries := fieldAt ps 4 4, base := fieldAt ps 8 4, interval := fieldAt ps 2 2, cpl := fieldAt ps 12 1,
            startSeq := BitVec.ofNat 32 (fieldAt ps 16 4) })).complete id Status.ok)) ∧
    (d.ready id 0x0106 ps → fieldAt ps 0 1 = 0 → fieldAt ps 1 1 = q.val → fieldAt ps 2 2 = 0 →
      (d.cmdRing q.val).life = .on →
      s.answers (.hringDestroy id)
        ((d.acted id).modCmdRing q.val fun r => { r with life := .stopping, destroyCmd := some id })) ∧
    (d.ready id 0x0106 ps → fieldAt ps 0 1 = 0 → fieldAt ps 1 1 = q.val → fieldAt ps 2 2 = 0 →
      (d.cmdRing q.val).life = .off → s.answers (.hringDestroy id) ((d.acted id).complete id Status.ok)) ∧
    ((d.cmdRing q.val).life = .stopping → (d.cmdRing q.val).destroyCmd = some id → (d.cmdRing q.val).pending = none →
      (∀ c ∈ d.host.cmds, c.id.ring = q → c.posted = true ∨ c.id = id) →
      s.answers (.hringOff false q)
        ((d.modCmdRing q.val fun r => { r with life := .off, destroyCmd := none, pending := none }).complete id
          Status.ok))

/-- EVENT_ROUTE stores its route, and a route to a ring that is not ON is refused; DEV_RESET with the right CONFIRM
completes, any other is refused, and the completion once written makes the reset due; DEVICE_RESET then resets the
device and abandons every command, with HBM, the fuses and the rails as they are; where a rail, a clock or a diode has
failed, the checks of power-up run again first (R403, R404, R452, R495). -/
def Obligations.EventRouteAndDeviceReset : Prop :=
  ∀ (s : State) (d : Device) (id : CmdId) (ps : List Byte), s.runs d →
    (d.ready id 0x0107 ps → fieldAt ps 2 2 = 0 → fieldAt ps 1 1 ≤ 2 →
      let q := fieldAt ps 0 1
      (q ≤ 15 → (d.cplRing q).life = .on →
        s.answers (.eventRoute id)
          (((d.acted id).modHost fun h => { h with routeMode := BitVec.ofNat 8 (fieldAt ps 1 1), routeCpl := q }).complete
            id Status.ok)) ∧
      (15 < q ∨ (d.cplRing q).life ≠ .on → s.answers (.eventRoute id) ((d.acted id).complete id Status.badRing))) ∧
    (d.ready id 0x0108 ps →
      (fieldAt ps 0 4 = 0x01080108 → s.answers (.devReset id) ((d.acted id).complete id Status.ok)) ∧
      (fieldAt ps 0 4 ≠ 0x01080108 → s.answers (.devReset id) ((d.acted id).complete id Status.badParam))) ∧
    (∀ (q : Nat) (p : Packet), p.opcode = 0x0108 → p.status = BitVec.ofNat 16 Status.ok →
      (d.endCommand q p).host.resetDue = true) ∧
    (d.host.resetDue = true →
      ∃ t, s.answers .deviceReset t ∧ t.host.cmds = [] ∧ t.host.loader = 0 ∧ t.host.resetDue = false ∧
        t.comb.state = .empty ∧ t.tick.life = .off ∧ t.ring = Mem.reset ∧ t.log.mem = Mem.reset ∧ t.hbm = d.hbm ∧
        t.sec.fuses.rollback = d.sec.fuses.rollback ∧ t.sec.fuses.serial = d.sec.fuses.serial ∧
        (∀ q, q ≠ 0 → (t.cmdRing q).life = .off ∧ (t.cplRing q).life = .off) ∧
        (d.seq.faulty = false → t.now = 0 ∧ t.seq.railsOn = d.seq.railsOn) ∧
        (d.seq.faulty = true → t.up = false ∧ t.seq.rerun = true ∧ t.seq.railsOn = 0)) ∧
    (d.host.resetDue = false → s.answers .deviceReset d)

/-! ### Copies (R374, R377, R405) -/

/-- MEM_FILL writes its pattern over a range of the free area of ring SRAM, or of HBM whose stacks take accesses, and
completes with the bytes written (R405).
MEM_COPY within ring SRAM and HBM moves all its bytes in one step and completes (log 12); one from host memory or another
device issues its first read, and one to another device its first write (R377, R405).
DRD_CPL: the data that a read of host memory brings goes on to the copy's destination and the next part is read;
ABORT, and DRD_TIMEOUT, fail the command with MEM_HOST_ABORT; what was written stays (R377). -/
def Obligations.CopiesMoveData : Prop :=
  (∀ (s : State) (d : Device) (id : CmdId) (ps : List Byte), s.runs d → d.ready id 0x0202 ps → d.hlt.trip = false →
     d.copyWaits id = false → fieldAt ps 1 7 = 0 →
     let a := fieldAt ps 8 8
     let n := fieldAt ps 16 8
     let bs := fillBytes (sliceAt ps 24 8) n
     let reply := leBytes 8 n ++ leBytes 8 0
     (fieldAt ps 0 1 = 1 → 0x9000 ≤ a → a + n ≤ 0x800000 →
       s.answers (.memFill id) (((d.acted id).ringWriteRange (n + 1) a bs).complete id Status.ok reply)) ∧
     (fieldAt ps 0 1 = 2 → a < hbmBytes → a + n ≤ hbmBytes → d.hbmOffline a n = false →
       s.answers (.memFill id) (((d.acted id).hbmWrite .remote a bs).complete id Status.ok reply)) ∧
     (fieldAt ps 0 1 = 1 → a < 0x9000 ∨ 0x800000 < a + n →
       s.answers (.memFill id) ((d.acted id).complete id Status.memKind))) ∧
  (∀ (s : State) (d : Device) (id : CmdId) (ps : List Byte), s.runs d → d.ready id 0x0201 ps → d.hlt.trip = false →
     d.copyWaits id = false → copySrcKind ps ≤ 3 → copyDstKind ps ≤ 3 → fieldAt ps 2 6 = 0 → 1 ≤ copyLen ps →
     copyLen ps ≤ 2 ^ 40 → (copyDstKind ps = 0 → copySrcKind ps ≠ 0 ∧ copySrcKind ps ≠ 3) →
     d.hbmRefused (copySrcKind ps) (copySrc ps) (copyLen ps) = none →
     d.hbmRefused (copyDstKind ps) (copyDst ps) (copyLen ps) = none →
     (copySrcKind ps = 0 ∨ copyDstKind ps = 0 → d.host.linkUp = true) →
     (copySrcKind ps = 1 → outsideFree (copySrc ps) (copyLen ps) = false) →
     (copyDstKind ps = 1 → outsideFree (copyDst ps) (copyLen ps) = false) →
     (copySrcKind ps = 1 ∨ copySrcKind ps = 2 → copyDstKind ps ≠ 3 →
       s.answers (.memCopy id) (((d.acted id).copyStep id).copyEnd id).pump) ∧
     (copySrcKind ps = 0 ∨ copySrcKind ps = 3 ∨ copyDstKind ps = 3 →
       s.answers (.memCopy id) ((d.acted id).copyStep id).pump)) ∧
  (∀ (s : State) (d : Device) (tag : Fin 512) (r : Drd) (c : Cmd) (bs : List Byte), s.runs d →
     d.host.drds.find? (·.tag == tag.val) = some r → d.findCmd r.cmd = some c → c.posted = false → bs.length ≤ 256 →
     let rest := d.modHost fun h => { h with drds := h.drds.filter (·.tag != tag.val) }
     (bs.length = r.len → copyDstKind c.params ≠ 3 →
       s.answers (.drdCpl tag false bs)
         ((rest.copyPut r.cmd (bs.map fun b => (b, false))).copyStep r.cmd).pump) ∧
     s.answers (.drdCpl tag true bs) (rest.complete r.cmd Status.memHostAbort c.copyReply).pump ∧
     s.answers (.drdTimeout tag) (rest.complete r.cmd Status.memHostAbort c.copyReply))

/-! ### The logbook (R464 to R474) -/

/-- LOG_READ copies a range that is still whole to host memory and completes; LOG_STATUS replies; LOG_STREAM starts, and
stops, the stream (R472 to R474).
LOG_ENTRY_WRITE writes the oldest queued entry at P; LOG_STREAM_ROW copies the next whole row to the stream's range
(R466, R467, R474). -/
def Obligations.LogbookActs : Prop :=
  (∀ (s : State) (d : Device) (id : CmdId) (ps : List Byte), s.runs d →
     (d.ready id 0x0A01 ps → fieldAt ps 0 8 % 16 = 0 → fieldAt ps 8 8 % 16 = 0 → 16 ≤ fieldAt ps 8 8 →
       fieldAt ps 8 8 ≤ logBytes → d.log.p ≤ fieldAt ps 0 8 + logBytes → fieldAt ps 0 8 + fieldAt ps 8 8 ≤ d.log.p →
       d.host.linkUp = true →
       let data := d.log.read (fieldAt ps 0 8) (fieldAt ps 8 8)
       s.answers (.logRead id)
         (((d.acted id).dwr (fieldAt ps 16 8) data).complete id
           (if data.any (·.2) then Status.hbmPoisonData else Status.ok) (leBytes 8 (fieldAt ps 8 8)))) ∧
     (d.ready id 0x0A04 ps →
       s.answers (.logStatus id)
         ((d.acted id).complete id Status.ok
           (leBytes 8 d.log.p ++ leBytes 8 d.log.oldest ++ leBytes 8 d.log.streamPos ++ leBytes 4 d.log.dropped.toNat ++
             leBytes 1 d.log.stream.code ++ leBytes 1 0 ++ leBytes 2 d.log.lapped.toNat))) ∧
     (d.ready id 0x0A02 ps → fieldAt ps 0 1 = 1 → fieldAt ps 1 7 = 0 → d.hbmWaits (fieldAt ps 8 8) 1 = false →
       fieldAt ps 8 8 < hbmBytes → streamRangeOk (fieldAt ps 8 8) (fieldAt ps 16 8) = true →
       d.hbmOffline (fieldAt ps 8 8) (fieldAt ps 16 8) = false → d.log.stream = .off →
       s.answers (.logStream id)
         (((d.acted id).modLog (·.startStream (fieldAt ps 8 8) (fieldAt ps 16 8))).complete id Status.ok)) ∧
     (d.ready id 0x0A02 ps → ps.headD 0 = 0 → fieldAt ps 0 1 = 0 → fieldAt ps 1 7 = 0 → d.log.stream = .on →
       s.answers (.logStream id)
         ((d.acted id).modLog fun l => { l with stream := .stopping, streamCmd := some id }))) ∧
  (∀ (s : State) (d : Device), s.runs d →
     (∀ e rest, d.log.queue = e :: rest → d.log.unmarked = 0 →
       s.answers .logEntryWrite (d.modLog fun l => { l with queue := rest }.writeEntry e.kind e.payload)) ∧
     (d.log.stream = .on → (d.stack (stackOf d.log.streamBase)).state = 1 →
       d.log.streamPos + (64 - d.log.streamPos % 64) ≤ d.log.p →
       let n := 64 - d.log.streamPos % 64
       let data := d.log.read d.log.streamPos n
       s.answers .logStreamRow
         ((d.hbmWriteBurst (d.log.streamBase + d.log.streamPos % d.log.streamLen) (data.map (·.1)) (data.any (·.2))
           .patrol).modLog fun l => { l with streamPos := d.log.streamPos + n })))

/-- An entry that is written: P rises by a multiple of 16 that covers header and payload, SEQ by one, the entry is the
newest whole one, and nothing but the logbook's own fields changes (R465, R466, R468). -/
def Obligations.LogEntryAdvancesWriter : Prop :=
  ∀ (l : Logbook) (k : Nat) (pl : List Byte), pl.length + 32 ≤ logBytes →
    let t := l.writeEntry k pl
    t.p = l.p + logSize pl.length ∧ t.seq = l.seq + 1 ∧ t.starts.getLast? = some l.p ∧ t.queue = l.queue ∧
    (∀ q ∈ t.starts, t.p ≤ q + logBytes) ∧ t.dropped = l.dropped ∧ t.stream = l.stream

/-- EVENT_RECEIVE: the hub takes the oldest event of a pilot, or of those that reach it directly, records it and counts it
in the tick's EVENTS, and posts it where the route selects it: MODE 2 every event, MODE 1 those that halt (R231, R404,
R406).
HALT_REPORT: once every region has stopped, the report of a halted job is posted once, with status TICK_HALTED (R64). -/
def Obligations.EventsAndHaltReport : Prop :=
  (∀ (s : State) (d : Device) (e : EventRec) (rest : List EventRec), s.runs d →
     let selected := d.host.routeMode = 2 ∨ (d.host.routeMode = 1 ∧ haltingEvent e.code.toNat = true)
     let received (src : Nat) (t : Device) : Device :=
       (t.logEnter src 2 e.bytes).modTick fun t => { t with events := satInc t.events }
     let routed (src : Nat) (t : Device) : Device :=
       if selected then (received src t).postUnsolicited d.host.routeCpl 0x0107 e.bytes false else received src t
     (∀ r : Fin 8, (d.pilot r.val).events = e :: rest →
       s.answers (.eventReceive ⟨r.val, by omega⟩) (routed r.val (d.modPilot r.val fun p => { p with events := rest }))) ∧
     (d.hubEvents = e :: rest → s.answers (.eventReceive 8) (routed hubSource { d with hubEvents := rest }))) ∧
  (∀ (s : State) (d : Device), s.runs d → d.comb.halting = true → d.comb.haltReported = false →
     (∀ r, r < 8 → (d.pilot r).state = 6) →
     s.answers .haltReport
       ((d.modComb fun c => { c with halting := false, haltReported := true }).postReport 0x8405 d.comb.combAtHalt.toNat
         d.comb.haltTime))

/-! ### Comb sets (R43 to R45, R500) -/

/-- COMB_LOAD of an image that passes every check loads the set; COMB_VERIFY checks and loads nothing; both complete
(R44, R45, R500).
COMB_ACTIVATE of a loaded set, from LOADED or HALTED, or from ACTIVE with the tick OFF, activates it; COMB_UNLOAD
empties the set; COMB_STATUS replies (R43, R44). -/
def Obligations.CombCommands : Prop :=
  (∀ (s : State) (d : Device) (id : CmdId) (ps img : List Byte) (d' : Device), s.runs d → d.hlt.trip = false →
     d.loadWaits id = false → d.loadRange (fieldAt ps 0 8) (fieldAt ps 8 8) = none →
     (d.acted id).readImage (fieldAt ps 0 8) (fieldAt ps 8 8) = (some img, d') → d'.checkImage img = none →
     (d.ready id 0x0301 ps → d.comb.state = .empty ∨ d.comb.state = .loaded →
       s.answers (.combLoad id) ((d'.installSet img).complete id Status.ok)) ∧
     (d.ready id 0x0302 ps → s.answers (.combVerify id) (d'.complete id Status.ok))) ∧
  (∀ (s : State) (d : Device) (id : CmdId) (ps : List Byte), s.runs d →
     (∀ c, d.ready id 0x0303 ps → d.hlt.trip = false → d.clockLost = false → d.comb.state ≠ .empty →
       (d.comb.state = .active → d.tick.life = .off) → d.comb.set = some c →
       s.answers (.combActivate id) (((d.acted id).activate c).complete id Status.ok)) ∧
     (d.ready id 0x0304 ps → d.comb.state ≠ .empty → (d.comb.state = .active → d.tick.life = .off) →
       s.answers (.combUnload id) ((d.acted id).unload.complete id Status.ok)) ∧
     (d.ready id 0x0305 ps → s.answers (.combStatus id) ((d.acted id).complete id Status.ok d.combStatusReply)))

/-- What COMB_ACTIVATE leaves: the set ACTIVE on its ENTRY comb, every flag clear, every barrier, counter, endpoint and
ring of the message engines gone, no staged value, and the wait and stall limits as they were (R43, R236, R295, R308). -/
def Obligations.ActivationClearsJobState : Prop :=
  ∀ (d : Device) (c : CombSet),
    let t := d.activate c
    t.comb.state = .active ∧ t.comb.active = some c.entry ∧ t.comb.set = d.comb.set ∧ t.tick.staged = [] ∧
    t.host.cmds = d.host.cmds ∧ t.hbm = d.hbm ∧
    ∀ k, k < 4 →
      (t.home k).flags = [] ∧ (t.home k).bars = [] ∧ (t.home k).cnts = [] ∧ (t.home k).eps = [] ∧ (t.home k).rings = [] ∧
      (t.home k).waitLog2W = (d.home k).waitLog2W ∧ (t.home k).waitLog2E = (d.home k).waitLog2E

/-! ### The tick (R50 to R65) -/

/-- TICK_CONFIG stores its parameters while the tick is not ON, and for the strikes after the next while ON, with source
and ring as they are; TICK_START from OFF waits for the first strike, and in STOPPING is accepted pending; TICK_STATUS
replies (R50, R54, R55). TICK_STOP: at once while the tick is OFF; a running tick ends first, with the values that it
has still to load, and what is staged for later ticks is dropped; in STOPPING a pending start is cancelled (R54, R56).
TICK_STAGE adds its values for a tick that they can still reach (R56). -/
def Obligations.TickCommands : Prop :=
  (∀ (s : State) (d : Device) (id : CmdId) (ps : List Byte), s.runs d →
     (d.ready id 0x0401 ps → 50000 ≤ fieldAt ps 0 4 → fieldAt ps 0 4 ≤ 1000000000 → fieldAt ps 0 4 % 10 = 0 →
       fieldAt ps 4 1 ≤ 2 → fieldAt ps 5 1 ≤ 1 → fieldAt ps 7 1 = 0 → fieldAt ps 6 1 ≤ 15 →
       (fieldAt ps 4 1 ≠ 0 → 100 ≤ fieldAt ps 8 4 ∧ fieldAt ps 8 4 ≤ fieldAt ps 0 4 / 8) →
       (d.cplRing (fieldAt ps 6 1)).life = .on → d.tmin ≤ fieldAt ps 0 4 →
       let c : TickCfg := { period := fieldAt ps 0 4, source := sourceOf (fieldAt ps 4 1), catchUp := fieldAt ps 5 1 == 1,
                            cpl := fieldAt ps 6 1, window := fieldAt ps 8 4 }
       (d.tick.life ≠ .on → (d.tick.life ≠ .off → c.source = d.tick.cfg.source ∧ c.cpl = d.tick.cfg.cpl) →
         s.answers (.tickConfig id)
           (((d.acted id).modTick fun t => { t with cfg := c, next := none, configured := true }).complete id
             Status.ok)) ∧
       (d.tick.life = .on → c.source = d.tick.cfg.source → c.cpl = d.tick.cfg.cpl →
         s.answers (.tickConfig id)
           (((d.acted id).modTick fun t => { t with cfg := { t.cfg with catchUp := c.catchUp }, next := some c }).complete
             id Status.ok))) ∧
     (d.ready id 0x0402 ps → d.hlt.trip = false → d.clockLost = false → d.comb.state = .active →
       d.sourceUsable = true → d.tmin ≤ d.tick.cfg.period →
       (d.tick.life = .off → s.answers (.tickStart id) ((d.acted id).tickStarting.complete id Status.ok)) ∧
       (d.tick.life = .stopping →
         s.answers (.tickStart id)
           (((d.acted id).modTick fun t => { t with pendingStart := true }).complete id Status.acceptedPending))) ∧
     (d.ready id 0x0405 ps →
       s.answers (.tickStatus id)
         ((d.acted id).complete id Status.ok
           (leBytes 1 d.tick.life.code ++ leBytes 7 0 ++ leBytes 8 d.tick.number ++ leBytes 4 d.tick.early.toNat ++
             leBytes 4 d.tick.missing.toNat ++ leBytes 4 d.tick.skippedAll.toNat ++ leBytes 4 d.host.lostReports.toNat)))) ∧
  (∀ (s : State) (d : Device) (id : CmdId) (ps : List Byte), s.runs d →
     (d.ready id 0x0403 ps → d.tick.life = .off → s.answers (.tickStop id) ((d.acted id).complete id Status.ok)) ∧
     (d.ready id 0x0403 ps → d.tick.life = .on → d.tick.running.isSome = true →
       s.answers (.tickStop id)
         ((d.acted id).modTick fun t =>
           { t with life := .stopping, held := none,
                    staged := t.staged.filter fun x => !x.later && decide (x.tick ≤ t.number) })) ∧
     (d.ready id 0x0403 ps → d.tick.life = .stopping →
       s.answers (.tickStop id) ((d.acted id).modTick fun t => { t with pendingStart := false })) ∧
     (d.ready id 0x0404 ps → 1 ≤ fieldAt ps 8 2 → fieldAt ps 8 2 ≤ 64 → fieldAt ps 10 6 = 0 →
       (∀ e ∈ stageEntries ps, e.bad = false ∧ ∀ r, r < 8 → e.mask.testBit r = true →
         ∀ m, d.shapeMax r e.reg = some m → e.value ≤ m) →
       d.stageTimely (fieldAt ps 0 8) = true →
       let later := d.tick.life != .on
       let l := stageAll later (fieldAt ps 0 8) d.tick.staged (stageEntries ps)
       (l.filter fun x => x.later == later && x.tick == fieldAt ps 0 8).length ≤ 256 →
       s.answers (.tickStage id) (((d.acted id).modTick fun t => { t with staged := l }).complete id Status.ok)))

/-- The events that strike the tick (R50 to R53, R62, R367): the timer a PERIOD after the strike before, or at once for
the first; an accepted TICK_IN edge in its window; the fallback at the window's end; a held strike once the tick in
progress has ended; a master's strike when it is due. PILOT_STRIKE: the pilot of a region of the active comb starts the
tick at the first clk of its comb, with its program at index 0, the staged values of its region loaded, and the tick's
number (R51, R56, R230). -/
def Obligations.StrikesActOnTheirSource : Prop :=
  (∀ (s : State) (d : Device), s.runs d →
     (d.tick.cfg.source = .internal → d.struck = true → d.strikeBase + ns d.timing.period ≤ d.now →
       s.answers .tickTimerStrike (d.strikeOrAnnounce (d.strikeBase + ns d.timing.period) false)) ∧
     (d.tick.cfg.source = .internal → d.struck = false → d.tick.life = .starting → d.asleep = false →
       s.answers .tickTimerStrike (d.strikeOrAnnounce d.now false)) ∧
     (d.tick.cfg.source = .external → (d.input 0).edge = true → d.struck = true →
       d.strikeBase + ns (d.timing.period - d.timing.window) ≤ d.now →
       d.now ≤ d.strikeBase + ns (d.timing.period + d.timing.window) →
       s.answers .tickInEdge ((d.modInput 0 fun p => { p with edge := false }).strikeOrAnnounce d.now false)) ∧
     (d.tick.cfg.source = .external → (d.input 0).edge = true → d.struck = false → d.tick.life = .starting →
       d.asleep = false →
       s.answers .tickInEdge ((d.modInput 0 fun p => { p with edge := false }).strikeOrAnnounce d.now false)) ∧
     (d.timing.source ≠ .internal → (d.timing.source = .swarm → d.vxl.announced = []) → d.tick.life = .on →
       d.strikeBase + ns (d.timing.period + d.timing.window) ≤ d.now →
       let last := match d.vxl.lastMaster with | some w => w + 1 | none => 0
       let d' := if d.vxl.role = 2 then
           d.modVxl fun v => { v with lastMaster := some last, struckNos := last :: v.struckNos } else d
       s.answers .fallbackStrike
         ((d'.modTick fun t => { t with missing := satInc t.missing }).strikeOrAnnounce
           (d.strikeBase + ns (d.timing.period + d.timing.window)) true)) ∧
     (∀ k, d.tick.held = some k → d.tick.running = none → d.tick.life = .on →
       s.answers .caughtUpTickStart (d.beginTick k true)) ∧
     (∀ n time fb rest, d.vxl.role = 1 → d.vxl.announced = (n, time, fb) :: rest → time ≤ d.now →
       (d.tick.life = .starting → d.asleep = false) →
       s.answers .masterStrike ((d.modVxl fun v => { v with announced := rest }).strikeAt time fb)) ∧
     (d.vxl.role = 2 → d.tick.cfg.source = .swarm → d.tick.life = .on → d.vxl.fallbackSent = false →
       d.vxl.announced = [] →
       d.tick.prevStrike + ns (d.tick.cfg.period + d.tick.cfg.window) ≤ d.now + ns d.vxl.lead.toNat →
       s.answers .fallbackStrikeSend
         ((d.ownStrike.2.sendStrikes d.ownStrike.1 (match d.vxl.lastMaster with | some w => w + 1 | none => 0)
           (1000 * d.vxl.lead.toNat) true []).modVxl fun v => { v with fallbackSent := true }))) ∧
  (∀ (s : State) (d : Device) (r : Region), s.runs d → (d.pilot r.val).strikeDue = true → d.live r.val = true →
     d.comb.state = .active → (d.pilot r.val).idleUntilStrike = true →
     ∃ t, s.answers (.pilotStrike r) t ∧ (t.pilot r.val).strikeDue = false ∧ (t.pilot r.val).idleUntilStrike = false ∧
       (t.pilot r.val).drain = false ∧
       (t.pilot r.val).tick = BitVec.ofNat 32 d.tick.number ∧ (t.pilot r.val).combClk = 0 ∧ (t.pilot r.val).pc = 0 ∧
       (t.pilot r.val).shape =
         (stagedFor d.tick.staged r.val d.tick.number).foldl (fun q x => q.put x.reg x.value) (d.pilot r.val).shape ∧
       (∀ q, q ≠ r.val → t.pilot q = d.pilot q) ∧ t.hbm = d.hbm ∧ t.host = d.host ∧
       ((∀ u ∈ regionSites r.val, ((d.switch u).bufs.all fun p => p.2.hold.isEmpty) = true) → t.switches = d.switches))

/-- A strike that starts a tick gives the tick the number that was coming, numbers the next one after it, and reaches
every pilot; one that finds the tick still running is held under CATCH_UP, else skipped and counted (R51, R62). -/
def Obligations.StrikeStartsOrIsHeld : Prop :=
  ∀ (d : Device) (time : Nat) (fb : Bool),
    let t := d.strikeAt time fb
    (d.tick.life = .starting ∨ (d.tick.life = .on ∧ d.tick.running = none ∧ d.tick.held = none) →
      t.tick.life = .on ∧ t.tick.number = d.tick.coming ∧ t.tick.coming = d.tick.coming + 1 ∧
      t.tick.running = some ⟨d.tick.coming, time, fb⟩ ∧ t.tick.prevStrike = time ∧
      ∀ r, r < 8 → (t.pilot r).strikeDue = true) ∧
    (d.tick.life = .on → d.tick.running.isSome = true → d.tick.held = none →
      (d.tick.next.getD d.tick.cfg).catchUp = true → (d.tick.next.getD d.tick.cfg).source ≠ .swarm →
      t.tick.held = some ⟨d.tick.coming, time, fb⟩ ∧ t.tick.running = d.tick.running ∧ t.tick.overrun = true ∧
      t.tick.skippedAll = d.tick.skippedAll ∧ t.pilots = d.pilots) ∧
    (d.tick.life = .on → d.tick.running.isSome = true → d.tick.held = none →
      (d.tick.next.getD d.tick.cfg).catchUp = false →
      t.tick.held = none ∧ t.tick.running = d.tick.running ∧ t.tick.skippedAll = satInc d.tick.skippedAll ∧
      t.tick.skipped = satInc d.tick.skipped ∧ t.pilots = d.pilots) ∧
    (d.tick.life = .off ∨ d.tick.life = .stopping → t = d)

/-! ### Flags, barriers, counters (R279 to R295) -/

/-- FLAG_WRITE sends its change to the home, behind every change that waits there, while the set is ACTIVE;
BARRIER_CONFIG and COUNTER_CONFIG store a sound record and clear the flags it names, or are refused out of their states;
FLAG_CHANGE is one clk of a home that runs: the change that FLAG_WRITE sent takes effect in it and the command
completes; HOME_STOP applies what has been issued and stops the home (R280, R285, R286, R290, R295). -/
def Obligations.FlagCommandsAct : Prop :=
  ∀ (s : State) (d : Device) (id : CmdId) (ps : List Byte), s.runs d →
    (d.ready id 0x0501 ps → fieldAt ps 0 1 ≤ 3 → fieldAt ps 1 1 ≤ 1 → fieldAt ps 2 2 ≤ 4095 →
      (d.comb.state = .active →
        s.answers (.flagWrite id)
          ((d.acted id).modHome (fieldAt ps 0 1) fun h =>
            { h with reqs := h.reqs ++
                [{ flag := fieldAt ps 2 2, value := decide (fieldAt ps 1 1 = 1), parityOk := true, src := 7000,
                   cmd := some id, tid := none }] })) ∧
      (d.comb.state ≠ .active → s.answers (.flagWrite id) ((d.acted id).complete id Status.wagState))) ∧
    (let die := fieldAt ps 0 1
     let g := fieldAt ps 4 1
     let n := fieldAt ps 5 1
     let base := fieldAt ps 6 2
     let rel := fieldAt ps 8 2
     d.ready id 0x0502 ps → die ≤ 3 → fieldAt ps 1 3 = 0 → d.comb.state = .active → d.tick.life = .off → g ≤ 63 →
      n ≤ 64 → base ≤ 4095 → base + n ≤ 4096 → rel ≤ 4095 → (rel < base ∨ base + n ≤ rel) →
      misuseOk (fieldAt ps 10 2) = true →
      (∀ k, k < n → (d.home die).flagTaken (some g) none (base + k) = false) →
      (d.home die).flagTaken (some g) none rel = false →
      s.answers (.barrierConfig id)
        (((d.acted id).modHome die fun h =>
          { h with bars := h.bars.put g
                     { en := decide (0 < n), n := BitVec.ofNat 7 n, base := BitVec.ofNat 12 base, release := BitVec.ofNat 12 rel,
                       misuseFlag := BitVec.ofNat 16 (fieldAt ps 10 2), misuse := 0, rounds := 0 },
                   flags := h.flags.filter fun f => !(decide (base ≤ f ∧ f < base + n) || f == rel) }).latchWaits.complete
          id Status.ok)) ∧
    (let die := fieldAt ps 0 1
     let c := fieldAt ps 4 1
     let src := fieldAt ps 6 2
     let clr := fieldAt ps 8 2
     let out := fieldAt ps 10 2
     d.ready id 0x0503 ps → die ≤ 3 → fieldAt ps 1 3 = 0 → d.comb.state = .active → d.tick.life = .off → c ≤ 63 →
      fieldAt ps 5 1 ≤ 1 → src ≤ 4095 → clr ≤ 4095 → out ≤ 4095 → 1 ≤ fieldAt ps 12 2 →
      misuseOk (fieldAt ps 14 2) = true → src ≠ clr → src ≠ out → clr ≠ out →
      (d.home die).flagTaken none (some c) src = false → (d.home die).flagTaken none (some c) clr = false →
      s.answers (.counterConfig id)
        (((d.acted id).modHome die fun h =>
          { h with cnts := h.cnts.put c
                     { en := decide (fieldAt ps 5 1 = 1), saturated := false, src := BitVec.ofNat 12 src, clr := BitVec.ofNat 12 clr,
                       out := BitVec.ofNat 12 out, thresh := BitVec.ofNat 16 (fieldAt ps 12 2), count := 0,
                       misuseFlag := BitVec.ofNat 16 (fieldAt ps 14 2) },
                   flags := h.flags.filter fun f => !(f == src || f == clr || f == out) }).latchWaits.complete id
          Status.ok)) ∧
    (d.comb.state ≠ .active ∨ d.tick.life ≠ .off → fieldAt ps 0 1 ≤ 3 → fieldAt ps 1 3 = 0 →
      (d.ready id 0x0502 ps → s.answers (.barrierConfig id) ((d.acted id).complete id Status.wagState)) ∧
      (d.ready id 0x0503 ps → s.answers (.counterConfig id) ((d.acted id).complete id Status.wagState))) ∧
    (∀ k : Die, d.homeRuns k.val = true → (d.home k.val).reqs ≠ [] ∨ (d.home k.val).restless = true →
      s.answers (.flagChange k) (d.homeClk k.val).pump) ∧
    (∀ (k : Die) c f v, d.homeRuns k.val = true →
      (d.home k.val).reqs = [{ flag := f, value := v, parityOk := true, src := 7000, cmd := some id, tid := none }] →
      d.findCmd id = some c → c.posted = false →
      (∀ g, ((d.home k.val).bar g).en = false) → (∀ n, ((d.home k.val).counter n).en = false) →
      ∃ t : Device, s.answers (.flagChange k) t.pump ∧ t.flagVal k.val f = v ∧
          (∀ g, g ≠ f → t.flagVal k.val g = d.flagVal k.val g) ∧
        (t.home k.val).reqs = [] ∧ t.findCmd id = some { c with posted := true } ∧
        ∀ j, j ≠ k.val → t.home j = d.home j) ∧
    (∀ k : Die, d.comb.state = .halted → (d.home k.val).halted = false →
      s.answers (.homeStop k)
        ((d.drainHome k.val (2 * (d.home k.val).reqs.length + 2)).modHome k.val fun h => { h with halted := true }).pump ∧
      ((d.home k.val).reqs = [] → (d.home k.val).restless = false → ∀ n, d.drainHome k.val n = d))

/-- One clk of a home with no barrier group and no counter: a flag holds 1 after it where a set request names it, or where
it held 1 and no clear names it; the home's groups, counters, endpoints and rings stay (R280). -/
def Obligations.HomeClearsThenSets : Prop :=
  ∀ (h : Home) (die : Nat) (batch : List FlagReq), (∀ g, (h.bar g).en = false) → (∀ c, (h.counter c).en = false) →
    let t := (h.applyBatch die batch).1
    (∀ f, t.hasFlag f = true ↔
      (∃ q ∈ batch, q.value = true ∧ q.flag = f) ∨ (h.hasFlag f = true ∧ ¬∃ q ∈ batch, q.value = false ∧ q.flag = f)) ∧
    t.bars = h.bars ∧ t.cnts = h.cnts ∧ t.eps = h.eps ∧ t.rings = h.rings ∧ t.reqs = h.reqs ∧
        (h.applyBatch die batch).2 = []

/-- A barrier group all of whose arrival flags are set: they clear, its release flag changes value, and its rounds are
counted; a group that waits for an arrival changes nothing (R287). -/
def Obligations.BarrierReleases : Prop :=
  ∀ (h : Home) (die g : Nat), (h.bar g).en = true →
    ((∀ k, k < (h.bar g).n.toNat → h.hasFlag ((h.bar g).base.toNat + k) = true) →
      (h.bar g).arrives (h.bar g).release.toNat = false → (∀ k, k ≠ g → (h.bar k).arrives (h.bar g).release.toNat = false) →
      h.countersOf (h.bar g).release.toNat = [] →
      let t := h.evalGroup die g
      (∀ f, (h.bar g).arrives f = true → t.hasFlag f = false) ∧
      t.hasFlag (h.bar g).release.toNat = !h.hasFlag (h.bar g).release.toNat ∧
      (∀ f, (h.bar g).arrives f = false → f ≠ (h.bar g).release.toNat → t.hasFlag f = h.hasFlag f) ∧
      (t.bar g).rounds = satInc (h.bar g).rounds ∧ ∀ k, k ≠ g → t.bar k = h.bar k) ∧
    ((∃ k, k < (h.bar g).n.toNat ∧ h.hasFlag ((h.bar g).base.toNat + k) = false) → h.evalGroup die g = h)

/-! ### Message channels (R296 to R306) -/

/-- CHAN_OPEN and RING_CREATE with a sound record open a part that is OFF, wait for one that stops, and are refused for
one that is ON; CHAN_CLOSE and RING_DESTROY stop a part that is ON, end at once for one that is OFF, and cancel what
waits for one that stops; CHAN_STATUS replies; ENDPOINT_OFF and RING_OFF end a stop, complete its command and let what
waits take effect (R297 to R299, R306, R394). -/
def Obligations.ChannelLifeCycle : Prop :=
  ∀ (s : State) (d : Device) (id : CmdId) (ps : List Byte), s.runs d →
    let die := fieldAt ps 0 1
    (d.ready id 0x0506 ps → die ≤ 3 → fieldAt ps 1 3 = 0 → d.comb.state = .active →
      d.endpointRefused die (sliceAt ps 4 32) = none →
      let r := sliceAt ps 4 32
      let e := fieldAt r 0 1
      ((d.ep die e).state = .off →
        s.answers (.chanOpen id) (((d.acted id).modEp die e (·.opened r)).complete id Status.ok)) ∧
      ((d.ep die e).state = .stopping →
        s.answers (.chanOpen id)
          (((d.acted id).modEp die e fun x => { x with pendingOpen := some r }).complete id Status.acceptedPending)) ∧
      ((d.ep die e).state = .on → s.answers (.chanOpen id) ((d.acted id).complete id Status.wagBusy))) ∧
    (d.ready id 0x0504 ps → die ≤ 3 → fieldAt ps 1 3 = 0 → d.comb.state = .active →
      d.ringRefused die (sliceAt ps 4 24) = none →
      let r := sliceAt ps 4 24
      let g := fieldAt r 0 1
      ((d.ring_ die g).state = .off →
        s.answers (.ringCreate id) (((d.acted id).openMsgRing die g r).complete id Status.ok)) ∧
      ((d.ring_ die g).state = .stopping →
        s.answers (.ringCreate id)
          (((d.acted id).modRing die g fun x => { x with pendingCreate := some r }).complete id Status.acceptedPending)) ∧
      ((d.ring_ die g).state = .on → s.answers (.ringCreate id) ((d.acted id).complete id Status.wagBusy))) ∧
    (d.ready id 0x0507 ps → die ≤ 3 → fieldAt ps 1 1 ≤ 63 → fieldAt ps 2 2 = 0 → d.comb.state = .active →
      let e := fieldAt ps 1 1
      ((d.ep die e).state = .on →
        s.answers (.chanClose id)
          ((d.acted id).modEp die e fun x => { x with state := .stopping, closeCmd := some id })) ∧
      ((d.ep die e).state = .stopping →
        s.answers (.chanClose id)
          ((d.acted id).modEp die e fun x => { x with pendingOpen := none, closeCmd := some id })) ∧
      ((d.ep die e).state = .off → s.answers (.chanClose id) ((d.acted id).complete id Status.ok))) ∧
    (d.ready id 0x0505 ps → die ≤ 3 → fieldAt ps 1 1 ≤ 63 → fieldAt ps 2 2 = 0 → d.comb.state = .active →
      let g := fieldAt ps 1 1
      ((d.ring_ die g).state = .on →
        s.answers (.ringDestroy id)
          ((d.acted id).modRing die g fun x => { x with state := .stopping, destroyCmd := some id })) ∧
      ((d.ring_ die g).state = .stopping →
        s.answers (.ringDestroy id)
          ((d.acted id).modRing die g fun x => { x with pendingCreate := none, destroyCmd := some id })) ∧
      ((d.ring_ die g).state = .off → s.answers (.ringDestroy id) ((d.acted id).complete id Status.ok))) ∧
    (d.ready id 0x0508 ps → die ≤ 3 → fieldAt ps 1 1 ≤ 1 → fieldAt ps 2 1 ≤ 63 → fieldAt ps 3 1 = 0 →
      d.comb.state ≠ .halted → (d.home die).halted = false →
      let x := d.ep die (fieldAt ps 2 1)
      let y := d.ring_ die (fieldAt ps 2 1)
      s.answers (.chanStatus id)
        ((d.acted id).complete id Status.ok
          (if fieldAt ps 1 1 = 0 then sliceAt x.record 0 32 ++ leBytes 4 x.regState ++ leBytes 4 x.seq.toNat
           else sliceAt y.record 0 24 ++ leBytes 4 (y.reg 0) ++ leBytes 4 (y.reg 1) ++ leBytes 4 (y.reg 2) ++
             leBytes 4 (y.reg 3)))) ∧
    (∀ (k : Die) (e : Fin 64), let x := d.ep k.val e.val
      x.state = .stopping → (x.busy = true → x.due = true ∧ d.engineReaches (epSite k.val x.record) = true) →
      let off := (if x.busy then d.endSend k.val e.val 3 else d).modEp k.val e.val fun x =>
        { x with state := .off, closeCmd := none, pendingOpen := none }
      (x.closeCmd = some id → x.pendingOpen = none → s.answers (.endpointOff k e) (off.complete id Status.ok)) ∧
      (∀ r, x.closeCmd = some id → x.pendingOpen = some r →
        s.answers (.endpointOff k e) ((off.complete id Status.ok).modEp k.val e.val (·.opened r)))) ∧
    (∀ (k : Die) (g : Fin 64), let x := d.ring_ k.val g.val
      x.state = .stopping → d.copiesInto k.val g.val = false →
      let off := d.modRing k.val g.val fun x =>
        { x with state := .off, head := 0, tail := 0, used := 0, msgs := [], inboxFull := false, destroyCmd := none,
                 pendingCreate := none }
      (x.destroyCmd = some id → x.pendingCreate = none → s.answers (.ringOff k g) (off.complete id Status.ok)) ∧
      (∀ r, x.destroyCmd = some id → x.pendingCreate = some r →
        s.answers (.ringOff k g) ((off.complete id Status.ok).openMsgRing k.val g.val r)))

/-- The message engines: CHAN_SEND takes up a send and makes its first attempt, or ends it where its outbox is not
sound, SEND_RETRY makes the next; PLACEMENT_REQUEST serves another die's or device's request, PLACEMENT_REPLY takes a
die's answer; MESSAGE_COPY_DONE ends a delivered send; RING_RELEASE lets the head message go, or counts a misuse where
the inbox is empty; PLACEMENT_TIMEOUT poisons what a remote sender left unwritten (R296, R301 to R304, R363). -/
def Obligations.MessageEngineActs : Prop :=
  ∀ (s : State) (d : Device) (k : Die), s.runs d →
    (∀ (e : Fin 64) d', d.sendReady k.val e.val = true → d.sendTurn k.val e.val = true →
      d.canOriginate (24 + k.val) = true → d.takeUpSend k.val e.val = (true, d') →
      s.answers (.chanSend k e) (d'.attempt k.val e.val).pump) ∧
    (∀ (e : Fin 64) d', d.sendReady k.val e.val = true → d.sendTurn k.val e.val = true →
      d.canOriginate (24 + k.val) = true → d.takeUpSend k.val e.val = (false, d') → s.answers (.chanSend k e) d') ∧
    (∀ e : Fin 64, (d.ep k.val e.val).state = .on → (d.ep k.val e.val).busy = true → (d.ep k.val e.val).due = true →
      d.sendTurn k.val e.val = true → d.canOriginate (24 + k.val) = true →
      s.answers (.sendRetry k e)
        (((d.engineAt k.val false e.val).modEp k.val e.val fun x => { x with due := false }).attempt k.val e.val).pump) ∧
    (∀ q rest, (d.home k.val).requests = q :: rest → q.tid = none → d.engineFree k.val = true →
      d.releaseDue k.val = none → d.ringReached k.val q.ring = true →
      let d₀ := (d.modHome k.val fun h => { h with requests := rest }).engineAt k.val false q.endpoint
      let r := d₀.placeIn k.val q.ring
        ((d₀.ep q.fromDie q.endpoint).msg q.endpoint (d₀.outboxLen q.fromDie q.endpoint) none)
      s.answers (.placementRequest k)
        (r.2.2.modHome q.fromDie fun h =>
          { h with replies := h.replies ++
              [{ endpoint := q.endpoint, die := k.val, ring := q.ring, result := r.1, row := r.2.1 }] })) ∧
    (∀ q tid rest, (d.home k.val).requests = q :: rest → q.tid = some tid → d.engineFree k.val = true →
      d.releaseDue k.val = none → d.ringReached k.val q.ring = true →
      let d₀ := (d.modHome k.val fun h => { h with requests := rest }).engineAt k.val false q.endpoint
      let r := d₀.placeIn k.val q.ring
        { row := 0, rows := q.rows, endpoint := 0, len := 0, seq := 0, deliverable := false, wrap := false,
          remote := some q.device, fill := q.rows }
      s.answers (.placementRequest k)
        ((((r.2.2.modHome k.val fun h => { h with kept := ((tid, r.1, r.2.1) :: h.kept).take 64 }).modVxl
          (·.finish tid)).post q.device (.placeResp tid r.1 (BitVec.ofNat 16 r.2.1))).pump)) ∧
    (∀ p rest, (d.home k.val).replies = p :: rest → d.engineFree k.val = true →
      d.engineReaches (epSite k.val (d.ep k.val p.endpoint).record) = true →
      s.answers (.placementReply k)
        ((d.modHome k.val fun h => { h with replies := rest }).placed k.val p.endpoint p.result p.die p.ring p.row)) ∧
    (∀ c rest d', (d.home k.val).copies = c :: rest → d.engineOn k.val = true →
      d.engineReaches (rgSite c.die (d.ring_ c.die c.ring).record) = true →
      d.engineReaches (epSite k.val (d.ep k.val c.endpoint).record) = true →
      ∀ rows, d.messageRows k.val c.endpoint = (rows, d') →
      let u := rgSite c.die (d.ring_ c.die c.ring).record
      let base := rgBase (d.ring_ c.die c.ring).record + c.row
      let written := (rows.zip (List.range rows.length)).foldl (fun d p => d.engineWrite u (base + p.2) p.1.1 p.1.2) d'
      s.answers (.messageCopyDone k)
        ((((written.modHome k.val fun h => { h with copies := rest }).modRing c.die c.ring fun g =>
          g.modMsg c.row fun m => { m with deliverable := true, fill := 0 }).endSend k.val c.endpoint 1).tryDeliver c.die
          c.ring)) ∧
    (∀ g : Fin 64, d.engineFree k.val = true → d.releaseDue k.val = some g.val →
      (d.ring_ k.val g.val).inboxFull = true →
      s.answers (.ringRelease k g)
        ((((d.engineAt k.val true g.val).engineFlag k.val (rgRelease (d.ring_ k.val g.val).record) false).modRing k.val
          g.val (·.release)).tryDeliver k.val g.val)) ∧
    (∀ g : Fin 64, d.engineFree k.val = true → d.releaseDue k.val = some g.val →
      (d.ring_ k.val g.val).inboxFull = false →
      s.answers (.ringRelease k g)
        ((((d.engineAt k.val true g.val).engineFlag k.val (rgRelease (d.ring_ k.val g.val).record) false).modHome k.val
          fun h => { h with misRing := satInc h.misRing }).raiseOnce (2 * k.val) 0x48 (BitVec.ofNat 32 g.val))) ∧
    (∀ (g : Fin 64) m, (d.ring_ k.val g.val).msgs.find? (fun m => !m.wrap && m.remote.isSome && !m.deliverable) = some m →
      d.engineOn k.val = true → d.engineReaches (rgSite k.val (d.ring_ k.val g.val).record) = true →
      let u := rgSite k.val (d.ring_ k.val g.val).record
      let row := rgBase (d.ring_ k.val g.val).record + m.row
      s.answers (.placementTimeout k g)
        (((d.engineWrite u row ((d.su u).sram.bytes (64 * row) 64) true).modRing k.val g.val fun r =>
          r.modMsg m.row fun m => { m with deliverable := true, remote := none, fill := 0 }).tryDeliver k.val g.val))

/-- A placement that succeeds: the message lies whole in the ring, last in it; used and tail rise by its rows and by those
a wrap passes. One that does not succeed changes nothing (R302). -/
def Obligations.PlacementStaysInRing : Prop :=
  ∀ (g : MsgRing) (m : RingMsg), g.head < rgRows g.record → g.tail < rgRows g.record →
    let r := g.place m
    (r.1 = .ok →
      r.2.1 + m.rows ≤ rgRows g.record ∧ r.2.2.2.msgs.getLast? = some { m with row := r.2.1 } ∧
      (r.2.1 = g.tail ∧ r.2.2.1 = none ∧ r.2.2.2.used = g.used + m.rows ∨
        r.2.1 = 0 ∧ r.2.2.1 = some g.tail ∧ r.2.2.2.used = g.used + (rgRows g.record - g.tail) + m.rows) ∧
      (g.head ≤ g.tail → r.2.1 = 0 → r.2.2.1 ≠ none → m.rows ≤ g.head) ∧
      r.2.2.2.head = g.head ∧ r.2.2.2.inboxFull = g.inboxFull) ∧
    (r.1 ≠ .ok → r.2.2.2 = g ∧ r.2.2.1 = none) ∧
    (r.1 = .size ↔ g.state = .on ∧ (rgRows g.record < m.rows ∨ rgInboxRows g.record < m.rows)) ∧
    (r.1 = .closed ↔ g.state ≠ .on)

/-! ### Power, clocks and health (R411 to R439) -/

/-- The commands of the power and health families, on parameters that their rules allow: each stores what it names, or
replies; LEEWAY_SET lowers T to the deepest state that the leeway still allows; a PWR_STATE completes once no wake is in
progress; thresholds wait for the next sensor read; a card moves the setpoints of the running regions at once (R236, R293,
R411 to R418, R425 to R427, R433, R437, R438, R475, R494). -/
def Obligations.PowerAndHealthCommands : Prop :=
  ∀ (s : State) (d : Device) (id : CmdId) (ps : List Byte), s.runs d →
    (d.ready id 0x0601 ps → ∃ t,
      (wakeFits d.pwr.target.toNat (fieldAt ps 0 4) = true → t = d.pwr.target.toNat) ∧
      (wakeFits d.pwr.target.toNat (fieldAt ps 0 4) = false →
        wakeFits t (fieldAt ps 0 4) = true ∧ t < d.pwr.target.toNat ∧
          ∀ k, t < k → k < d.pwr.target.toNat → wakeFits k (fieldAt ps 0 4) = false) ∧
      s.answers (.leewaySet id)
        (((d.acted id).modPwr fun p =>
          { p with leeway := BitVec.ofNat 32 (fieldAt ps 0 4), target := BitVec.ofNat 3 t }).settle.complete id
            Status.ok)) ∧
    (∀ x : Device, let y := x.toState.parkSets
      (∀ id', y.pwr.stateCmd = some id' → y.pwr.wakeTo = none →
        x.settle = (y.modPwr fun p => { p with stateCmd := none }).complete id' Status.ok) ∧
      (y.pwr.stateCmd = none ∨ y.pwr.wakeTo.isSome = true → x.settle = y)) ∧
    (d.ready id 0x0602 ps → fieldAt ps 1 3 = 0 → fieldAt ps 0 1 ≤ 3 →
      wakeFits (fieldAt ps 0 1) d.pwr.leeway.toNat = true → (fieldAt ps 0 1 = 3 → d.tick.life = .off) →
      s.answers (.pwrState id)
        ((d.acted id).modPwr fun p => { p with target := BitVec.ofNat 3 (fieldAt ps 0 1), stateCmd := some id }).settle) ∧
    (d.ready id 0x0603 ps → fieldAt ps 2 2 = 0 → fieldAt ps 0 1 ≤ 7 → fieldAt ps 1 1 ≤ 4 →
      d.hlt.trip = false → d.clockLost = false → (d.pwrRegion (fieldAt ps 0 1)).heldOff = false →
      (∀ k ∈ d.combs, k.code (fieldAt ps 0 1) ≤ fieldAt ps 1 1) →
      let set := (d.acted id).modPwrRegion (fieldAt ps 0 1) fun g => { g with ceiling := BitVec.ofNat 4 (fieldAt ps 1 1) }
      s.answers (.pwrRegion id)
        (if fieldAt ps 1 1 = 0 then (set.placeRegion set.pwr.state.toNat (fieldAt ps 0 1)).complete id Status.ok
         else if (d.pwrRegion (fieldAt ps 0 1)).ceiling = 0 then
           set.modPwrRegion (fieldAt ps 0 1) fun g => { g with startCmd := some id }
         else set.complete id Status.ok)) ∧
    (d.ready id 0x0604 ps →
      s.answers (.pwrStatus id)
        ((d.acted id).complete id Status.ok
          (leBytes 4 d.regPwrState ++ leBytes 4 d.pwr.leeway.toNat ++ leBytes 4 d.regPwrPackage ++
            leBytes 1 d.seq.status.toNat ++
            leBytes 1 (natOfBool d.seq.ref0 + 2 * natOfBool d.seq.ref1 + 4 * natOfBool d.seq.swapped) ++
            leBytes 1 d.seq.diodeFault.toNat ++ leBytes 1 0 ++ leBytes 4 d.seq.railsOn.toNat ++
            leBytes 4 d.seq.railsShort.toNat ++ leBytes 4 d.seq.railsWindow.toNat ++ leBytes 4 0))) ∧
    (d.ready id 0x0605 ps → 1000 ≤ fieldAt ps 0 4 → fieldAt ps 0 4 ≤ 2000 →
      s.answers (.pwrLimit id)
        (((d.acted id).modPwr fun p => { p with limit := BitVec.ofNat 16 (fieldAt ps 0 4) }).evalEmergencies.complete id
          Status.ok)) ∧
    (d.ready id 0x0701 ps → fieldAt ps 1 3 = 0 → fieldAt ps 0 1 = 0 →
      s.answers (.hltRead id)
        ((d.acted id).complete id Status.ok ((List.range 264).flatMap (fun i => leBytes 2 (d.sensorWord i)) ++
          (List.range 8).flatMap fun k => leBytes 2 (16 * (d.stack k).temp.toNat)))) ∧
    (d.ready id 0x0701 ps → fieldAt ps 1 3 = 0 → fieldAt ps 0 1 = 2 →
      s.answers (.hltRead id)
        ((d.acted id).complete id Status.ok ((List.range 8).flatMap fun r =>
          leBytes 4 (d.pwrRegion r).oscillator.toNat ++ leBytes 4 (d.sec.fuses.oscillators.getD r 0).toNat))) ∧
    (d.ready id 0x0701 ps → fieldAt ps 1 3 = 0 → fieldAt ps 0 1 = 1 →
      s.answers (.hltRead id)
        (((List.range 8).foldl (fun d r => d.modPwrRegion r fun g => { g with lowest := 0xFFFF }) (d.acted id)).complete id
          Status.ok ((List.range 8).flatMap d.voltReadout ++ leBytes 4 d.pwr.powerDeci.toNat))) ∧
    (d.ready id 0x0702 ps → d.tick.life = .off → d.hlt.trip = false →
      let stored := ((d.acted id).modHlt fun h => { h with card := some ps }).modSec fun x => { x with
          cardHash := sha256 ps }
      (cardOk d.sec.fuses.serial ps = true →
        s.answers (.devcardLoad id)
          (((List.range 8).foldl (fun d r =>
            if (d.pwrRegion r).freq = 0 then d else d.setFreq r (d.pwrRegion r).freq.toNat) stored).complete id Status.ok)) ∧
      (cardOk d.sec.fuses.serial ps = false →
        s.answers (.devcardLoad id)
          (((d.acted id).modHlt fun h => { h with refused := satInc h.refused }).complete id Status.devcardFormat))) ∧
    (let st := fieldAt ps 1 1
     let wt := fieldAt ps 2 1
     d.ready id 0x0703 ps → fieldAt ps 3 1 = 0 → (st = 0 ∨ 12 ≤ st ∧ st ≤ 26) → (wt = 0 ∨ 12 ≤ wt ∧ wt ≤ 32) →
      ∃ t : Device, s.answers (.watchdogSet id) (t.complete id Status.ok) ∧
        (∀ r, r < 8 → (t.pilot r).stallNext =
          if (fieldAt ps 0 1).testBit r ∧ st ≠ 0 then some (BitVec.ofNat 5 st) else (d.pilot r).stallNext) ∧
        (∀ k, k < 4 → (t.home k).waitNextW =
            (if (fieldAt ps 0 1).testBit (2 * k) ∧ wt ≠ 0 then some (BitVec.ofNat 6 wt) else (d.home k).waitNextW) ∧
          (t.home k).waitNextE =
            if (fieldAt ps 0 1).testBit (2 * k + 1) ∧ wt ≠ 0 then some (BitVec.ofNat 6 wt) else (d.home k).waitNextE) ∧
        { t with pilots := d.pilots, homes := d.homes } = d.acted id) ∧
    (d.ready id 0x0704 ps → fieldAt ps 1 3 = 0 → fieldAt ps 0 1 < 8 →
      (∀ i, i < 3 → (fieldAt ps 0 1).testBit i = true → (d.input i).level = false) →
      s.answers (.inputClear id)
        (((List.range 3).foldl (fun d i =>
          if (fieldAt ps 0 1).testBit i then d.modInput i fun p => { p with stuck := false } else d)
          (d.acted id)).complete id Status.ok)) ∧
    (d.ready id 0x0705 ps →
      threshOk (fieldAt ps 0 2) (fieldAt ps 2 2) (fieldAt ps 4 2) (fieldAt ps 6 2) (fieldAt ps 8 2) (fieldAt ps 10 2)
        (fieldAt ps 12 2) = true → fieldAt ps 14 2 = 0 →
      s.answers (.hltThresh id)
        (((d.acted id).modHlt fun h =>
          { h with
            threshNext := some { warn := BitVec.ofNat 16 (fieldAt ps 0 2), emerg := BitVec.ofNat 16 (fieldAt ps 2 2),
                                 trip := BitVec.ofNat 16 (fieldAt ps 4 2), hyst := BitVec.ofNat 16 (fieldAt ps 6 2),
                                 droopWarn := BitVec.ofNat 16 (fieldAt ps 8 2),
                                 droopLimit := BitVec.ofNat 16 (fieldAt ps 10 2),
                                 hbmEmerg := BitVec.ofNat 16 (fieldAt ps 12 2) } }).complete id Status.ok)) ∧
    (d.ready id 0x0A03 ps → fieldAt ps 0 4 % 4 = 0 → fieldAt ps 4 4 % 4 = 0 → 4 ≤ fieldAt ps 4 4 →
      fieldAt ps 4 4 ≤ 4096 → counterRangeOk (fieldAt ps 0 4) (fieldAt ps 4 4) = true →
      let r := (d.acted id).counterRange (fieldAt ps 4 4 / 4) (fieldAt ps 0 4)
      s.answers (.counterRead id) (r.2.complete id Status.ok r.1))

/-- The monitors (R421 to R424, R427 to R431): what each sample, step and end of an emergency or trip does; a sensor read
takes up the thresholds that wait for it (R426).
Power states and pins (R411 to R418, R432 to R434): the end of gating, a wake, the start of a region; the filter of
the inputs, and the latch of a stuck one. -/
def Obligations.MonitorsAndPins : Prop :=
  (∀ (s : State) (d : Device), s.runs d →
     (∀ vs,
       let read := ((d.modHlt (·.takeThresh)).readSensors 0 vs).modHlt fun h =>
           (List.range 5).foldl (fun h die => h.evalMax die) h
       let eval := ((List.range 4).foldl (fun d die => d.evalWarn die) read).evalEmergencies
       let cool := eval.modHlt fun h =>
         { h with coolSince := if h.allCool then (match h.coolSince with | some t => some t | none => some eval.now) else none }
       (cool.hlt.tripping = none ∨ cool.hlt.trip = true → s.answers (.sensorRead vs) cool) ∧
       (∀ i t, cool.hlt.tripping = some (i, t) → cool.hlt.trip = false →
         s.answers (.sensorRead vs) (cool.trip (sensorPlace i).1 (sensorPlace i).2 t))) ∧
     (∀ t, d.hlt.trip = true → d.hlt.coolSince = some t → t + ns 100000000 ≤ d.now →
       s.answers .tripClear
         ((List.range 8).foldl (fun d r =>
           (d.modPwrRegion r fun g => { g with halted := false }).placeRegion d.pwr.state.toNat r)
           (d.modHlt fun h => { h with trip := false }))) ∧
     (∀ die : Die, (d.emergency die.val).triggers ≠ 0 →
       let begun :=
         if (d.emergency die.val).holds then d
         else ((d.modEmerg die.val fun e => { e with holds := true }).modPwr fun p =>
           { p with emergCount := satInc p.emergCount }).raiseHub 0xFF 0x71
             (BitVec.ofNat 32 ((d.emergency die.val).triggers + 256 * die.val))
       let down (d : Device) (r : Nat) : Device :=
         if (d.pwrRegion r).freq.toNat ≤ 1 then d
         else { d.setFreq r ((d.pwrRegion r).freq.toNat - 1) with
                relock := if d.relock.contains die.val then d.relock else die.val :: d.relock }
       s.answers (.emergencyStep die) (down (down begun (2 * die.val)) (2 * die.val + 1)).markBelow) ∧
     (∀ (die : Die) t, (d.emergency die.val).clearSince = some t → (d.emergency die.val).holds = true →
       t + ns 1000000 ≤ d.now →
       let ended := (d.modEmerg die.val fun e => { e with holds := false }).raiseHub 0xFF 0x72 (BitVec.ofNat 32 die.val)
       s.answers (.emergencyEnd die) (if d.tick.life = .off then ended.idleFreqs else ended)) ∧
     (∀ w, s.answers (.packagePowerSample w)
       (d.modPwr fun p => { p with powerDeci := w, power := BitVec.ofNat 16 (w.toNat / 10) }).evalEmergencies) ∧
     (∀ (r : Region) (measured : BitVec 16),
       let v : BitVec 16 := BitVec.ofNat 16 (measured.toNat + d.droopTrim r.val).toNat
       let set := d.setpoint r.val (d.pwrRegion r.val).freq.toNat
       let kept := d.modPwrRegion r.val fun g => { g with lowest := if v.toNat < g.lowest.toNat then v else g.lowest }
       let warned := (kept.modPwrRegion r.val fun g => { g with droopWarn := satInc g.droopWarn }).raiseOnce r.val 0x74
         (v.setWidth 32)
       (set ≤ d.hlt.droopWarn.toNat + v.toNat → s.answers (.voltDroop r measured) kept) ∧
       (d.hlt.droopWarn.toNat + v.toNat < set → set < d.hlt.droopLimit.toNat + v.toNat →
         s.answers (.voltDroop r measured) warned) ∧
       (d.hlt.droopWarn.toNat + v.toNat < set → d.hlt.droopLimit.toNat + v.toNat ≤ set →
         s.answers (.voltDroop r measured)
           (((warned.modPwrRegion r.val fun g => { g with droopLimit := satInc g.droopLimit }).record 8 1
             (warned.atRegion r.val) (leBytes 2 v.toNat ++ leBytes 2 set)).raiseOnce r.val 0x75 (v.setWidth 32)))) ∧
     (∀ (r : Region) (n : Word), s.answers (.oscillatorSample r n) (d.modPwrRegion r.val fun g => { g with
         oscillator := n })) ∧
     (∀ (k : StackIx) (t : BitVec 8),
       s.answers (.hbmTempRead k t)
         ((d.modStack k.val fun x => { x with temp := t, hot := decide (85 < t.toNat) }).evalEmergency (k.val / 2)))) ∧
  (∀ (s : State) (d : Device), s.runs d →
     (d.idleOk = false → d.pwr.state = 1 → d.pwr.wakeTo = none → s.answers .gatingEnd (d.enterState 0)) ∧
     (∀ t, d.pwr.wakeTo = some t → s.answers .wakeComplete (d.enterState t.toNat).settle) ∧
     (∀ (high : Bool) (held : Nat),
       s.answers (.tickInPin high held) (d.modInput 0 fun p => p.drive 0 high held d.now) ∧
       s.answers (.throttleN high held) (d.modInput 1 fun p => p.drive 1 high held d.now).evalEmergencies ∧
       (((d.input 2).drive 2 high held d.now).edge = false →
         s.answers (.wakePin high held) (d.modInput 2 fun p => p.drive 2 high held d.now)) ∧
       (((d.input 2).drive 2 high held d.now).edge = true →
         let woken := (d.modInput 2 fun p => p.drive 2 high held d.now).modInput 2 fun p => { p with edge := false }
         s.answers (.wakePin high held)
           (if 2 ≤ d.pwr.target.toNat then (woken.modPwr fun p => { p with target := 1 }).settle else woken))) ∧
     (∀ i : Fin 3, (d.input i.val).level = true → (d.input i.val).stuck = false →
       (d.input i.val).since + ns (inputStuckNs i.val) < d.now →
       s.answers (.inputStuck i)
         ((d.modInput i.val fun p => { p with stuck := true, edge := false }).raiseHub 0xFF 0x76
           (BitVec.ofNat 32 i.val)).evalEmergencies) ∧
     (∀ (p : Input) (i held now : Nat) (a : Bool),
       (a = p.level → p.drive i a held now = p) ∧
       (a ≠ p.level → held < 50 → p.drive i a held now = { p with glitch := satInc p.glitch }) ∧
       (a = false → p.level = true → 50 ≤ held → (p.drive i a held now).level = false ∧ (p.drive i a held now).edge =
           false) ∧
       (a = true → p.level = false → 50 ≤ held → (∀ t, p.lastAssert = some t → t + ns (inputInterval i) ≤ now) →
         (p.drive i a held now).level = true ∧ (p.drive i a held now).edge = !p.stuck ∧
           (p.drive i a held now).lastAssert = some now) ∧
       (a = true → p.level = false → 50 ≤ held → (∃ t, p.lastAssert = some t ∧ now < t + ns (inputInterval i)) →
         (p.drive i a held now).rate = satInc p.rate ∧ (p.drive i a held now).edge = p.edge ∧
           (p.drive i a held now).ignored = true)))

/-! ### Faults, boot and security (R447 to R463) -/

/-- FW_LOAD of a sound image starts it, a COMMIT once its rollback bits have been blown and read back; a poisoned row, a
failed check or a bit that does not read back fails the load; ATTEST signs the report that stood when it started,
CERT_READ and SEC_STATUS reply (R453, R456, R459 to R462). A clock that is lost halts the job, is recorded and raised; it is good again after 1 ms;
a command processor that fails lockstep or its watchdog halts the job, and restarts as the recovery loader with ring
SRAM, HBM, the ring registers and the logbook kept (R447, R448, R463). -/
def Obligations.SecurityAndRestart : Prop :=
  (∀ (s : State) (d : Device) (id : CmdId) (ps : List Byte), s.runs d →
     (let off := fieldAt ps 0 4
      let len := fieldAt ps 4 4
      let img := d.ring.bytes off len
      d.ready id 0x0801 ps → d.host.loader ≠ 2 → off % 64 = 0 → 320 ≤ len → len ≤ 0x600000 → 0x9000 ≤ off →
       off + len ≤ 0x800000 →
       (d.ring.rangeBad off len = false → imageCheck d.sec.fuses img = none →
         let c := if (fieldAt img 6 2).testBit 2 then d.sec.fuses.commit (fieldAt img 0x0C 4) else (d.sec.fuses, true)
         let blown := (d.acted id).modSec fun x => { x with fuses := c.1 }
         (c.2 = true →
           s.answers (.fwLoad id)
             ((blown.fwStart img).complete id Status.ok (leBytes 4 (fieldAt img 8 4) ++ leBytes 4 c.1.rollback))) ∧
         (c.2 = false → s.answers (.fwLoad id) (blown.fwFailure id 6 (fieldAt img 8 4)))) ∧
       (d.ring.rangeBad off len = true → s.answers (.fwLoad id) ((d.acted id).fwFailure id 7 (fieldAt img 8 4))) ∧
       (∀ k, d.ring.rangeBad off len = false → imageCheck d.sec.fuses img = some k →
         s.answers (.fwLoad id) ((d.acted id).fwFailure id k (fieldAt img 8 4)))) ∧
     (d.ready id 0x0802 ps →
       let front := d.cmdFront id
       s.answers (.attest id)
         ({ d.acted id with free := d.free + 1 }.complete id Status.ok
           (let sig := ecdsaSign (sha256Nat front) d.sec.fuses.signKey (Config.signNonce d.free).toNat
            front ++ beBytes 32 sig.1 ++ beBytes 32 sig.2))) ∧
     (d.ready id 0x0803 ps → fieldAt ps 1 3 = 0 → fieldAt ps 0 1 ≤ 2 →
       let cert := d.sec.fuses.certs.getD (fieldAt ps 0 1) []
       let off := fieldAt ps 4 4
       off < cert.length →
       s.answers (.certRead id)
         ((d.acted id).complete id Status.ok
           (leBytes 2 cert.length ++ leBytes 2 (min 4092 (cert.length - off)) ++
             (cert.drop off).take (min 4092 (cert.length - off))))) ∧
     (d.ready id 0x0804 ps →
       s.answers (.secStatus id)
         ((d.acted id).complete id Status.ok
           (leBytes 4 d.sec.release.toNat ++ leBytes 4 d.sec.fuses.rollback ++ leBytes 2 d.sec.flags.toNat ++
             leBytes 1 (natOfBool d.sec.fuses.fuseOk + 2 * natOfBool d.sec.fuses.testLock) ++ leBytes 1 0 ++
             leBytes 4 d.sec.records.toNat)))) ∧
  (∀ (s : State) (d : Device), s.runs d →
     (∀ r : Region, s.answers (.pllLockLoss r)
       ((d.modPwrRegion r.val fun g => { g with unlocked := true }).clockLoss r.val 0)) ∧
     s.answers (.refclkLoss 0)
       (((d.modSec fun x => { x with refLost0 := true }).modSeq fun q => { q with ref0 := false }).clockLoss 0xFF 1) ∧
     s.answers (.refclkLoss 1)
       (((d.modSec fun x => { x with refLost1 := true }).modSeq fun q => { q with ref1 := false }).clockLoss 0xFF 2) ∧
     (∀ r : Region, s.answers (.clockRecovered 0 r) (d.modPwrRegion r.val fun g => { g with unlocked := false })) ∧
     (∀ r : Region, d.seq.ref0 = true →
       s.answers (.clockRecovered 1 r) (d.modSec fun x => { x with refLost0 := false })) ∧
     (∀ r : Region, d.seq.ref1 = true →
       s.answers (.clockRecovered 2 r) (d.modSec fun x => { x with refLost1 := false })) ∧
     (∀ c, c = Instr.cpLockstep ∨ c = Instr.cpWatchdog →
       ∃ t, s.answers c t ∧ t.host.loader = 1 ∧ t.host.version = 0 ∧ t.host.cmds = [] ∧ t.ring = d.ring ∧ t.hbm = d.hbm ∧
         t.comb.state = .empty ∧ t.tick.life = .off ∧ t.sec.restarted = true ∧ t.sec.release = 0 ∧ t.seq = d.seq ∧
         t.sec.fuses = d.sec.fuses ∧ t.host.toHost = d.host.toHost ∧
         (∀ q, (t.cmdRing q).base = (d.cmdRing q).base ∧ (t.cmdRing q).head = (d.cmdRing q).head ∧
           (t.cmdRing q).tail = (d.cmdRing q).tail ∧ (t.cmdRing q).next = (d.cmdRing q).next) ∧
         t.log.p = d.log.p ∧ t.log.mem = d.log.mem))

/-! ### The power sequencer (R490 to R497) -/

/-- PWR_EN with VDD_AON valid starts the power-up; each rail's check and each diode take it a step on; a rail that fails
its check is marked and stays off; after the last step PWR_OK is up.
RESET_N below 50 ns is a glitch; an accepted assertion puts the device in reset, with HBM, the rails and the fuses as
they are; an accepted deassertion starts the boot loader at hub time 0 once PWR_OK has been up for 100 µs, and
HUB_LEAVES_RESET does where it had to wait (R403, R432, R452, R497). -/
def Obligations.SequencerAndResetPin : Prop :=
  (∀ (s : State), let d := s.dev
     (∀ m, d.seq.pwrEn = false → d.seq.rerun = false → d.seq.status = 0 → d.seq.aonValid = true →
       s.answers (.pwrEnAssert m) (d.powerStart m)) ∧
     (∀ m, d.seq.pwrEn = false → d.seq.rerun = false → d.seq.status = 0 → d.seq.aonValid = false →
       s.answers (.pwrEnAssert m) (d.modSeq fun q => { q with pwrEn := true })) ∧
     (∀ m, d.seq.aonValid = false → d.seq.pwrEn = true → d.seq.status = 0 →
       s.answers (.vddAonValid m) ((d.modSeq fun q => { q with aonValid := true }).powerStart m)) ∧
     (∀ (i : Fin 4) rest, d.seq.plan = .inl i.val :: rest → d.seq.status = 4 →
       s.answers (.diodeReady i) (d.modSeq fun q => { q with plan := rest }.advance d.now)) ∧
     (∀ k : Fin 19, d.seq.checking = some k.val →
       s.answers (.railEnableCheck k true)
         (d.modSeq fun q => { q with railsOn := q.railsOn ||| BitVec.ofNat 19 (2 ^ k.val) }.advance d.now) ∧
       (2 ≤ k.val →
         s.answers (.railEnableCheck k false)
           (d.modSeq fun q => { q with railsWindow := q.railsWindow ||| BitVec.ofNat 19 (2 ^ k.val) }.advance d.now)) ∧
       (k.val ≤ 1 →
         s.answers (.railEnableCheck k false)
           (d.modSeq fun q => { q with railsWindow := q.railsWindow ||| BitVec.ofNat 19 (2 ^ k.val), railsOn := 0,
                                       checking := none, plan := [], status := 0xC }))) ∧
     (∀ q : Sequencer, q.plan = [] →
       (q.advance d.now).pwrOk = true ∧ (q.advance d.now).status = q.doneCode ∧ (q.advance d.now).okSince = some d.now) ∧
     (d.seq.pwrEn = true →
       s.answers .pwrEnDeassert
         ((if d.up then d.haltJob 0xFF 10 else d).modSeq fun q =>
           { q with pwrEn := false, pwrOk := false, status := 0xE, checking := none, plan := [], rerun := false,
                    offPlan := downOrder.filter q.on })) ∧
     (∀ k k' rest, d.seq.offPlan = k :: k' :: rest →
       s.answers .railOffStep
         (d.modSeq fun q => { q with railsOn := q.railsOn &&& ~~~(BitVec.ofNat 19 (2 ^ k)), offPlan := k' :: rest })) ∧
     (∀ k, d.seq.offPlan = [k] →
       ∃ t, s.answers .railOffStep t ∧ t.seq.railsOn = d.seq.railsOn &&& ~~~(BitVec.ofNat 19 (2 ^ k)) ∧ t.hbm = Mem.reset ∧
         t.seq.offPlan = [] ∧ (d.seq.status = 0xE → t.seq.status = 0 ∧ t.up = false) ∧ t.host.cmds = [] ∧
         t.sec.fuses = d.sec.fuses) ∧
     (∀ khz0 khz1 : Nat, d.seq.pwrOk = true →
       ∃ t, s.answers (.clockRecount khz0 khz1) t ∧ (t.seq.ref0, t.seq.ref1, t.seq.swapped) = clockInputs khz0 khz1 ∧
         t.seq.status = t.seq.doneCode ∧ t.seq.railsOn = d.seq.railsOn ∧ { t with seq := d.seq } = d) ∧
     (∀ (k : Fin 19) (w : BitVec 16),
       s.answers (.railFault k) (d.railFault k.val) ∧
       s.answers (.pmbAlert k w) (if statusWordFault w then d.railFault k.val else d)) ∧
     (∀ k : Fin 19, d.seq.on k.val = true → (d.railFault k.val).seq.on k.val = false)) ∧
  (∀ (s : State) (held : Nat), let d := s.dev
     ((d.input 3).level = false → held < 50 →
       s.answers (.resetNAssert held) (d.modInput 3 fun p => { p with glitch := satInc p.glitch })) ∧
     ((d.input 3).level = false → 50 ≤ held →
       ∃ t, s.answers (.resetNAssert held) t ∧ t.up = false ∧ t.seq.resetLow = true ∧ t.hbm = d.hbm ∧
         t.sec.fuses = d.sec.fuses ∧ t.comb.state = .empty ∧ t.host.cmds = [] ∧ t.ring = Mem.reset) ∧
     ((d.input 3).level = true → 50 ≤ held → d.okLongEnough = true → d.seq.railsOn.getLsbD 0 = true →
       d.seq.railsOn.getLsbD 1 = true →
       ∃ t, s.answers (.resetNDeassert held) t ∧ t.up = true ∧ t.now = 0 ∧ t.host.loader = 0 ∧ t.hbm = d.hbm ∧
         t.sec.fuses = { d.sec.fuses with fuseOk := d.sec.fuses.crcBad.isEmpty } ∧ t.comb.state = .empty ∧
             t.tick.life = .off ∧ (t.input 3).level = false) ∧
     ((d.input 3).level = true → held < 50 →
       s.answers (.resetNDeassert held) (d.modInput 3 fun p => { p with glitch := satInc p.glitch })) ∧
     ((d.input 3).level = true → 50 ≤ held → d.okLongEnough = false →
       s.answers (.resetNDeassert held)
         ((d.modInput 3 fun p => { p with level := false, since := d.now, glitch := 0 }).modSeq fun q =>
           { q with resetLow := false, hubHeld := true })) ∧
     (d.seq.hubHeld = true → d.seq.resetLow = false → d.okLongEnough = true →
       s.answers .hubLeavesReset d.leaveReset))

/-! ### Vexlink (R331 to R371) -/

/-- The Vexlink commands, on parameters that their rules allow: each stores what it names, starts what it commands, or
replies (R336, R343, R346, R353, R359, R362, R367, R371). -/
def Obligations.VexlinkCommands : Prop :=
  ∀ (s : State) (d : Device) (id : CmdId) (ps : List Byte), s.runs d →
    let p := fieldAt ps 0 1
    (d.ready id 0x0901 ps → p ≤ 11 → 1 ≤ fieldAt ps 1 1 → fieldAt ps 1 1 ≤ 7 → 1 ≤ fieldAt ps 2 1 → fieldAt ps 2 1 ≤ 3 →
      fieldAt ps 3 1 = 1 ∨ fieldAt ps 3 1 = 2 ∨ fieldAt ps 3 1 = 4 → (d.port p).life = .off →
      s.answers (.vxlPortConfig id)
        (((d.acted id).modPort p fun v =>
          { v with modes := BitVec.ofNat 3 (fieldAt ps 1 1), versions := BitVec.ofNat 2 (fieldAt ps 2 1),
                   minWidth := fieldAt ps 3 1 }).complete id Status.ok)) ∧
    (d.ready id 0x0902 ps → p ≤ 11 → fieldAt ps 1 3 = 0 → d.vxl.valid = true → d.seq.portOk p = true →
      ((d.port p).life = .off →
        s.answers (.vxlPortEnable id)
          (((d.acted id).modPort p fun v => { v with life := .starting }).complete id Status.ok)) ∧
      ((d.port p).life = .stopping →
        s.answers (.vxlPortEnable id)
          (((d.acted id).modPort p fun v => { v with pendingEnable := true }).complete id Status.acceptedPending)) ∧
      ((d.port p).life = .starting ∨ (d.port p).life = .on →
        s.answers (.vxlPortEnable id) ((d.acted id).complete id Status.vxlState))) ∧
    (d.ready id 0x0902 ps → p ≤ 11 → fieldAt ps 1 3 = 0 → d.vxl.valid = false →
      s.answers (.vxlPortEnable id) ((d.acted id).complete id Status.vxlNoId)) ∧
    (d.ready id 0x0903 ps → p ≤ 11 → fieldAt ps 1 3 = 0 →
      let stop := (d.acted id).modPort p fun v => { v with life := .stopping, disableCmd := some id }
      ((d.port p).life = .starting → s.answers (.vxlPortDisable id) stop) ∧
      ((d.port p).life = .on → s.answers (.vxlPortDisable id) stop.portDown) ∧
      ((d.port p).life = .stopping →
        s.answers (.vxlPortDisable id)
          ((d.acted id).modPort p fun v => { v with pendingEnable := false, disableCmd := some id })) ∧
      ((d.port p).life = .off → s.answers (.vxlPortDisable id) ((d.acted id).complete id Status.ok))) ∧
    (d.ready id 0x0904 ps → fieldAt ps 0 4 < 2 ^ 18 → (∀ q, q < 12 → (d.port q).life = .off) →
      s.answers (.vxlSetId id)
        (((d.acted id).modVxl fun v =>
          { v with valid := true, device := BitVec.ofNat 18 (fieldAt ps 0 4) }).complete id Status.ok)) ∧
    (d.ready id 0x0905 ps → 1 ≤ fieldAt ps 2 2 → fieldAt ps 2 2 ≤ 64 → fieldAt ps 0 2 + fieldAt ps 2 2 ≤ 1024 →
      fieldAt ps 4 4 = 0 → (∀ e ∈ bearingEntries ps, bearingOk e.2 = true) →
      bearingsDistinct ((bearingEntries ps).foldl (fun t e => t.put e.1 e.2) d.vxl.bearings) = true →
      s.answers (.vxlBearingSet id)
        (((d.acted id).modVxl fun v =>
          { v with bearings := (bearingEntries ps).foldl (fun t e => t.put e.1 e.2) d.vxl.bearings }).complete id Status.ok)) ∧
    (d.ready id 0x0906 ps → p ≤ 15 → fieldAt ps 1 1 ≤ 64 → fieldAt ps 2 2 = 0 → fieldAt ps 4 4 < 2 ^ 18 →
      (∀ k, k < fieldAt ps 1 1 → fieldAt ps (8 + 4 * k) 4 < 2 ^ 18) →
      s.answers (.vxlMcastSet id)
        (((d.acted id).modVxl fun v =>
          { v with groups := v.groups.put p (BitVec.ofNat 18 (fieldAt ps 4 4),
              (List.range (fieldAt ps 1 1)).map fun k => BitVec.ofNat 18 (fieldAt ps (8 + 4 * k) 4)) }).complete id
          Status.ok)) ∧
    (∀ x d', d.ready id 0x0907 ps → d.vxl.valid = true → d.hbmRefused 2 (fieldAt ps 0 8) (fieldAt ps 16 8) = none →
      (d.acted id).newTransfer 28 (BitVec.ofNat 18 (chartDevice (BitVec.ofNat 64 (fieldAt ps 8 8))))
        { Transfer.blank with src := fieldAt ps 0 8, dst := BitVec.ofNat 64 (fieldAt ps 8 8), len := fieldAt ps 16 8,
                              closed := true, cmd := some id } = some (x, d') →
      s.answers (.vxlMcastCopy id) (d'.mcastPump x).pump) ∧
    (d.ready id 0x0908 ps → bitsNat (fieldAt ps 0 4) 9 8 = 0 → 5 ≤ bitsNat (fieldAt ps 0 4) 29 20 →
      bitsNat (fieldAt ps 0 4) 29 20 ≤ 1000 → 1 ≤ bitsNat (fieldAt ps 0 4) 19 10 → bitsNat (fieldAt ps 0 4) 19 10 ≤ 1000 →
      10 ≤ bitsNat (fieldAt ps 0 4) 7 0 → bitsNat (fieldAt ps 0 4) 7 0 ≤ 200 →
      s.answers (.vxlE2eConfig id)
        (((d.acted id).modVxl fun v =>
          { v with retries := BitVec.ofNat 2 (bitsNat (fieldAt ps 0 4) 31 30),
                   mcastLag := BitVec.ofNat 10 (bitsNat (fieldAt ps 0 4) 29 20),
                   grantLimit := BitVec.ofNat 10 (bitsNat (fieldAt ps 0 4) 19 10),
                   timeout := BitVec.ofNat 8 (bitsNat (fieldAt ps 0 4) 7 0) }).complete id Status.ok)) ∧
    (d.ready id 0x0909 ps →
      s.answers (.vxlStatus id)
        ((d.acted id).complete id Status.ok
          ((List.range 14).flatMap (fun k => leBytes 4 (d.vxlReg (4 * k))) ++
            (List.range 96).flatMap fun k => leBytes 4 (d.vxlReg (0x100 + 4 * k))))) ∧
    (d.ready id 0x090A ps → p ≤ 2 → fieldAt ps 1 1 ≤ 11 ∨ (fieldAt ps 1 1 = 15 ∧ p ≠ 2) → fieldAt ps 2 2 < 2 ^ 12 →
      (p = 1 → 1000 ≤ fieldAt ps 4 4 ∧ fieldAt ps 4 4 ≤ 100000) → d.tick.life = .off →
      s.answers (.vxlTickRole id)
        (((d.acted id).modVxl fun v =>
          { v with role := BitVec.ofNat 2 p, up := BitVec.ofNat 4 (fieldAt ps 1 1),
                   down := BitVec.ofNat 12 (fieldAt ps 2 2), lead := BitVec.ofNat 32 (fieldAt ps 4 4) }).complete id
          Status.ok))

/-- The ports and the link layer: training, retraining and their failures, the end of a disable, the cumulative
acknowledgement, replay up to 16 times, and the delay that a port measures (R334, R336 to R338, R366); and of every frame
that arrives, whatever its kind: one that fails a check asks for a replay, a reserved TYPE is counted, part of a bulk
transaction is kept until its last flit has come, and a frame for another device goes on with one hop less (R338, R339,
R345 to R347, R371). -/
def Obligations.LinkLayer : Prop :=
  (∀ (s : State) (d : Device) (p : PortIx), s.runs d →
    (∀ t v, (d.port p.val).life = .starting → (d.port p.val).trained t = some v →
      s.answers (.portTrained p t)
        ((d.modPort p.val fun _ =>
          { v with life := .on, retrain := false, txSeq := 0, rxSeq := 0, sent := [], tries := 0, rxPart := none }).flushPort
            p.val)) ∧
    (∀ t, (d.port p.val).life = .starting → (d.port p.val).trained t = none →
      ∃ u, s.answers (.portTrained p t) u ∧ (u.port p.val).life = .starting) ∧
    (∀ c, c = .lostLock ∨ (c = .replaysFailed ∧ 16 ≤ (d.port p.val).tries) → (d.port p.val).life = .on →
      (d.port p.val).retrain = false →
      s.answers (.portRetrain p c)
        (d.modPort p.val fun v => { v with retrain := true, retrains := satInc v.retrains })) ∧
    (∀ n, (d.port p.val).life = .on → (d.port p.val).retrain = false → 1000 < n →
      ∃ u, s.answers (.portRetrain p (.fecErrors n)) u ∧ (u.port p.val).retrain = true ∧
        (u.port p.val).retrains = satInc (d.port p.val).retrains ∧ (u.port p.val).uncorr = satAdd (d.port p.val).uncorr n) ∧
    (∀ t w, (d.port p.val).life = .on → (d.port p.val).retrain = true → (d.port p.val).trained t = some w →
      ((d.port p.val).minWidth ≤ widthLanes w.width.toNat →
        s.answers (.retrainDone p t)
          ((d.modPort p.val fun _ =>
            { w with retrain := false, replays := satAdd w.replays w.sent.length, tries := 0, fecTimes := [] }).flushPort
              p.val)) ∧
      (widthLanes w.width.toNat < (d.port p.val).minWidth →
        s.answers (.retrainDone p t)
          (((d.modPort p.val fun _ => w).modPort p.val fun v =>
            { v with life := .starting, retrain := false, sent := [], held := [], tries := 0, rxPart := none }).portDown))) ∧
    ((d.port p.val).life = .on → (d.port p.val).retrain = true →
      s.answers (.retrainTimeout p)
        (d.modPort p.val fun v =>
          { v with life := .starting, retrain := false, sent := [], held := [], tries := 0, rxPart := none }).portDown) ∧
    ((d.port p.val).usable = true →
      ((d.port p.val).sent = [] → s.answers (.replayTimeout p) d) ∧
      ((d.port p.val).sent ≠ [] → (d.port p.val).tries < 16 →
        s.answers (.replayTimeout p)
          (d.modPort p.val fun v => { v with replays := satAdd v.replays v.sent.length, tries := v.tries + 1 })) ∧
      ((d.port p.val).sent ≠ [] → 16 ≤ (d.port p.val).tries →
        s.answers (.replayTimeout p)
          (d.modPort p.val fun v => { v with retrain := true, retrains := satInc v.retrains }))) ∧
    (∀ (h : FrameHdr) lseq, (d.port p.val).takes = true → h.good = true → h.uncorrectable = 0 → h.corrected = 0 →
      h.reserved = false →
      let left := ackFrames lseq (d.port p.val).sent
      let t := (d.modPort p.val fun v =>
        { v with sent := left, tries := if left.length = v.sent.length then v.tries else 0 }).flushPort p.val
      s.answers (.linkAck p h lseq false) t ∧ s.answers (.linkAck p h lseq true) (t.replayAll p.val)) ∧
    (∀ id, (d.port p.val).life = .stopping → (d.port p.val).disableCmd = some id →
      s.answers (.portOff p)
        ((d.modPort p.val fun v =>
          { v with life := if v.pendingEnable then .starting else .off, pendingEnable := false, disableCmd := none,
                   sent := [], tries := 0, rxPart := none, retrain := false, version := 0, rate := 0,
                   width := 0 }).complete id Status.ok)) ∧
    (∀ ps, (d.port p.val).life = .on → s.answers (.delayMeasure p ps) (d.modPort p.val fun v => { v with delay := ps }))) ∧
  (∀ (s : State) (d : Device) c (p : PortIx) (h : FrameHdr) b, s.runs d → linkFrame c = some (p, h, b) →
    c.wellFormed = true →
    ((d.port p.val).takes = false → s.answers c d) ∧
    ((d.port p.val).takes = true → h.good = false ∨ h.uncorrectable ≠ 0 ∨ h.lseq ≠ (d.port p.val).rxSeq ∨
        (d.port p.val).follows (flitsOf h b).1 b = false →
      s.answers c
        ((d.fecReport p.val h.corrected h.uncorrectable).modPort p.val fun v =>
          { v with acks := v.acks ++ [(v.rxSeq - 1, true)] })) ∧
    (d.linkOk p.val h b → h.reserved = true →
      s.answers c ((d.flitsTaken p.val h b).modPort p.val fun v => { v with bad := satInc v.bad })) ∧
    (d.linkOk p.val h b → h.reserved = false → (flitsOf h b).1 + (flitsOf h b).2 < b.flits →
      s.answers c
        ((d.flitsTaken p.val h b).modPort p.val fun v => { v with
            rxPart := some ((flitsOf h b).1 + (flitsOf h b).2, b) })) ∧
    (d.hears p.val h b → (∀ tick lead fb, b ≠ .strike tick lead fb) → d.vxl.own h.dest = false →
      d.localAlias h.dest = false →
      let f : Frame := { flit := 0, time := d.now, hops := h.hops, dest := h.dest, src := h.src, lseq := 0, body := b }
      let a := d.heard p.val h b
      (h.hops = 0 → s.answers c (a.countRoute.refuseFrame f Nak.unreachable).pump) ∧
      (h.hops ≠ 0 →
        s.answers c (a.modVxl fun v => { v with outbox := v.outbox ++ [{ f with hops := f.hops - 1 }] }).pump)))

/-- Requests of another device for this one that pass the link layer (R260, R344, R352, R354 to R356, R358, R361, R363,
R365). With a fresh number, a write into HBM is written and acknowledged, a flag write issued at its home, a FREE window
granted, a used one's request queued or refused BUSY, a placement handed to the die's engine; a read is answered with its
data; HBM that is not there is refused. A withdrawn request leaves its queue, and a pruned receiver drops what it holds. A
number that is not fresh is a duplicate, stale, or finds the source table full. -/
def Obligations.RequestsAreCarriedOut : Prop :=
  (∀ (s : State) (d : Device) (p : PortIx) (h : FrameHdr), s.runs d → d.forHere h.dest →
    (∀ t, (Instr.writeTxn p h t).wellFormed = true → d.hears p.val h (.write t) →
      t.xfer = 0 ∨ d.vxl.prunedFrom.contains (h.src, t.xfer) = false → d.vxl.admission t.tid = .fresh →
      chartSpace t.address = 0 →
      let a := (d.heard p.val h (.write t)).modVxl (·.start t.tid)
      (d.hbmRemote (chartOffset t.address) t.data.length = .ok false →
        s.answers (.writeTxn p h t)
          ((((a.hbmWrite .remote (chartOffset t.address) (txnBytes t)).modVxl (·.finish t.tid)).post h.src
            (.ack t.tid)).pump)) ∧
      (∀ e, d.hbmRemote (chartOffset t.address) t.data.length = .error e →
        s.answers (.writeTxn p h t)
          (((a.modVxl (·.unstart t.tid)).post h.src (.nak t.tid (BitVec.ofNat 8 e) t.xfer)).pump))) ∧
    (∀ tid chart v, d.hears p.val h (.flag tid chart v) → d.vxl.admission tid = .fresh → chartSpace chart = 2 →
      d.comb.state ≠ .halted → chartOffset chart % 8 = 0 → chartOffset chart < 131072 →
      s.answers (.flag p h tid chart v)
        ((((d.heard p.val h (.flag tid chart v)).modVxl (·.start tid)).flagReq (7001 + p.val)
          (chartOffset chart / 8 / 4096) (chartOffset chart / 8 % 4096) v (tid := some (h.src, tid))).pump)) ∧
    (∀ tid chart len, d.hears p.val h (.readReq tid chart len) → chartSpace chart = 0 → 1 ≤ len.toNat → len.toNat ≤ 4032 →
      d.hbmRemote (chartOffset chart) len.toNat = .ok false →
      let r := (d.heard p.val h (.readReq tid chart len)).hbmRead .remote (chartOffset chart) len.toNat
      s.answers (.readReq p h tid chart len)
        (r.2.post h.src (.readData
          { tid := tid, address := chart, op := 3, xfer := 0, poison := poison64 (r.1.map (·.2)),
            data := r.1.map (·.1) })).pump) ∧
    (∀ tid chart len, d.hears p.val h (.regRead tid chart len) → chartSpace chart = 2 →
      bitsNat (chartOffset chart) 43 32 = 2 ^ 8 → chartOffset chart % 2 ^ 32 % 4 = 0 →
      len.toNat % 4 = 0 → 4 ≤ len.toNat → len.toNat ≤ 256 →
      counterRangeOk (chartOffset chart % 2 ^ 32) len.toNat = true →
      let r := (d.heard p.val h (.regRead tid chart len)).counterRange (len.toNat / 4) (chartOffset chart % 2 ^ 32)
      s.answers (.regRead p h tid chart len)
        (r.2.post h.src (.regData
          { tid := tid, address := chart, op := 4, xfer := 0, poison := poison64 (r.1.map fun _ => false),
            data := r.1 })).pump) ∧
    (∀ tid chart rows die x y row w, d.hears p.val h (.creditReq tid chart rows) → d.vxl.admission tid = .fresh →
      d.comb.state ≠ .halted → chartSpace chart = 1 → scratchPlace chart = some (die, x, y, row) →
      d.windowAt die x y row (BitVec.toNat rows) = some w →
      let a := (d.heard p.val h (.creditReq tid chart rows)).modVxl (·.start tid)
      let waiting := ((d.iou w.iou).windows.map fun k => k.2.queue.length).sum
      ((d.window w).state = 0 →
        s.answers (.creditReq p h tid chart rows)
          ((((a.modWindow w fun k =>
            { k with state := 1, grantee := h.src, multi := !d.vxl.own h.dest, xfer := 0 }).modVxl
              (·.finish tid)).post h.src (.grant tid false)).pump)) ∧
      ((d.window w).state ≠ 0 → waiting < 16 →
        s.answers (.creditReq p h tid chart rows)
          (((a.modWindow w fun k => { k with queue := k.queue ++ [(h.src, tid, !d.vxl.own h.dest)] }).post h.src
            (.grant tid true)).pump)) ∧
      ((d.window w).state ≠ 0 → 16 ≤ waiting →
        s.answers (.creditReq p h tid chart rows)
          (((a.modVxl (·.unstart tid)).post h.src (.nak tid 1 0)).pump))) ∧
    (∀ tid (die : Die) (ring : Fin 64) rows, d.hears p.val h (.placeReq tid die.val ring.val rows) →
      d.vxl.admission tid = .fresh → d.comb.state ≠ .halted →
      s.answers (.placeReq p h tid die ring rows)
        ((((d.heard p.val h (.placeReq tid die.val ring.val rows)).modVxl (·.start tid)).modHome die.val fun k =>
          { k with requests := k.requests ++
              [{ fromDie := 0, device := h.src, tid := some tid, endpoint := 0, ring := ring.val,
                 rows := rows.toNat }] }).pump)) ∧
    (∀ tid, d.hears p.val h (.withdraw tid) →
      s.answers (.withdraw p h tid) ((d.heard p.val h (.withdraw tid)).rxWithdraw tid).pump) ∧
    (∀ x, d.hears p.val h (.prune x) →
      s.answers (.prune p h x) ((d.heard p.val h (.prune x)).rxPrune h.src x).pump)) ∧
  (∀ (s : State) (d : Device) c (p : PortIx) (h : FrameHdr) b tid, s.runs d → linkFrame c = some (p, h, b) →
    c.wellFormed = true → d.hears p.val h b → d.forHere h.dest →
    ((∃ t, b = .write t ∧ t.tid = tid ∧ (t.xfer = 0 ∨ d.vxl.prunedFrom.contains (h.src, t.xfer) = false)) ∨
      (∃ chart v, b = .flag tid chart v) ∨ (∃ chart rows, b = .creditReq tid chart rows) ∨
        ∃ die ring rows, b = .placeReq tid die ring rows) →
    let a := d.heard p.val h b
    let f : Frame := { flit := 0, time := d.now, hops := h.hops, dest := h.dest, src := h.src, lseq := 0, body := b }
    (d.vxl.admission tid = .done →
      s.answers c ((a.modVxl fun v => { v with dups := satInc v.dups }).answerDuplicate f tid true).pump) ∧
    (d.vxl.admission tid = .doing →
      s.answers c ((a.modVxl fun v => { v with dups := satInc v.dups }).answerDuplicate f tid false).pump) ∧
    (d.vxl.admission tid = .stale →
      s.answers c ((a.modVxl fun v => { v with dupStale := satInc v.dupStale }).post h.src (.nak tid 10 b.xfer)).pump) ∧
    (d.vxl.admission tid = .full →
      s.answers c ((a.modVxl fun v => { v with srcBusy := satInc v.srcBusy }).post h.src (.nak tid 1 b.xfer)).pump))

/-- Answers that reach the device whose transaction waits for them (R352, R353, R355, R357, R361, R363): an
acknowledgement ends it, or counts for its multicast transfer; a NAK that resends sends it again while a retry is left,
another fails it, and one of a transfer prunes the receiver; a full GRANT opens the context's credit, a queued one goes
on waiting; read and register data go on to the grid, or to the copy that asked; and a placed message's rows are
written. -/
def Obligations.AnswersReachTheirSender : Prop :=
  ∀ (s : State) (d : Device) (p : PortIx) (h : FrameHdr), s.runs d → d.forHere h.dest →
    (∀ tid, d.hears p.val h (.ack tid) →
      let a := d.heard p.val h (.ack tid)
      (∀ o, d.transferOf tid = none → d.findOut tid = some o → o.kind ≠ .read → o.kind ≠ .credit → o.waiting = false →
        s.answers (.ack p h tid) (a.txnDone o).pump) ∧
      (∀ t, d.transferOf tid = some t →
        s.answers (.ack p h tid)
          ((a.modTransfer t.xfer fun t =>
            { t with sent := t.sent.map fun q =>
                if q.2.1 == tid && !q.2.2.contains h.src then (q.1, q.2.1, h.src :: q.2.2)
                    else q }).mcastPump t.xfer).pump)) ∧
    (∀ tid (reason : BitVec 8), d.hears p.val h (.nak tid reason 0) →
      let a := d.heard p.val h (.nak tid reason 0)
      (∀ o, (d.vxl.running.find? fun t => t.credit == some tid || t.sent.any fun q => q.2.1 == tid) = none →
        d.findOut tid = some o → o.waiting = false → o.data = none →
        (nakResends reason.toNat = true → o.resends < o.retries →
          s.answers (.nak p h tid reason 0)
            (((a.modOut o.tid fun o => { o with resends := o.resends + 1 }).modVxl fun v =>
              { v with resends := satInc v.resends }).post o.dest o.frame).pump) ∧
        (nakResends reason.toNat = false ∨ o.retries ≤ o.resends →
          s.answers (.nak p h tid reason 0) (a.txnFail o reason.toNat).pump)) ∧
      (∀ t, (d.vxl.running.find? fun t => t.credit == some tid || t.sent.any fun q => q.2.1 == tid) = some t →
        s.answers (.nak p h tid reason 0) (if nakResends reason.toNat then a else a.prune t.xfer h.src).pump)) ∧
    (∀ tid (reason : BitVec 8) x, d.hears p.val h (.nak tid reason x) → x ≠ 0 →
      s.answers (.nak p h tid reason x)
        (if nakResends reason.toNat then d.heard p.val h (.nak tid reason x)
         else (d.heard p.val h (.nak tid reason x)).prune x h.src).pump) ∧
    (∀ tid o, (d.vxl.running.find? fun t => t.credit == some tid) = none → d.findOut tid = some o → o.kind = .credit →
      (∀ u c, o.site = some (u, c) → d.hears p.val h (.grant tid false) →
        s.answers (.grant p h tid false)
          (((d.heard p.val h (.grant tid false)).dropOut tid).modCtx u c fun k => { k with credit := 2 }).pump) ∧
      (d.hears p.val h (.grant tid true) →
        s.answers (.grant p h tid true)
          ((d.heard p.val h (.grant tid true)).modOut tid fun o => { o with queued := true }).pump)) ∧
    (∀ tid o die e res row, d.hears p.val h (.placeResp tid res row) → d.findOut tid = some o →
      o.kind = .placement die e → (d.ep die e).waitReply = true → (d.ep die e).owed = none →
      let a := d.heard p.val h (.placeResp tid res row)
      (d.engineFree die = true → d.engineReaches (epSite die (d.ep die e).record) = true →
        s.answers (.placeResp p h tid res row) ((a.dropOut tid).remotePlaced die e h.src res (BitVec.toNat row)).pump) ∧
      (d.engineFree die = false ∨ d.engineReaches (epSite die (d.ep die e).record) = false →
        s.answers (.placeResp p h tid res row)
          ((a.dropOut tid).modEp die e fun x => { x with owed := some (.placed h.src res (BitVec.toNat row)) }).pump)) ∧
    (∀ t o, d.findOut t.tid = some o → o.kind = .read → o.data = none → t.data.length = o.frame.asked →
      (∀ u c, o.cmd = none → o.site = some (u, c) →
        ((Instr.regData p h t).wellFormed = true → d.hears p.val h (.regData t) →
          s.answers (.regData p h t)
            (((d.heard p.val h (.regData t)).modOut o.tid fun o =>
              { o with data := some (txnBytes t) }).deliverReads u c 64).pump) ∧
        ((Instr.readData p h t).wellFormed = true → d.hears p.val h (.readData t) →
          s.answers (.readData p h t)
            (((d.heard p.val h (.readData t)).modOut o.tid fun o =>
              { o with data := some (txnBytes t) }).deliverReads u c 64).pump)) ∧
      (∀ id c, o.cmd = some id → d.findCmd id = some c → copyDstKind c.params = 3 → (Instr.readData p h t).wellFormed =
          true →
        d.hears p.val h (.readData t) →
        s.answers (.readData p h t)
          (((d.heard p.val h (.readData t)).dropOut o.tid).copyPut id (txnBytes t)).pump))

/-- Limits that run out (R347, R353 to R355, R361), and the STRIKE of a swarm (R366 to R369): a frame held too long is
refused, a transaction without an answer is resent or fails, a credit request is withdrawn, a receiver that lags alone is
pruned, a silent source entry is freed; a member announces a master's strike LEAD_REM later and forwards it with one hop
less, raises VXL_STRIKE_LATE for one that comes too late, and counts one that it ignores. -/
def Obligations.LimitsAndStrikes : Prop :=
  ∀ (s : State) (d : Device), s.runs d →
    (∀ (p : PortIx) f, ((d.port p.val).held.find? fun f => f.flit == 0) = some f →
      s.answers (.forwardHoldExpiry p)
        ((d.modPort p.val fun v => { v with held := v.held.erase f }).countHold.refuseFrame f Nak.unreachable).pump) ∧
    (∀ tid o, d.findOut tid = some o → o.waiting = false → o.queued = false → o.data = none →
      (o.resends < o.retries →
        s.answers (.e2eTimeout tid)
          (((d.modOut o.tid fun o => { o with resends := o.resends + 1 }).modVxl fun v =>
            { v with resends := satInc v.resends }).post o.dest o.frame).pump) ∧
      (o.retries ≤ o.resends →
        s.answers (.e2eTimeout tid)
          ((d.modVxl fun v => { v with timeouts := satInc v.timeouts }).txnFail o Nak.timeout).pump)) ∧
    (∀ tid o, d.findOut tid = some o → o.kind = .credit →
      s.answers (.grantLimitExpiry tid) ((d.post o.dest (.withdraw tid)).txnFail o Nak.noGrant).pump) ∧
    (∀ x dev t, d.findTransfer x = some t → t.clean.waitsFor ≠ [] → (∀ r ∈ t.clean.waitsFor, r = dev) →
      s.answers (.mcastLagExpiry x dev) (d.prune x dev).pump) ∧
    (∀ dev orig,
      s.answers (.sourceEntryExpiry dev orig)
        (d.modVxl fun v => { v with src := v.src.filter fun e => !(e.device == dev && e.orig == orig) })) ∧
    (∀ (p : PortIx) (h : FrameHdr) tick lead fb residence, d.hears p.val h (.strike tick lead fb) →
      let a := d.heard p.val h (.strike tick lead fb)
      let known := d.vxl.struckNos.contains tick || d.vxl.announced.any fun e => e.1 == BitVec.toNat tick
      let f : Frame :=
        { flit := 0, time := d.now, hops := h.hops - 1, dest := h.dest, src := h.src, lseq := 0,
          body := .strike tick lead fb }
      let onward (a : Device) : Device :=
        if h.hops = 0 then a.countRoute else a.sendStrikes f tick (1000 * BitVec.toInt lead) fb residence
      (d.vxl.role ≠ 2 → s.answers (.strike p h tick lead fb residence) a) ∧
      (d.vxl.role = 2 → p.val ≠ d.vxl.up.toNat ∨ known = true →
        s.answers (.strike p h tick lead fb residence) (a.modVxl fun v => { v with ignored := satInc v.ignored })) ∧
      (d.vxl.role = 2 → p.val = d.vxl.up.toNat → known = false → d.tick.cfg.source = .swarm → d.tick.configured = true →
        d.tick.life = .starting ∨ d.tick.life = .on →
        (0 < BitVec.toInt lead →
          s.answers (.strike p h tick lead fb residence)
            ((onward a).modVxl fun v =>
              { v with announced := v.announced ++ [(BitVec.toNat tick, d.now + ns (BitVec.toInt lead).toNat, fb)] })) ∧
        (BitVec.toInt lead < 0 →
          s.answers (.strike p h tick lead fb residence)
            ((onward ((a.modVxl fun v => { v with late := satInc v.late }).raiseHub 0xFF 0x63 lead)).modVxl fun v =>
              { v with announced := v.announced ++ [(BitVec.toNat tick, d.now, fb)] }).announcedStrike)))

/-! ### Pilots (R211 to R236) -/

/-- The control instructions of a pilot that is free to issue: what each writes, and that the pilot goes on to the next
instruction, jumps, or waits (R216, R218, R220 to R226, R231). A fetch that meets an uncorrectable row stops the region
whatever the instruction (R215). The ends of waits, the arrival of summaries, CLRS against a summary of its own clk, and
the three checks that stop a region: lockstep, a stall and a wait beyond its limit (R103, R218, R220, R221, R234, R282,
R294). -/
def Obligations.PilotInstructions : Prop :=
  (∀ (s : State) (d : Device) (r : Region) (w : Nat), s.runs d →
     let p := d.pilot r.val
     (d.pilotAt r.val 1 w →
       let src := bitsNat w 51 50
       let x := p.sum (bitsNat w 49 45)
       let set (d : Device) (v : Word) : Device :=
         d.modPilot r.val fun p => (p.setShape (bitsNat w 57 52) v).next
       (src = 0 → s.answers (.setsh r) (set d (BitVec.ofNat 32 (bitsNat w 31 0)))) ∧
       (src = 1 → x.poison = false → s.answers (.setsh r) (set d x.val)) ∧
       (src = 1 → x.poison = true → s.answers (.setsh r) (set (d.raiseFree r.val 0x0B) 0)) ∧
       (1 < src → s.answers (.setsh r) (set d (x.count.setWidth 32)))) ∧
     (d.pilotAt r.val 2 w →
       s.answers (.waitf r)
         (d.modPilot r.val fun p =>
           { p with state := 2, wait := some { what := .flag (bitsNat w 57 56) (bitsNat w 55 44) (w.testBit 43), clk := 0,
                                               seen := d.flagVal (bitsNat w 57 56) (bitsNat w 55 44) == w.testBit 43 } })) ∧
     (d.pilotAt r.val 3 w →
       s.answers (.setf r)
         ((d.flagReq (6000 + r.val) (bitsNat w 57 56) (bitsNat w 55 44) (w.testBit 43)).modPilot r.val fun p => p.next)) ∧
     (d.pilotAt r.val 4 w →
       s.answers (.waits r)
         (d.modPilot r.val fun p =>
           { p with state := 3, wait := some { what := .summary (bitsNat w 57 53) (bitsNat w 15 0), clk := 0, seen := false } })) ∧
     (d.pilotAt r.val 5 w →
       let x := p.sum (bitsNat w 54 50)
       let holds := brHolds (bitsNat w 57 55) x.ty.toNat x.val (BitVec.ofNat 32 (bitsNat w 31 0))
       let n := p.taken.getD p.pc.toNat 0
       (bitsNat w 57 55 ≠ 0 → x.poison = true →
         s.answers (.br r) ((d.raiseFree r.val 0x0B).modPilot r.val fun p => p.next)) ∧
       ((bitsNat w 57 55 = 0 ∨ x.poison = false) → holds = true → p.pc.toNat < bitsNat w 41 33 →
         s.answers (.br r) (d.modPilot r.val fun p => p.jump (bitsNat w 41 33))) ∧
       ((bitsNat w 57 55 = 0 ∨ x.poison = false) → holds = true → bitsNat w 41 33 ≤ p.pc.toNat → n < bitsNat w 49 42 →
         s.answers (.br r)
           (d.modPilot r.val fun q => { q with taken := q.taken.put p.pc.toNat (n + 1) }.jump (bitsNat w 41 33))) ∧
       ((bitsNat w 57 55 = 0 ∨ x.poison = false) → holds = false ∨ (bitsNat w 41 33 ≤ p.pc.toNat ∧ bitsNat w 49 42 ≤ n) →
         s.answers (.br r) (d.modPilot r.val fun p => p.next))) ∧
     (d.pilotAt r.val 6 w →
       let n := (p.cnt.getD (bitsNat w 57 56) 0).toNat + 1
       let go (d : Device) (bound : Nat) : Device :=
         if n < max 1 bound then
           d.modPilot r.val fun p => { p with cnt := p.cnt.put (bitsNat w 57 56) (BitVec.ofNat 32 n) }.jump (bitsNat w 41 33)
         else d.modPilot r.val fun p => { p with cnt := p.cnt.put (bitsNat w 57 56) 0 }.next
       let v := (p.shape.getD (bitsNat w 54 49) 0).toNat
       (w.testBit 55 = false → s.answers (.loopp r) (go d (bitsNat w 31 0))) ∧
       (w.testBit 55 = true → d.shapeMax r.val (bitsNat w 54 49) = none → s.answers (.loopp r) (go d v)) ∧
       (∀ m, w.testBit 55 = true → d.shapeMax r.val (bitsNat w 54 49) = some m → v ≤ m →
         s.answers (.loopp r) (go d v)) ∧
       (∀ m, w.testBit 55 = true → d.shapeMax r.val (bitsNat w 54 49) = some m → m < v →
         s.answers (.loopp r) (go (d.raiseFree r.val 0x0C) m))) ∧
     (d.pilotAt r.val 7 w →
       s.answers (.token r)
         (d.modPilot r.val fun p => { p with tokens := p.tokens ++ [BitVec.ofNat 16 (bitsNat w 15 0)] }.next)) ∧
     (d.pilotAt r.val 8 w →
       s.answers (.event r)
         ((d.raise r.val (0x8000 + bitsNat w 14 0) (if w.testBit 52 then (p.sum (bitsNat w 57 53)).val
             else 0)).modPilot r.val
           fun p => p.next)) ∧
     (d.pilotAt r.val 9 w →
       let m (q : Nat) : SummaryMsg :=
         { pub := true, src := r.val, sent := d.now, due := d.pubDue r.val q, idx := bitsNat w 57 53, op := 0,
           ty := (p.sum (bitsNat w 57 53)).ty, val := (p.sum (bitsNat w 57 53)).val,
           poison := (p.sum (bitsNat w 57 53)).poison, epoch := p.comb }
       let got (q : Nat) : Pilot :=
         if q < 8 ∧ (bitsNat w 52 45).testBit q then { d.pilot q with sumBus := (d.pilot q).sumBus ++ [m q] } else d.pilot q
       ∃ t, s.answers (.pub r) t ∧ t.pilot r.val = (got r.val).next ∧ (∀ q, q ≠ r.val → t.pilot q = got q) ∧
         { t with pilots := d.pilots } = d) ∧
     (d.pilotAt r.val 0xA w →
       let within (k : Nat) : Bool := decide (bitsNat w 57 53 ≤ k) && decide (k ≤ bitsNat w 52 48)
       let kept := p.sums.filter fun e => !within e.1
       let late := p.arrived.filter fun (m : SummaryMsg) => within m.idx
       s.answers (.clrs r)
         (d.modPilot r.val fun p =>
           { p with sums := late.foldl (fun (t : Tab Summary) (m : SummaryMsg) => t.upd m.idx .reset (·.combine m)) kept }.next)) ∧
     (d.pilotAt r.val 0xB w →
       s.answers (.waitc r) (d.modPilot r.val fun p => { p with waitc := BitVec.ofNat 32 (bitsNat w 31 0) })) ∧
     (d.pilotAt r.val 0xC w →
       s.answers (.swap r) ((d.modPilot r.val fun p => { p with state := 4 }).trySwap r.val)) ∧
     (d.pilotAt r.val 0xD w → s.answers (.pilotNop r) (d.modPilot r.val fun p => p.next)) ∧
     (∀ c k, c ∈ [Instr.setsh r, .waitf r, .setf r, .waits r, .br r, .loopp r, .token r, .event r, .pub r, .clrs r,
         .waitc r,
         .swap r, .pilotNop r] → d.pilotReady r.val = true → d.progMark r.val p.pc.toNat = some k → k ≠ .correctable →
       s.answers c
         (((d.modPilot r.val fun p => { p with storeUncorr := satInc p.storeUncorr }).raiseFree r.val 0x24).stopRegion r.val
           0xFF 0xFF 6)) ∧
     (d.pilotReady r.val = true → d.progMark r.val p.pc.toNat = some .correctable →
       bitsNat (progWord (d.programIn r.val (d.combOf r.val)) p.pc.toNat) 63 58 = 0xD →
       s.answers (.pilotNop r)
         ((d.modPilot r.val fun p => { p with storeCorr := satInc p.storeCorr }).modPilot r.val fun p => p.next))) ∧
  (∀ (s : State) (d : Device) (r : Region), s.runs d → d.live r.val = true →
     let p := d.pilot r.val
     (∀ x die f sense, p.wait = some x → x.what = .flag die f sense → (x.seen = true ∨ d.flagVal die f = sense) →
       s.answers (.waitfEnd r) (d.modPilot r.val fun p => { p with wait := none }.next)) ∧
     (∀ x k n, p.wait = some x → x.what = .summary k n → n ≤ (p.sum k).count.toNat →
       s.answers (.waitsEnd r) (d.modPilot r.val fun p => { p with wait := none }.next)) ∧
     (p.waitc = 1 → s.answers (.waitcEnd r) (d.modPilot r.val fun p => { p with waitc := 0 }.next)) ∧
     (∀ m rest, firstSummary (clkUnits (d.pwrRegion r.val).freq.toNat) p.sumBus = some (m, rest) →
       (m.epoch = p.comb →
         ∃ t, s.answers (.summaryArrival r) t ∧
           t.pilot r.val =
             { p with sumBus := rest, sums := p.sums.upd m.idx .reset (·.combine m), arrived := p.arrived ++ [m] } ∧
           (∀ q, q ≠ r.val → t.pilot q = d.pilot q) ∧ { t with pilots := d.pilots } = d) ∧
       (m.epoch ≠ p.comb →
         s.answers (.summaryArrival r) ((d.modPilot r.val fun p => { p with sumBus := rest }).staleReport r.val))) ∧
     (∀ g,
       let t := (d.backToClk r.val).modPilot r.val fun q => { q with lockGroups := g, lockClk := p.clkWord }
       s.answers (.lockstep r g)
         (((t.record 7 2 (t.atRegion r.val) (leBytes 1 g.toNat ++ leBytes 3 0 ++ leBytes 4 p.clkWord.toNat)).raiseFree r.val
           0x22).stopRegion r.val 0xFF 0xFF 3)) ∧
     (∀ p₀, d.clkPilots.find r.val = some p₀ → ∃ es, (d.backToClk r.val).pilot r.val = { p₀ with events := es }) ∧
     (2 ^ p.stallLog2.toNat ≤ p.stall →
       s.answers (.stallWatchdog r)
         (((d.logEnter r.val 5 (d.stallSnapshot r.val)).raiseFree r.val 0x20).stopRegion r.val 0xFF 0xFF 1)) ∧
     (∀ x, (d.regionWaits r.val).find? (fun w => decide (2 ^ d.waitLog2 r.val ≤ w.clk)) = some x →
       let t := (d.logEnter r.val 6 (d.waitRecord r.val x)).raiseFree r.val 0x21
       (x.site = none → s.answers (.waitWatchdog r) (t.stopRegion r.val 0xFF 0xFF 2)) ∧
       (∀ u, x.site = some u → s.answers (.waitWatchdog r) (t.stopRegion r.val (siteX u) (siteY u) 2))))

/-- A backward BR counts the times it is taken in the current run of the comb; once it has been taken LIMIT times it falls
through whatever its condition; the counts clear as a comb starts (R227). -/
def Obligations.BackwardBranchLimit : Prop :=
  (∀ (s : State) (d : Device) (r : Region) (w : Nat), s.runs d → d.pilotAt r.val 5 w →
    bitsNat w 41 33 ≤ (d.pilot r.val).pc.toNat →
    let p := d.pilot r.val
    let i := p.pc.toNat
    let n := p.taken.getD i 0
    let x := p.sum (bitsNat w 54 50)
    ∃ t, s.answers (.br r) t ∧
      (n < bitsNat w 49 42 → bitsNat w 57 55 = 0 ∨ x.poison = false →
        brHolds (bitsNat w 57 55) x.ty.toNat x.val (BitVec.ofNat 32 (bitsNat w 31 0)) = true →
        (t.pilot r.val).pc = BitVec.ofNat 9 (bitsNat w 41 33) ∧ (t.pilot r.val).taken.getD i 0 = n + 1) ∧
      (bitsNat w 49 42 ≤ n →
        (t.pilot r.val).pc = BitVec.ofNat 9 (i + 1) ∧ (t.pilot r.val).taken = p.taken) ∧
      (∀ j, j ≠ i → (t.pilot r.val).taken.getD j 0 = p.taken.getD j 0)) ∧
  (∀ (p : Pilot) (c succ : Nat) (eot program : Bool), (p.startComb c succ eot program).taken = [])

/-- A region that stops keeps its cause and place, halts every other region with cause 10, turns the tick OFF and the set
HALTED with the halting region named; memory, flags and the queues of the grid stay as they are (R64, R235). -/
def Obligations.StopHaltsTheJob : Prop :=
  ∀ (d : Device) (r x y cause : Nat), r < 8 → (d.pilot r).state ≠ 6 → d.comb.state = .active →
    let t := d.stopRegion r x y cause
    (t.pilot r).state = 6 ∧ (t.pilot r).cause = BitVec.ofNat 4 cause ∧ (t.pilot r).stopX = BitVec.ofNat 8 x ∧
    (t.pilot r).stopY = BitVec.ofNat 8 y ∧
    (∀ q, q < 8 → q ≠ r → (t.pilot q).state = 6 ∧ ((d.pilot q).state ≠ 6 → (t.pilot q).cause = 10)) ∧
    t.comb.state = .halted ∧ t.comb.haltRegion = BitVec.ofNat 8 r ∧ t.comb.halting = true ∧ t.tick.life = .off ∧
    t.tick.staged = [] ∧ (∀ q, q < 8 → (t.pwrRegion q).halted = true) ∧ t.hbm = d.hbm ∧ t.ring = d.ring ∧
        t.homes = d.homes ∧ t.switches = d.switches ∧ t.mus = d.mus ∧
    t.sus = d.sus

/-! ### Planes and swaps (R57 to R63, R229) -/

/-- The acts of a swap: markers reach the pilot, the target reaches the others, the plane load ends, a swap is issued,
completes, and a stopped region takes up the active comb when it starts (R41, R57, R59, R228, R229, R418).
A pilot that starts a comb stands at instruction 0 with its loops, summaries, branches and wait cleared and its shape
registers and tick as they were (R220, R222, R223, R227, R230). -/
def Obligations.SwapActs : Prop :=
  (∀ (s : State) (d : Device), s.runs d →
     (∀ u : SiteIx,
       let e := d.drainOut u.val
       let sent := e.modUnit u.val fun m => { m with eocSent := true }
       let done (t : Device) : Device :=
         (t.modPilot (siteRegion u.val) fun p => { p with markers := u.val :: p.markers }).trySwap (siteRegion u.val)
       e.unitRuns u.val = true → (e.unit u.val).eocSent = false → e.combDone u.val = true →
       (siteKind u.val = .mu ∨ siteKind u.val = .sfu → s.answers (.eocMarker u) (done sent)) ∧
       (siteKind u.val = .su →
         s.answers (.eocMarker u) (done (sent.modSu u.val fun x => { x with state := 2 }))) ∧
       (siteKind u.val = .iou →
         s.answers (.eocMarker u) (done (sent.modIou u.val fun x => { x with state := 2 })))) ∧
     (∀ (r : Region) t ts, (d.pilot r.val).ringIn = t :: ts → d.live r.val = true → d.comb.state = .active →
       (d.pilot r.val).idleUntilStrike = false → t.no = (d.pilot r.val).swapNo →
       let got := d.modPilot r.val fun p => { p with ringIn := ts }
       ((d.pilot r.val).target = none → d.usesRegion (d.combOf r.val) r.val = true →
         s.answers (.swapTarget r) (got.modPilot r.val (·.learn t))) ∧
       ((d.pilot r.val).target = none → d.usesRegion (d.combOf r.val) r.val = false →
         s.answers (.swapTarget r)
           ((got.modPilot r.val (·.learn t)).modPilot r.val fun p =>
             { p with state := 4, drain := d.usesRegion t.target r.val })) ∧
       (∀ x, (d.pilot r.val).target = some x → x.no = t.no →
         (x = t → s.answers (.swapTarget r) got) ∧ (x ≠ t → s.answers (.swapTarget r) (got.swapMismatch r.val)))) ∧
     (∀ (r : Region) c, d.clockRuns r.val = true → d.comb.state = .active → (d.pilot r.val).loading = some c →
       ((d.pilot r.val).loaded = false →
         s.answers (.planeLoadDone r)
           (((regionSites r.val).foldl (fun d u => d.loadIdle r.val c u) d).modPilot r.val fun p =>
             { p with loaded := true })) ∧
       ((d.pilot r.val).loaded = true →
         s.answers (.planeLoadDone r)
           ((regionSites r.val).foldl (fun d u => if (d.switch u).idleReload then d.loadIdle r.val c u else d) d))) ∧
     (∀ (r : Region) t, (d.pilot r.val).target = some t → d.live r.val = true → d.comb.state = .active →
       (d.pilot r.val).issued = false → d.mayIssue r.val t.target = true →
       s.answers (.swapIssue r)
         ((d.modPilot r.val fun p =>
           { p with issued := true, state := 4, swaps := satInc p.swaps, switchClk := 64 }).noteIssue r.val t)) ∧
     (∀ (r : Region) t, (d.pilot r.val).target = some t → d.live r.val = true → d.comb.state = .active →
       (d.pilot r.val).issued = true → (d.pilot r.val).switchClk = 0 →
       (d.badIdle r.val = [] → s.answers (.swapComplete r) (d.completeSwap r.val t)) ∧
       (∀ u us, d.badIdle r.val = u :: us → (d.pilot r.val).reloaded = false →
         s.answers (.swapComplete r) (d.reloadPlanes r.val t.target (u :: us))) ∧
       (∀ u us, d.badIdle r.val = u :: us → (d.pilot r.val).reloaded = true →
         s.answers (.swapComplete r) ((d.raiseFree r.val 0x2A).stopRegion r.val (siteX u) (siteY u) 4))) ∧
     (∀ (r : Region) id, (d.pwrRegion r.val).startCmd = some id →
       s.answers (.regionStart r) (((d.startRegionClock r.val).complete id Status.ok).catchUp r.val))) ∧
  (∀ (p : Pilot) (c succ : Nat) (eot program : Bool),
     let t := p.startComb c succ eot program
     t.comb = BitVec.ofNat 4 c ∧ t.pc = 0 ∧ t.combClk = 0 ∧ t.cnt = [] ∧ t.sums = [] ∧ t.taken = [] ∧ t.wait = none ∧
     t.drain = (eot && p.drain) ∧ t.issued = false ∧ t.swapNo = p.swapNo + 1 ∧ t.target = none ∧ t.markers = [] ∧
         t.loading = some succ ∧ t.loaded = false ∧
     t.idleUntilStrike = eot ∧ t.shape = p.shape ∧ t.tick = p.tick ∧ t.events = p.events ∧ t.swaps = p.swaps)

/-! ### The switch fabric (R67 to R103) -/

/-- WORD_SEND follows the route entry of the present clk, once delay lines of the output have taken up their words: with
every input at hand and room at the output a word or a sum leaves; from a delay line once it has spent its DELAY there;
bad sideband parity stops the region instead, and an idle entry sends nothing (R70 to R72, R75, R78, R98). SEAM_ARRIVAL
and BRIDGE_WORD_ARRIVAL take the first word on its way (R82 to R87); SEAM_RELOCK_DONE opens the die's seams (R83). -/
def Obligations.WordsMove : Prop :=
  ∀ (s : State) (d : Device), s.runs d →
    (∀ (u : SiteIx) net (out : Fin 6) (lane : Fin 4), d.started (siteRegion u.val) = true →
      (d.switch u.val).active.comb.isSome = true → d.comb.state = .active →
      let t := d.fillLines u.val net out.val
      let x := t.switch u.val
      (t.routeNow u.val net out.val lane.val = none → s.answers (.wordSend u net out lane) t) ∧
      (∀ e, t.routeNow u.val net out.val lane.val = some e → t.live (siteRegion u.val) = true →
        x.lastSent.getD (sendKey net out.val lane.val) 0 ≠ (t.pilot (siteRegion u.val)).combClk + 1 →
        t.hasRoom u.val net out.val (match net with | .control => lane.val | _ => e.slot) = true →
        (e.delay = 0 → (∀ k ∈ e.keys net, ∃ w, x.headFor e k = some w ∧ w.sideOk net = true) →
          ∃ t' w, t.gather u.val net e = (t', some w) ∧
            s.answers (.wordSend u net out lane) (t'.sendNow u.val net out.val lane.val e w)) ∧
        (∀ w, e.delay = 0 → e.mode = 1 → x.headFor e ⟨net, e.src, e.srcVc⟩ = some w → w.sideOk net = true →
          w.dataOk net = true →
          s.answers (.wordSend u net out lane)
            ((((t.modSwitch u.val fun x =>
              x.take (routesOf x.active.image net) (natOfBool x.bank) e ⟨net, e.src, e.srcVc⟩).drainOut u.val).progress
                (siteRegion u.val)).sendNow u.val net out.val lane.val e w)) ∧
        (∀ k, e.delay = 0 → (∀ k ∈ e.keys net, (x.headFor e k).isSome = true) →
          ((e.keys net).find? fun k => (x.headFor e k).any fun w => !w.sideOk net) = some k →
          s.answers (.wordSend u net out lane) (t.sidebandFail u.val k)) ∧
        (∀ w, e.delay ≠ 0 → t.ripe u.val e = some w →
          s.answers (.wordSend u net out lane)
            ((t.modSwitch u.val fun x => { x with lines := x.lines.put e.id ((x.line e).drop 1) }).sendNow u.val net out.val
              lane.val e w))) ∧
      (net ≠ .vector ∨ (∀ e ∈ routesOf (d.switch u.val).active.image .vector, e.delay = 0 ∨ e.out ≠ out.val) → t = d)) ∧
    (∀ (u : SiteIx) (port : Fin 6) net (v : Fin 8) c rest, d.clockRuns (siteRegion u.val) = true →
      takeFirst (fun c => !c.bridge && c.site == u.val && c.port == port.val && c.net == net && c.vc == v.val) d.crossings =
        some (c, rest) → d.relock.contains (siteDie u.val) = false →
      s.answers (.seamArrival u port net v) ({ d with crossings := rest }.arrive c)) ∧
    (∀ (u : SiteIx) (port : Fin 6) net (v : Fin 8) c rest, d.clockRuns (siteRegion u.val) = true →
      takeFirst (fun c => c.bridge && c.site == u.val && c.port == port.val && c.net == net && c.vc == v.val) d.crossings =
        some (c, rest) →
      s.answers (.bridgeWordArrival u port net v true) ({ d with crossings := rest }.arrive c) ∧
      (c.tries + 1 < 4 →
        s.answers (.bridgeWordArrival u port net v false)
          ({ d with crossings := { c with tries := c.tries + 1 } :: rest }.modIou (bridgeIou u.val port.val) fun i =>
            { i with bridgeRetry := satInc i.bridgeRetry })) ∧
      (4 ≤ c.tries + 1 →
        s.answers (.bridgeWordArrival u port net v false)
          ({ d with crossings := { c with tries := 4 } :: rest }.bridgeFail u.val port.val))) ∧
    (∀ k : Die, s.answers (.seamRelockDone k) { d with relock := d.relock.filter (· != k.val) })

/-- A word whose sideband is sound arrives: with the comb's epoch it joins its buffer; one of the next comb is held
while the region drains; any other is discarded and counted as stale (R60, R84). An error in its data poisons it, and
one in its sideband stops the region before its epoch is trusted (R98). -/
def Obligations.ArrivalByEpoch : Prop :=
  ∀ (d : Device) (c : Crossing),
    let r := siteRegion c.site
    let k : BufKey := ⟨c.net, c.port, c.vc⟩
    (c.item.sideOk c.net = false → d.arrive c = d.sidebandFail c.site k) ∧
    (c.item.sideOk c.net = true → c.item.dataOk c.net = false →
      d.arrive c = (d.parityHit c.site).settleItem { c with item := { c.item with poison := true }.sealed c.net }) ∧
    (c.item.sideOk c.net = true → c.item.dataOk c.net = true → c.item.epoch = (d.pilot r).comb →
      ((d.arrive c).switch c.site).buf k =
        { (d.switch c.site).buf k with items := ((d.switch c.site).buf k).items ++ [c.item] }) ∧
    (c.item.sideOk c.net = true → c.item.dataOk c.net = true → c.item.epoch ≠ (d.pilot r).comb → (d.pilot r).drain = true →
      ((d.arrive c).switch c.site).buf k =
        { (d.switch c.site).buf k with hold := ((d.switch c.site).buf k).hold ++ [c.item] }) ∧
    (c.item.sideOk c.net = true → c.item.dataOk c.net = true → c.item.epoch ≠ (d.pilot r).comb → (d.pilot r).drain = false →
      ((d.arrive c).switch c.site).buf k = (d.switch c.site).buf k ∧
      ((d.arrive c).switch c.site).stale = satInc (d.switch c.site).stale)

/-! ### Counters and tokens (R94 to R97, R114) -/

/-- The tokens that reach a unit: STEP raises a counter, jointly by 2 where the program raises it in the same clk, BOUND
sets a token bound, DONE ends a loop level or a context, BRANCH names the entry taken at the next boundary; a token of
no unit is discarded and counted (R94 to R97, R115, R253). A ROUTE token that has come to a switch, on the system lane
or at its L output, sets the bank of the next clk, in which a head word counts as taken by no entry of a new bank (R94,
R96). -/
def Obligations.TokensAct : Prop :=
  (∀ (s : State) (d : Device) (u : SiteIx) (lane : Fin 4) (t : BitVec 16) (m : Machine.Unit), s.runs d →
    d.tokenAt u.val lane.val t m →
    let taken := d.modUnit u.val fun _ => m
    let r := siteRegion u.val
    (tokType t = 1 → s.answers (.step u lane) ((taken.raiseCnt u.val (bitsNat (tokArg t) 2 0) 0).progress r)) ∧
    (tokType t = 1 → ∀ c k, m.raises.find (bitsNat (tokArg t) 2 0) = some (c, [k]) → k ≠ 0 →
      ∃ t', s.answers (.step u lane) t' ∧
        t'.cnt u.val (bitsNat (tokArg t) 2 0) = d.raised u.val (bitsNat (tokArg t) 2 0) 2 c) ∧
    (tokType t = 2 → (d.counterRec u.val (bitsNat (tokArg t) 2 0)).bsrc = 1 →
      s.answers (.bound u lane)
        ((taken.modUnit u.val fun m =>
          { m with cnt := m.cnt.upd (bitsNat (tokArg t) 2 0) .reset fun c =>
              { c with bound := BitVec.ofNat 32 (bitsNat (tokArg t) 11 3) } }).progress r)) ∧
    (tokType t = 2 → (d.counterRec u.val (bitsNat (tokArg t) 2 0)).bsrc ≠ 1 →
      s.answers (.bound u lane) ((taken.badToken u.val).progress r)) ∧
    (tokType t = 3 → siteKind u.val = .mu ∨ siteKind u.val = .sfu →
      ∃ levels, (∀ k, k ∈ levels ↔ k = bitsNat (tokArg t) 2 0 ∨ k ∈ m.doneLevels) ∧
        s.answers (.done u lane) ((taken.modUnit u.val fun m => { m with doneLevels := levels }).progress r)) ∧
    (tokType t = 3 → siteKind u.val = .su → 8 ≤ tokArg t →
      s.answers (.done u lane) ((taken.badToken u.val).progress r)) ∧
    (tokType t = 3 → siteKind u.val = .iou ∨ (siteKind u.val = .su ∧ tokArg t < 8) →
      s.answers (.done u lane) ((taken.doneCtx u.val (bitsNat (tokArg t) 2 0)).progress r)) ∧
    (tokType t = 4 → siteKind u.val = .mu ∨ siteKind u.val = .sfu →
      let e := fieldAt (d.section u.val) (0x70 + 2 * bitsNat (tokArg t) 3 0) 2
      (e ≠ 0xFFFF →
        s.answers (.branchTok u lane) ((taken.modUnit u.val fun m => { m with branch := some e }).progress r)) ∧
      (e = 0xFFFF → s.answers (.branchTok u lane) ((taken.badToken u.val).progress r))) ∧
    (tokType t = 4 → siteKind u.val = .su ∨ siteKind u.val = .iou → s.answers (.branchTok u lane) (taken.progress r)) ∧
    (∀ c, tokType t = 0 ∨ 5 ≤ tokType t → c ∈ [Instr.step u lane, .bound u lane, .done u lane, .branchTok u lane] →
      s.answers c ((taken.badToken u.val).progress r))) ∧
  (∀ (s : State) (d : Device) (u : SiteIx), s.runs d → d.started (siteRegion u.val) = true → d.comb.state = .active →
    (d.switch u.val).active.comb.isSome = true →
    (∀ i x, d.laneToken (siteRegion u.val) (d.switch u.val).laneNext true = some (i, x) →
      s.answers (.route u 3) (d.modSwitch u.val fun s => { s with bankNext := some (x.getLsbD 0), laneNext := i + 1 })) ∧
    (∀ (lane : Fin 4) k w rest, lane ≠ 3 →
      takeFirst (fun p : Nat × Item => p.1 == lane.val) (d.switch u.val).routeAt = some ((k, w), rest) →
      s.answers (.route u lane)
        ((d.modSwitch u.val fun s => { s with bankNext := some (w.data.getLsbD 0), routeAt := rest }).progress
          (siteRegion u.val)))) ∧
  (∀ (x : Switch) b, x.bankNext = some b →
    x.nextBank.bank = b ∧ x.nextBank.bankNext = none ∧ (x.bank = b → x.nextBank.bufs = x.bufs) ∧
    (x.bank ≠ b → ∀ p ∈ x.nextBank.bufs, p.2.taken = []))

/-! ### Multiplier units (R106 to R145, R155 to R169) -/

/-- The tile program: MMA and VMMA pass their checks and become jobs, or fault; DRAIN queues its job and marks its range;
DRAIN_COMPLETE frees it; FENCE, LOOP, VEC, END and NOP (R112, R116 to R119, R126, R131 to R139). -/
def Obligations.TileInstructions : Prop :=
  ∀ (s : State) (d : Device) (u : SiteIx), s.runs d →
    let m := d.mu u.val
    let sec := d.section u.val
    (∀ opc c, (opc = 1 ∧ c = Instr.mma u ∨ opc = 2 ∧ c = Instr.vmma u) → d.muReady u.val opc = true →
      m.jobs.all (·.ready) = true → m.jobs.length < 2 →
      let t := tileAt sec m.pc
      let b := if t.bsrcM = 2 ∨ t.bsrcN = 2 ∨ t.bsrcK = 2 then m.readRow t.baddr else ([], false, m)
      let d₁ := d.modMu u.val fun _ => b.2.2
      (∀ f, d₁.tileCheck u.val t b.1 = .inl f → s.answers c (d₁.muFault u.val m.pc f)) ∧
      (∀ bm bn bk, d₁.tileCheck u.val t b.1 = .inr (bm, bn, bk) →
        ∃ e : Device, s.answers c (e.muNext u.val) ∧
          (e.mu u.val).jobs.map (fun j => (j.instr, j.bm, j.bn, j.bk, j.m, j.n, j.k)) =
            m.jobs.map (fun j => (j.instr, j.bm, j.bn, j.bk, j.m, j.n, j.k)) ++ [(m.pc, bm, bn, bk, t.m, t.n, t.k)] ∧
          (e.mu u.val).acc = m.acc ∧ (e.mu u.val).scratch = b.2.2.scratch ∧
          ∃ x, findRange (e.mu u.val).ranges
            (accEffective t.accBase t.accEn t.accCnt t.accStride (d₁.cntVal u.val)) t.m t.n = some x ∧
              x.state = .accumulating ∧ (b.2.1 = true → x.poison = true))) ∧
    (d.muReady u.val 3 = true →
      let x := drainAt sec m.pc
      let c := OutCfg.parse (muOutcfg sec x.ocfg)
      let a := accEffective x.accBase x.accEn x.accCnt x.accStride (d.cntVal u.val)
      let b := if x.bsrcM = 2 ∨ x.bsrcN = 2 then m.readRow x.baddr else ([], false, m)
      let d₁ := d.modMu u.val fun _ => b.2.2
      let bm := d₁.boundOf u.val x.bsrcM x.m x.breg b.1 0
      let bn := d₁.boundOf u.val x.bsrcN x.n (x.breg + 1) b.1 1
      (x.m < bm → s.answers (.drain u) (d₁.muFault u.val m.pc (.over_ 1 bm))) ∧
      (bm ≤ x.m → x.n < bn → s.answers (.drain u) (d₁.muFault u.val m.pc (.over_ 2 bn))) ∧
      (∀ f, bm ≤ x.m → bn ≤ x.n → x.footprint c (d₁.cntVal u.val) = some f →
        s.answers (.drain u) (d₁.muFault u.val m.pc f)) ∧
      (bm ≤ x.m → bn ≤ x.n → x.footprint c (d₁.cntVal u.val) = none →
        (∀ e, findRange m.ranges a x.m x.n = some e → e.state = .draining →
          s.answers (.drain u) (d₁.muFault u.val m.pc (.range a))) ∧
        (∀ e, findRange m.ranges a x.m x.n = some e → e.state ≠ .draining →
          s.answers (.drain u)
            ((d₁.modMu u.val fun m =>
              { (m.modRange a fun e => { e with state := .draining, poison := e.poison || b.2.1 }) with
                drains := m.drains ++
                  [{ instr := m.pc, ocfg := x.ocfg, m := x.m, n := x.n, bm := bm, bn := bn, base := a,
                     toNet := x.dest == 1, vc := x.vc,
                     first := x.base + (if x.idxEn then d₁.cntVal u.val x.cnt * x.stride else 0), pitch := x.pitch,
                     begun := false, scale := [], bias := [], row := 0, col := 0, part := [], place := 0,
                     word := none }] }).muNext u.val)) ∧
        (findRange m.ranges a x.m x.n = none → s.answers (.drain u) (d₁.muFault u.val m.pc (.range a))))) ∧
    (d.muReady u.val 4 = true → m.jobs = [] → (∀ e ∈ m.ranges, e.state ≠ .draining) →
      s.answers (.fence u) (d.muNext u.val)) ∧
    (d.muReady u.val 5 = true →
      let w := muWord sec m.pc 0
      let r := d.loopPass u.val 1 (bitsNat w 57 55) (bitsNat w 54 52) (bitsNat w 51 44) (m.pc + 1)
      s.answers (.loop u) ((r.2.muGoto u.val (if r.1 then bitsNat w 43 32 else m.pc + 1)).progress (siteRegion u.val))) ∧
    (d.muReady u.val 6 = true → m.engine.running = false →
      let w := muWord sec m.pc 0
      let t := d.modMu u.val fun m =>
        { m with engine := { m.engine with running := true, pc := bitsNat w 47 32 }, vecInstr := m.pc,
                 vecWait := w.testBit 57 }
      (w.testBit 57 = false → s.answers (.vec u) (t.muNext u.val)) ∧
      (w.testBit 57 = true →
        s.answers (.vec u) ((t.modMu u.val fun x => { x with pc := m.pc + 1 }).progress (siteRegion u.val)))) ∧
    (d.muReady u.val 7 = true → m.jobs = [] → m.drains = [] → m.engine.running = false →
      s.answers (.endOp u) ((d.modMu u.val fun m => { m with state := 2 }).progress (siteRegion u.val))) ∧
    (d.muReady u.val 8 = true → s.answers (.muNop u) (d.muNext u.val)) ∧
    (∀ j rest, siteKind u.val = .mu → d.unitRuns u.val = true → m.drains = j :: rest → j.begun = true →
      j.allRead = true → j.word = none → ∀ e, m.ranges.find? (fun e => e.base == j.base) = some e →
      s.answers (.drainComplete u)
        ((d.modMu u.val fun m =>
          { m with ranges := m.ranges.filter fun e => e.base != j.base, drains := rest, drainCount := satInc m.drainCount,
                   flags := m.flags ||| BitVec.ofNat 5 (natOfBool e.flags.ovf + 2 * natOfBool e.flags.inv +
                     4 * natOfBool e.flags.unf + 8 * natOfBool e.poison) }).progress (siteRegion u.val)))

/-- MMA_RETIRE: the oldest job whose operands have been read writes its in-bound elements, each the sum of R155 from the
start value or the word that was there, and no other accumulator word; it then leaves the array (R112, R129, R155). -/
def Obligations.RetireWritesTile : Prop :=
  ∀ (s : State) (d : Device) (u : SiteIx) (j : MmaJob) (rest : List MmaJob), s.runs d → siteKind u.val = .mu →
    d.unitRuns u.val = true → (d.mu u.val).jobs = j :: rest → j.ready = true → (d.mu u.val).arrayUpset = none →
    j.bn ≤ j.n →
    let t := tileAt (d.section u.val) j.instr
    ∃ e, s.answers (.mmaRetire u) e ∧ (e.mu u.val).jobs = rest ∧ (e.mu u.val).tiles = satInc (d.mu u.val).tiles ∧
      (∀ row col, row < j.bm → col < j.bn →
        (e.mu u.val).acc.getD (j.base + row * j.n + col) 0 =
          ((j.product t).run row col (if j.overwrite then t.startValue
            else (d.mu u.val).acc.getD (j.base + row * j.n + col) 0)).1) ∧
      (∀ w, (∀ row col, row < j.bm → col < j.bn → w ≠ j.base + row * j.n + col) →
        (e.mu u.val).acc.getD w 0 = (d.mu u.val).acc.getD w 0) ∧
      (e.mu u.val).scratch = (d.mu u.val).scratch ∧ (∀ v, v ≠ u.val → e.mu v = d.mu v) ∧ e.hbm = d.hbm

/-- clip(x): a NaN stays; otherwise x below CLIP_LO becomes CLIP_LO, and then x above CLIP_HI becomes CLIP_HI; the zeros
compare equal; a bound that is a NaN is ignored; with CLIP_LO above CLIP_HI every x that is no NaN becomes CLIP_HI; the
output stage takes no flag from it (R164). -/
def Obligations.ClipFollowsItsBounds : Prop :=
  (∀ lo hi x : Word,
    let below (a b : Word) : Prop := ∃ c, (fl32 a).compare (fl32 b) = some c ∧ c < 0
    ((fl32 x).isNan = true → clipF32 lo hi x = x) ∧
    ((fl32 x).isNan = false → below hi lo → clipF32 lo hi x = hi) ∧
    (¬below hi lo → below x lo → clipF32 lo hi x = lo) ∧
    (¬below x lo → below hi x → clipF32 lo hi x = hi) ∧
    (¬below x lo → ¬below hi x → clipF32 lo hi x = x) ∧
    ((fl32 lo).isNan = true → ¬below x lo) ∧ ((fl32 hi).isNan = true → ¬below hi x)) ∧
  (fl32 0).compare (fl32 0x80000000) = some 0 ∧
  (∀ (c : OutCfg) (v : OutVectors) (w : Word) (i j : Nat), c.scaleEn = false → c.biasEn = false → c.lutEn = false →
    c.clipEn = true →
    (c.element v true w i j).1 = (c.pack (clipF32 c.clipLo c.clipHi w)).1 ∧
      (c.element v true w i j).2 = (c.pack (clipF32 c.clipLo c.clipHi w)).2)

/-! ### Vector engines and SFUs (R180 to R209) -/

/-- The lane instructions: lane i of D becomes the operation on lanes i of its sources for i below VL, the flags of those
lanes are collected, D is poisoned where a source is, and the program goes on (R183, R192, R198, R199, R204). -/
def Obligations.LaneInstructions : Prop :=
  ∀ (s : State) (d : Device) (u : SiteIx) (i : VIns), s.runs d →
    let e := d.eng u.val
    let pA := (e.vreg i.a).poison
    let pAB := pA || (e.vreg i.b).poison
    let pABD := pA || ((e.vreg i.b).poison || (e.vreg i.d).poison)
    let a (k : Nat) : Word := e.lane i.a k
    let b (k : Nat) : Word := e.lane i.b k
    let gives (c : Instr) (opc : Nat) (p : Bool) (f : Nat → Word × Flags) : Prop :=
      d.vecAt u.val opc i →
        s.answers c (d.vecStep u.val opc (if e.vl = 0 then d else d.lanesInto u.val i.d p f))
    gives (.vadd u) 0x01 pAB (fun k => addTy i.ty (a k) (b k)) ∧
        gives (.vsub u) 0x02 pAB (fun k => subTy i.ty (a k) (b k)) ∧
    gives (.vmul u) 0x03 pAB (fun k => mulTy i.ty (a k) (b k)) ∧
    gives (.vfma u) 0x04 pABD (fun k => fmaTy i.ty (a k) (b k) (e.lane i.d k)) ∧
    gives (.vmax u) 0x05 pAB (fun k => (extreme true i.ty (a k) (b k), .none)) ∧
    gives (.vmin u) 0x06 pAB (fun k => (extreme false i.ty (a k) (b k), .none)) ∧
    gives (.vabs u) 0x07 pA (fun k => absTy i.ty (a k)) ∧ gives (.vneg u) 0x08 pA (fun k => negTy i.ty (a k)) ∧
    gives (.vcmp u) 0x09 pAB (fun k => (if compareTy i.ty i.x (a k) (b k) then 1 else 0, .none)) ∧
    gives (.vsel u) 0x0A pABD (fun k => (if a k = 0 then e.lane i.d k else b k, .none)) ∧
    gives (.vmov u) 0x0B pA (fun k => (a k, .none)) ∧ gives (.vcvt u) 0x0C pA (fun k => convertTy i.ty i.x (a k)) ∧
    gives (.vshl u) 0x0D pA (fun k => (a k <<< i.x, .none)) ∧
    gives (.vshr u) 0x0E pA (fun k => (if i.ty = 1 then (a k).sshiftRight i.x else a k >>> i.x, .none)) ∧
    gives (.viota u) 0x0F false (fun k => (BitVec.ofNat 32 k, .none)) ∧
    gives (.vbcast u) 0x10 (e.sreg i.a).poison (fun _ => (e.sval i.a, .none)) ∧
    gives (.vfn u) 0x12 pA (fun k => specialFn i.x (a k)) ∧
    (1 ≤ (e.sval i.b).toNat → (e.sval i.b).toNat ≤ 254 →
      gives (.vbx u) 0x1A (pA || (e.sreg i.b).poison)
        (fun k => toF32 (Fl.ofInt (a k).toInt ((e.sval i.b).toNat - 127)))) ∧
    ((e.sval i.b).toNat = 0 ∨ 254 < (e.sval i.b).toNat → d.vecAt u.val 0x1A i →
      s.answers (.vbx u)
        (d.vecStep u.val 0x1A
          (if e.vl = 0 then d else (d.lanesInto u.val i.d true fun _ => (0, .none)).poisonRegs u.val 1)))

/-- Lanes at or beyond VL keep their bits, and a register that is not D keeps everything; so does the engine of every
other site, and memory (R183, R184). -/
def Obligations.LanesBeyondVlStay : Prop :=
  ∀ (d : Device) (u r : Nat) (p : Bool) (f : Nat → Word × Flags), siteKind u = .mu ∨ siteKind u = .sfu →
    let t := d.lanesInto u r p f
    (∀ k, k < (d.eng u).vl.toNat → (t.eng u).lane r k = (f k).1) ∧
    (∀ k, (d.eng u).vl.toNat ≤ k → (t.eng u).lane r k = (d.eng u).lane r k) ∧ ((t.eng u).vreg r).poison = p ∧
    (∀ q, q ≠ r → (t.eng u).vreg q = (d.eng u).vreg q) ∧ (t.eng u).s = (d.eng u).s ∧ (t.eng u).vl = (d.eng u).vl ∧
    (∀ v, v ≠ u → t.eng v = d.eng v) ∧ (t.mu u).scratch = (d.mu u).scratch ∧ (t.sfu u).sram = (d.sfu u).sram ∧
    t.hbm = d.hbm ∧ t.switches = d.switches ∧ t.pilots = d.pilots

/-- The scalar results, reductions, control, memory and network instructions of a vector engine (R184, R189, R190, R192
to R195, R197, R200 to R203, R208, R209). A load or a store whose bank is not free in the clk waits, and an MU counts the
loss (R107, R188). -/
def Obligations.ScalarMemoryAndNetwork : Prop :=
  ∀ (s : State) (d : Device) (u : SiteIx) (i : VIns), s.runs d →
    let e := d.eng u.val
    let gives (c : Instr) (opc : Nat) (t : Device) : Prop :=
      d.vecAt u.val opc i → s.answers c (d.vecStep u.val opc t)
    let m := bitsNat i.w1 31 28
    let row := d.vecRow u.val i
    gives (.vext u) 0x11 (d.scalarInto u.val i.d (e.lane i.a i.x) .none (e.vreg i.a).poison) ∧
    (let r := reduceLanes e i
     let arg := decide (5 ≤ i.x % 16) && !i.x.testBit 4
     let p := (e.vl != 0 && ((e.vreg i.a).poison || (decide (5 ≤ i.x % 16) && i.x.testBit 4 && (e.vreg i.b).poison))) ||
       (i.x.testBit 5 && (List.range r.1.length).any fun k => (e.sreg (i.d + k)).poison)
     let t := if i.x.testBit 5 ∧ e.vl = 0 then d else d.scalarsInto u.val i.d r.1 r.2 p
     gives (.vred u) 0x13 (if arg then t.modEng u.val fun e => { e with idx := e.idx + e.vl.setWidth 32 } else t)) ∧
    (i.x % 16 < 2 → i.x.testBit 5 = false →
      reduceLanes e i = ([(sumLanes i.ty (i.x % 16 == 1) (e.active.map (e.lane i.a))).1],
        (sumLanes i.ty (i.x % 16 == 1) (e.active.map (e.lane i.a))).2)) ∧
    (let best := bestPairs (i.x == 0) i.ty 1
       [(e.sval i.a, e.sval (i.a + 1)), (e.sval i.d, e.sval (i.d + 1))]
     let p := [i.a, i.a + 1, i.d, i.d + 1].any fun r => (e.sreg r).poison
     gives (.sarg u) 0x14
       ((d.modEng u.val (·.putSs i.d ((pairWords best).map fun w => (w, p)))).vecFlags u.val .none p)) ∧
    (let a := e.sval i.a
     let b := e.sval i.b
     let r : Word × Flags :=
       if i.x = 0 then addTy i.ty a b else if i.x = 1 then subTy i.ty a b else if i.x = 2 then mulTy i.ty a b
       else if i.x = 3 then (extreme true i.ty a b, .none) else (extreme false i.ty a b, .none)
     gives (.sop u) 0x15 (d.scalarInto u.val i.d r.1 r.2 ((e.sreg i.a).poison || (e.sreg i.b).poison))) ∧
    gives (.vsum u) 0x1B (d.sendSummary u.val i.d i.x i.ty (e.sval i.a) (e.sreg i.a).poison) ∧
    gives (.sli u) 0x28 (d.modEng u.val (·.putS i.d (BitVec.ofNat 32 i.w1) false)) ∧
    gives (.setvl u) 0x30 (d.modEng u.val fun e => { e with vl := BitVec.ofNat 7 (d.newVl u.val i) }) ∧
    gives (.setidx u) 0x31 (d.modEng u.val fun e => { e with idx := e.sval i.a }) ∧
    gives (.vnop u) 0x3E d ∧
    (let n := elemBytesOf (mfmtBits m) e.vl.toNat
     (n ≠ 0 → vecBeyond u.val row n = none → d.vecMayRead u.val row (ceilDiv n 64) = false → d.vecAt u.val 0x20 i →
       s.answers (.vld u) (d.vecRetry u.val 0x20)) ∧
     (∀ bs bad d', n ≠ 0 → vecBeyond u.val row n = none → d.vecMayRead u.val row (ceilDiv n 64) = true →
       d.vecRead u.val row (ceilDiv n 64) = (bs, bad, d') →
       gives (.vld u) 0x20
         (((d'.modEng u.val (·.putV i.d (e.active.map fun k => widen m (i.w1.testBit 27) (elemAt bs (mfmtBits m) k))
           bad)).vecFlags u.val .none bad).poisonRegs u.val (natOfBool bad))) ∧
     (n = 0 → vecBeyond u.val row n = none → gives (.vld u) 0x20 d) ∧
     (∀ last, vecBeyond u.val row n = some last → d.vecAt u.val 0x20 i →
       s.answers (.vld u) (d.vecFault u.val 1 last))) ∧
    (vecBeyond u.val row (e.packed i).1.length = none →
      d.vecMayWrite u.val row (ceilDiv (e.packed i).1.length 64) = false → d.vecAt u.val 0x21 i →
      s.answers (.vst u) (d.vecRetry u.val 0x21)) ∧
    (vecBeyond u.val row (e.packed i).1.length = none →
      d.vecMayWrite u.val row (ceilDiv (e.packed i).1.length 64) = true →
      gives (.vst u) 0x21
        ((d.vecWrite u.val row (e.packed i).1 (e.vreg i.a).poison).vecFlags u.val (e.packed i).2 false)) ∧
    (∀ last, vecBeyond u.val row (e.packed i).1.length = some last → d.vecAt u.val 0x21 i →
      s.answers (.vst u) (d.vecFault u.val 2 last)) ∧
    (vecBeyond u.val row (4 * i.count) = none →
      (d.vecMayRead u.val row 1 = false → d.vecAt u.val 0x22 i → s.answers (.sld u) (d.vecRetry u.val 0x22)) ∧
      (d.vecMayWrite u.val row 1 = false → d.vecAt u.val 0x23 i → s.answers (.sst u) (d.vecRetry u.val 0x23))) ∧
    (∀ bs bad d', vecBeyond u.val row (4 * i.count) = none → d.vecMayRead u.val row 1 = true →
      d.vecRead u.val row 1 = (bs, bad, d') →
      gives (.sld u) 0x22
        (((d'.modEng u.val (·.putSs i.d ((List.range i.count).map fun k =>
          (BitVec.ofNat 32 (fieldAt bs (4 * k) 4), bad)))).vecFlags u.val .none bad).poisonRegs u.val
            (if bad then i.count else 0))) ∧
    (∀ last, vecBeyond u.val row (4 * i.count) = some last →
      (d.vecAt u.val 0x22 i → s.answers (.sld u) (d.vecFault u.val 1 last)) ∧
      (d.vecAt u.val 0x23 i → s.answers (.sst u) (d.vecFault u.val 2 last))) ∧
    (vecBeyond u.val row (4 * i.count) = none → d.vecMayWrite u.val row 1 = true →
      let regs := (List.range i.count).map (i.a + ·)
      gives (.sst u) 0x23
        (d.vecWrite u.val row (regs.flatMap fun r => leBytes 4 (e.sval r).toNat) (regs.any fun r => (e.sreg r).poison))) ∧
    (let n := ceilDiv (elemBytesOf (mfmtBits m) e.vl.toNat) 64
     (n ≠ 0 → e.recv = none →
       gives (.vrecv u) 0x24
         ((d.modEng u.val fun e =>
           { e with recv := some { instr := e.pc, net := .vector, vc := bitsNat i.w1 26 24, left := n, got := [],
                                   vl := e.vl.toNat } }).recvPump u.val (n + 1))) ∧
     (n = 0 → e.recv = none → gives (.vrecv u) 0x24 d)) ∧
    (let t := d.drainOut u.val
     (t.unit u.val).out = [] →
      gives (.vsend u) 0x25
        ((t.sendWords u.val .vector (bitsNat i.w1 26 24) (i.w1.testBit 23)
          ((chunks 64 ((e.packed i).1.length + 1) (e.packed i).1).map fun c => (le c, (e.vreg i.a).poison))).vecFlags
            u.val (e.packed i).2 false)) ∧
    (e.recv = none →
      gives (.srecv u) 0x26
        ((d.modEng u.val fun e =>
          { e with recv := some { instr := e.pc, net := .scalar, vc := bitsNat i.w1 26 24, left := i.count, got := [],
                                  vl := e.vl.toNat } }).recvPump u.val (i.count + 1))) ∧
    (let t := d.drainOut u.val
     (t.unit u.val).out = [] →
      gives (.ssend u) 0x27
        (t.sendWords u.val .scalar (bitsNat i.w1 26 24) (i.w1.testBit 23)
          ((List.range i.count).map fun k => ((e.sval (i.a + k)).toNat, (e.sreg (i.a + k)).poison)))) ∧
    (d.vecAt u.val 0x29 i →
      let r := d.loopPass u.val (if siteKind u.val = .mu then 2 else 1) (bitsNat i.w1 31 29) (bitsNat i.w1 28 26)
        (bitsNat i.w1 25 18) (e.pc + 2)
      s.answers (.vloop u)
        ((r.2.vecGoto u.val (if r.1 then bitsNat i.w1 17 6 else e.pc + 2)).progress (siteRegion u.val))) ∧
    (d.vecAt u.val 0x3F i →
      let t := d.drainOut u.val
      let ended := t.modMu u.val fun m => { m with engine := { m.engine with running := false }, vecWait := false }
      (siteKind u.val = .mu → (t.mu u.val).vecWait = false → s.answers (.vend u) (ended.progress (siteRegion u.val))) ∧
      (siteKind u.val = .mu → (t.mu u.val).vecWait = true →
        s.answers (.vend u) ((ended.muGoto u.val (t.mu u.val).pc).progress (siteRegion u.val))) ∧
      (siteKind u.val = .sfu → e.recv = none → (t.unit u.val).out = [] →
        s.answers (.vend u) ((t.modSfu u.val fun m => { m with state := 2 }).progress (siteRegion u.val))))

/-- The scale units: VQNT converts by its slot and counts the pass, SCLOSE ends it, at once or once the reports or the
scale that it waits for have come, a member's report reaches the leader and a scale message the member, SSCALE reads the
scale, VBQ writes a block and its scale byte, and nothing with VL 0; with a slot not in use VQNT and SCLOSE do nothing
(R171 to R179, R184, R205 to R207). -/
def Obligations.ScaleUnitsAct : Prop :=
  ∀ (s : State) (d : Device) (u : SiteIx) (i : VIns), s.runs d → siteKind u.val = .sfu →
    let e := d.eng u.val
    let gives (c : Instr) (opc : Nat) (t : Device) : Prop :=
      d.vecAt u.val opc i → s.answers c (d.vecStep u.val opc t)
    let sec := d.section u.val
    (∀ r, slotRec sec i.x = some r → e.vl ≠ 0 →
      let slot := (d.sfu u.val).slot i.x
      let xs := e.active.map (e.lane i.a)
      let rs := xs.map (slot.convert r.fmt)
      gives (.vqnt u) 0x16
        ((d.lanesInto u.val i.d (e.vreg i.a).poison fun k =>
          ((slot.convert r.fmt (e.lane i.a k)).1, (slot.convert r.fmt (e.lane i.a k)).2.1)).modSlot u.val i.x fun s =>
          { s with stats := { n := s.stats.n + xs.length, m := xs.foldl maxFinite s.stats.m,
                              c := s.stats.c + (rs.filter (·.2.2.1)).length,
                              z := s.stats.z + (rs.filter (·.2.2.2)).length } })) ∧
    (∀ r, slotRec sec (i.x % 16) = some r → r.leader = true →
      ((d.sfu u.val).slot (i.x % 16)).reports.length < r.members → d.vecAt u.val 0x17 i →
      s.answers (.sclose u)
        (((d.modSlot u.val (i.x % 16) fun t => { t with closing := some i.b, waitClk := 0 }).modEng u.val fun n =>
          { n with pc := e.pc + 1 }).progress (siteRegion u.val))) ∧
    (slotRec sec i.x = none → gives (.vqnt u) 0x16 d) ∧ (slotRec sec (i.x % 16) = none → gives (.sclose u) 0x17 d) ∧
    (e.vl = 0 → gives (.vqnt u) 0x16 d) ∧
    (∀ r, slotRec sec (i.x % 16) = some r → r.leader = true →
      r.members ≤ ((d.sfu u.val).slot (i.x % 16)).reports.length →
      gives (.sclose u) 0x17 (d.closePass u.val (i.x % 16) r i.b)) ∧
    (∀ r, slotRec sec (i.x % 16) = some r → r.leader = false →
      let t := (d.sendReport u.val r ((d.sfu u.val).slot (i.x % 16)).stats).modSlot u.val (i.x % 16) fun t =>
        { t with stats := .reset, closedInTick := true, waitMsg := i.x.testBit 4, waitClk := 0 }
      (i.x.testBit 4 = false → gives (.sclose u) 0x17 t) ∧
      (i.x.testBit 4 = true → d.vecAt u.val 0x17 i →
        s.answers (.sclose u) ((t.modEng u.val fun n => { n with pc := e.pc + 1 }).progress (siteRegion u.val)))) ∧
    gives (.sscale u) 0x18 (d.scalarInto u.val i.d ((d.sfu u.val).slot (i.x % 16)).scale .none false) ∧
    (let q := if i.x = 0 then 127 else 7
     let xs := (List.range 64).map fun k => if k < e.vl.toNat then e.lane i.a k else 0
     let sc := blockScale (fl32 (xs.foldl maxFinite 0)) q 254 1
     let p := (e.vreg i.a).poison
     let rs := xs.map (blockElem q sc)
     gives (.vbq u) 0x19
       (if e.vl = 0 then d else (((d.modEng u.val (·.putV i.d (rs.map (·.1)) p)).vecFlags u.val (rs.foldl (fun f w =>
           f.or w.2) Flags.none)
         p).modEng u.val (·.putS i.b (BitVec.ofNat 32 sc) p)).vecFlags u.val .none p)) ∧
    (∀ (k : Fin 16) r m n c z rest, d.unitRuns u.val = true → (d.sfu u.val).state = 1 → slotRec sec k.val = some r →
      r.leader = true → (d.unit u.val).takeWords r.vc 4 = some ([m, n, c, z], rest) →
      ((d.sfu u.val).slot k.val).closing = none ∨ ((d.sfu u.val).slot k.val).reports.length + 1 < r.members →
      s.answers (.scaleReport u k)
        (((d.modUnit u.val fun _ => rest).modSlot u.val k.val fun t =>
          { t with reports := t.reports ++ [{ m := m, n := n.toNat, c := c.toNat, z := z.toNat }] }).progress
            (siteRegion u.val))) ∧
    (∀ (k : Fin 16) r b m n c z rest, d.unitRuns u.val = true → (d.sfu u.val).state = 1 → slotRec sec k.val = some r →
      r.leader = true → (d.unit u.val).takeWords r.vc 4 = some ([m, n, c, z], rest) →
      ((d.sfu u.val).slot k.val).closing = some b → r.members ≤ ((d.sfu u.val).slot k.val).reports.length + 1 →
      s.answers (.scaleReport u k)
        (((((d.modUnit u.val fun _ => rest).modSlot u.val k.val fun t =>
          { t with reports := t.reports ++ [{ m := m, n := n.toNat, c := c.toNat, z := z.toNat }] }).progress
            (siteRegion u.val)).closePass u.val k.val r b).passClose u.val)) ∧
    (∀ (k : Fin 16) r (c v w : Word) rest, d.unitRuns u.val = true → slotRec sec k.val = some r → r.leader = false →
      (d.unit u.val).takeWords r.vc 3 = some ([c, v, w], rest) →
      let t := (d.modUnit u.val fun _ => rest).modSlot u.val k.val fun t =>
        { (if c &&& 3 = 1 then t.activate v else if c &&& 3 = 0 then { t with pending := v } else t) with waitMsg := false }
      (((d.sfu u.val).slot k.val).waitMsg = false → s.answers (.scaleMessage u k) (t.progress (siteRegion u.val))) ∧
      (((d.sfu u.val).slot k.val).waitMsg = true →
        s.answers (.scaleMessage u k) ((t.passClose u.val).progress (siteRegion u.val))))

/-! ### Storage units and streams (R237 to R271) -/

/-- Descriptors: a context takes up its next one, waits for its flag or starts; the wait ends; one is fetched from SRAM,
or faults; one whose words have all gone completes (R241, R248, R252, R257). One clk of the two paths of an SU and of
the packing queues of an IOU: rows read, written and copied, a bank that path B has taken first, elements asked of HBM,
of the hub and of other devices, words packed and delivered on both sides with their parity checked, windows released,
landing words taken (R239 to R244, R260, R262, R265 to R271). -/
def Obligations.StreamsMove : Prop :=
  (∀ (s : State) (d : Device) (u : SiteIx) (c : Fin 8), s.runs d → d.streams u.val = true →
     (d.started (siteRegion u.val) = true → (d.ctx u.val c.val).state = .between →
       s.answers (.descriptorStart u c) (d.takeUp u.val c.val)) ∧
     (∀ k, ((d.ctxKeys u.val c.val).find? fun k => (d.ctx u.val k).state == .waiting && (d.ctx u.val k).seen) = some k →
       let x := (d.ctx u.val k).d
       (∀ die f sense, x.wait = some (die, f, sense) → x.waitClr = true →
         s.answers (.descriptorWaitEnd u c) ((d.flagReq u.val die f !sense).startDesc u.val k)) ∧
       (x.waitClr = false → s.answers (.descriptorWaitEnd u c) (d.startDesc u.val k))) ∧
     (siteKind u.val = .su → (d.ctx u.val c.val).state = .fetching → (d.su u.val).copyRead = none →
       let desc := (d.ctx u.val c.val).desc
       ((d.su u.val).bankRead = some (desc % 16) →
         s.answers (.descriptorFetch u c) (d.bankConflict u.val (desc % 16) false)) ∧
       (∀ bs bad s', (d.su u.val).bankRead ≠ some (desc % 16) → (d.su u.val).read desc = (bs, bad, s') →
         let t := d.modSu u.val fun _ => { s' with copyRead := some (desc % 16), copyReader := some c.val }
         let nextOk := (Desc.parse bs).next.all fun n => n.1 || decide (n.2 < secNdesc (d.section u.val))
         (bad = true → s.answers (.descriptorFetch u c) (t.streamFault u.val c.val 5 2 0x43 desc)) ∧
         (bad = false → descBad bs true = true →
           s.answers (.descriptorFetch u c) (t.streamFault u.val c.val 5 1 0x43 desc)) ∧
         (bad = false → descBad bs true = false → nextOk = false →
           s.answers (.descriptorFetch u c) (t.streamFault u.val c.val 5 3 0x43 desc)) ∧
         (bad = false → descBad bs true = false → nextOk = true →
           s.answers (.descriptorFetch u c)
             (t.modCtx u.val c.val fun k => { k with state := .between, bytes := bs })))) ∧
     (let ends (d : Device) (k : Nat) : Bool :=
        (d.ctx u.val k).state == .running && ((d.ctx u.val k).d.kind == 4 ||
            (d.ctx u.val k).moved == (d.ctx u.val k).total) &&
          d.settled u.val k
      (∀ k, (∀ p, siteDuty u.val ≠ some (.port p)) → (d.ctxKeys u.val c.val).find? (ends d) = some k →
        s.answers (.descriptorComplete u c) (d.completeDesc u.val k)) ∧
      (∀ p, siteDuty u.val = some (.port p) →
        let t := ((d.ctxKeys u.val c.val).foldl (fun d k => d.closeDesc u.val k) d).pump
        ∀ k, t.streams u.val = true → (t.ctxKeys u.val c.val).find? (ends t) = some k →
          s.answers (.descriptorComplete u c) (t.completeDesc u.val k)))) ∧
  (∀ (s : State) (d : Device) (u : SiteIx), s.runs d → d.streams u.val = true →
     (∀ (c : Fin 8), siteKind u.val = .su → (List.range 8).find? (d.canRead u.val) = some c.val →
       (d.su u.val).bankRead = none →
       let k := d.ctx u.val c.val
       let row := (k.d.addr k.moved).toNat / 64
       let f := if (d.su u.val).copyRead = some (row % 16) then
           (d.bankConflict u.val (row % 16) false).undoCopyRead u.val else d
       ∀ bs bad s', (f.su u.val).read row = (bs, bad, s') →
       let last := k.moved + 1 == k.total || (k.d.lastRun && k.d.runEnd k.moved) || k.finish
       let got := f.modSu u.val fun _ => { s' with bankRead := some (row % 16) }
       let sent := (if bad then got.suPoison u.val else got).unitSend u.val .vector
         (Item.make .vector (le bs) (d.combOf (siteRegion u.val)) k.d.vc last bad)
       s.answers (.streamRead u c)
         ((sent.modCtx u.val c.val fun k =>
           { k with moved := k.moved + 1, elems := satInc k.elems, total := if k.finish then k.moved + 1 else k.total,
                    lastSent := (sent.unit u.val).run.getD (d.ctx u.val c.val).d.vc 0 == 0 }).progress
             (siteRegion u.val))) ∧
     (∀ (c : Fin 8) k, siteKind u.val = .iou →
       ((d.ctxKeys u.val c.val).find? fun k => (d.ctx u.val k).runs 1 &&
           decide ((d.ctx u.val k).moved < (d.ctx u.val k).total)) =
         some k →
       let x := (d.ctx u.val k).d
       let a := (x.addr (d.ctx u.val k).moved).toNat
       let moved (d : Device) : Device :=
         (d.modCtx u.val k fun k =>
           { k with moved := k.moved + 1, elems := satInc k.elems,
                    lastSent := { k with moved := k.moved + 1 }.sentLast }).progress (siteRegion u.val)
       (∀ j, siteDuty u.val = some (.hbm j) → ((d.iou u.val).inqueue x.vc).size + d.readsOut u.val k < packCap →
         s.answers (.streamRead u c)
           (moved (d.modStack j fun t =>
             { t with reads := t.reads ++
                 [{ site := u.val, ctx := k, offset := a, bytes := x.elemBytes, last := (d.ctx u.val k).elemLast }] }))) ∧
       (siteDuty u.val = some .hub → ((d.iou u.val).inqueue x.vc).room (x.esize != 0) = true →
         s.answers (.streamRead u c)
           (moved (d.packIn u.val k (d.ring.bytes a x.elemBytes) (d.ctx u.val k).elemLast (d.ring.rangeBad a x.elemBytes)))) ∧
       (∀ p, siteDuty u.val = some (.port p) → s.answers (.streamRead u c) (d.vxlIssue u.val k).pump)) ∧
     (∀ (c : Fin 8) w ws, siteKind u.val = .su → (d.su u.val).bankWrite = none →
       (List.range 8).find? (d.canWrite u.val) = some c.val →
       (d.unit u.val).queue ⟨.vector, 4, (d.ctx u.val c.val).d.vc⟩ = w :: ws →
       let k := d.ctx u.val c.val
       let q : BufKey := ⟨.vector, 4, k.d.vc⟩
       (k.runs 2 = true →
         s.answers (.streamWrite u c)
           (((d.pathAWrite u.val ((k.d.addr k.moved).toNat / 64) w.bytes w.poison).popUnit u.val q).modCtx u.val c.val
             fun k => { k with moved := k.moved + 1, elems := satInc k.elems,
                               total := if k.finish && w.last then k.moved + 1 else k.total })) ∧
       (k.runs 4 = true →
         s.answers (.landingPacket u c) ((d.landWord u.val c.val w).popUnit u.val q).pump)) ∧
     (∀ (c : Fin 8), siteKind u.val = .su → (d.ctx u.val c.val).runs 3 = true →
       s.answers (.streamCopy u c)
         ((if d.copyDue u.val c.val then d.copyWriteRow u.val c.val else d).copyReadRow u.val c.val)) ∧
     (∀ (v : Fin 8) c w m, siteKind u.val = .iou → d.writerOf u.val v.val = some c →
       (d.unit u.val).nextIn (if (d.ctx u.val c).d.esize = 0 then .vector else .scalar) v.val = some (w, m) →
       ((d.iou u.val).outq v.val).room ((d.ctx u.val c).d.esize != 0) = true →
       s.answers (.packingWrite u v)
         (((d.modUnit u.val fun _ => m).packOne u.val v.val c w).progress (siteRegion u.val))) ∧
     (∀ (v : Fin 8) w rest, siteKind u.val = .iou → ((d.iou u.val).outq v.val).closed = w :: rest →
       let p := (d.modOutQ u.val v.val fun q => { q with closed := rest }).checkPack u.val w
       (∀ k, siteDuty u.val = some (.hbm k) →
         s.answers (.packingRead u v false) ((p.2.hbmQueueWrite u.val p.1).progress (siteRegion u.val))) ∧
       (siteDuty u.val = some .hub →
         s.answers (.packingRead u v false) ((p.2.hubQueueWrite p.1).progress (siteRegion u.val))) ∧
       (∀ k, siteDuty u.val = some (.port k) →
         s.answers (.packingRead u v false) ((d.vxlQueueWrite u.val v.val w rest).pump.progress (siteRegion u.val)))) ∧
     (∀ (v : Fin 8) w rest, siteKind u.val = .iou → ((d.iou u.val).inqueue v.val).closed = w :: rest →
       (d.pilot (siteRegion u.val)).drain = false → d.gridRoom u.val v.val = true →
       let p := (d.modInQ u.val v.val fun q => { q with closed := rest }).checkPack u.val w
       let sent := p.2.gridSend u.val v.val p.1
       let then_ (t : Device) : Device :=
         ((t.iou u.val).ctx.map (·.1)).foldl (fun d c => d.deliverReads u.val c 64) t
       (w.tag = false → s.answers (.packingRead u v true) (then_ (sent.progress (siteRegion u.val)))) ∧
       (w.tag = true → d.credit u.val .scalar v.val = true →
         s.answers (.packingRead u v true)
           (then_ ((sent.unitSend u.val .scalar (Item.make .scalar w.count (d.combOf (siteRegion u.val)) v.val w.last)).progress
             (siteRegion u.val)))))) ∧
  (∀ (s : State) (d : Device) (u : SiteIx) (w : Fin 8) k, s.runs d → d.live (siteRegion u.val) = true →
    (d.windowsOf (siteDie u.val)).find? (fun k => k.iou == u.val && k.win == w.val) = some k →
    let die := bitsNat (winRelease k.record) 13 12
    let f := winRelease k.record % 4096
    (d.window k).state = 2 → (winRelease k.record).testBit 15 = true → d.flagVal die f = true →
    (∀ q ∈ (d.home die).reqs, ¬(q.src = u.val ∧ q.flag = f ∧ q.value = false)) →
    s.answers (.windowRelease u w) ((d.flagReq u.val die f false).freeWindow k).pump)

/-- A descriptor that starts checks its extent: it runs with its element count, or faults at the first address outside
the unit's space; a completed one sets its DONE flag and goes on to NEXT, or ends its chain (R248, R252, R257). -/
def Obligations.DescriptorStartsOrFaults : Prop :=
  ∀ (d : Device) (u c : Nat), siteKind u = .su →
    let x := (d.ctx u c).d
    let e := x.extent x.outer
    (x.csrc = false → x.outer ≠ 0 → e.1 < (spaceOf u).1 →
      ((d.startDesc u c).ctx u c).state = .faulted ∧ ((d.startDesc u c).su u).state = 3 ∧
      ((d.startDesc u c).su u).faultCode = 2) ∧
    (x.csrc = false → x.kind ≠ 3 → (spaceOf u).1 ≤ e.1 → e.2 ≤ (spaceOf u).2 →
      let t := d.startDesc u c
      (t.ctx u c).state = .running ∧ (t.ctx u c).total = x.elements x.outer ∧ (t.ctx u c).moved = 0 ∧
      (∀ k, k ≠ c → t.ctx u k = d.ctx u k) ∧ (t.su u).sram = (d.su u).sram ∧ t.homes = d.homes) ∧
    (∀ die f k, c < 8 → x.done = some (die, f) → x.next = some (false, k) →
      let t := d.completeDesc u c
      (t.home die).reqs.map (fun q => (q.flag, q.value)) =
        (d.home die).reqs.map (fun q => (q.flag, q.value)) ++ [(f, true)] ∧
      (t.ctx u c).state = .between ∧ (t.ctx u c).desc = k)

/-! ### HBM and scrubbers (R273, R274, R319 to R330, R444, R445) -/

/-- A controller's steps: the oldest read that its queue can take returns its bytes, the oldest write is stored, of
those of one cycle to a burst the one of the lowest IOU first and a side-port write last, the patrol scrub advances,
self-refresh is entered and left, a stack trains to zeros, but keeps its bytes over a restart of the command processor,
or goes offline (R320, R321, R326, R328, R329, R448, R452). -/
def Obligations.StackControllerActs : Prop :=
  ∀ (s : State) (d : Device) (k : StackIx), s.runs d →
    (∀ h rest, (d.stack k.val).state = 1 →
      takeFirst (fun h : HbmRead => ((d.iou h.site).inqueue (d.ctx h.site h.ctx).d.vc).room (h.bytes != 64))
        (d.stack k.val).reads = some (h, rest) →
      let r := (d.modStack k.val fun x => { x with reads := rest }).hbmReadBurst (h.offset / 64) .read
      s.answers (.hbmReadReturn k)
        ((r.2.2.packIn h.site h.ctx ((r.1.drop (h.offset % 64)).take h.bytes) h.last r.2.1).progress
          (siteRegion h.site))) ∧
    (∀ w, (d.stack k.val).state = 1 → nextWrite (d.stack k.val).writes = some w →
      s.answers (.hbmWriteAccept k)
        ((((d.modStack k.val fun x => { x with writes := x.writes.erase w }).hbmWriteBurst w.offset w.bytes w.poison
          .write).sideLast (w.offset / 64)).progress (siteRegion w.site))) ∧
    (∀ w ws, (d.stack k.val).writes = w :: ws → ∃ v, nextWrite (w :: ws) = some v ∧ v ∈ w :: ws ∧ v.time = w.time ∧
      ∀ x ∈ ws, x.time = w.time → x.offset / 64 = w.offset / 64 → siteX v.site ≤ siteX x.site) ∧
    (let burst := k.val * stackBytes / 64 + (d.stack k.val).scrub.toNat
     (d.stack k.val).state = 1 → d.hbm.mark burst = none → (d.stack k.val).scrub.toNat + 1 < stackBytes / 64 →
      s.answers (.patrolScrub k) (d.modStack k.val fun x => { x with scrub := x.scrub + 1 })) ∧
    (∀ n, (d.stack k.val).state = 1 →
      s.answers (.innerCountRead k n) (d.modStack k.val fun x => { x with inner := satAdd x.inner n.toNat })) ∧
    (d.pwr.state = 3 → d.pwr.wakeTo = none → (d.stack k.val).state = 1 → (d.stack k.val).reads = [] →
      (d.stack k.val).writes = [] →
      s.answers (.selfRefreshEntry k) (d.modStack k.val fun x => { x with state := 2 })) ∧
    ((d.stack k.val).state = 2 → d.pwr.state ≠ 3 ∨ d.pwr.wakeTo ≠ none → d.hlt.trip = false →
      s.answers (.selfRefreshExit k) ((d.modStack k.val fun x => { x with state := 1 }).unpark).pump) ∧
    ((d.stack k.val).state = 0 → d.seq.ref0 = true →
      s.answers (.hbmTrain k false) (d.modStack k.val fun x => { x with state := 3 }) ∧
      ∃ t, s.answers (.hbmTrain k true) t ∧ (t.stack k.val).state = 1 ∧
        (∀ a, stackOf a = k.val → t.hbm.byte a = if (d.stack k.val).keep then d.hbm.byte a else 0) ∧
        (∀ a, stackOf a ≠ k.val → t.hbm.byte a = d.hbm.byte a) ∧ t.ring = d.ring ∧ t.log = d.log)

/-- A whole burst that is written reads back, and no other burst changes. A write marked poisoned leaves the whole burst
poisoned, a partial one too, and the burst stays so until a write of good data covers all 64 bytes (R325). -/
def Obligations.HbmReadsWhatWasWritten : Prop :=
  ∀ (d : Device) (burst : Nat) (bs : List Byte) (poison : Bool) (c c' : HbmClass), d.hbm.wf = true →
    bs.length = 64 →
    let t := d.hbmWriteBurst (64 * burst) bs poison c
    (poison = false → (t.hbmReadBurst burst c').1 = bs ∧ (t.hbmReadBurst burst c').2.1 = false) ∧
    (poison = true → (t.hbmReadBurst burst c').2.1 = true) ∧
    (∀ b, b ≠ burst → t.hbm.bytes (64 * b) 64 = d.hbm.bytes (64 * b) 64 ∧ t.hbm.mark b = d.hbm.mark b) ∧
    t.ring = d.ring ∧ t.log = d.log ∧ t.pilots = d.pilots ∧
    (∀ off part, off + List.length part ≤ 64 → 0 < List.length part →
      ((d.hbmWriteBurst (64 * burst + off) part true c).hbmReadBurst burst c').2.1 = true) ∧
    (∀ off part, off + List.length part ≤ 64 → List.length part < 64 → 0 < List.length part →
      d.hbm.mark burst = some .poison →
      ((d.hbmWriteBurst (64 * burst + off) part false c).hbmReadBurst burst c').2.1 = true)

/-- The scrubbers: a row that reads correctable is written back in place, every byte as it was and its mark gone; an
uncorrectable one is recorded; a bank that a program reads in the clk holds the scrubber; a plane or store row likewise,
and an uncorrectable row of an active plane stops its region (R273 to R275, R444, R445). -/
def Obligations.ScrubbersAct : Prop :=
  ∀ (s : State) (d : Device), s.runs d →
    (d.ringBack = none → d.ring.mark d.ringScrub = some .correctable →
      s.answers (.scrubRead .ringSram)
        { d with ringBack := some d.ringScrub, ringScrub := (d.ringScrub + 1) % 131072 }) ∧
    (d.ringBack = none → d.ring.mark d.ringScrub = some .uncorrectable →
      s.answers (.scrubRead .ringSram)
        ({ d with ringScrub := (d.ringScrub + 1) % 131072 }.scrubRecord .hub 3 d.ringScrub)) ∧
    (∀ row, d.ring.wf = true → d.ringBack = some row → d.ring.mark row = some .correctable →
      ∃ t, s.answers (.scrubWriteback .ringSram) t ∧ t.ringBack = none ∧ t.ring.mark row = none ∧
        (∀ r, r ≠ row → t.ring.mark r = d.ring.mark r) ∧ (∀ a, t.ring.byte a = d.ring.byte a) ∧
        { t with ring := d.ring, ringBack := d.ringBack } = d) ∧
    (∀ (u : SiteIx), siteKind u.val = .su → d.clockRuns (siteRegion u.val) = true → d.usable u.val = true →
      (d.su u.val).scrubBack = none →
      let bank := (d.su u.val).scrubRow % 16
      ((d.su u.val).bankRead = some bank ∨ (d.su u.val).copyRead = some bank → s.answers (.scrubRead (.unit u)) d) ∧
      ((d.su u.val).bankRead ≠ some bank → (d.su u.val).copyRead ≠ some bank →
        (d.su u.val).sram.mark (d.su u.val).scrubRow = none → (d.su u.val).scrubRow + 1 < 65536 →
        s.answers (.scrubRead (.unit u)) (d.modSu u.val fun x => { x with scrubRow := x.scrubRow + 1 }))) ∧
    (∀ (u : SiteIx), d.clockRuns (siteRegion u.val) = true → d.usable u.val = true →
      (siteKind u.val = .mu → (d.mu u.val).scrubBack = none →
        ((d.mu u.val).readFree [(d.mu u.val).scrubRow] = false → s.answers (.scrubRead (.unit u)) d) ∧
        ((d.mu u.val).readFree [(d.mu u.val).scrubRow] = true → (d.mu u.val).scratch.mark (d.mu u.val).scrubRow = none →
          s.answers (.scrubRead (.unit u))
            (d.modMu u.val fun x => { x with scrubRow := (x.scrubRow + 1) % 4096 }))) ∧
      (siteKind u.val = .sfu → (d.sfu u.val).scrubBack = none →
        ((d.sfu u.val).readers.contains (sfuBank (d.sfu u.val).scrubRow) = true → s.answers (.scrubRead (.unit u)) d) ∧
        ((d.sfu u.val).readers.contains (sfuBank (d.sfu u.val).scrubRow) = false →
          (d.sfu u.val).sram.mark (d.sfu u.val).scrubRow = none →
          s.answers (.scrubRead (.unit u))
            (d.modSfu u.val fun x => { x with scrubRow := (x.scrubRow + 1) % 1024 })))) ∧
    (∀ (u : SiteIx) (which : Fin 4) row next, d.clockRuns (siteRegion u.val) = true →
      (d.switch u.val).scrubAt which.val = some (row, next) →
      let t := d.modSwitch u.val fun x => { x with scrubRows := x.scrubRows.put which.val next }
      let mark := ((d.switch u.val).planeMarks which.val).find row
      (mark = none → s.answers (.planeScrubRead (.plane u which)) t) ∧
      (mark = some .correctable → which.val % 2 = 1 →
        s.answers (.planeScrubRead (.plane u which)) (t.modSwitch u.val (·.clearMark which.val row)).planeCorrected) ∧
      (∀ k, mark = some k → k ≠ .correctable → which.val % 2 = 0 →
        s.answers (.planeScrubRead (.plane u which))
          (((t.planeBroken.planeRecord 2 (t.planeBroken.atSite u.val) which.val 2 0xFF row).raiseFree (siteRegion u.val)
            0x2A).stopRegion (siteRegion u.val) (siteX u.val) (siteY u.val) 4))) ∧
    (∀ (u : SiteIx) (which : Fin 4), (d.switch u.val).scrubAt which.val = none →
      s.answers (.planeScrubRead (.plane u which)) d) ∧
    (∀ r : Region, let p := d.comb.storeScrub.getD r.val 0
      d.clockRuns r.val = true →
      let slot := d.storeSlot r.val (storePlace p).1
      let next := d.modComb fun c => { c with storeScrub := c.storeScrub.put r.val ((p + 1) % 371120) }
      (p < 370080 → slot.unitMarks.find (storePlace p).2 = none → s.answers (.planeScrubRead (.planeStore r)) next) ∧
      (370080 ≤ p → slot.progMarks.find (storePlace p).2 = none → s.answers (.planeScrubRead (.programStore r)) next)) ∧
    (d.log.scrubBack = none → d.log.mem.mark d.log.scrubRow = none →
      s.answers (.scrubRead .logbook) (d.modLog fun l => { l with scrubRow := (d.log.scrubRow + 1) % 262144 }))

end
end

