-- ==== Sys2Proof/Laws/Tab.lean ====
section
/-! SUPPORT. Tables and byte stores: reading after writing, and that every operation on a store keeps its canonical
form. -/

namespace Sys2Proof.Machine

/-! ### Tables -/

@[simp] theorem Tab.getD_nil {α : Type} (i : Nat) (x : α) : Tab.getD ([] : Tab α) i x = x := rfl

theorem Tab.getD_put {α : Type} (t : Tab α) (i j : Nat) (a x : α) :
    (Tab.put t i a).getD j x = if j = i then a else t.getD j x := by
  induction t with
  | nil => simp [Tab.put, Tab.getD]
  | cons p t ih =>
    obtain ⟨k, b⟩ := p
    by_cases h1 : i < k
    · simp only [Tab.put, h1, if_true, Tab.getD]
    · by_cases h2 : i = k
      · subst h2
        simp only [Tab.put, h1, if_false, if_true, Tab.getD]
        split <;> rfl
      · simp only [Tab.put, h1, h2, if_false, Tab.getD, ih]
        by_cases h3 : j = k
        · subst h3; simp [Ne.symm h2]
        · simp [h3]

@[simp] theorem Tab.getD_put_self {α : Type} (t : Tab α) (i : Nat) (a x : α) : (Tab.put t i a).getD i x = a := by
  simp [Tab.getD_put]

theorem Tab.getD_put_ne {α : Type} (t : Tab α) {i j : Nat} (a x : α) (h : j ≠ i) :
    (Tab.put t i a).getD j x = t.getD j x := by simp [Tab.getD_put, h]

@[simp] theorem Tab.getD_upd_self {α : Type} (t : Tab α) (i : Nat) (x : α) (f : α → α) :
    (Tab.upd t i x f).getD i x = f (t.getD i x) := by simp [Tab.upd]

theorem Tab.getD_upd_ne {α : Type} (t : Tab α) {i j : Nat} (x y : α) (f : α → α) (h : j ≠ i) :
    (Tab.upd t i x f).getD j y = t.getD j y := by simp [Tab.upd, Tab.getD_put_ne, h]

/-- Indices that rise from `lo` rise from every smaller number. -/
theorem Tab.rises_mono {α : Type} {t : Tab α} {lo hi : Nat} (h : Tab.rises hi t = true) (hle : lo ≤ hi) :
    Tab.rises lo t = true := by
  cases t with
  | nil => rfl
  | cons p t =>
    obtain ⟨j, a⟩ := p
    simp only [Tab.rises, Bool.and_eq_true, decide_eq_true_eq] at h ⊢
    exact ⟨le_trans hle h.1, h.2⟩

theorem Tab.rises_put {α : Type} {t : Tab α} {lo i : Nat} (a : α) (h : Tab.rises lo t = true) (hi : lo ≤ i) :
    Tab.rises lo (Tab.put t i a) = true := by
  induction t generalizing lo with
  | nil => simp [Tab.put, Tab.rises, hi]
  | cons p t ih =>
    obtain ⟨j, b⟩ := p
    simp only [Tab.rises, Bool.and_eq_true, decide_eq_true_eq] at h
    simp only [Tab.put]
    split
    · simp only [Tab.rises, Bool.and_eq_true, decide_eq_true_eq]
      exact ⟨hi, by omega, h.2⟩
    · split
      · subst_vars
        simp only [Tab.rises, Bool.and_eq_true, decide_eq_true_eq]
        exact ⟨hi, h.2⟩
      · simp only [Tab.rises, Bool.and_eq_true, decide_eq_true_eq]
        exact ⟨h.1, ih h.2 (by omega)⟩

theorem Tab.rises_del {α : Type} {t : Tab α} {lo i : Nat} (h : Tab.rises lo t = true) :
    Tab.rises lo (Tab.del t i) = true := by
  induction t generalizing lo with
  | nil => rfl
  | cons p t ih =>
    obtain ⟨j, b⟩ := p
    simp only [Tab.rises, Bool.and_eq_true, decide_eq_true_eq] at h
    simp only [Tab.del]
    split
    · exact Tab.rises_mono h.2 (by omega)
    · simp only [Tab.rises, Bool.and_eq_true, decide_eq_true_eq]
      exact ⟨h.1, ih h.2⟩

theorem Tab.mem_put {α : Type} {t : Tab α} {i : Nat} {a : α} {p : Nat × α} (h : p ∈ Tab.put t i a) :
    p = (i, a) ∨ p ∈ t := by
  induction t with
  | nil => simp [Tab.put] at h; exact .inl h
  | cons q t ih =>
    obtain ⟨j, b⟩ := q
    simp only [Tab.put] at h
    split at h
    · simpa using h
    · split at h
      · rcases List.mem_cons.1 h with h | h
        · exact .inl h
        · exact .inr (List.mem_cons_of_mem _ h)
      · rcases List.mem_cons.1 h with h | h
        · exact .inr (h ▸ List.mem_cons_self)
        · exact (ih h).imp id (List.mem_cons_of_mem _)

theorem Tab.mem_del {α : Type} {t : Tab α} {i : Nat} {p : Nat × α} (h : p ∈ Tab.del t i) : p ∈ t := by
  induction t with
  | nil => simp [Tab.del] at h
  | cons q t ih =>
    obtain ⟨j, b⟩ := q
    simp only [Tab.del] at h
    split at h
    · exact List.mem_cons_of_mem _ h
    · rcases List.mem_cons.1 h with h | h
      · exact h ▸ List.mem_cons_self
      · exact List.mem_cons_of_mem _ (ih h)

/-- An index below every index of a table finds nothing. -/
theorem Tab.getD_below {α : Type} {t : Tab α} {lo i : Nat} {x : α} (h : Tab.rises lo t = true) (hi : i < lo) :
    t.getD i x = x := by
  induction t generalizing lo with
  | nil => rfl
  | cons p t ih =>
    obtain ⟨j, b⟩ := p
    simp only [Tab.rises, Bool.and_eq_true, decide_eq_true_eq] at h
    have : i ≠ j := by omega
    simp only [Tab.getD, this, if_false]
    exact ih h.2 (by omega)

theorem Tab.getD_del {α : Type} {t : Tab α} {lo i : Nat} (j : Nat) (x : α) (h : Tab.rises lo t = true) :
    (Tab.del t i).getD j x = if j = i then x else t.getD j x := by
  induction t generalizing lo with
  | nil => simp [Tab.del]
  | cons p t ih =>
    obtain ⟨k, b⟩ := p
    simp only [Tab.rises, Bool.and_eq_true, decide_eq_true_eq] at h
    simp only [Tab.del]
    by_cases h1 : i = k
    · subst h1
      simp only [if_true, Tab.getD]
      by_cases h2 : j = i
      · subst h2; simp [Tab.getD_below h.2]
      · simp [h2]
    · simp only [h1, if_false, Tab.getD, ih h.2]
      by_cases h2 : j = k
      · subst h2; simp [Ne.symm h1]
      · simp [h2]

/-! ### Stores keep their canonical form -/

theorem Mem.wf_iff (m : Mem) :
    m.wf = true ↔ Tab.rises 0 m.cells = true ∧ (∀ c ∈ m.cells, c.2 ≠ 0) ∧ Tab.rises 0 m.marks = true := by
  simp [Mem.wf, and_assoc]

theorem Mem.wf_reset : Mem.reset.wf = true := by decide

theorem Mem.wf_putByte {m : Mem} (a : Nat) (b : Byte) (h : m.wf = true) : (m.putByte a b).wf = true := by
  rw [Mem.wf_iff] at h ⊢
  obtain ⟨h1, h2, h3⟩ := h
  unfold Mem.putByte
  split
  · exact ⟨Tab.rises_del h1, fun c hc => h2 c (Tab.mem_del hc), h3⟩
  · refine ⟨Tab.rises_put b h1 (Nat.zero_le a), fun c hc => ?_, h3⟩
    rcases Tab.mem_put hc with rfl | hc
    · assumption
    · exact h2 c hc

theorem Mem.wf_putBytes {m : Mem} (a : Nat) (bs : List Byte) (h : m.wf = true) : (m.putBytes a bs).wf = true := by
  induction bs generalizing m a with
  | nil => exact h
  | cons b bs ih => exact ih (a + 1) (Mem.wf_putByte a b h)

theorem Mem.wf_setMark {m : Mem} (row : Nat) (k : Option RowMark) (h : m.wf = true) : (m.setMark row k).wf = true := by
  rw [Mem.wf_iff] at h ⊢
  cases k with
  | none => exact ⟨h.1, h.2.1, Tab.rises_del h.2.2⟩
  | some k => exact ⟨h.1, h.2.1, Tab.rises_put k h.2.2 (Nat.zero_le row)⟩

theorem Mem.wf_writeRow {m : Mem} (row off : Nat) (bs : List Byte) (poison : Bool) (h : m.wf = true) :
    (m.writeRow row off bs poison).wf = true := Mem.wf_setMark _ _ (Mem.wf_putBytes _ _ h)

theorem Mem.wf_writeAux {m : Mem} (poison : Bool) (fuel a : Nat) (bs : List Byte) (h : m.wf = true) :
    (m.writeAux poison fuel a bs).wf = true := by
  induction fuel generalizing m a bs with
  | zero => exact h
  | succ n ih =>
    unfold Mem.writeAux
    split
    · exact h
    · exact ih _ _ (Mem.wf_writeRow _ _ _ _ h)

theorem Mem.wf_write {m : Mem} (a : Nat) (bs : List Byte) (poison : Bool) (h : m.wf = true) :
    (m.write a bs poison).wf = true := Mem.wf_writeAux _ _ _ _ h

/-! ### Reading after writing -/

theorem Mem.byte_putByte {m : Mem} (a x : Nat) (b : Byte) (h : m.wf = true) :
    (m.putByte a b).byte x = if x = a then b else m.byte x := by
  rw [Mem.wf_iff] at h
  unfold Mem.putByte Mem.byte
  split
  · rw [Tab.getD_del x 0 h.1]
    split <;> simp_all
  · exact Tab.getD_put _ _ _ _ _

theorem Mem.byte_putBytes {m : Mem} (a x : Nat) (bs : List Byte) (h : m.wf = true) :
    (m.putBytes a bs).byte x = if a ≤ x ∧ x < a + bs.length then bs.getD (x - a) 0 else m.byte x := by
  induction bs generalizing m a with
  | nil =>
    have : ¬(a ≤ x ∧ x < a + ([] : List Byte).length) := by simp
    simp only [this, if_false, Mem.putBytes]
  | cons b bs ih =>
    simp only [Mem.putBytes]
    rw [ih (a + 1) (Mem.wf_putByte a b h), Mem.byte_putByte a x b h, List.length_cons]
    by_cases h1 : x = a
    · subst h1; simp
    · by_cases h2 : a + 1 ≤ x ∧ x < a + 1 + bs.length
      · have h3 : a ≤ x ∧ x < a + (bs.length + 1) := by omega
        have h4 : x - a = (x - (a + 1)) + 1 := by omega
        simp [h2, h3, h4]
      · have h3 : ¬(a ≤ x ∧ x < a + (bs.length + 1)) := by omega
        rw [if_neg h2, if_neg h3, if_neg h1]

/-- A write leaves every byte outside it as it was. -/
theorem Mem.byte_writeRow_outside {m : Mem} (row off x : Nat) (bs : List Byte) (poison : Bool) (h : m.wf = true)
    (hx : x < 64 * row + off ∨ 64 * row + off + bs.length ≤ x) :
    (m.writeRow row off bs poison).byte x = m.byte x := by
  have : ∀ (n : Mem) (k : Option RowMark), (n.setMark row k).byte x = n.byte x := by
    intro n k; rfl
  unfold Mem.writeRow
  rw [this, Mem.byte_putBytes _ _ _ h]
  have : ¬(64 * row + off ≤ x ∧ x < 64 * row + off + bs.length) := by omega
  simp [this]

end Sys2Proof.Machine
end

