-- ==== Sys2Proof/Laws/State.lean ====
section
/-! SUPPORT. What each named update of the device leaves and what it changes: one lemma per update and field, so that no
proof unfolds a record update. -/

namespace Sys2Proof.Machine

/-! ### modPilot -/

@[simp] theorem Device.modPilot_now (d : Device) (r : Nat) (f : Pilot → Pilot) : (d.modPilot r f).now = d.now := rfl
@[simp] theorem Device.modPilot_free (d : Device) (r : Nat) (f : Pilot → Pilot) : (d.modPilot r f).free = d.free := rfl
@[simp] theorem Device.modPilot_host (d : Device) (r : Nat) (f : Pilot → Pilot) : (d.modPilot r f).host = d.host := rfl
@[simp] theorem Device.modPilot_ring (d : Device) (r : Nat) (f : Pilot → Pilot) : (d.modPilot r f).ring = d.ring := rfl
@[simp] theorem Device.modPilot_ringScrub (d : Device) (r : Nat) (f : Pilot → Pilot) : (d.modPilot r f).ringScrub = d.ringScrub := rfl
@[simp] theorem Device.modPilot_ringBack (d : Device) (r : Nat) (f : Pilot → Pilot) : (d.modPilot r f).ringBack = d.ringBack := rfl
@[simp] theorem Device.modPilot_hbm (d : Device) (r : Nat) (f : Pilot → Pilot) : (d.modPilot r f).hbm = d.hbm := rfl
@[simp] theorem Device.modPilot_comb (d : Device) (r : Nat) (f : Pilot → Pilot) : (d.modPilot r f).comb = d.comb := rfl
@[simp] theorem Device.modPilot_tick (d : Device) (r : Nat) (f : Pilot → Pilot) : (d.modPilot r f).tick = d.tick := rfl
@[simp] theorem Device.modPilot_switches (d : Device) (r : Nat) (f : Pilot → Pilot) : (d.modPilot r f).switches = d.switches := rfl
@[simp] theorem Device.modPilot_mus (d : Device) (r : Nat) (f : Pilot → Pilot) : (d.modPilot r f).mus = d.mus := rfl
@[simp] theorem Device.modPilot_sfus (d : Device) (r : Nat) (f : Pilot → Pilot) : (d.modPilot r f).sfus = d.sfus := rfl
@[simp] theorem Device.modPilot_sus (d : Device) (r : Nat) (f : Pilot → Pilot) : (d.modPilot r f).sus = d.sus := rfl
@[simp] theorem Device.modPilot_ious (d : Device) (r : Nat) (f : Pilot → Pilot) : (d.modPilot r f).ious = d.ious := rfl
@[simp] theorem Device.modPilot_crossings (d : Device) (r : Nat) (f : Pilot → Pilot) : (d.modPilot r f).crossings = d.crossings := rfl
@[simp] theorem Device.modPilot_relock (d : Device) (r : Nat) (f : Pilot → Pilot) : (d.modPilot r f).relock = d.relock := rfl
@[simp] theorem Device.modPilot_homes (d : Device) (r : Nat) (f : Pilot → Pilot) : (d.modPilot r f).homes = d.homes := rfl
@[simp] theorem Device.modPilot_hbmStacks (d : Device) (r : Nat) (f : Pilot → Pilot) : (d.modPilot r f).hbmStacks = d.hbmStacks := rfl
@[simp] theorem Device.modPilot_vxl (d : Device) (r : Nat) (f : Pilot → Pilot) : (d.modPilot r f).vxl = d.vxl := rfl
@[simp] theorem Device.modPilot_pwr (d : Device) (r : Nat) (f : Pilot → Pilot) : (d.modPilot r f).pwr = d.pwr := rfl
@[simp] theorem Device.modPilot_hlt (d : Device) (r : Nat) (f : Pilot → Pilot) : (d.modPilot r f).hlt = d.hlt := rfl
@[simp] theorem Device.modPilot_sec (d : Device) (r : Nat) (f : Pilot → Pilot) : (d.modPilot r f).sec = d.sec := rfl
@[simp] theorem Device.modPilot_log (d : Device) (r : Nat) (f : Pilot → Pilot) : (d.modPilot r f).log = d.log := rfl
@[simp] theorem Device.modPilot_seq (d : Device) (r : Nat) (f : Pilot → Pilot) : (d.modPilot r f).seq = d.seq := rfl
@[simp] theorem Device.modPilot_hubEvents (d : Device) (r : Nat) (f : Pilot → Pilot) : (d.modPilot r f).hubEvents = d.hubEvents := rfl
@[simp] theorem Device.modPilot_clkPilots (d : Device) (r : Nat) (f : Pilot → Pilot) : (d.modPilot r f).clkPilots = d.clkPilots := rfl
@[simp] theorem Device.modPilot_pilot (d : Device) (r : Nat) (f : Pilot → Pilot) : (d.modPilot r f).pilot r = f (d.pilot r) := by
  simp [Device.modPilot, Device.pilot]
theorem Device.modPilot_pilot_ne (d : Device) (r : Nat) (f : Pilot → Pilot) {q : Nat} (h : q ≠ r) : (d.modPilot r f).pilot q = d.pilot q :=
  Tab.getD_upd_ne _ _ _ _ h

/-! ### modSwitch -/

@[simp] theorem Device.modSwitch_now (d : Device) (r : Nat) (f : Switch → Switch) : (d.modSwitch r f).now = d.now := rfl
@[simp] theorem Device.modSwitch_free (d : Device) (r : Nat) (f : Switch → Switch) : (d.modSwitch r f).free = d.free := rfl
@[simp] theorem Device.modSwitch_host (d : Device) (r : Nat) (f : Switch → Switch) : (d.modSwitch r f).host = d.host := rfl
@[simp] theorem Device.modSwitch_ring (d : Device) (r : Nat) (f : Switch → Switch) : (d.modSwitch r f).ring = d.ring := rfl
@[simp] theorem Device.modSwitch_ringScrub (d : Device) (r : Nat) (f : Switch → Switch) : (d.modSwitch r f).ringScrub = d.ringScrub := rfl
@[simp] theorem Device.modSwitch_ringBack (d : Device) (r : Nat) (f : Switch → Switch) : (d.modSwitch r f).ringBack = d.ringBack := rfl
@[simp] theorem Device.modSwitch_hbm (d : Device) (r : Nat) (f : Switch → Switch) : (d.modSwitch r f).hbm = d.hbm := rfl
@[simp] theorem Device.modSwitch_comb (d : Device) (r : Nat) (f : Switch → Switch) : (d.modSwitch r f).comb = d.comb := rfl
@[simp] theorem Device.modSwitch_tick (d : Device) (r : Nat) (f : Switch → Switch) : (d.modSwitch r f).tick = d.tick := rfl
@[simp] theorem Device.modSwitch_pilots (d : Device) (r : Nat) (f : Switch → Switch) : (d.modSwitch r f).pilots = d.pilots := rfl
@[simp] theorem Device.modSwitch_mus (d : Device) (r : Nat) (f : Switch → Switch) : (d.modSwitch r f).mus = d.mus := rfl
@[simp] theorem Device.modSwitch_sfus (d : Device) (r : Nat) (f : Switch → Switch) : (d.modSwitch r f).sfus = d.sfus := rfl
@[simp] theorem Device.modSwitch_sus (d : Device) (r : Nat) (f : Switch → Switch) : (d.modSwitch r f).sus = d.sus := rfl
@[simp] theorem Device.modSwitch_ious (d : Device) (r : Nat) (f : Switch → Switch) : (d.modSwitch r f).ious = d.ious := rfl
@[simp] theorem Device.modSwitch_crossings (d : Device) (r : Nat) (f : Switch → Switch) : (d.modSwitch r f).crossings = d.crossings := rfl
@[simp] theorem Device.modSwitch_relock (d : Device) (r : Nat) (f : Switch → Switch) : (d.modSwitch r f).relock = d.relock := rfl
@[simp] theorem Device.modSwitch_homes (d : Device) (r : Nat) (f : Switch → Switch) : (d.modSwitch r f).homes = d.homes := rfl
@[simp] theorem Device.modSwitch_hbmStacks (d : Device) (r : Nat) (f : Switch → Switch) : (d.modSwitch r f).hbmStacks = d.hbmStacks := rfl
@[simp] theorem Device.modSwitch_vxl (d : Device) (r : Nat) (f : Switch → Switch) : (d.modSwitch r f).vxl = d.vxl := rfl
@[simp] theorem Device.modSwitch_pwr (d : Device) (r : Nat) (f : Switch → Switch) : (d.modSwitch r f).pwr = d.pwr := rfl
@[simp] theorem Device.modSwitch_hlt (d : Device) (r : Nat) (f : Switch → Switch) : (d.modSwitch r f).hlt = d.hlt := rfl
@[simp] theorem Device.modSwitch_sec (d : Device) (r : Nat) (f : Switch → Switch) : (d.modSwitch r f).sec = d.sec := rfl
@[simp] theorem Device.modSwitch_log (d : Device) (r : Nat) (f : Switch → Switch) : (d.modSwitch r f).log = d.log := rfl
@[simp] theorem Device.modSwitch_seq (d : Device) (r : Nat) (f : Switch → Switch) : (d.modSwitch r f).seq = d.seq := rfl
@[simp] theorem Device.modSwitch_hubEvents (d : Device) (r : Nat) (f : Switch → Switch) : (d.modSwitch r f).hubEvents = d.hubEvents := rfl
@[simp] theorem Device.modSwitch_clkPilots (d : Device) (r : Nat) (f : Switch → Switch) : (d.modSwitch r f).clkPilots = d.clkPilots := rfl
@[simp] theorem Device.modSwitch_switch (d : Device) (r : Nat) (f : Switch → Switch) : (d.modSwitch r f).switch r = f (d.switch r) := by
  simp [Device.modSwitch, Device.switch]
theorem Device.modSwitch_switch_ne (d : Device) (r : Nat) (f : Switch → Switch) {q : Nat} (h : q ≠ r) : (d.modSwitch r f).switch q = d.switch q :=
  Tab.getD_upd_ne _ _ _ _ h

/-! ### modMu -/

@[simp] theorem Device.modMu_now (d : Device) (r : Nat) (f : Mu → Mu) : (d.modMu r f).now = d.now := rfl
@[simp] theorem Device.modMu_free (d : Device) (r : Nat) (f : Mu → Mu) : (d.modMu r f).free = d.free := rfl
@[simp] theorem Device.modMu_host (d : Device) (r : Nat) (f : Mu → Mu) : (d.modMu r f).host = d.host := rfl
@[simp] theorem Device.modMu_ring (d : Device) (r : Nat) (f : Mu → Mu) : (d.modMu r f).ring = d.ring := rfl
@[simp] theorem Device.modMu_ringScrub (d : Device) (r : Nat) (f : Mu → Mu) : (d.modMu r f).ringScrub = d.ringScrub := rfl
@[simp] theorem Device.modMu_ringBack (d : Device) (r : Nat) (f : Mu → Mu) : (d.modMu r f).ringBack = d.ringBack := rfl
@[simp] theorem Device.modMu_hbm (d : Device) (r : Nat) (f : Mu → Mu) : (d.modMu r f).hbm = d.hbm := rfl
@[simp] theorem Device.modMu_comb (d : Device) (r : Nat) (f : Mu → Mu) : (d.modMu r f).comb = d.comb := rfl
@[simp] theorem Device.modMu_tick (d : Device) (r : Nat) (f : Mu → Mu) : (d.modMu r f).tick = d.tick := rfl
@[simp] theorem Device.modMu_pilots (d : Device) (r : Nat) (f : Mu → Mu) : (d.modMu r f).pilots = d.pilots := rfl
@[simp] theorem Device.modMu_switches (d : Device) (r : Nat) (f : Mu → Mu) : (d.modMu r f).switches = d.switches := rfl
@[simp] theorem Device.modMu_sfus (d : Device) (r : Nat) (f : Mu → Mu) : (d.modMu r f).sfus = d.sfus := rfl
@[simp] theorem Device.modMu_sus (d : Device) (r : Nat) (f : Mu → Mu) : (d.modMu r f).sus = d.sus := rfl
@[simp] theorem Device.modMu_ious (d : Device) (r : Nat) (f : Mu → Mu) : (d.modMu r f).ious = d.ious := rfl
@[simp] theorem Device.modMu_crossings (d : Device) (r : Nat) (f : Mu → Mu) : (d.modMu r f).crossings = d.crossings := rfl
@[simp] theorem Device.modMu_relock (d : Device) (r : Nat) (f : Mu → Mu) : (d.modMu r f).relock = d.relock := rfl
@[simp] theorem Device.modMu_homes (d : Device) (r : Nat) (f : Mu → Mu) : (d.modMu r f).homes = d.homes := rfl
@[simp] theorem Device.modMu_hbmStacks (d : Device) (r : Nat) (f : Mu → Mu) : (d.modMu r f).hbmStacks = d.hbmStacks := rfl
@[simp] theorem Device.modMu_vxl (d : Device) (r : Nat) (f : Mu → Mu) : (d.modMu r f).vxl = d.vxl := rfl
@[simp] theorem Device.modMu_pwr (d : Device) (r : Nat) (f : Mu → Mu) : (d.modMu r f).pwr = d.pwr := rfl
@[simp] theorem Device.modMu_hlt (d : Device) (r : Nat) (f : Mu → Mu) : (d.modMu r f).hlt = d.hlt := rfl
@[simp] theorem Device.modMu_sec (d : Device) (r : Nat) (f : Mu → Mu) : (d.modMu r f).sec = d.sec := rfl
@[simp] theorem Device.modMu_log (d : Device) (r : Nat) (f : Mu → Mu) : (d.modMu r f).log = d.log := rfl
@[simp] theorem Device.modMu_seq (d : Device) (r : Nat) (f : Mu → Mu) : (d.modMu r f).seq = d.seq := rfl
@[simp] theorem Device.modMu_hubEvents (d : Device) (r : Nat) (f : Mu → Mu) : (d.modMu r f).hubEvents = d.hubEvents := rfl
@[simp] theorem Device.modMu_clkPilots (d : Device) (r : Nat) (f : Mu → Mu) : (d.modMu r f).clkPilots = d.clkPilots := rfl
@[simp] theorem Device.modMu_mu (d : Device) (r : Nat) (f : Mu → Mu) : (d.modMu r f).mu r = f (d.mu r) := by
  simp [Device.modMu, Device.mu]
theorem Device.modMu_mu_ne (d : Device) (r : Nat) (f : Mu → Mu) {q : Nat} (h : q ≠ r) : (d.modMu r f).mu q = d.mu q :=
  Tab.getD_upd_ne _ _ _ _ h

/-! ### modSfu -/

@[simp] theorem Device.modSfu_now (d : Device) (r : Nat) (f : Sfu → Sfu) : (d.modSfu r f).now = d.now := rfl
@[simp] theorem Device.modSfu_free (d : Device) (r : Nat) (f : Sfu → Sfu) : (d.modSfu r f).free = d.free := rfl
@[simp] theorem Device.modSfu_host (d : Device) (r : Nat) (f : Sfu → Sfu) : (d.modSfu r f).host = d.host := rfl
@[simp] theorem Device.modSfu_ring (d : Device) (r : Nat) (f : Sfu → Sfu) : (d.modSfu r f).ring = d.ring := rfl
@[simp] theorem Device.modSfu_ringScrub (d : Device) (r : Nat) (f : Sfu → Sfu) : (d.modSfu r f).ringScrub = d.ringScrub := rfl
@[simp] theorem Device.modSfu_ringBack (d : Device) (r : Nat) (f : Sfu → Sfu) : (d.modSfu r f).ringBack = d.ringBack := rfl
@[simp] theorem Device.modSfu_hbm (d : Device) (r : Nat) (f : Sfu → Sfu) : (d.modSfu r f).hbm = d.hbm := rfl
@[simp] theorem Device.modSfu_comb (d : Device) (r : Nat) (f : Sfu → Sfu) : (d.modSfu r f).comb = d.comb := rfl
@[simp] theorem Device.modSfu_tick (d : Device) (r : Nat) (f : Sfu → Sfu) : (d.modSfu r f).tick = d.tick := rfl
@[simp] theorem Device.modSfu_pilots (d : Device) (r : Nat) (f : Sfu → Sfu) : (d.modSfu r f).pilots = d.pilots := rfl
@[simp] theorem Device.modSfu_switches (d : Device) (r : Nat) (f : Sfu → Sfu) : (d.modSfu r f).switches = d.switches := rfl
@[simp] theorem Device.modSfu_mus (d : Device) (r : Nat) (f : Sfu → Sfu) : (d.modSfu r f).mus = d.mus := rfl
@[simp] theorem Device.modSfu_sus (d : Device) (r : Nat) (f : Sfu → Sfu) : (d.modSfu r f).sus = d.sus := rfl
@[simp] theorem Device.modSfu_ious (d : Device) (r : Nat) (f : Sfu → Sfu) : (d.modSfu r f).ious = d.ious := rfl
@[simp] theorem Device.modSfu_crossings (d : Device) (r : Nat) (f : Sfu → Sfu) : (d.modSfu r f).crossings = d.crossings := rfl
@[simp] theorem Device.modSfu_relock (d : Device) (r : Nat) (f : Sfu → Sfu) : (d.modSfu r f).relock = d.relock := rfl
@[simp] theorem Device.modSfu_homes (d : Device) (r : Nat) (f : Sfu → Sfu) : (d.modSfu r f).homes = d.homes := rfl
@[simp] theorem Device.modSfu_hbmStacks (d : Device) (r : Nat) (f : Sfu → Sfu) : (d.modSfu r f).hbmStacks = d.hbmStacks := rfl
@[simp] theorem Device.modSfu_vxl (d : Device) (r : Nat) (f : Sfu → Sfu) : (d.modSfu r f).vxl = d.vxl := rfl
@[simp] theorem Device.modSfu_pwr (d : Device) (r : Nat) (f : Sfu → Sfu) : (d.modSfu r f).pwr = d.pwr := rfl
@[simp] theorem Device.modSfu_hlt (d : Device) (r : Nat) (f : Sfu → Sfu) : (d.modSfu r f).hlt = d.hlt := rfl
@[simp] theorem Device.modSfu_sec (d : Device) (r : Nat) (f : Sfu → Sfu) : (d.modSfu r f).sec = d.sec := rfl
@[simp] theorem Device.modSfu_log (d : Device) (r : Nat) (f : Sfu → Sfu) : (d.modSfu r f).log = d.log := rfl
@[simp] theorem Device.modSfu_seq (d : Device) (r : Nat) (f : Sfu → Sfu) : (d.modSfu r f).seq = d.seq := rfl
@[simp] theorem Device.modSfu_hubEvents (d : Device) (r : Nat) (f : Sfu → Sfu) : (d.modSfu r f).hubEvents = d.hubEvents := rfl
@[simp] theorem Device.modSfu_clkPilots (d : Device) (r : Nat) (f : Sfu → Sfu) : (d.modSfu r f).clkPilots = d.clkPilots := rfl
@[simp] theorem Device.modSfu_sfu (d : Device) (r : Nat) (f : Sfu → Sfu) : (d.modSfu r f).sfu r = f (d.sfu r) := by
  simp [Device.modSfu, Device.sfu]
theorem Device.modSfu_sfu_ne (d : Device) (r : Nat) (f : Sfu → Sfu) {q : Nat} (h : q ≠ r) : (d.modSfu r f).sfu q = d.sfu q :=
  Tab.getD_upd_ne _ _ _ _ h

/-! ### modSu -/

@[simp] theorem Device.modSu_now (d : Device) (r : Nat) (f : Su → Su) : (d.modSu r f).now = d.now := rfl
@[simp] theorem Device.modSu_free (d : Device) (r : Nat) (f : Su → Su) : (d.modSu r f).free = d.free := rfl
@[simp] theorem Device.modSu_host (d : Device) (r : Nat) (f : Su → Su) : (d.modSu r f).host = d.host := rfl
@[simp] theorem Device.modSu_ring (d : Device) (r : Nat) (f : Su → Su) : (d.modSu r f).ring = d.ring := rfl
@[simp] theorem Device.modSu_ringScrub (d : Device) (r : Nat) (f : Su → Su) : (d.modSu r f).ringScrub = d.ringScrub := rfl
@[simp] theorem Device.modSu_ringBack (d : Device) (r : Nat) (f : Su → Su) : (d.modSu r f).ringBack = d.ringBack := rfl
@[simp] theorem Device.modSu_hbm (d : Device) (r : Nat) (f : Su → Su) : (d.modSu r f).hbm = d.hbm := rfl
@[simp] theorem Device.modSu_comb (d : Device) (r : Nat) (f : Su → Su) : (d.modSu r f).comb = d.comb := rfl
@[simp] theorem Device.modSu_tick (d : Device) (r : Nat) (f : Su → Su) : (d.modSu r f).tick = d.tick := rfl
@[simp] theorem Device.modSu_pilots (d : Device) (r : Nat) (f : Su → Su) : (d.modSu r f).pilots = d.pilots := rfl
@[simp] theorem Device.modSu_switches (d : Device) (r : Nat) (f : Su → Su) : (d.modSu r f).switches = d.switches := rfl
@[simp] theorem Device.modSu_mus (d : Device) (r : Nat) (f : Su → Su) : (d.modSu r f).mus = d.mus := rfl
@[simp] theorem Device.modSu_sfus (d : Device) (r : Nat) (f : Su → Su) : (d.modSu r f).sfus = d.sfus := rfl
@[simp] theorem Device.modSu_ious (d : Device) (r : Nat) (f : Su → Su) : (d.modSu r f).ious = d.ious := rfl
@[simp] theorem Device.modSu_crossings (d : Device) (r : Nat) (f : Su → Su) : (d.modSu r f).crossings = d.crossings := rfl
@[simp] theorem Device.modSu_relock (d : Device) (r : Nat) (f : Su → Su) : (d.modSu r f).relock = d.relock := rfl
@[simp] theorem Device.modSu_homes (d : Device) (r : Nat) (f : Su → Su) : (d.modSu r f).homes = d.homes := rfl
@[simp] theorem Device.modSu_hbmStacks (d : Device) (r : Nat) (f : Su → Su) : (d.modSu r f).hbmStacks = d.hbmStacks := rfl
@[simp] theorem Device.modSu_vxl (d : Device) (r : Nat) (f : Su → Su) : (d.modSu r f).vxl = d.vxl := rfl
@[simp] theorem Device.modSu_pwr (d : Device) (r : Nat) (f : Su → Su) : (d.modSu r f).pwr = d.pwr := rfl
@[simp] theorem Device.modSu_hlt (d : Device) (r : Nat) (f : Su → Su) : (d.modSu r f).hlt = d.hlt := rfl
@[simp] theorem Device.modSu_sec (d : Device) (r : Nat) (f : Su → Su) : (d.modSu r f).sec = d.sec := rfl
@[simp] theorem Device.modSu_log (d : Device) (r : Nat) (f : Su → Su) : (d.modSu r f).log = d.log := rfl
@[simp] theorem Device.modSu_seq (d : Device) (r : Nat) (f : Su → Su) : (d.modSu r f).seq = d.seq := rfl
@[simp] theorem Device.modSu_hubEvents (d : Device) (r : Nat) (f : Su → Su) : (d.modSu r f).hubEvents = d.hubEvents := rfl
@[simp] theorem Device.modSu_clkPilots (d : Device) (r : Nat) (f : Su → Su) : (d.modSu r f).clkPilots = d.clkPilots := rfl
@[simp] theorem Device.modSu_su (d : Device) (r : Nat) (f : Su → Su) : (d.modSu r f).su r = f (d.su r) := by
  simp [Device.modSu, Device.su]
theorem Device.modSu_su_ne (d : Device) (r : Nat) (f : Su → Su) {q : Nat} (h : q ≠ r) : (d.modSu r f).su q = d.su q :=
  Tab.getD_upd_ne _ _ _ _ h

/-! ### modIou -/

@[simp] theorem Device.modIou_now (d : Device) (r : Nat) (f : Iou → Iou) : (d.modIou r f).now = d.now := rfl
@[simp] theorem Device.modIou_free (d : Device) (r : Nat) (f : Iou → Iou) : (d.modIou r f).free = d.free := rfl
@[simp] theorem Device.modIou_host (d : Device) (r : Nat) (f : Iou → Iou) : (d.modIou r f).host = d.host := rfl
@[simp] theorem Device.modIou_ring (d : Device) (r : Nat) (f : Iou → Iou) : (d.modIou r f).ring = d.ring := rfl
@[simp] theorem Device.modIou_ringScrub (d : Device) (r : Nat) (f : Iou → Iou) : (d.modIou r f).ringScrub = d.ringScrub := rfl
@[simp] theorem Device.modIou_ringBack (d : Device) (r : Nat) (f : Iou → Iou) : (d.modIou r f).ringBack = d.ringBack := rfl
@[simp] theorem Device.modIou_hbm (d : Device) (r : Nat) (f : Iou → Iou) : (d.modIou r f).hbm = d.hbm := rfl
@[simp] theorem Device.modIou_comb (d : Device) (r : Nat) (f : Iou → Iou) : (d.modIou r f).comb = d.comb := rfl
@[simp] theorem Device.modIou_tick (d : Device) (r : Nat) (f : Iou → Iou) : (d.modIou r f).tick = d.tick := rfl
@[simp] theorem Device.modIou_pilots (d : Device) (r : Nat) (f : Iou → Iou) : (d.modIou r f).pilots = d.pilots := rfl
@[simp] theorem Device.modIou_switches (d : Device) (r : Nat) (f : Iou → Iou) : (d.modIou r f).switches = d.switches := rfl
@[simp] theorem Device.modIou_mus (d : Device) (r : Nat) (f : Iou → Iou) : (d.modIou r f).mus = d.mus := rfl
@[simp] theorem Device.modIou_sfus (d : Device) (r : Nat) (f : Iou → Iou) : (d.modIou r f).sfus = d.sfus := rfl
@[simp] theorem Device.modIou_sus (d : Device) (r : Nat) (f : Iou → Iou) : (d.modIou r f).sus = d.sus := rfl
@[simp] theorem Device.modIou_crossings (d : Device) (r : Nat) (f : Iou → Iou) : (d.modIou r f).crossings = d.crossings := rfl
@[simp] theorem Device.modIou_relock (d : Device) (r : Nat) (f : Iou → Iou) : (d.modIou r f).relock = d.relock := rfl
@[simp] theorem Device.modIou_homes (d : Device) (r : Nat) (f : Iou → Iou) : (d.modIou r f).homes = d.homes := rfl
@[simp] theorem Device.modIou_hbmStacks (d : Device) (r : Nat) (f : Iou → Iou) : (d.modIou r f).hbmStacks = d.hbmStacks := rfl
@[simp] theorem Device.modIou_vxl (d : Device) (r : Nat) (f : Iou → Iou) : (d.modIou r f).vxl = d.vxl := rfl
@[simp] theorem Device.modIou_pwr (d : Device) (r : Nat) (f : Iou → Iou) : (d.modIou r f).pwr = d.pwr := rfl
@[simp] theorem Device.modIou_hlt (d : Device) (r : Nat) (f : Iou → Iou) : (d.modIou r f).hlt = d.hlt := rfl
@[simp] theorem Device.modIou_sec (d : Device) (r : Nat) (f : Iou → Iou) : (d.modIou r f).sec = d.sec := rfl
@[simp] theorem Device.modIou_log (d : Device) (r : Nat) (f : Iou → Iou) : (d.modIou r f).log = d.log := rfl
@[simp] theorem Device.modIou_seq (d : Device) (r : Nat) (f : Iou → Iou) : (d.modIou r f).seq = d.seq := rfl
@[simp] theorem Device.modIou_hubEvents (d : Device) (r : Nat) (f : Iou → Iou) : (d.modIou r f).hubEvents = d.hubEvents := rfl
@[simp] theorem Device.modIou_clkPilots (d : Device) (r : Nat) (f : Iou → Iou) : (d.modIou r f).clkPilots = d.clkPilots := rfl
@[simp] theorem Device.modIou_iou (d : Device) (r : Nat) (f : Iou → Iou) : (d.modIou r f).iou r = f (d.iou r) := by
  simp [Device.modIou, Device.iou]
theorem Device.modIou_iou_ne (d : Device) (r : Nat) (f : Iou → Iou) {q : Nat} (h : q ≠ r) : (d.modIou r f).iou q = d.iou q :=
  Tab.getD_upd_ne _ _ _ _ h

/-! ### modHome -/

@[simp] theorem Device.modHome_now (d : Device) (r : Nat) (f : Home → Home) : (d.modHome r f).now = d.now := rfl
@[simp] theorem Device.modHome_free (d : Device) (r : Nat) (f : Home → Home) : (d.modHome r f).free = d.free := rfl
@[simp] theorem Device.modHome_host (d : Device) (r : Nat) (f : Home → Home) : (d.modHome r f).host = d.host := rfl
@[simp] theorem Device.modHome_ring (d : Device) (r : Nat) (f : Home → Home) : (d.modHome r f).ring = d.ring := rfl
@[simp] theorem Device.modHome_ringScrub (d : Device) (r : Nat) (f : Home → Home) : (d.modHome r f).ringScrub = d.ringScrub := rfl
@[simp] theorem Device.modHome_ringBack (d : Device) (r : Nat) (f : Home → Home) : (d.modHome r f).ringBack = d.ringBack := rfl
@[simp] theorem Device.modHome_hbm (d : Device) (r : Nat) (f : Home → Home) : (d.modHome r f).hbm = d.hbm := rfl
@[simp] theorem Device.modHome_comb (d : Device) (r : Nat) (f : Home → Home) : (d.modHome r f).comb = d.comb := rfl
@[simp] theorem Device.modHome_tick (d : Device) (r : Nat) (f : Home → Home) : (d.modHome r f).tick = d.tick := rfl
@[simp] theorem Device.modHome_pilots (d : Device) (r : Nat) (f : Home → Home) : (d.modHome r f).pilots = d.pilots := rfl
@[simp] theorem Device.modHome_switches (d : Device) (r : Nat) (f : Home → Home) : (d.modHome r f).switches = d.switches := rfl
@[simp] theorem Device.modHome_mus (d : Device) (r : Nat) (f : Home → Home) : (d.modHome r f).mus = d.mus := rfl
@[simp] theorem Device.modHome_sfus (d : Device) (r : Nat) (f : Home → Home) : (d.modHome r f).sfus = d.sfus := rfl
@[simp] theorem Device.modHome_sus (d : Device) (r : Nat) (f : Home → Home) : (d.modHome r f).sus = d.sus := rfl
@[simp] theorem Device.modHome_ious (d : Device) (r : Nat) (f : Home → Home) : (d.modHome r f).ious = d.ious := rfl
@[simp] theorem Device.modHome_crossings (d : Device) (r : Nat) (f : Home → Home) : (d.modHome r f).crossings = d.crossings := rfl
@[simp] theorem Device.modHome_relock (d : Device) (r : Nat) (f : Home → Home) : (d.modHome r f).relock = d.relock := rfl
@[simp] theorem Device.modHome_hbmStacks (d : Device) (r : Nat) (f : Home → Home) : (d.modHome r f).hbmStacks = d.hbmStacks := rfl
@[simp] theorem Device.modHome_vxl (d : Device) (r : Nat) (f : Home → Home) : (d.modHome r f).vxl = d.vxl := rfl
@[simp] theorem Device.modHome_pwr (d : Device) (r : Nat) (f : Home → Home) : (d.modHome r f).pwr = d.pwr := rfl
@[simp] theorem Device.modHome_hlt (d : Device) (r : Nat) (f : Home → Home) : (d.modHome r f).hlt = d.hlt := rfl
@[simp] theorem Device.modHome_sec (d : Device) (r : Nat) (f : Home → Home) : (d.modHome r f).sec = d.sec := rfl
@[simp] theorem Device.modHome_log (d : Device) (r : Nat) (f : Home → Home) : (d.modHome r f).log = d.log := rfl
@[simp] theorem Device.modHome_seq (d : Device) (r : Nat) (f : Home → Home) : (d.modHome r f).seq = d.seq := rfl
@[simp] theorem Device.modHome_hubEvents (d : Device) (r : Nat) (f : Home → Home) : (d.modHome r f).hubEvents = d.hubEvents := rfl
@[simp] theorem Device.modHome_clkPilots (d : Device) (r : Nat) (f : Home → Home) : (d.modHome r f).clkPilots = d.clkPilots := rfl
@[simp] theorem Device.modHome_home (d : Device) (r : Nat) (f : Home → Home) : (d.modHome r f).home r = f (d.home r) := by
  simp [Device.modHome, Device.home]
theorem Device.modHome_home_ne (d : Device) (r : Nat) (f : Home → Home) {q : Nat} (h : q ≠ r) : (d.modHome r f).home q = d.home q :=
  Tab.getD_upd_ne _ _ _ _ h

/-! ### modStack -/

@[simp] theorem Device.modStack_now (d : Device) (r : Nat) (f : Stack → Stack) : (d.modStack r f).now = d.now := rfl
@[simp] theorem Device.modStack_free (d : Device) (r : Nat) (f : Stack → Stack) : (d.modStack r f).free = d.free := rfl
@[simp] theorem Device.modStack_host (d : Device) (r : Nat) (f : Stack → Stack) : (d.modStack r f).host = d.host := rfl
@[simp] theorem Device.modStack_ring (d : Device) (r : Nat) (f : Stack → Stack) : (d.modStack r f).ring = d.ring := rfl
@[simp] theorem Device.modStack_ringScrub (d : Device) (r : Nat) (f : Stack → Stack) : (d.modStack r f).ringScrub = d.ringScrub := rfl
@[simp] theorem Device.modStack_ringBack (d : Device) (r : Nat) (f : Stack → Stack) : (d.modStack r f).ringBack = d.ringBack := rfl
@[simp] theorem Device.modStack_hbm (d : Device) (r : Nat) (f : Stack → Stack) : (d.modStack r f).hbm = d.hbm := rfl
@[simp] theorem Device.modStack_comb (d : Device) (r : Nat) (f : Stack → Stack) : (d.modStack r f).comb = d.comb := rfl
@[simp] theorem Device.modStack_tick (d : Device) (r : Nat) (f : Stack → Stack) : (d.modStack r f).tick = d.tick := rfl
@[simp] theorem Device.modStack_pilots (d : Device) (r : Nat) (f : Stack → Stack) : (d.modStack r f).pilots = d.pilots := rfl
@[simp] theorem Device.modStack_switches (d : Device) (r : Nat) (f : Stack → Stack) : (d.modStack r f).switches = d.switches := rfl
@[simp] theorem Device.modStack_mus (d : Device) (r : Nat) (f : Stack → Stack) : (d.modStack r f).mus = d.mus := rfl
@[simp] theorem Device.modStack_sfus (d : Device) (r : Nat) (f : Stack → Stack) : (d.modStack r f).sfus = d.sfus := rfl
@[simp] theorem Device.modStack_sus (d : Device) (r : Nat) (f : Stack → Stack) : (d.modStack r f).sus = d.sus := rfl
@[simp] theorem Device.modStack_ious (d : Device) (r : Nat) (f : Stack → Stack) : (d.modStack r f).ious = d.ious := rfl
@[simp] theorem Device.modStack_crossings (d : Device) (r : Nat) (f : Stack → Stack) : (d.modStack r f).crossings = d.crossings := rfl
@[simp] theorem Device.modStack_relock (d : Device) (r : Nat) (f : Stack → Stack) : (d.modStack r f).relock = d.relock := rfl
@[simp] theorem Device.modStack_homes (d : Device) (r : Nat) (f : Stack → Stack) : (d.modStack r f).homes = d.homes := rfl
@[simp] theorem Device.modStack_vxl (d : Device) (r : Nat) (f : Stack → Stack) : (d.modStack r f).vxl = d.vxl := rfl
@[simp] theorem Device.modStack_pwr (d : Device) (r : Nat) (f : Stack → Stack) : (d.modStack r f).pwr = d.pwr := rfl
@[simp] theorem Device.modStack_hlt (d : Device) (r : Nat) (f : Stack → Stack) : (d.modStack r f).hlt = d.hlt := rfl
@[simp] theorem Device.modStack_sec (d : Device) (r : Nat) (f : Stack → Stack) : (d.modStack r f).sec = d.sec := rfl
@[simp] theorem Device.modStack_log (d : Device) (r : Nat) (f : Stack → Stack) : (d.modStack r f).log = d.log := rfl
@[simp] theorem Device.modStack_seq (d : Device) (r : Nat) (f : Stack → Stack) : (d.modStack r f).seq = d.seq := rfl
@[simp] theorem Device.modStack_hubEvents (d : Device) (r : Nat) (f : Stack → Stack) : (d.modStack r f).hubEvents = d.hubEvents := rfl
@[simp] theorem Device.modStack_clkPilots (d : Device) (r : Nat) (f : Stack → Stack) : (d.modStack r f).clkPilots = d.clkPilots := rfl
@[simp] theorem Device.modStack_stack (d : Device) (r : Nat) (f : Stack → Stack) : (d.modStack r f).stack r = f (d.stack r) := by
  simp [Device.modStack, Device.stack]
theorem Device.modStack_stack_ne (d : Device) (r : Nat) (f : Stack → Stack) {q : Nat} (h : q ≠ r) : (d.modStack r f).stack q = d.stack q :=
  Tab.getD_upd_ne _ _ _ _ h

/-! ### modHost -/

@[simp] theorem Device.modHost_now (d : Device) (f : HostPort → HostPort) : (d.modHost f).now = d.now := rfl
@[simp] theorem Device.modHost_free (d : Device) (f : HostPort → HostPort) : (d.modHost f).free = d.free := rfl
@[simp] theorem Device.modHost_ring (d : Device) (f : HostPort → HostPort) : (d.modHost f).ring = d.ring := rfl
@[simp] theorem Device.modHost_ringScrub (d : Device) (f : HostPort → HostPort) : (d.modHost f).ringScrub = d.ringScrub := rfl
@[simp] theorem Device.modHost_ringBack (d : Device) (f : HostPort → HostPort) : (d.modHost f).ringBack = d.ringBack := rfl
@[simp] theorem Device.modHost_hbm (d : Device) (f : HostPort → HostPort) : (d.modHost f).hbm = d.hbm := rfl
@[simp] theorem Device.modHost_comb (d : Device) (f : HostPort → HostPort) : (d.modHost f).comb = d.comb := rfl
@[simp] theorem Device.modHost_tick (d : Device) (f : HostPort → HostPort) : (d.modHost f).tick = d.tick := rfl
@[simp] theorem Device.modHost_pilots (d : Device) (f : HostPort → HostPort) : (d.modHost f).pilots = d.pilots := rfl
@[simp] theorem Device.modHost_switches (d : Device) (f : HostPort → HostPort) : (d.modHost f).switches = d.switches := rfl
@[simp] theorem Device.modHost_mus (d : Device) (f : HostPort → HostPort) : (d.modHost f).mus = d.mus := rfl
@[simp] theorem Device.modHost_sfus (d : Device) (f : HostPort → HostPort) : (d.modHost f).sfus = d.sfus := rfl
@[simp] theorem Device.modHost_sus (d : Device) (f : HostPort → HostPort) : (d.modHost f).sus = d.sus := rfl
@[simp] theorem Device.modHost_ious (d : Device) (f : HostPort → HostPort) : (d.modHost f).ious = d.ious := rfl
@[simp] theorem Device.modHost_crossings (d : Device) (f : HostPort → HostPort) : (d.modHost f).crossings = d.crossings := rfl
@[simp] theorem Device.modHost_relock (d : Device) (f : HostPort → HostPort) : (d.modHost f).relock = d.relock := rfl
@[simp] theorem Device.modHost_homes (d : Device) (f : HostPort → HostPort) : (d.modHost f).homes = d.homes := rfl
@[simp] theorem Device.modHost_hbmStacks (d : Device) (f : HostPort → HostPort) : (d.modHost f).hbmStacks = d.hbmStacks := rfl
@[simp] theorem Device.modHost_vxl (d : Device) (f : HostPort → HostPort) : (d.modHost f).vxl = d.vxl := rfl
@[simp] theorem Device.modHost_pwr (d : Device) (f : HostPort → HostPort) : (d.modHost f).pwr = d.pwr := rfl
@[simp] theorem Device.modHost_hlt (d : Device) (f : HostPort → HostPort) : (d.modHost f).hlt = d.hlt := rfl
@[simp] theorem Device.modHost_sec (d : Device) (f : HostPort → HostPort) : (d.modHost f).sec = d.sec := rfl
@[simp] theorem Device.modHost_log (d : Device) (f : HostPort → HostPort) : (d.modHost f).log = d.log := rfl
@[simp] theorem Device.modHost_seq (d : Device) (f : HostPort → HostPort) : (d.modHost f).seq = d.seq := rfl
@[simp] theorem Device.modHost_hubEvents (d : Device) (f : HostPort → HostPort) : (d.modHost f).hubEvents = d.hubEvents := rfl
@[simp] theorem Device.modHost_clkPilots (d : Device) (f : HostPort → HostPort) : (d.modHost f).clkPilots = d.clkPilots := rfl
@[simp] theorem Device.modHost_host (d : Device) (f : HostPort → HostPort) : (d.modHost f).host = f d.host := rfl

/-! ### modTick -/

@[simp] theorem Device.modTick_now (d : Device) (f : Tick → Tick) : (d.modTick f).now = d.now := rfl
@[simp] theorem Device.modTick_free (d : Device) (f : Tick → Tick) : (d.modTick f).free = d.free := rfl
@[simp] theorem Device.modTick_host (d : Device) (f : Tick → Tick) : (d.modTick f).host = d.host := rfl
@[simp] theorem Device.modTick_ring (d : Device) (f : Tick → Tick) : (d.modTick f).ring = d.ring := rfl
@[simp] theorem Device.modTick_ringScrub (d : Device) (f : Tick → Tick) : (d.modTick f).ringScrub = d.ringScrub := rfl
@[simp] theorem Device.modTick_ringBack (d : Device) (f : Tick → Tick) : (d.modTick f).ringBack = d.ringBack := rfl
@[simp] theorem Device.modTick_hbm (d : Device) (f : Tick → Tick) : (d.modTick f).hbm = d.hbm := rfl
@[simp] theorem Device.modTick_comb (d : Device) (f : Tick → Tick) : (d.modTick f).comb = d.comb := rfl
@[simp] theorem Device.modTick_pilots (d : Device) (f : Tick → Tick) : (d.modTick f).pilots = d.pilots := rfl
@[simp] theorem Device.modTick_switches (d : Device) (f : Tick → Tick) : (d.modTick f).switches = d.switches := rfl
@[simp] theorem Device.modTick_mus (d : Device) (f : Tick → Tick) : (d.modTick f).mus = d.mus := rfl
@[simp] theorem Device.modTick_sfus (d : Device) (f : Tick → Tick) : (d.modTick f).sfus = d.sfus := rfl
@[simp] theorem Device.modTick_sus (d : Device) (f : Tick → Tick) : (d.modTick f).sus = d.sus := rfl
@[simp] theorem Device.modTick_ious (d : Device) (f : Tick → Tick) : (d.modTick f).ious = d.ious := rfl
@[simp] theorem Device.modTick_crossings (d : Device) (f : Tick → Tick) : (d.modTick f).crossings = d.crossings := rfl
@[simp] theorem Device.modTick_relock (d : Device) (f : Tick → Tick) : (d.modTick f).relock = d.relock := rfl
@[simp] theorem Device.modTick_homes (d : Device) (f : Tick → Tick) : (d.modTick f).homes = d.homes := rfl
@[simp] theorem Device.modTick_hbmStacks (d : Device) (f : Tick → Tick) : (d.modTick f).hbmStacks = d.hbmStacks := rfl
@[simp] theorem Device.modTick_vxl (d : Device) (f : Tick → Tick) : (d.modTick f).vxl = d.vxl := rfl
@[simp] theorem Device.modTick_pwr (d : Device) (f : Tick → Tick) : (d.modTick f).pwr = d.pwr := rfl
@[simp] theorem Device.modTick_hlt (d : Device) (f : Tick → Tick) : (d.modTick f).hlt = d.hlt := rfl
@[simp] theorem Device.modTick_sec (d : Device) (f : Tick → Tick) : (d.modTick f).sec = d.sec := rfl
@[simp] theorem Device.modTick_log (d : Device) (f : Tick → Tick) : (d.modTick f).log = d.log := rfl
@[simp] theorem Device.modTick_seq (d : Device) (f : Tick → Tick) : (d.modTick f).seq = d.seq := rfl
@[simp] theorem Device.modTick_hubEvents (d : Device) (f : Tick → Tick) : (d.modTick f).hubEvents = d.hubEvents := rfl
@[simp] theorem Device.modTick_clkPilots (d : Device) (f : Tick → Tick) : (d.modTick f).clkPilots = d.clkPilots := rfl
@[simp] theorem Device.modTick_tick (d : Device) (f : Tick → Tick) : (d.modTick f).tick = f d.tick := rfl

/-! ### modComb -/

@[simp] theorem Device.modComb_now (d : Device) (f : Comb → Comb) : (d.modComb f).now = d.now := rfl
@[simp] theorem Device.modComb_free (d : Device) (f : Comb → Comb) : (d.modComb f).free = d.free := rfl
@[simp] theorem Device.modComb_host (d : Device) (f : Comb → Comb) : (d.modComb f).host = d.host := rfl
@[simp] theorem Device.modComb_ring (d : Device) (f : Comb → Comb) : (d.modComb f).ring = d.ring := rfl
@[simp] theorem Device.modComb_ringScrub (d : Device) (f : Comb → Comb) : (d.modComb f).ringScrub = d.ringScrub := rfl
@[simp] theorem Device.modComb_ringBack (d : Device) (f : Comb → Comb) : (d.modComb f).ringBack = d.ringBack := rfl
@[simp] theorem Device.modComb_hbm (d : Device) (f : Comb → Comb) : (d.modComb f).hbm = d.hbm := rfl
@[simp] theorem Device.modComb_tick (d : Device) (f : Comb → Comb) : (d.modComb f).tick = d.tick := rfl
@[simp] theorem Device.modComb_pilots (d : Device) (f : Comb → Comb) : (d.modComb f).pilots = d.pilots := rfl
@[simp] theorem Device.modComb_switches (d : Device) (f : Comb → Comb) : (d.modComb f).switches = d.switches := rfl
@[simp] theorem Device.modComb_mus (d : Device) (f : Comb → Comb) : (d.modComb f).mus = d.mus := rfl
@[simp] theorem Device.modComb_sfus (d : Device) (f : Comb → Comb) : (d.modComb f).sfus = d.sfus := rfl
@[simp] theorem Device.modComb_sus (d : Device) (f : Comb → Comb) : (d.modComb f).sus = d.sus := rfl
@[simp] theorem Device.modComb_ious (d : Device) (f : Comb → Comb) : (d.modComb f).ious = d.ious := rfl
@[simp] theorem Device.modComb_crossings (d : Device) (f : Comb → Comb) : (d.modComb f).crossings = d.crossings := rfl
@[simp] theorem Device.modComb_relock (d : Device) (f : Comb → Comb) : (d.modComb f).relock = d.relock := rfl
@[simp] theorem Device.modComb_homes (d : Device) (f : Comb → Comb) : (d.modComb f).homes = d.homes := rfl
@[simp] theorem Device.modComb_hbmStacks (d : Device) (f : Comb → Comb) : (d.modComb f).hbmStacks = d.hbmStacks := rfl
@[simp] theorem Device.modComb_vxl (d : Device) (f : Comb → Comb) : (d.modComb f).vxl = d.vxl := rfl
@[simp] theorem Device.modComb_pwr (d : Device) (f : Comb → Comb) : (d.modComb f).pwr = d.pwr := rfl
@[simp] theorem Device.modComb_hlt (d : Device) (f : Comb → Comb) : (d.modComb f).hlt = d.hlt := rfl
@[simp] theorem Device.modComb_sec (d : Device) (f : Comb → Comb) : (d.modComb f).sec = d.sec := rfl
@[simp] theorem Device.modComb_log (d : Device) (f : Comb → Comb) : (d.modComb f).log = d.log := rfl
@[simp] theorem Device.modComb_seq (d : Device) (f : Comb → Comb) : (d.modComb f).seq = d.seq := rfl
@[simp] theorem Device.modComb_hubEvents (d : Device) (f : Comb → Comb) : (d.modComb f).hubEvents = d.hubEvents := rfl
@[simp] theorem Device.modComb_clkPilots (d : Device) (f : Comb → Comb) : (d.modComb f).clkPilots = d.clkPilots := rfl
@[simp] theorem Device.modComb_comb (d : Device) (f : Comb → Comb) : (d.modComb f).comb = f d.comb := rfl

/-! ### modVxl -/

@[simp] theorem Device.modVxl_now (d : Device) (f : Vxl → Vxl) : (d.modVxl f).now = d.now := rfl
@[simp] theorem Device.modVxl_free (d : Device) (f : Vxl → Vxl) : (d.modVxl f).free = d.free := rfl
@[simp] theorem Device.modVxl_host (d : Device) (f : Vxl → Vxl) : (d.modVxl f).host = d.host := rfl
@[simp] theorem Device.modVxl_ring (d : Device) (f : Vxl → Vxl) : (d.modVxl f).ring = d.ring := rfl
@[simp] theorem Device.modVxl_ringScrub (d : Device) (f : Vxl → Vxl) : (d.modVxl f).ringScrub = d.ringScrub := rfl
@[simp] theorem Device.modVxl_ringBack (d : Device) (f : Vxl → Vxl) : (d.modVxl f).ringBack = d.ringBack := rfl
@[simp] theorem Device.modVxl_hbm (d : Device) (f : Vxl → Vxl) : (d.modVxl f).hbm = d.hbm := rfl
@[simp] theorem Device.modVxl_comb (d : Device) (f : Vxl → Vxl) : (d.modVxl f).comb = d.comb := rfl
@[simp] theorem Device.modVxl_tick (d : Device) (f : Vxl → Vxl) : (d.modVxl f).tick = d.tick := rfl
@[simp] theorem Device.modVxl_pilots (d : Device) (f : Vxl → Vxl) : (d.modVxl f).pilots = d.pilots := rfl
@[simp] theorem Device.modVxl_switches (d : Device) (f : Vxl → Vxl) : (d.modVxl f).switches = d.switches := rfl
@[simp] theorem Device.modVxl_mus (d : Device) (f : Vxl → Vxl) : (d.modVxl f).mus = d.mus := rfl
@[simp] theorem Device.modVxl_sfus (d : Device) (f : Vxl → Vxl) : (d.modVxl f).sfus = d.sfus := rfl
@[simp] theorem Device.modVxl_sus (d : Device) (f : Vxl → Vxl) : (d.modVxl f).sus = d.sus := rfl
@[simp] theorem Device.modVxl_ious (d : Device) (f : Vxl → Vxl) : (d.modVxl f).ious = d.ious := rfl
@[simp] theorem Device.modVxl_crossings (d : Device) (f : Vxl → Vxl) : (d.modVxl f).crossings = d.crossings := rfl
@[simp] theorem Device.modVxl_relock (d : Device) (f : Vxl → Vxl) : (d.modVxl f).relock = d.relock := rfl
@[simp] theorem Device.modVxl_homes (d : Device) (f : Vxl → Vxl) : (d.modVxl f).homes = d.homes := rfl
@[simp] theorem Device.modVxl_hbmStacks (d : Device) (f : Vxl → Vxl) : (d.modVxl f).hbmStacks = d.hbmStacks := rfl
@[simp] theorem Device.modVxl_pwr (d : Device) (f : Vxl → Vxl) : (d.modVxl f).pwr = d.pwr := rfl
@[simp] theorem Device.modVxl_hlt (d : Device) (f : Vxl → Vxl) : (d.modVxl f).hlt = d.hlt := rfl
@[simp] theorem Device.modVxl_sec (d : Device) (f : Vxl → Vxl) : (d.modVxl f).sec = d.sec := rfl
@[simp] theorem Device.modVxl_log (d : Device) (f : Vxl → Vxl) : (d.modVxl f).log = d.log := rfl
@[simp] theorem Device.modVxl_seq (d : Device) (f : Vxl → Vxl) : (d.modVxl f).seq = d.seq := rfl
@[simp] theorem Device.modVxl_hubEvents (d : Device) (f : Vxl → Vxl) : (d.modVxl f).hubEvents = d.hubEvents := rfl
@[simp] theorem Device.modVxl_clkPilots (d : Device) (f : Vxl → Vxl) : (d.modVxl f).clkPilots = d.clkPilots := rfl
@[simp] theorem Device.modVxl_vxl (d : Device) (f : Vxl → Vxl) : (d.modVxl f).vxl = f d.vxl := rfl

/-! ### modPwr -/

@[simp] theorem Device.modPwr_now (d : Device) (f : Power → Power) : (d.modPwr f).now = d.now := rfl
@[simp] theorem Device.modPwr_free (d : Device) (f : Power → Power) : (d.modPwr f).free = d.free := rfl
@[simp] theorem Device.modPwr_host (d : Device) (f : Power → Power) : (d.modPwr f).host = d.host := rfl
@[simp] theorem Device.modPwr_ring (d : Device) (f : Power → Power) : (d.modPwr f).ring = d.ring := rfl
@[simp] theorem Device.modPwr_ringScrub (d : Device) (f : Power → Power) : (d.modPwr f).ringScrub = d.ringScrub := rfl
@[simp] theorem Device.modPwr_ringBack (d : Device) (f : Power → Power) : (d.modPwr f).ringBack = d.ringBack := rfl
@[simp] theorem Device.modPwr_hbm (d : Device) (f : Power → Power) : (d.modPwr f).hbm = d.hbm := rfl
@[simp] theorem Device.modPwr_comb (d : Device) (f : Power → Power) : (d.modPwr f).comb = d.comb := rfl
@[simp] theorem Device.modPwr_tick (d : Device) (f : Power → Power) : (d.modPwr f).tick = d.tick := rfl
@[simp] theorem Device.modPwr_pilots (d : Device) (f : Power → Power) : (d.modPwr f).pilots = d.pilots := rfl
@[simp] theorem Device.modPwr_switches (d : Device) (f : Power → Power) : (d.modPwr f).switches = d.switches := rfl
@[simp] theorem Device.modPwr_mus (d : Device) (f : Power → Power) : (d.modPwr f).mus = d.mus := rfl
@[simp] theorem Device.modPwr_sfus (d : Device) (f : Power → Power) : (d.modPwr f).sfus = d.sfus := rfl
@[simp] theorem Device.modPwr_sus (d : Device) (f : Power → Power) : (d.modPwr f).sus = d.sus := rfl
@[simp] theorem Device.modPwr_ious (d : Device) (f : Power → Power) : (d.modPwr f).ious = d.ious := rfl
@[simp] theorem Device.modPwr_crossings (d : Device) (f : Power → Power) : (d.modPwr f).crossings = d.crossings := rfl
@[simp] theorem Device.modPwr_relock (d : Device) (f : Power → Power) : (d.modPwr f).relock = d.relock := rfl
@[simp] theorem Device.modPwr_homes (d : Device) (f : Power → Power) : (d.modPwr f).homes = d.homes := rfl
@[simp] theorem Device.modPwr_hbmStacks (d : Device) (f : Power → Power) : (d.modPwr f).hbmStacks = d.hbmStacks := rfl
@[simp] theorem Device.modPwr_vxl (d : Device) (f : Power → Power) : (d.modPwr f).vxl = d.vxl := rfl
@[simp] theorem Device.modPwr_hlt (d : Device) (f : Power → Power) : (d.modPwr f).hlt = d.hlt := rfl
@[simp] theorem Device.modPwr_sec (d : Device) (f : Power → Power) : (d.modPwr f).sec = d.sec := rfl
@[simp] theorem Device.modPwr_log (d : Device) (f : Power → Power) : (d.modPwr f).log = d.log := rfl
@[simp] theorem Device.modPwr_seq (d : Device) (f : Power → Power) : (d.modPwr f).seq = d.seq := rfl
@[simp] theorem Device.modPwr_hubEvents (d : Device) (f : Power → Power) : (d.modPwr f).hubEvents = d.hubEvents := rfl
@[simp] theorem Device.modPwr_clkPilots (d : Device) (f : Power → Power) : (d.modPwr f).clkPilots = d.clkPilots := rfl
@[simp] theorem Device.modPwr_pwr (d : Device) (f : Power → Power) : (d.modPwr f).pwr = f d.pwr := rfl

/-! ### modHlt -/

@[simp] theorem Device.modHlt_now (d : Device) (f : Health → Health) : (d.modHlt f).now = d.now := rfl
@[simp] theorem Device.modHlt_free (d : Device) (f : Health → Health) : (d.modHlt f).free = d.free := rfl
@[simp] theorem Device.modHlt_host (d : Device) (f : Health → Health) : (d.modHlt f).host = d.host := rfl
@[simp] theorem Device.modHlt_ring (d : Device) (f : Health → Health) : (d.modHlt f).ring = d.ring := rfl
@[simp] theorem Device.modHlt_ringScrub (d : Device) (f : Health → Health) : (d.modHlt f).ringScrub = d.ringScrub := rfl
@[simp] theorem Device.modHlt_ringBack (d : Device) (f : Health → Health) : (d.modHlt f).ringBack = d.ringBack := rfl
@[simp] theorem Device.modHlt_hbm (d : Device) (f : Health → Health) : (d.modHlt f).hbm = d.hbm := rfl
@[simp] theorem Device.modHlt_comb (d : Device) (f : Health → Health) : (d.modHlt f).comb = d.comb := rfl
@[simp] theorem Device.modHlt_tick (d : Device) (f : Health → Health) : (d.modHlt f).tick = d.tick := rfl
@[simp] theorem Device.modHlt_pilots (d : Device) (f : Health → Health) : (d.modHlt f).pilots = d.pilots := rfl
@[simp] theorem Device.modHlt_switches (d : Device) (f : Health → Health) : (d.modHlt f).switches = d.switches := rfl
@[simp] theorem Device.modHlt_mus (d : Device) (f : Health → Health) : (d.modHlt f).mus = d.mus := rfl
@[simp] theorem Device.modHlt_sfus (d : Device) (f : Health → Health) : (d.modHlt f).sfus = d.sfus := rfl
@[simp] theorem Device.modHlt_sus (d : Device) (f : Health → Health) : (d.modHlt f).sus = d.sus := rfl
@[simp] theorem Device.modHlt_ious (d : Device) (f : Health → Health) : (d.modHlt f).ious = d.ious := rfl
@[simp] theorem Device.modHlt_crossings (d : Device) (f : Health → Health) : (d.modHlt f).crossings = d.crossings := rfl
@[simp] theorem Device.modHlt_relock (d : Device) (f : Health → Health) : (d.modHlt f).relock = d.relock := rfl
@[simp] theorem Device.modHlt_homes (d : Device) (f : Health → Health) : (d.modHlt f).homes = d.homes := rfl
@[simp] theorem Device.modHlt_hbmStacks (d : Device) (f : Health → Health) : (d.modHlt f).hbmStacks = d.hbmStacks := rfl
@[simp] theorem Device.modHlt_vxl (d : Device) (f : Health → Health) : (d.modHlt f).vxl = d.vxl := rfl
@[simp] theorem Device.modHlt_pwr (d : Device) (f : Health → Health) : (d.modHlt f).pwr = d.pwr := rfl
@[simp] theorem Device.modHlt_sec (d : Device) (f : Health → Health) : (d.modHlt f).sec = d.sec := rfl
@[simp] theorem Device.modHlt_log (d : Device) (f : Health → Health) : (d.modHlt f).log = d.log := rfl
@[simp] theorem Device.modHlt_seq (d : Device) (f : Health → Health) : (d.modHlt f).seq = d.seq := rfl
@[simp] theorem Device.modHlt_hubEvents (d : Device) (f : Health → Health) : (d.modHlt f).hubEvents = d.hubEvents := rfl
@[simp] theorem Device.modHlt_clkPilots (d : Device) (f : Health → Health) : (d.modHlt f).clkPilots = d.clkPilots := rfl
@[simp] theorem Device.modHlt_hlt (d : Device) (f : Health → Health) : (d.modHlt f).hlt = f d.hlt := rfl

/-! ### modSec -/

@[simp] theorem Device.modSec_now (d : Device) (f : Security → Security) : (d.modSec f).now = d.now := rfl
@[simp] theorem Device.modSec_free (d : Device) (f : Security → Security) : (d.modSec f).free = d.free := rfl
@[simp] theorem Device.modSec_host (d : Device) (f : Security → Security) : (d.modSec f).host = d.host := rfl
@[simp] theorem Device.modSec_ring (d : Device) (f : Security → Security) : (d.modSec f).ring = d.ring := rfl
@[simp] theorem Device.modSec_ringScrub (d : Device) (f : Security → Security) : (d.modSec f).ringScrub = d.ringScrub := rfl
@[simp] theorem Device.modSec_ringBack (d : Device) (f : Security → Security) : (d.modSec f).ringBack = d.ringBack := rfl
@[simp] theorem Device.modSec_hbm (d : Device) (f : Security → Security) : (d.modSec f).hbm = d.hbm := rfl
@[simp] theorem Device.modSec_comb (d : Device) (f : Security → Security) : (d.modSec f).comb = d.comb := rfl
@[simp] theorem Device.modSec_tick (d : Device) (f : Security → Security) : (d.modSec f).tick = d.tick := rfl
@[simp] theorem Device.modSec_pilots (d : Device) (f : Security → Security) : (d.modSec f).pilots = d.pilots := rfl
@[simp] theorem Device.modSec_switches (d : Device) (f : Security → Security) : (d.modSec f).switches = d.switches := rfl
@[simp] theorem Device.modSec_mus (d : Device) (f : Security → Security) : (d.modSec f).mus = d.mus := rfl
@[simp] theorem Device.modSec_sfus (d : Device) (f : Security → Security) : (d.modSec f).sfus = d.sfus := rfl
@[simp] theorem Device.modSec_sus (d : Device) (f : Security → Security) : (d.modSec f).sus = d.sus := rfl
@[simp] theorem Device.modSec_ious (d : Device) (f : Security → Security) : (d.modSec f).ious = d.ious := rfl
@[simp] theorem Device.modSec_crossings (d : Device) (f : Security → Security) : (d.modSec f).crossings = d.crossings := rfl
@[simp] theorem Device.modSec_relock (d : Device) (f : Security → Security) : (d.modSec f).relock = d.relock := rfl
@[simp] theorem Device.modSec_homes (d : Device) (f : Security → Security) : (d.modSec f).homes = d.homes := rfl
@[simp] theorem Device.modSec_hbmStacks (d : Device) (f : Security → Security) : (d.modSec f).hbmStacks = d.hbmStacks := rfl
@[simp] theorem Device.modSec_vxl (d : Device) (f : Security → Security) : (d.modSec f).vxl = d.vxl := rfl
@[simp] theorem Device.modSec_pwr (d : Device) (f : Security → Security) : (d.modSec f).pwr = d.pwr := rfl
@[simp] theorem Device.modSec_hlt (d : Device) (f : Security → Security) : (d.modSec f).hlt = d.hlt := rfl
@[simp] theorem Device.modSec_log (d : Device) (f : Security → Security) : (d.modSec f).log = d.log := rfl
@[simp] theorem Device.modSec_seq (d : Device) (f : Security → Security) : (d.modSec f).seq = d.seq := rfl
@[simp] theorem Device.modSec_hubEvents (d : Device) (f : Security → Security) : (d.modSec f).hubEvents = d.hubEvents := rfl
@[simp] theorem Device.modSec_clkPilots (d : Device) (f : Security → Security) : (d.modSec f).clkPilots = d.clkPilots := rfl
@[simp] theorem Device.modSec_sec (d : Device) (f : Security → Security) : (d.modSec f).sec = f d.sec := rfl

/-! ### modLog -/

@[simp] theorem Device.modLog_now (d : Device) (f : Logbook → Logbook) : (d.modLog f).now = d.now := rfl
@[simp] theorem Device.modLog_free (d : Device) (f : Logbook → Logbook) : (d.modLog f).free = d.free := rfl
@[simp] theorem Device.modLog_host (d : Device) (f : Logbook → Logbook) : (d.modLog f).host = d.host := rfl
@[simp] theorem Device.modLog_ring (d : Device) (f : Logbook → Logbook) : (d.modLog f).ring = d.ring := rfl
@[simp] theorem Device.modLog_ringScrub (d : Device) (f : Logbook → Logbook) : (d.modLog f).ringScrub = d.ringScrub := rfl
@[simp] theorem Device.modLog_ringBack (d : Device) (f : Logbook → Logbook) : (d.modLog f).ringBack = d.ringBack := rfl
@[simp] theorem Device.modLog_hbm (d : Device) (f : Logbook → Logbook) : (d.modLog f).hbm = d.hbm := rfl
@[simp] theorem Device.modLog_comb (d : Device) (f : Logbook → Logbook) : (d.modLog f).comb = d.comb := rfl
@[simp] theorem Device.modLog_tick (d : Device) (f : Logbook → Logbook) : (d.modLog f).tick = d.tick := rfl
@[simp] theorem Device.modLog_pilots (d : Device) (f : Logbook → Logbook) : (d.modLog f).pilots = d.pilots := rfl
@[simp] theorem Device.modLog_switches (d : Device) (f : Logbook → Logbook) : (d.modLog f).switches = d.switches := rfl
@[simp] theorem Device.modLog_mus (d : Device) (f : Logbook → Logbook) : (d.modLog f).mus = d.mus := rfl
@[simp] theorem Device.modLog_sfus (d : Device) (f : Logbook → Logbook) : (d.modLog f).sfus = d.sfus := rfl
@[simp] theorem Device.modLog_sus (d : Device) (f : Logbook → Logbook) : (d.modLog f).sus = d.sus := rfl
@[simp] theorem Device.modLog_ious (d : Device) (f : Logbook → Logbook) : (d.modLog f).ious = d.ious := rfl
@[simp] theorem Device.modLog_crossings (d : Device) (f : Logbook → Logbook) : (d.modLog f).crossings = d.crossings := rfl
@[simp] theorem Device.modLog_relock (d : Device) (f : Logbook → Logbook) : (d.modLog f).relock = d.relock := rfl
@[simp] theorem Device.modLog_homes (d : Device) (f : Logbook → Logbook) : (d.modLog f).homes = d.homes := rfl
@[simp] theorem Device.modLog_hbmStacks (d : Device) (f : Logbook → Logbook) : (d.modLog f).hbmStacks = d.hbmStacks := rfl
@[simp] theorem Device.modLog_vxl (d : Device) (f : Logbook → Logbook) : (d.modLog f).vxl = d.vxl := rfl
@[simp] theorem Device.modLog_pwr (d : Device) (f : Logbook → Logbook) : (d.modLog f).pwr = d.pwr := rfl
@[simp] theorem Device.modLog_hlt (d : Device) (f : Logbook → Logbook) : (d.modLog f).hlt = d.hlt := rfl
@[simp] theorem Device.modLog_sec (d : Device) (f : Logbook → Logbook) : (d.modLog f).sec = d.sec := rfl
@[simp] theorem Device.modLog_seq (d : Device) (f : Logbook → Logbook) : (d.modLog f).seq = d.seq := rfl
@[simp] theorem Device.modLog_hubEvents (d : Device) (f : Logbook → Logbook) : (d.modLog f).hubEvents = d.hubEvents := rfl
@[simp] theorem Device.modLog_clkPilots (d : Device) (f : Logbook → Logbook) : (d.modLog f).clkPilots = d.clkPilots := rfl
@[simp] theorem Device.modLog_log (d : Device) (f : Logbook → Logbook) : (d.modLog f).log = f d.log := rfl

/-! ### modSeq -/

@[simp] theorem Device.modSeq_now (d : Device) (f : Sequencer → Sequencer) : (d.modSeq f).now = d.now := rfl
@[simp] theorem Device.modSeq_free (d : Device) (f : Sequencer → Sequencer) : (d.modSeq f).free = d.free := rfl
@[simp] theorem Device.modSeq_host (d : Device) (f : Sequencer → Sequencer) : (d.modSeq f).host = d.host := rfl
@[simp] theorem Device.modSeq_ring (d : Device) (f : Sequencer → Sequencer) : (d.modSeq f).ring = d.ring := rfl
@[simp] theorem Device.modSeq_ringScrub (d : Device) (f : Sequencer → Sequencer) : (d.modSeq f).ringScrub = d.ringScrub := rfl
@[simp] theorem Device.modSeq_ringBack (d : Device) (f : Sequencer → Sequencer) : (d.modSeq f).ringBack = d.ringBack := rfl
@[simp] theorem Device.modSeq_hbm (d : Device) (f : Sequencer → Sequencer) : (d.modSeq f).hbm = d.hbm := rfl
@[simp] theorem Device.modSeq_comb (d : Device) (f : Sequencer → Sequencer) : (d.modSeq f).comb = d.comb := rfl
@[simp] theorem Device.modSeq_tick (d : Device) (f : Sequencer → Sequencer) : (d.modSeq f).tick = d.tick := rfl
@[simp] theorem Device.modSeq_pilots (d : Device) (f : Sequencer → Sequencer) : (d.modSeq f).pilots = d.pilots := rfl
@[simp] theorem Device.modSeq_switches (d : Device) (f : Sequencer → Sequencer) : (d.modSeq f).switches = d.switches := rfl
@[simp] theorem Device.modSeq_mus (d : Device) (f : Sequencer → Sequencer) : (d.modSeq f).mus = d.mus := rfl
@[simp] theorem Device.modSeq_sfus (d : Device) (f : Sequencer → Sequencer) : (d.modSeq f).sfus = d.sfus := rfl
@[simp] theorem Device.modSeq_sus (d : Device) (f : Sequencer → Sequencer) : (d.modSeq f).sus = d.sus := rfl
@[simp] theorem Device.modSeq_ious (d : Device) (f : Sequencer → Sequencer) : (d.modSeq f).ious = d.ious := rfl
@[simp] theorem Device.modSeq_crossings (d : Device) (f : Sequencer → Sequencer) : (d.modSeq f).crossings = d.crossings := rfl
@[simp] theorem Device.modSeq_relock (d : Device) (f : Sequencer → Sequencer) : (d.modSeq f).relock = d.relock := rfl
@[simp] theorem Device.modSeq_homes (d : Device) (f : Sequencer → Sequencer) : (d.modSeq f).homes = d.homes := rfl
@[simp] theorem Device.modSeq_hbmStacks (d : Device) (f : Sequencer → Sequencer) : (d.modSeq f).hbmStacks = d.hbmStacks := rfl
@[simp] theorem Device.modSeq_vxl (d : Device) (f : Sequencer → Sequencer) : (d.modSeq f).vxl = d.vxl := rfl
@[simp] theorem Device.modSeq_pwr (d : Device) (f : Sequencer → Sequencer) : (d.modSeq f).pwr = d.pwr := rfl
@[simp] theorem Device.modSeq_hlt (d : Device) (f : Sequencer → Sequencer) : (d.modSeq f).hlt = d.hlt := rfl
@[simp] theorem Device.modSeq_sec (d : Device) (f : Sequencer → Sequencer) : (d.modSeq f).sec = d.sec := rfl
@[simp] theorem Device.modSeq_log (d : Device) (f : Sequencer → Sequencer) : (d.modSeq f).log = d.log := rfl
@[simp] theorem Device.modSeq_hubEvents (d : Device) (f : Sequencer → Sequencer) : (d.modSeq f).hubEvents = d.hubEvents := rfl
@[simp] theorem Device.modSeq_clkPilots (d : Device) (f : Sequencer → Sequencer) : (d.modSeq f).clkPilots = d.clkPilots := rfl
@[simp] theorem Device.modSeq_seq (d : Device) (f : Sequencer → Sequencer) : (d.modSeq f).seq = f d.seq := rfl

/-! ### modPwrRegion -/

@[simp] theorem Device.modPwrRegion_now (d : Device) (r : Nat) (f : PwrRegion → PwrRegion) : (d.modPwrRegion r f).now = d.now := rfl
@[simp] theorem Device.modPwrRegion_free (d : Device) (r : Nat) (f : PwrRegion → PwrRegion) : (d.modPwrRegion r f).free = d.free := rfl
@[simp] theorem Device.modPwrRegion_host (d : Device) (r : Nat) (f : PwrRegion → PwrRegion) : (d.modPwrRegion r f).host = d.host := rfl
@[simp] theorem Device.modPwrRegion_ring (d : Device) (r : Nat) (f : PwrRegion → PwrRegion) : (d.modPwrRegion r f).ring = d.ring := rfl
@[simp] theorem Device.modPwrRegion_ringScrub (d : Device) (r : Nat) (f : PwrRegion → PwrRegion) : (d.modPwrRegion r f).ringScrub = d.ringScrub := rfl
@[simp] theorem Device.modPwrRegion_ringBack (d : Device) (r : Nat) (f : PwrRegion → PwrRegion) : (d.modPwrRegion r f).ringBack = d.ringBack := rfl
@[simp] theorem Device.modPwrRegion_hbm (d : Device) (r : Nat) (f : PwrRegion → PwrRegion) : (d.modPwrRegion r f).hbm = d.hbm := rfl
@[simp] theorem Device.modPwrRegion_comb (d : Device) (r : Nat) (f : PwrRegion → PwrRegion) : (d.modPwrRegion r f).comb = d.comb := rfl
@[simp] theorem Device.modPwrRegion_tick (d : Device) (r : Nat) (f : PwrRegion → PwrRegion) : (d.modPwrRegion r f).tick = d.tick := rfl
@[simp] theorem Device.modPwrRegion_pilots (d : Device) (r : Nat) (f : PwrRegion → PwrRegion) : (d.modPwrRegion r f).pilots = d.pilots := rfl
@[simp] theorem Device.modPwrRegion_switches (d : Device) (r : Nat) (f : PwrRegion → PwrRegion) : (d.modPwrRegion r f).switches = d.switches := rfl
@[simp] theorem Device.modPwrRegion_mus (d : Device) (r : Nat) (f : PwrRegion → PwrRegion) : (d.modPwrRegion r f).mus = d.mus := rfl
@[simp] theorem Device.modPwrRegion_sfus (d : Device) (r : Nat) (f : PwrRegion → PwrRegion) : (d.modPwrRegion r f).sfus = d.sfus := rfl
@[simp] theorem Device.modPwrRegion_sus (d : Device) (r : Nat) (f : PwrRegion → PwrRegion) : (d.modPwrRegion r f).sus = d.sus := rfl
@[simp] theorem Device.modPwrRegion_ious (d : Device) (r : Nat) (f : PwrRegion → PwrRegion) : (d.modPwrRegion r f).ious = d.ious := rfl
@[simp] theorem Device.modPwrRegion_crossings (d : Device) (r : Nat) (f : PwrRegion → PwrRegion) : (d.modPwrRegion r f).crossings = d.crossings := rfl
@[simp] theorem Device.modPwrRegion_relock (d : Device) (r : Nat) (f : PwrRegion → PwrRegion) : (d.modPwrRegion r f).relock = d.relock := rfl
@[simp] theorem Device.modPwrRegion_homes (d : Device) (r : Nat) (f : PwrRegion → PwrRegion) : (d.modPwrRegion r f).homes = d.homes := rfl
@[simp] theorem Device.modPwrRegion_hbmStacks (d : Device) (r : Nat) (f : PwrRegion → PwrRegion) : (d.modPwrRegion r f).hbmStacks = d.hbmStacks := rfl
@[simp] theorem Device.modPwrRegion_vxl (d : Device) (r : Nat) (f : PwrRegion → PwrRegion) : (d.modPwrRegion r f).vxl = d.vxl := rfl
@[simp] theorem Device.modPwrRegion_hlt (d : Device) (r : Nat) (f : PwrRegion → PwrRegion) : (d.modPwrRegion r f).hlt = d.hlt := rfl
@[simp] theorem Device.modPwrRegion_sec (d : Device) (r : Nat) (f : PwrRegion → PwrRegion) : (d.modPwrRegion r f).sec = d.sec := rfl
@[simp] theorem Device.modPwrRegion_log (d : Device) (r : Nat) (f : PwrRegion → PwrRegion) : (d.modPwrRegion r f).log = d.log := rfl
@[simp] theorem Device.modPwrRegion_seq (d : Device) (r : Nat) (f : PwrRegion → PwrRegion) : (d.modPwrRegion r f).seq = d.seq := rfl
@[simp] theorem Device.modPwrRegion_hubEvents (d : Device) (r : Nat) (f : PwrRegion → PwrRegion) : (d.modPwrRegion r f).hubEvents = d.hubEvents := rfl
@[simp] theorem Device.modPwrRegion_clkPilots (d : Device) (r : Nat) (f : PwrRegion → PwrRegion) : (d.modPwrRegion r f).clkPilots = d.clkPilots := rfl
@[simp] theorem Device.modPwrRegion_pwrRegion (d : Device) (r : Nat) (f : PwrRegion → PwrRegion) : (d.modPwrRegion r f).pwrRegion r = f (d.pwrRegion r) := by
  simp [Device.modPwrRegion, Device.pwrRegion, Device.modPwr]
theorem Device.modPwrRegion_pwrRegion_ne (d : Device) (r : Nat) (f : PwrRegion → PwrRegion) {q : Nat} (h : q ≠ r) : (d.modPwrRegion r f).pwrRegion q = d.pwrRegion q :=
  Tab.getD_upd_ne _ _ _ _ h

/-! ### modPort -/

@[simp] theorem Device.modPort_now (d : Device) (r : Nat) (f : VxlPort → VxlPort) : (d.modPort r f).now = d.now := rfl
@[simp] theorem Device.modPort_free (d : Device) (r : Nat) (f : VxlPort → VxlPort) : (d.modPort r f).free = d.free := rfl
@[simp] theorem Device.modPort_host (d : Device) (r : Nat) (f : VxlPort → VxlPort) : (d.modPort r f).host = d.host := rfl
@[simp] theorem Device.modPort_ring (d : Device) (r : Nat) (f : VxlPort → VxlPort) : (d.modPort r f).ring = d.ring := rfl
@[simp] theorem Device.modPort_ringScrub (d : Device) (r : Nat) (f : VxlPort → VxlPort) : (d.modPort r f).ringScrub = d.ringScrub := rfl
@[simp] theorem Device.modPort_ringBack (d : Device) (r : Nat) (f : VxlPort → VxlPort) : (d.modPort r f).ringBack = d.ringBack := rfl
@[simp] theorem Device.modPort_hbm (d : Device) (r : Nat) (f : VxlPort → VxlPort) : (d.modPort r f).hbm = d.hbm := rfl
@[simp] theorem Device.modPort_comb (d : Device) (r : Nat) (f : VxlPort → VxlPort) : (d.modPort r f).comb = d.comb := rfl
@[simp] theorem Device.modPort_tick (d : Device) (r : Nat) (f : VxlPort → VxlPort) : (d.modPort r f).tick = d.tick := rfl
@[simp] theorem Device.modPort_pilots (d : Device) (r : Nat) (f : VxlPort → VxlPort) : (d.modPort r f).pilots = d.pilots := rfl
@[simp] theorem Device.modPort_switches (d : Device) (r : Nat) (f : VxlPort → VxlPort) : (d.modPort r f).switches = d.switches := rfl
@[simp] theorem Device.modPort_mus (d : Device) (r : Nat) (f : VxlPort → VxlPort) : (d.modPort r f).mus = d.mus := rfl
@[simp] theorem Device.modPort_sfus (d : Device) (r : Nat) (f : VxlPort → VxlPort) : (d.modPort r f).sfus = d.sfus := rfl
@[simp] theorem Device.modPort_sus (d : Device) (r : Nat) (f : VxlPort → VxlPort) : (d.modPort r f).sus = d.sus := rfl
@[simp] theorem Device.modPort_ious (d : Device) (r : Nat) (f : VxlPort → VxlPort) : (d.modPort r f).ious = d.ious := rfl
@[simp] theorem Device.modPort_crossings (d : Device) (r : Nat) (f : VxlPort → VxlPort) : (d.modPort r f).crossings = d.crossings := rfl
@[simp] theorem Device.modPort_relock (d : Device) (r : Nat) (f : VxlPort → VxlPort) : (d.modPort r f).relock = d.relock := rfl
@[simp] theorem Device.modPort_homes (d : Device) (r : Nat) (f : VxlPort → VxlPort) : (d.modPort r f).homes = d.homes := rfl
@[simp] theorem Device.modPort_hbmStacks (d : Device) (r : Nat) (f : VxlPort → VxlPort) : (d.modPort r f).hbmStacks = d.hbmStacks := rfl
@[simp] theorem Device.modPort_pwr (d : Device) (r : Nat) (f : VxlPort → VxlPort) : (d.modPort r f).pwr = d.pwr := rfl
@[simp] theorem Device.modPort_hlt (d : Device) (r : Nat) (f : VxlPort → VxlPort) : (d.modPort r f).hlt = d.hlt := rfl
@[simp] theorem Device.modPort_sec (d : Device) (r : Nat) (f : VxlPort → VxlPort) : (d.modPort r f).sec = d.sec := rfl
@[simp] theorem Device.modPort_log (d : Device) (r : Nat) (f : VxlPort → VxlPort) : (d.modPort r f).log = d.log := rfl
@[simp] theorem Device.modPort_seq (d : Device) (r : Nat) (f : VxlPort → VxlPort) : (d.modPort r f).seq = d.seq := rfl
@[simp] theorem Device.modPort_hubEvents (d : Device) (r : Nat) (f : VxlPort → VxlPort) : (d.modPort r f).hubEvents = d.hubEvents := rfl
@[simp] theorem Device.modPort_clkPilots (d : Device) (r : Nat) (f : VxlPort → VxlPort) : (d.modPort r f).clkPilots = d.clkPilots := rfl
@[simp] theorem Device.modPort_port (d : Device) (r : Nat) (f : VxlPort → VxlPort) : (d.modPort r f).port r = f (d.port r) := by
  simp [Device.modPort, Device.port, Device.modVxl]
theorem Device.modPort_port_ne (d : Device) (r : Nat) (f : VxlPort → VxlPort) {q : Nat} (h : q ≠ r) : (d.modPort r f).port q = d.port q :=
  Tab.getD_upd_ne _ _ _ _ h

/-! ### modCmdRing -/

@[simp] theorem Device.modCmdRing_now (d : Device) (r : Nat) (f : CmdRing → CmdRing) : (d.modCmdRing r f).now = d.now := rfl
@[simp] theorem Device.modCmdRing_free (d : Device) (r : Nat) (f : CmdRing → CmdRing) : (d.modCmdRing r f).free = d.free := rfl
@[simp] theorem Device.modCmdRing_ring (d : Device) (r : Nat) (f : CmdRing → CmdRing) : (d.modCmdRing r f).ring = d.ring := rfl
@[simp] theorem Device.modCmdRing_ringScrub (d : Device) (r : Nat) (f : CmdRing → CmdRing) : (d.modCmdRing r f).ringScrub = d.ringScrub := rfl
@[simp] theorem Device.modCmdRing_ringBack (d : Device) (r : Nat) (f : CmdRing → CmdRing) : (d.modCmdRing r f).ringBack = d.ringBack := rfl
@[simp] theorem Device.modCmdRing_hbm (d : Device) (r : Nat) (f : CmdRing → CmdRing) : (d.modCmdRing r f).hbm = d.hbm := rfl
@[simp] theorem Device.modCmdRing_comb (d : Device) (r : Nat) (f : CmdRing → CmdRing) : (d.modCmdRing r f).comb = d.comb := rfl
@[simp] theorem Device.modCmdRing_tick (d : Device) (r : Nat) (f : CmdRing → CmdRing) : (d.modCmdRing r f).tick = d.tick := rfl
@[simp] theorem Device.modCmdRing_pilots (d : Device) (r : Nat) (f : CmdRing → CmdRing) : (d.modCmdRing r f).pilots = d.pilots := rfl
@[simp] theorem Device.modCmdRing_switches (d : Device) (r : Nat) (f : CmdRing → CmdRing) : (d.modCmdRing r f).switches = d.switches := rfl
@[simp] theorem Device.modCmdRing_mus (d : Device) (r : Nat) (f : CmdRing → CmdRing) : (d.modCmdRing r f).mus = d.mus := rfl
@[simp] theorem Device.modCmdRing_sfus (d : Device) (r : Nat) (f : CmdRing → CmdRing) : (d.modCmdRing r f).sfus = d.sfus := rfl
@[simp] theorem Device.modCmdRing_sus (d : Device) (r : Nat) (f : CmdRing → CmdRing) : (d.modCmdRing r f).sus = d.sus := rfl
@[simp] theorem Device.modCmdRing_ious (d : Device) (r : Nat) (f : CmdRing → CmdRing) : (d.modCmdRing r f).ious = d.ious := rfl
@[simp] theorem Device.modCmdRing_crossings (d : Device) (r : Nat) (f : CmdRing → CmdRing) : (d.modCmdRing r f).crossings = d.crossings := rfl
@[simp] theorem Device.modCmdRing_relock (d : Device) (r : Nat) (f : CmdRing → CmdRing) : (d.modCmdRing r f).relock = d.relock := rfl
@[simp] theorem Device.modCmdRing_homes (d : Device) (r : Nat) (f : CmdRing → CmdRing) : (d.modCmdRing r f).homes = d.homes := rfl
@[simp] theorem Device.modCmdRing_hbmStacks (d : Device) (r : Nat) (f : CmdRing → CmdRing) : (d.modCmdRing r f).hbmStacks = d.hbmStacks := rfl
@[simp] theorem Device.modCmdRing_vxl (d : Device) (r : Nat) (f : CmdRing → CmdRing) : (d.modCmdRing r f).vxl = d.vxl := rfl
@[simp] theorem Device.modCmdRing_pwr (d : Device) (r : Nat) (f : CmdRing → CmdRing) : (d.modCmdRing r f).pwr = d.pwr := rfl
@[simp] theorem Device.modCmdRing_hlt (d : Device) (r : Nat) (f : CmdRing → CmdRing) : (d.modCmdRing r f).hlt = d.hlt := rfl
@[simp] theorem Device.modCmdRing_sec (d : Device) (r : Nat) (f : CmdRing → CmdRing) : (d.modCmdRing r f).sec = d.sec := rfl
@[simp] theorem Device.modCmdRing_log (d : Device) (r : Nat) (f : CmdRing → CmdRing) : (d.modCmdRing r f).log = d.log := rfl
@[simp] theorem Device.modCmdRing_seq (d : Device) (r : Nat) (f : CmdRing → CmdRing) : (d.modCmdRing r f).seq = d.seq := rfl
@[simp] theorem Device.modCmdRing_hubEvents (d : Device) (r : Nat) (f : CmdRing → CmdRing) : (d.modCmdRing r f).hubEvents = d.hubEvents := rfl
@[simp] theorem Device.modCmdRing_clkPilots (d : Device) (r : Nat) (f : CmdRing → CmdRing) : (d.modCmdRing r f).clkPilots = d.clkPilots := rfl
@[simp] theorem Device.modCmdRing_cmdRing (d : Device) (r : Nat) (f : CmdRing → CmdRing) : (d.modCmdRing r f).cmdRing r = f (d.cmdRing r) := by
  simp [Device.modCmdRing, Device.cmdRing, Device.modHost]
theorem Device.modCmdRing_cmdRing_ne (d : Device) (r : Nat) (f : CmdRing → CmdRing) {q : Nat} (h : q ≠ r) : (d.modCmdRing r f).cmdRing q = d.cmdRing q :=
  Tab.getD_upd_ne _ _ _ _ h

/-! ### modCplRing -/

@[simp] theorem Device.modCplRing_now (d : Device) (r : Nat) (f : CplRing → CplRing) : (d.modCplRing r f).now = d.now := rfl
@[simp] theorem Device.modCplRing_free (d : Device) (r : Nat) (f : CplRing → CplRing) : (d.modCplRing r f).free = d.free := rfl
@[simp] theorem Device.modCplRing_ring (d : Device) (r : Nat) (f : CplRing → CplRing) : (d.modCplRing r f).ring = d.ring := rfl
@[simp] theorem Device.modCplRing_ringScrub (d : Device) (r : Nat) (f : CplRing → CplRing) : (d.modCplRing r f).ringScrub = d.ringScrub := rfl
@[simp] theorem Device.modCplRing_ringBack (d : Device) (r : Nat) (f : CplRing → CplRing) : (d.modCplRing r f).ringBack = d.ringBack := rfl
@[simp] theorem Device.modCplRing_hbm (d : Device) (r : Nat) (f : CplRing → CplRing) : (d.modCplRing r f).hbm = d.hbm := rfl
@[simp] theorem Device.modCplRing_comb (d : Device) (r : Nat) (f : CplRing → CplRing) : (d.modCplRing r f).comb = d.comb := rfl
@[simp] theorem Device.modCplRing_tick (d : Device) (r : Nat) (f : CplRing → CplRing) : (d.modCplRing r f).tick = d.tick := rfl
@[simp] theorem Device.modCplRing_pilots (d : Device) (r : Nat) (f : CplRing → CplRing) : (d.modCplRing r f).pilots = d.pilots := rfl
@[simp] theorem Device.modCplRing_switches (d : Device) (r : Nat) (f : CplRing → CplRing) : (d.modCplRing r f).switches = d.switches := rfl
@[simp] theorem Device.modCplRing_mus (d : Device) (r : Nat) (f : CplRing → CplRing) : (d.modCplRing r f).mus = d.mus := rfl
@[simp] theorem Device.modCplRing_sfus (d : Device) (r : Nat) (f : CplRing → CplRing) : (d.modCplRing r f).sfus = d.sfus := rfl
@[simp] theorem Device.modCplRing_sus (d : Device) (r : Nat) (f : CplRing → CplRing) : (d.modCplRing r f).sus = d.sus := rfl
@[simp] theorem Device.modCplRing_ious (d : Device) (r : Nat) (f : CplRing → CplRing) : (d.modCplRing r f).ious = d.ious := rfl
@[simp] theorem Device.modCplRing_crossings (d : Device) (r : Nat) (f : CplRing → CplRing) : (d.modCplRing r f).crossings = d.crossings := rfl
@[simp] theorem Device.modCplRing_relock (d : Device) (r : Nat) (f : CplRing → CplRing) : (d.modCplRing r f).relock = d.relock := rfl
@[simp] theorem Device.modCplRing_homes (d : Device) (r : Nat) (f : CplRing → CplRing) : (d.modCplRing r f).homes = d.homes := rfl
@[simp] theorem Device.modCplRing_hbmStacks (d : Device) (r : Nat) (f : CplRing → CplRing) : (d.modCplRing r f).hbmStacks = d.hbmStacks := rfl
@[simp] theorem Device.modCplRing_vxl (d : Device) (r : Nat) (f : CplRing → CplRing) : (d.modCplRing r f).vxl = d.vxl := rfl
@[simp] theorem Device.modCplRing_pwr (d : Device) (r : Nat) (f : CplRing → CplRing) : (d.modCplRing r f).pwr = d.pwr := rfl
@[simp] theorem Device.modCplRing_hlt (d : Device) (r : Nat) (f : CplRing → CplRing) : (d.modCplRing r f).hlt = d.hlt := rfl
@[simp] theorem Device.modCplRing_sec (d : Device) (r : Nat) (f : CplRing → CplRing) : (d.modCplRing r f).sec = d.sec := rfl
@[simp] theorem Device.modCplRing_log (d : Device) (r : Nat) (f : CplRing → CplRing) : (d.modCplRing r f).log = d.log := rfl
@[simp] theorem Device.modCplRing_seq (d : Device) (r : Nat) (f : CplRing → CplRing) : (d.modCplRing r f).seq = d.seq := rfl
@[simp] theorem Device.modCplRing_hubEvents (d : Device) (r : Nat) (f : CplRing → CplRing) : (d.modCplRing r f).hubEvents = d.hubEvents := rfl
@[simp] theorem Device.modCplRing_clkPilots (d : Device) (r : Nat) (f : CplRing → CplRing) : (d.modCplRing r f).clkPilots = d.clkPilots := rfl
@[simp] theorem Device.modCplRing_cplRing (d : Device) (r : Nat) (f : CplRing → CplRing) : (d.modCplRing r f).cplRing r = f (d.cplRing r) := by
  simp [Device.modCplRing, Device.cplRing, Device.modHost]
theorem Device.modCplRing_cplRing_ne (d : Device) (r : Nat) (f : CplRing → CplRing) {q : Nat} (h : q ≠ r) : (d.modCplRing r f).cplRing q = d.cplRing q :=
  Tab.getD_upd_ne _ _ _ _ h

/-! ### modCmd -/

@[simp] theorem Device.modCmd_now (d : Device) (id : CmdId) (f : Cmd → Cmd) : (d.modCmd id f).now = d.now := rfl
@[simp] theorem Device.modCmd_free (d : Device) (id : CmdId) (f : Cmd → Cmd) : (d.modCmd id f).free = d.free := rfl
@[simp] theorem Device.modCmd_ring (d : Device) (id : CmdId) (f : Cmd → Cmd) : (d.modCmd id f).ring = d.ring := rfl
@[simp] theorem Device.modCmd_ringScrub (d : Device) (id : CmdId) (f : Cmd → Cmd) : (d.modCmd id f).ringScrub = d.ringScrub := rfl
@[simp] theorem Device.modCmd_ringBack (d : Device) (id : CmdId) (f : Cmd → Cmd) : (d.modCmd id f).ringBack = d.ringBack := rfl
@[simp] theorem Device.modCmd_hbm (d : Device) (id : CmdId) (f : Cmd → Cmd) : (d.modCmd id f).hbm = d.hbm := rfl
@[simp] theorem Device.modCmd_comb (d : Device) (id : CmdId) (f : Cmd → Cmd) : (d.modCmd id f).comb = d.comb := rfl
@[simp] theorem Device.modCmd_tick (d : Device) (id : CmdId) (f : Cmd → Cmd) : (d.modCmd id f).tick = d.tick := rfl
@[simp] theorem Device.modCmd_pilots (d : Device) (id : CmdId) (f : Cmd → Cmd) : (d.modCmd id f).pilots = d.pilots := rfl
@[simp] theorem Device.modCmd_switches (d : Device) (id : CmdId) (f : Cmd → Cmd) : (d.modCmd id f).switches = d.switches := rfl
@[simp] theorem Device.modCmd_mus (d : Device) (id : CmdId) (f : Cmd → Cmd) : (d.modCmd id f).mus = d.mus := rfl
@[simp] theorem Device.modCmd_sfus (d : Device) (id : CmdId) (f : Cmd → Cmd) : (d.modCmd id f).sfus = d.sfus := rfl
@[simp] theorem Device.modCmd_sus (d : Device) (id : CmdId) (f : Cmd → Cmd) : (d.modCmd id f).sus = d.sus := rfl
@[simp] theorem Device.modCmd_ious (d : Device) (id : CmdId) (f : Cmd → Cmd) : (d.modCmd id f).ious = d.ious := rfl
@[simp] theorem Device.modCmd_crossings (d : Device) (id : CmdId) (f : Cmd → Cmd) : (d.modCmd id f).crossings = d.crossings := rfl
@[simp] theorem Device.modCmd_relock (d : Device) (id : CmdId) (f : Cmd → Cmd) : (d.modCmd id f).relock = d.relock := rfl
@[simp] theorem Device.modCmd_homes (d : Device) (id : CmdId) (f : Cmd → Cmd) : (d.modCmd id f).homes = d.homes := rfl
@[simp] theorem Device.modCmd_hbmStacks (d : Device) (id : CmdId) (f : Cmd → Cmd) : (d.modCmd id f).hbmStacks = d.hbmStacks := rfl
@[simp] theorem Device.modCmd_vxl (d : Device) (id : CmdId) (f : Cmd → Cmd) : (d.modCmd id f).vxl = d.vxl := rfl
@[simp] theorem Device.modCmd_pwr (d : Device) (id : CmdId) (f : Cmd → Cmd) : (d.modCmd id f).pwr = d.pwr := rfl
@[simp] theorem Device.modCmd_hlt (d : Device) (id : CmdId) (f : Cmd → Cmd) : (d.modCmd id f).hlt = d.hlt := rfl
@[simp] theorem Device.modCmd_sec (d : Device) (id : CmdId) (f : Cmd → Cmd) : (d.modCmd id f).sec = d.sec := rfl
@[simp] theorem Device.modCmd_log (d : Device) (id : CmdId) (f : Cmd → Cmd) : (d.modCmd id f).log = d.log := rfl
@[simp] theorem Device.modCmd_seq (d : Device) (id : CmdId) (f : Cmd → Cmd) : (d.modCmd id f).seq = d.seq := rfl
@[simp] theorem Device.modCmd_hubEvents (d : Device) (id : CmdId) (f : Cmd → Cmd) : (d.modCmd id f).hubEvents = d.hubEvents := rfl
@[simp] theorem Device.modCmd_clkPilots (d : Device) (id : CmdId) (f : Cmd → Cmd) : (d.modCmd id f).clkPilots = d.clkPilots := rfl


end Sys2Proof.Machine
end

