-- ==== Sys2Proof/Laws/Lift.lean ====
section
/-! SUPPORT. What the shared frame of every meaning does: the lift of a device operation to a state, and the run of a host
command's row. -/

namespace Sys2Proof.Machine

theorem State.lift_up {s : State} {d : Device} (f : Device → Device) (h : s.runs d) :
    s.lift f = .next { s with dev := f d } := by
  obtain ⟨rfl, hu⟩ := h
  simp [State.lift, State.liftAny, hu]

theorem State.lift_down {s : State} (f : Device → Device) (h : s.dev.up = false) : s.lift f = .next s := by
  simp [State.lift, State.liftAny, h]

theorem State.liftIf_ok {s : State} {d : Device} {i : Instr} (f : Device → Device) (hw : i.wellFormed = true)
    (h : s.runs d) : s.liftIf i f = .next { s with dev := f d } := by
  simp [State.liftIf, hw, State.lift_up f h]

theorem State.liftIf_bad {s : State} {i : Instr} (f : Device → Device) (hw : i.wellFormed = false) :
    s.liftIf i f = .refused .illFormed := by simp [State.liftIf, hw]

/-- A command whose meaning lifts `f` answers the device that `f` gives. -/
theorem State.answers_lift {s : State} {d d' : Device} {c : Instr} {f : Device → Device} (h : s.runs d)
    (he : exec c s = s.lift f) (hd : f d = d') : s.answers c d' := by
  rw [State.answers, he, State.lift_up f h, hd]

/-- A host command's row answers what its body makes of the device in which the command has acted. -/
theorem State.answers_row {s : State} {d d' : Device} {c : Instr} {id : CmdId} {op : Nat} {ps : List Byte}
    {body : List Byte → Device → Device} (h : s.runs d) (hr : d.ready id op ps)
    (he : exec c s = s.lift (fun d => d.runCmd op id body)) (hd : body ps (d.acted id) = d') : s.answers c d' := by
  obtain ⟨k, hf, hs, hn, hp, ho, rfl⟩ := hr
  refine State.answers_lift h he ?_
  rw [← hd]
  simp [Device.runCmd, hf, hs, hn, hp, ho, Device.acted]

/-- A command of a form that the protocols allow. -/
theorem State.answers_liftIf {s : State} {d d' : Device} {c i : Instr} {f : Device → Device} (h : s.runs d)
    (he : exec c s = s.liftIf i f) (hw : i.wellFormed = true) (hd : f d = d') : s.answers c d' := by
  rw [State.answers, he, State.liftIf_ok f hw h, hd]

/-- A command of the pins acts whatever the hub's state. -/
theorem State.answers_any {s : State} {d' : Device} {c : Instr} {f : Device → Device} (he : exec c s = s.liftAny f)
    (hd : f s.dev = d') : s.answers c d' := by
  rw [State.answers, he, State.liftAny, hd]

/-- The row of a command that is ready acts once, on the device that says so. -/
theorem Device.runCmd_ready {d : Device} {id : CmdId} {op : Nat} {ps : List Byte} (body : List Byte → Device → Device)
    (h : d.ready id op ps) : d.runCmd op id body = body ps (d.acted id) := by
  obtain ⟨c, hf, hs, hr, hp, ho, rfl⟩ := h
  simp [Device.runCmd, hf, hs, hr, hp, ho, Device.acted]

/-- The row of a command that has not been taken does nothing. -/
theorem Device.runCmd_none {d : Device} {id : CmdId} {op : Nat} (body : List Byte → Device → Device)
    (h : d.findCmd id = none) : d.runCmd op id body = d := by simp [Device.runCmd, h]

theorem Device.findCmd_id {d : Device} {id : CmdId} {c : Cmd} (h : d.findCmd id = some c) : c.id = id := by
  simpa using List.find?_some h

/-- A change of a command that keeps its id. -/
theorem Device.findCmd_modCmd {d : Device} {id : CmdId} {c : Cmd} {f : Cmd → Cmd} (h : d.findCmd id = some c)
    (hf : (f c).id = id) : (d.modCmd id f).findCmd id = some (f c) := by
  simp only [Device.findCmd, Device.modCmd, Device.modHost] at h ⊢
  generalize d.host.cmds = l at h
  induction l with
  | nil => simp at h
  | cons a l ih =>
    by_cases ha : (a.id == id) = true
    · simp only [List.find?_cons, ha, Option.some.injEq] at h
      subst h
      have : ((f a).id == id) = true := by simpa using hf
      simp only [List.map_cons, ha, if_true, List.find?_cons, this]
    · have hb : (a.id == id) = false := by simpa using ha
      simp only [List.find?_cons, hb] at h
      simp only [List.map_cons, hb, List.find?_cons, Bool.false_eq_true, if_false]
      exact ih h

/-- A command that has not completed posts its completion packet. -/
theorem Device.complete_open {d : Device} {id : CmdId} {c : Cmd} (status : Nat) (payload : List Byte) (detail : Word)
    (h : d.findCmd id = some c) (hp : c.posted = false) :
    d.complete id status payload detail =
      (d.modCmd id fun c => { c with posted := true }).queuePacket (d.cmdRing id.ring.val).cpl
        (c.packet status detail payload) := by simp [Device.complete, h, hp]

/-- A command that has completed does not complete again. -/
theorem Device.complete_posted {d : Device} {id : CmdId} {c : Cmd} (status : Nat) (payload : List Byte) (detail : Word)
    (h : d.findCmd id = some c) (hp : c.posted = true) : d.complete id status payload detail = d := by
  simp [Device.complete, h, hp]

/-- A pilot that may issue carries out the instruction at its PC. -/
theorem Device.pilotIssue_at {d : Device} {r opc w : Nat} (act : Nat → Device → Device) (h : d.pilotAt r opc w) :
    d.pilotIssue r opc act = act w d := by
  obtain ⟨hr, hm, rfl, ho⟩ := h
  simp [Device.pilotIssue, hr, hm, ho]

@[simp] theorem Device.acted_hbm (d : Device) (id : CmdId) : (d.acted id).hbm = d.hbm := rfl
@[simp] theorem Device.acted_ring (d : Device) (id : CmdId) : (d.acted id).ring = d.ring := rfl
@[simp] theorem Device.acted_log (d : Device) (id : CmdId) : (d.acted id).log = d.log := rfl
@[simp] theorem Device.acted_tick (d : Device) (id : CmdId) : (d.acted id).tick = d.tick := rfl
@[simp] theorem Device.acted_comb (d : Device) (id : CmdId) : (d.acted id).comb = d.comb := rfl
@[simp] theorem Device.acted_vxl (d : Device) (id : CmdId) : (d.acted id).vxl = d.vxl := rfl
@[simp] theorem Device.acted_pwr (d : Device) (id : CmdId) : (d.acted id).pwr = d.pwr := rfl
@[simp] theorem Device.acted_hlt (d : Device) (id : CmdId) : (d.acted id).hlt = d.hlt := rfl
@[simp] theorem Device.acted_sec (d : Device) (id : CmdId) : (d.acted id).sec = d.sec := rfl
@[simp] theorem Device.acted_pilots (d : Device) (id : CmdId) : (d.acted id).pilots = d.pilots := rfl
@[simp] theorem Device.acted_homes (d : Device) (id : CmdId) : (d.acted id).homes = d.homes := rfl
@[simp] theorem Device.acted_seq (d : Device) (id : CmdId) : (d.acted id).seq = d.seq := rfl

/-! ### Host errors and pending bits: what a set and a clear do (R11, R12, R378, R383) -/

@[simp] theorem HostPort.fresh_err (h : HostPort) (now : Nat) : (h.fresh now).err = h.err := by
  unfold HostPort.fresh; split <;> rfl
@[simp] theorem HostPort.fresh_irqPending (h : HostPort) (now : Nat) : (h.fresh now).irqPending = h.irqPending := by
  unfold HostPort.fresh; split <;> rfl
@[simp] theorem HostPort.setErr_err (h : HostPort) (now : Nat) (bits : BitVec 4) : (h.setErr now bits).err = h.err ||| bits := by
  simp [HostPort.setErr]
@[simp] theorem Device.windowError_err (d : Device) : d.windowError.host.err = d.host.err ||| 1 := by
  simp [Device.windowError, Device.modHost]
@[simp] theorem Device.windowError_errWindow (d : Device) : d.windowError.host.errWindow = satInc d.host.errWindow := rfl
@[simp] theorem Device.doorbellError_err (d : Device) : d.doorbellError.host.err = d.host.err ||| 2 := by
  simp [Device.doorbellError, Device.modHost]
@[simp] theorem Device.doorbellError_errDoorbell (d : Device) :
    d.doorbellError.host.errDoorbell = satInc d.host.errDoorbell := rfl

/-- A bit that was set in an earlier clk goes with a write of 1. -/
theorem HostPort.clearErr_old {h : HostPort} {now : Nat} (v : BitVec 4) (hf : h.freshAt ≠ now) :
    (h.clearErr now v).err = h.err &&& ~~~v := by
  simp [HostPort.clearErr, HostPort.fresh, hf]
theorem HostPort.clearIrq_old {h : HostPort} {now : Nat} (v : BitVec 16) (hf : h.freshAt ≠ now) :
    (h.clearIrq now v).irqPending = h.irqPending &&& ~~~v := by
  simp [HostPort.clearIrq, HostPort.fresh, hf]

/-! ### A vector engine with no receive in progress (R186, R187) -/

theorem Device.recvPump_idle {d : Device} {u : Nat} (h : (d.eng u).recv = none) (n : Nat) : d.recvPump u n = d := by
  cases n <;> simp [Device.recvPump, h]

theorem Engine.hazard_idle {e : Engine} (h : e.recv = none) (prog : List Byte) (i : VIns) : e.hazard prog i = false := by
  simp [Engine.hazard, h]

end Sys2Proof.Machine
end

