-- ==== Sys2Proof/Laws/Link.lean ====
section
/-! SUPPORT. What the link layer does with a frame: a frame that a port takes changes that port only, and goes to this
device, onward, or both. -/

namespace Sys2Proof.Machine

theorem Tab.put_put {α : Type} (t : Tab α) (i : Nat) (a b : α) : (Tab.put t i a).put i b = Tab.put t i b := by
  induction t with
  | nil => simp [Tab.put]
  | cons p t ih =>
    obtain ⟨j, c⟩ := p
    by_cases h1 : i < j
    · simp [h1, Tab.put]
    · by_cases h2 : i = j
      · simp [h2, Tab.put]
      · simp [h1, h2, Tab.put, ih]

theorem Tab.upd_upd {α : Type} (t : Tab α) (i : Nat) (x : α) (f g : α → α) :
    (Tab.upd t i x f).upd i x g = Tab.upd t i x fun a => g (f a) := by simp [Tab.upd, Tab.put_put]

theorem Device.modPort_modPort (d : Device) (p : Nat) (f g : VxlPort → VxlPort) :
    (d.modPort p f).modPort p g = d.modPort p fun v => g (f v) := by
  simp [Device.modPort, Device.modVxl, Tab.upd_upd]

/-- What the FEC reports changes its port only, or nothing. -/
theorem Device.fecReport_cases (d : Device) (p corrected uncorrectable : Nat) :
    d.fecReport p corrected uncorrectable = d ∨ ∃ f, d.fecReport p corrected uncorrectable = d.modPort p f := by
  unfold Device.fecReport Device.portRetrain
  split
  · exact .inl rfl
  · dsimp only
    split
    · split
      · exact .inr ⟨_, rfl⟩
      · exact .inr ⟨_, Device.modPort_modPort ..⟩
    · exact .inr ⟨_, rfl⟩

/-- Taking the flits of a frame changes the port only. -/
theorem Device.flitsTaken_eq (d : Device) (p : Nat) (h : FrameHdr) (b : FrameBody) :
    ∃ f, d.flitsTaken p h b = d.modPort p f := by
  unfold Device.flitsTaken
  rcases d.fecReport_cases p h.corrected h.uncorrectable with e | ⟨f, e⟩
  · rw [e]; exact ⟨_, rfl⟩
  · rw [e]; exact ⟨_, Device.modPort_modPort ..⟩

/-- A port that takes a frame changes, and nothing else. -/
theorem Device.heard_eq (d : Device) (p : Nat) (h : FrameHdr) (b : FrameBody) :
    ∃ f, d.heard p h b = d.modPort p f := by
  obtain ⟨f, e⟩ := d.flitsTaken_eq p h b
  unfold Device.heard
  rw [e]
  split
  · exact ⟨f, rfl⟩
  · exact ⟨_, Device.modPort_modPort ..⟩

/-- A frame that passes the link layer is taken whole. -/
theorem Device.linkTake_hears {d : Device} {p : Nat} {h : FrameHdr} {b : FrameBody} (hh : d.hears p h b) :
    d.linkTake p h b = (some (d.heard p h b), d.heard p h b) := by
  obtain ⟨⟨h1, h2, h3, h4, h5⟩, h6, h7⟩ := hh
  simp [Device.linkTake, Device.heard, Device.flitsTaken, h1, h2, h3, h4, h5, h6, Nat.not_lt.2 h7]

/-- A frame for this device alone that passes the link layer is received. -/
theorem Device.frameIn_here {d : Device} {p : Nat} {h : FrameHdr} {b : FrameBody} (hh : d.hears p h b)
    (hd : d.forHere h.dest) :
    d.frameIn p h b =
      ((d.heard p h b).receive p
        { flit := 0, time := d.now, hops := h.hops, dest := h.dest, src := h.src, lseq := 0, body := b }).pump := by
  obtain ⟨f, e⟩ := d.heard_eq p h b
  unfold Device.frameIn
  rw [Device.linkTake_hears hh]
  simp only [e, Device.modPort_now]
  rcases hd with ho | ⟨w, hw, h62, hm⟩
  · rw [if_pos (show (d.modPort p f).vxl.own h.dest = true from ho)]
  · split
    · rfl
    · have hl : (d.modPort p f).vxl.lookup h.dest.toNat = some w := hw
      have ha : (d.modPort p f).localAlias h.dest = true := by unfold Device.localAlias; rw [hl]; exact h62
      simp [hl, ha, hm]

end Sys2Proof.Machine
end

