-- ==== Sys2Proof/Tests/Slice0.lean ====
section
/-! SUPPORT. The model's own tests: ill-formed commands that WellFormed refuses, small behaviours with results worked out
from the spec, and for each statement a witness of its hypotheses, clause by clause. -/

namespace Sys2Proof.Tests

open Sys2Proof Sys2Proof.Machine

set_option Elab.async false

/-! ### WellFormed -/

theorem test_hwr_misaligned : Instr.wellFormed (.hwr 2 [0, 0, 0, 0]) = false := by decide
theorem test_hwr_crosses : Instr.wellFormed (.hwr 252 [0, 0, 0, 0, 0, 0, 0, 0]) = false := by decide
theorem test_hrd_short : Instr.wellFormed (.hrd 0 0 0) = false := by decide
theorem test_hrd_ok : Instr.wellFormed (.hrd 0x800000 4 0) = true := by decide
theorem test_register_outside : Instr.wellFormed (.registerWrite 0x1000 0) = false := by decide
theorem test_drd_long : Instr.wellFormed (.drdCpl 0 false (List.replicate 257 0)) = false := by decide +kernel
theorem test_train_rate_zero : Instr.wellFormed (.ucieTrain 0 true 0 0) = false := by decide
theorem test_empty_write : Instr.wellFormed
    (.writeTxn 0 ⟨0, 0, 0, 0, true, none, 0, 0, false⟩ ⟨0, 0, 0, 0, 0, []⟩) = false := by decide
theorem test_train_no_partner : Instr.wellFormed (.ucieTrain 0 true 1 0) = false := by decide
theorem test_part_beyond_end : Instr.wellFormed
    (.writeTxn 0 ⟨0, 0, 0, 0, true, some (1, 1), 0, 0, false⟩ ⟨0, 0, 1, 0, 0, [0]⟩) = false := by decide

/-! ### Devices for the witnesses -/

/-- Some state runs on a device with the property. -/
def Meets (P : Device → Prop) : Prop := ∃ (s : State) (d : Device), s.runs d ∧ P d

theorem meets {P : Device → Prop} (d : Device) (hu : d.up = true) (h : P d) : Meets P := ⟨⟨[], d⟩, d, ⟨rfl, hu⟩, h⟩

/-- The command of the witnesses: ring 0, SEQ 0. -/
def wid : CmdId := ⟨0, 0⟩

/-- A device whose one host command has started. -/
def withCmd (d : Device) (op : Nat) (ps : List Byte) : Device :=
  d.modHost fun h =>
    { h with cmds := [{ id := wid, opcode := BitVec.ofNat 16 op, flags := 0, tag := 0, params := ps, started := true,
                        ran := false, posted := false, replay := 0, moved := 0, poisoned := 0, front := [] }] }

/-- Some state runs on a device whose command of opcode `op` has started with parameters of which `P` holds. -/
def CmdMeets (op : Nat) (P : Device → List Byte → Prop) : Prop :=
  ∃ (s : State) (d : Device) (ps : List Byte), s.runs d ∧ d.ready wid op ps ∧ P d ps

theorem cmdMeets {op : Nat} {P : Device → List Byte → Prop} (d : Device) (ps : List Byte) (hu : d.up = true)
    (h : P (withCmd d op ps) ps) : CmdMeets op P :=
  ⟨⟨[], withCmd d op ps⟩, withCmd d op ps, ps, ⟨rfl, hu⟩, ⟨_, rfl, rfl, rfl, rfl, rfl, rfl⟩, h⟩

def dev : Device := Device.reset
def zeros (n : Nat) : List Byte := List.replicate n 0

/-- A command in progress that has not completed. -/
def someCmd (op : Nat) (ps : List Byte) (started : Bool) : Cmd :=
  { id := wid, opcode := BitVec.ofNat 16 op, flags := 0, tag := 0, params := ps, started := started, ran := started,
    posted := false, replay := 0, moved := 0, poisoned := 0, front := [] }

/-- A device with one active comb, number 0, in every region, and nothing in its units. -/
def job : Device :=
  { dev with
    comb := { Comb.reset with
      state := .active, active := some 0,
      set := some { entry := 0, split := 0, tmin := 0, shapeMax := [],
                    combs := [{ successor := 0, minfreq := 0, budget := 0, regions := List.range 8 }] } }
    pilots := (List.range 8).map fun r => (r, { Pilot.reset with state := 1 }) }

/-- A unit image: an empty switch section and the unit section. -/
def image (sec : List Byte) : List Byte :=
  let body := sec.drop 4
  leBytes 8 0 ++ leBytes 2 16 ++ leBytes 6 0 ++ leBytes 4 (body.length + 4) ++ body

/-- The active plane of a site. -/
def withImage (d : Device) (u : Nat) (img : List Byte) : Device :=
  { d with switches := d.switches.put u { Switch.reset with active := { comb := some 0, image := img, marks := [] } } }

/-- The pilot of region 0 stands at an instruction word. -/
def atWord (d : Device) (w : Nat) : Device :=
  d.modComb fun c => { c with store := [(0, { StoreSlot.reset with program := zeros 16 ++ leBytes 8 w })] }

/-- An MU section whose tile program is one instruction, whose first words are given. -/
def muSection (ws : List Nat) : List Byte :=
  leBytes 4 0 ++ leBytes 2 1 ++ zeros (0x90 - 6) ++ (ws.flatMap fun w => leBytes 8 w) ++ zeros (32 - 8 * ws.length)

/-- MU 1 of Q0 runs and stands at a tile instruction. -/
def atTile (ws : List Nat) : Device :=
  { withImage job 1 (image (muSection ws)) with mus := [(1, { Mu.reset with state := 1 })] }

/-- The SFU at site 145 runs and stands at a vector instruction of two words. -/
def atVec (w0 w1 : Nat) : Device :=
  { withImage job 145 (image (leBytes 4 0 ++ leBytes 4 8 ++ zeros (0x90 - 8) ++ leBytes 4 w0 ++ leBytes 4 w1)) with
    sfus := [(145, { Sfu.reset with state := 1 })] }

/-- The MU at site 1 runs a vector program of one instruction. -/
def atMuVec (w0 w1 : Nat) : Device :=
  { withImage job 1 (image (leBytes 4 0 ++ leBytes 4 0 ++ leBytes 4 8 ++ zeros (0x90 - 12) ++ leBytes 4 w0 ++ leBytes 4 w1))
    with mus := [(1, { Mu.reset with state := 1, engine := { Engine.reset with running := true } })] }

/-- A context of the SU at site 181, or of the IOU at site `u`. -/
def suWith (s : Su) (sec : List Byte) : Device := { withImage job 181 (image sec) with sus := [(181, s)] }
def iouWith (u : Nat) (s : Iou) : Device := { withImage job u (image (zeros 16)) with ious := [(u, s)] }


/-! ### The queue, the idle step, reset -/

/-- The hub held in reset. -/
def held : State := ⟨[], { dev with seq := { Sequencer.reset with resetLow := true } }⟩

theorem witness_IdleStepPassesTime : State.reset.pending = [] ∧ held.pending = [] ∧ held.dev.up = false := by
  decide +kernel
theorem witness_QueueIsFifo : ∃ t, step ⟨[.tickTimerStrike, .haltReport], dev⟩ = .next t := ⟨_, rfl⟩
theorem witness_EveryAdmittedCommandCompletes :
    Instr.wellFormed (.doorbell 15 0xFFFFFFFF) = true ∧ Instr.wellFormed (.registerWrite 2 0) = false := by decide
theorem witness_HubInResetTakesNoEffect :
    held.dev.up = false ∧ onPins .tickTimerStrike = false ∧ ∃ t, exec .tickTimerStrike held = .next t :=
  ⟨rfl, rfl, _, rfl⟩
theorem witness_StoresStayCanonical : State.reset.dev.storesOk ∧ State.reset.queueOk ∧ ∃ t, step State.reset = .next t :=
  ⟨by unfold Device.storesOk; decide +kernel, fun _ h => (nomatch h), _, rfl⟩

/-! ### The host window -/

theorem witness_HostWindowAccess :
    (Instr.wellFormed (.hwr 0xFFC (zeros 4)) = true ∧ Instr.wellFormed (.hwr 0x1000 (zeros 4)) = true ∧
      Instr.wellFormed (.hwr 0x7FFFFC (zeros 4)) = true ∧ Instr.wellFormed (.hwr 0x800FFC (zeros 4)) = true ∧
      Instr.wellFormed (.hwr 0x801000 (zeros 4)) = true ∧ Instr.wellFormed (.hwr 0x800000 (zeros 8)) = true) ∧
    Meets (fun d => Instr.wellFormed (.hrd 0x7FFFFC 4 0) = true ∧ ∀ i, i < 4 → d.ring.rowBad ((0x7FFFFC + i) / 64) = false) ∧
    Meets (fun d => Instr.wellFormed (.hrd 0 4 0) = true ∧ ∃ i, i < 4 ∧ d.ring.rowBad ((0 + i) / 64) = true) ∧
    (Instr.wellFormed (.hrd 0x800FFC 4 255) = true ∧ Instr.wellFormed (.hrd 0x801000 4 0) = true ∧
      Instr.wellFormed (.hrd 0x800000 8 0) = true) :=
  ⟨by decide, meets dev rfl (by decide +kernel),
   meets { dev with ring := { cells := [], marks := [(0, .poison)] } } rfl ⟨by decide +kernel, 0, by decide +kernel⟩, by decide⟩

/-- Ring 0 with changes. -/
def ring0 (f : CmdRing → CmdRing) : Device := dev.modCmdRing 0 f

theorem witness_RegisterWrites :
    Meets (fun d => ((255 : Word).toNat % 65536 < (d.cplRing 0).entries) ∧ (d.cplRing 0).entries ≤ (256 : Word).toNat % 65536) ∧
    Meets (fun d => (d.cmdRing 0).life ≠ .off ∧ (d.cmdRing 0).held = true ∧ (0x100FF : Word).getLsbD 16 = true ∧
      (0x100FF : Word).toNat % 65536 < (d.cmdRing 0).entries) ∧
    Meets (fun d => d.host.freshAt ≠ d.now) ∧
    (∀ off ∈ [0x000, 0x0FC, 0x104, 0x10C, 0x1FC, 0x200, 0x20C, 0x300, 0xFFC], off % 4 = 0 ∧ off < 0x1000 ∧
      off ∉ [0x014, 0x018, 0x01C] ∧
      (off < 0x100 ∨ 0x300 ≤ off ∨ (off < 0x200 ∧ off % 16 ∉ [0, 8]) ∨ (0x200 ≤ off ∧ off % 16 ≠ 4))) :=
  ⟨meets dev rfl (by decide +kernel), meets (ring0 fun r => { r with held := true }) rfl (by decide +kernel),
   meets { dev with now := 5 } rfl (by decide +kernel), by decide⟩

theorem witness_DoorbellStoresTail :
    Meets (fun d => (d.cmdRing 0).life = .on ∧ (255 : Word).toNat % 65536 < (d.cmdRing 0).entries) ∧
    Meets (fun d => (d.cmdRing 0).life = .on ∧ (d.cmdRing 0).entries ≤ (256 : Word).toNat % 65536 ∧
      (d.cmdRing 15).life ≠ .on) ∧
    Meets (fun d => (d.cmdRing 0).life = .on ∧ (0 : Word).toNat % 65536 < (d.cmdRing 0).entries ∧
      (0 : Word).toNat % 65536 = (d.cmdRing 0).tail.toNat) ∧
    Meets (fun d =>
      let r := d.cmdRing 0
      let h := Header.parse (d.ring.bytes (r.base + 64 * r.head.toNat) 64)
      r.life = .on ∧ r.head ≠ r.tail ∧ h.kind = 1 ∧ h.reservedZero = true ∧ h.flags / 4 % 4 = 0 ∧ h.flags < 128 ∧
        h.plen ≤ 4096 ∧ r.head.toNat + packetEntries h.plen ≤ r.entries ∧
        (r.tail.toNat + r.entries - r.head.toNat) % r.entries < packetEntries h.plen) :=
  ⟨meets dev rfl (by decide +kernel), meets dev rfl (by decide +kernel), meets dev rfl (by decide +kernel),
   meets { ring0 fun r => { r with tail := 1 } with
           ring := Mem.reset.write 0x1000 (leBytes 2 0x202 ++ [1, 0] ++ leBytes 4 0 ++ leBytes 2 1) } rfl (by decide +kernel)⟩

/-! ### Packets, starts and completions -/

/-- A STATUS packet of ring 0 at its entry 0, whose SEQ is `seq`; NEXT is `next`. -/
def packet (seq next : Nat) : Device :=
  let front := leBytes 2 0x102 ++ [1, 0] ++ leBytes 4 seq ++ zeros 52
  { ring0 fun r => { r with tail := 1, next := BitVec.ofNat 32 next } with
    ring := Mem.reset.write 0x1000 (front ++ leBytes 4 (crc32 (front ++ zeros 4))) }

/-- The packet at the head of ring 0. -/
def headHeader (d : Device) : Header := Header.parse (d.ring.bytes 0x1000 64)

def PacketMeets (seq next : Nat) (P : Device → Prop) : Prop :=
  ∃ (s : State) (d : Device) (h : Header), s.runs d ∧ d.packetAt 0 h [] ∧ h.seq = BitVec.ofNat 32 seq ∧
    (d.cmdRing 0).next = BitVec.ofNat 32 next ∧ d.findCmd ⟨0, h.seq⟩ = none ∧
    (∀ p ∈ d.host.cache, ¬(p.ring = BitVec.ofNat 8 0 ∧ p.seq = h.seq)) ∧ P d

theorem packetMeets (seq next : Nat) {P : Device → Prop} (hu : (packet seq next).up = true) (h : P (packet seq next))
    (hp : (packet seq next).packetAt 0 (headHeader (packet seq next)) [])
    (hs : (headHeader (packet seq next)).seq = BitVec.ofNat 32 seq) : PacketMeets seq next P :=
  ⟨⟨[], packet seq next⟩, _, headHeader (packet seq next), ⟨rfl, hu⟩, hp, hs, rfl, rfl, fun _ h => (nomatch h), h⟩

/-- A device whose host has taken one command, opcode `op`, and let it start or not. -/
def taken (op : Nat) (started posted : Bool) : Device :=
  dev.modHost fun h => { h with cmds := [{ someCmd op [] started with posted := posted }] }

/-- Its command has begun to run. -/
def begun (d : Device) : Device := d.modCmd wid fun c => { c with started := true }

theorem witness_PacketsBecomeCommands :
    PacketMeets 7 7 (fun _ => (7 : Word) = 7) ∧ PacketMeets 6 7 (fun _ => ((6 : Word) - 7).toInt < 0) ∧
    PacketMeets 8 7 (fun _ => 0 < ((8 : Word) - 7).toInt) ∧
    Meets (fun d => d.findCmd wid = some (someCmd 0x102 [] false) ∧ d.host.mayStart (someCmd 0x102 [] false) = true ∧
      d.pwr.allows 0x102 = true ∧ d.startCheck (someCmd 0x102 [] false) = none ∧
      (begun d).startRefused wid 0x102 [] = none) ∧
    Meets (fun d => let c := someCmd 0x801 (zeros 8) false
      d.findCmd wid = some c ∧ d.host.mayStart c = true ∧ d.pwr.allows 0x801 = true ∧ d.startCheck c = none ∧
      ((begun d).startRefused wid 0x801 (zeros 8)).isSome = true ∧
      (begun d).refusedFor 0x801 (zeros 8) = some Status.fwState) ∧
    Meets (fun d => d.findCmd wid = some (someCmd 0x201 [] false) ∧ d.host.mayStart (someCmd 0x201 [] false) = true ∧
      d.pwr.allows 0x201 = true ∧ d.startCheck (someCmd 0x201 [] false) = some Status.recoveryOnly) :=
  ⟨packetMeets 7 7 (by decide +kernel) rfl (by unfold Device.packetAt; decide +kernel) (by decide +kernel),
   packetMeets 6 7 (by decide +kernel) (by decide) (by unfold Device.packetAt; decide +kernel) (by decide +kernel),
   packetMeets 8 7 (by decide +kernel) (by decide) (by unfold Device.packetAt; decide +kernel) (by decide +kernel),
   meets (taken 0x102 false false) rfl (by decide +kernel),
   meets (dev.modHost fun h => { h with loader := 2, version := 3, cmds := [someCmd 0x801 (zeros 8) false] }) rfl
     (by decide +kernel),
   meets (taken 0x201 false false) rfl (by decide +kernel)⟩

theorem witness_CompletionWaitsInOrder :
    (taken 0x102 true false).findCmd wid = some (someCmd 0x102 [] true) ∧ (someCmd 0x102 [] true).posted = false := by
  decide +kernel

/-- A completion that asks for a NOTIFY. -/
def waitingPacket : Packet :=
  { opcode := 0x102, kind := 2, flags := 1, seq := 0, status := 0, ring := 0, tag := 0, detail := 0, payload := [],
    cache := true }

theorem witness_CompletionIsWritten :
    Meets (fun d => (d.cplRing 0).life ≠ .off ∧ (d.cplRing 0).waiting = [waitingPacket] ∧
      (d.cplRing 0).hasRoom waitingPacket = true ∧ waitingPacket.cache = true ∧ waitingPacket.flags.getLsbD 2 = false) ∧
    Meets (fun d => (d.cplRing 0).quiet = true ∧ (d.cplRing 0).owed = true ∧ d.host.linkUp = true) ∧
    Meets (fun d => (d.cplRing 0).quiet = true ∧ (d.cplRing 0).owed = false) :=
  ⟨meets (dev.modCplRing 0 fun r => { r with waiting := [waitingPacket] }) rfl (by decide +kernel),
   meets ((dev.modCplRing 0 fun r => { r with quiet := true, owed := true }).modHost fun h => { h with m0 := 3, m1 := 3 }) rfl
     (by decide +kernel),
   meets (dev.modCplRing 0 fun r => { r with quiet := true }) rfl (by decide +kernel)⟩

/-- Module 0 has dropped. -/
def dropped (d : Device) : Device := d.modHost fun h => { h with m0 := 1 }

theorem witness_UcieModules :
    (1 ≤ (6 : Fin 7).val ∧ 1 ≤ (3 : Fin 4).val) ∧
    Meets (fun d => d.host.moduleUp 0 = false) ∧ Meets (fun d => d.host.moduleUp 0 = true) ∧
    Meets (fun d => d.host.moduleUp 0 = true ∧ (dropped d).host.linkUp = false ∧ ∃ c, d.findCmd wid = some c ∧
      c.running = true ∧ c.ran = true ∧ c.opcode = 0x0201 ∧ copySrcKind c.params = 0) ∧
    Meets (fun d => d.host.moduleUp 0 = true ∧ (dropped d).host.linkUp = true) :=
  ⟨by decide, meets dev rfl (by decide +kernel), meets (dev.modHost fun h => { h with m0 := 2, m1 := 3 }) rfl (by decide +kernel),
   meets (dev.modHost fun h => { h with m0 := 3, cmds := [someCmd 0x0201 (zeros 40) true] }) rfl
     ⟨by decide +kernel, by decide +kernel, _, rfl, by decide +kernel⟩,
   meets (dev.modHost fun h => { h with m0 := 2, m1 := 3 }) rfl (by decide +kernel)⟩

/-! ### Device commands -/

theorem witness_IdentityCommandsReply :
    CmdMeets 0x0101 (fun d ps => fieldAt ps 2 2 = 0 ∧
      agreeVersion d.host.loader (fieldAt ps 0 1) (fieldAt ps 1 1) = some 1 ∧ d.comb.state = .empty) ∧
    CmdMeets 0x0102 (fun _ _ => True) ∧ CmdMeets 0x0103 (fun _ _ => True) ∧
    CmdMeets 0x0104 (fun _ ps => fieldAt ps 1 3 = 0 ∧ 1 ≤ fieldAt ps 8 4 ∧ fieldAt ps 8 4 ≤ 4096 ∧
      ∃ bs, romBytes (fieldAt ps 0 1) = some bs ∧ fieldAt ps 4 4 + fieldAt ps 8 4 ≤ bs.length) :=
  ⟨cmdMeets dev [1, 3, 0, 0] rfl (by decide +kernel), cmdMeets dev [] rfl trivial, cmdMeets dev [] rfl trivial,
   cmdMeets dev ([1, 0, 0, 0] ++ leBytes 4 0 ++ leBytes 4 4096) rfl
     ⟨by decide +kernel, by decide +kernel, by decide +kernel, _, rfl, by decide +kernel⟩⟩

theorem witness_HostRingLifeCycle :
    CmdMeets 0x0105 (fun d ps => fieldAt ps 0 1 = 0 ∧ fieldAt ps 1 1 = (15 : RingIx).val ∧ fieldAt ps 13 3 = 0 ∧
      128 ≤ fieldAt ps 4 4 ∧ fieldAt ps 4 4 ≤ 65536 ∧ fieldAt ps 8 4 % 64 = 0 ∧
      d.ringAreaOk false 15 (fieldAt ps 8 4) (fieldAt ps 4 4) = true ∧ fieldAt ps 12 1 ≤ 15 ∧
      (d.cplRing (fieldAt ps 12 1)).life = .on ∧ (d.cmdRing 15).life = .off) ∧
    CmdMeets 0x0106 (fun d ps => fieldAt ps 0 1 = 0 ∧ fieldAt ps 1 1 = (1 : RingIx).val ∧ fieldAt ps 2 2 = 0 ∧
      (d.cmdRing 1).life = .on) ∧
    CmdMeets 0x0106 (fun d ps => fieldAt ps 0 1 = 0 ∧ fieldAt ps 1 1 = (1 : RingIx).val ∧ fieldAt ps 2 2 = 0 ∧
      (d.cmdRing 1).life = .off) ∧
    Meets (fun d => (d.cmdRing 1).life = .stopping ∧ (d.cmdRing 1).destroyCmd = some wid ∧ (d.cmdRing 1).pending = none ∧
      ∀ c ∈ d.host.cmds, c.id.ring = 1 → c.posted = true ∨ c.id = wid) :=
  ⟨cmdMeets dev ([0, 15] ++ zeros 2 ++ leBytes 4 128 ++ leBytes 4 0x9000 ++ zeros 8) rfl (by decide +kernel),
   cmdMeets (dev.modCmdRing 1 fun r => { r with life := .on }) [0, 1, 0, 0] rfl (by decide +kernel),
   cmdMeets dev [0, 1, 0, 0] rfl (by decide +kernel),
   meets (dev.modCmdRing 1 fun r => { r with life := .stopping, destroyCmd := some wid }) rfl (by decide +kernel)⟩

theorem witness_EventRouteAndDeviceReset :
    CmdMeets 0x0107 (fun d ps => fieldAt ps 2 2 = 0 ∧ fieldAt ps 1 1 ≤ 2 ∧ fieldAt ps 0 1 ≤ 15 ∧
      (d.cplRing (fieldAt ps 0 1)).life = .on) ∧
    CmdMeets 0x0107 (fun d ps => fieldAt ps 2 2 = 0 ∧ fieldAt ps 1 1 ≤ 2 ∧ fieldAt ps 0 1 = 1 ∧ (d.cplRing 1).life ≠ .on) ∧
    CmdMeets 0x0107 (fun _ ps => fieldAt ps 2 2 = 0 ∧ fieldAt ps 1 1 ≤ 2 ∧ 15 < fieldAt ps 0 1) ∧
    CmdMeets 0x0108 (fun _ ps => fieldAt ps 0 4 = 0x01080108) ∧ CmdMeets 0x0108 (fun _ ps => fieldAt ps 0 4 ≠ 0x01080108) ∧
    ({ waitingPacket with opcode := 0x0108 }.opcode = 0x0108 ∧ waitingPacket.status = BitVec.ofNat 16 Status.ok) ∧
    Meets (fun d => d.host.resetDue = true ∧ d.seq.faulty = false) ∧ Meets (fun d => d.host.resetDue = true ∧ d.seq.faulty = true) ∧
    Meets (fun d => d.host.resetDue = false) :=
  ⟨cmdMeets dev [0, 2, 0, 0] rfl (by decide +kernel), cmdMeets dev [1, 2, 0, 0] rfl (by decide +kernel),
   cmdMeets dev [16, 0, 0, 0] rfl (by decide +kernel), cmdMeets dev (leBytes 4 0x01080108) rfl (by decide +kernel),
   cmdMeets dev (zeros 4) rfl (by decide +kernel), by decide +kernel,
   meets (dev.modHost fun h => { h with resetDue := true }) rfl (by decide +kernel),
   meets ((dev.modHost fun h => { h with resetDue := true }).modSeq fun q => { q with diodeFault := 1 }) rfl (by decide +kernel),
   meets dev rfl (by decide +kernel)⟩

/-! ### Copies -/

/-- A device whose HBM stacks run and whose host link is up. -/
def on : Device :=
  { dev with hbmStacks := (List.range 8).map fun k => (k, { Stack.reset with state := 1 })
             host := { HostPort.reset with m0 := 3, m1 := 3 } }

/-- A device that waits for 4 bytes of host memory, to be copied to ring SRAM. -/
def reading : Device :=
  { withCmd on 0x0201 ([0, 1] ++ zeros 6 ++ leBytes 8 0 ++ leBytes 8 0x9000 ++ leBytes 8 4) with
    host := { (withCmd on 0x0201 ([0, 1] ++ zeros 6 ++ leBytes 8 0 ++ leBytes 8 0x9000 ++ leBytes 8 4)).host with
      drds := [{ tag := 511, cmd := wid, len := 4 }] } }

/-- What a copy that starts to move must meet. -/
def copyOk (d : Device) (ps : List Byte) : Prop :=
  d.hlt.trip = false ∧ d.copyWaits wid = false ∧ copySrcKind ps ≤ 3 ∧ copyDstKind ps ≤ 3 ∧ fieldAt ps 2 6 = 0 ∧
    1 ≤ copyLen ps ∧ copyLen ps ≤ 2 ^ 40 ∧ (copyDstKind ps = 0 → copySrcKind ps ≠ 0 ∧ copySrcKind ps ≠ 3) ∧
    d.hbmRefused (copySrcKind ps) (copySrc ps) (copyLen ps) = none ∧
    d.hbmRefused (copyDstKind ps) (copyDst ps) (copyLen ps) = none ∧
    (copySrcKind ps = 0 ∨ copyDstKind ps = 0 → d.host.linkUp = true) ∧
    (copySrcKind ps = 1 → outsideFree (copySrc ps) (copyLen ps) = false) ∧
    (copyDstKind ps = 1 → outsideFree (copyDst ps) (copyLen ps) = false)

/-- The parameters of a copy: kinds, source, destination, length. -/
def copyParams (a b src dst n : Nat) : List Byte := [BitVec.ofNat 8 a, BitVec.ofNat 8 b] ++ zeros 6 ++ leBytes 8 src ++
  leBytes 8 dst ++ leBytes 8 n

theorem witness_CopiesMoveData :
    CmdMeets 0x0202 (fun d ps => d.hlt.trip = false ∧ d.copyWaits wid = false ∧ fieldAt ps 1 7 = 0 ∧ fieldAt ps 0 1 = 1 ∧
      0x9000 ≤ fieldAt ps 8 8 ∧ fieldAt ps 8 8 + fieldAt ps 16 8 ≤ 0x800000) ∧
    CmdMeets 0x0202 (fun d ps => d.hlt.trip = false ∧ d.copyWaits wid = false ∧ fieldAt ps 1 7 = 0 ∧ fieldAt ps 0 1 = 2 ∧
      fieldAt ps 8 8 < hbmBytes ∧ fieldAt ps 8 8 + fieldAt ps 16 8 ≤ hbmBytes ∧ d.hbmOffline (fieldAt ps 8 8) (fieldAt ps 16 8) = false) ∧
    CmdMeets 0x0202 (fun d ps => d.hlt.trip = false ∧ d.copyWaits wid = false ∧ fieldAt ps 1 7 = 0 ∧ fieldAt ps 0 1 = 1 ∧
      fieldAt ps 8 8 < 0x9000) ∧
    CmdMeets 0x0201 (fun d ps => copyOk d ps ∧ copySrcKind ps = 1 ∧ copyDstKind ps = 1) ∧
    CmdMeets 0x0201 (fun d ps => copyOk d ps ∧ copySrcKind ps = 2 ∧ copyDstKind ps = 0) ∧
    CmdMeets 0x0201 (fun d ps => copyOk d ps ∧ copySrcKind ps = 0 ∧ copyDstKind ps = 2) ∧
    CmdMeets 0x0201 (fun d ps => copyOk d ps ∧ copySrcKind ps = 3 ∧ copyDstKind ps = 1) ∧
    CmdMeets 0x0201 (fun d ps => copyOk d ps ∧ copySrcKind ps = 0 ∧ copyDstKind ps = 3) ∧
    Meets (fun d => ∃ r c, d.host.drds.find? (·.tag == (511 : Fin 512).val) = some r ∧ d.findCmd r.cmd = some c ∧
      c.posted = false ∧ (zeros 4).length ≤ 256 ∧ (zeros 4).length = r.len ∧ copyDstKind c.params ≠ 3) :=
  ⟨cmdMeets on ([1] ++ zeros 7 ++ leBytes 8 0x9000 ++ leBytes 8 0x7F7000 ++ zeros 8) rfl (by decide +kernel),
   cmdMeets on ([2] ++ zeros 7 ++ leBytes 8 0 ++ leBytes 8 hbmBytes ++ zeros 8) rfl (by decide +kernel),
   cmdMeets on ([1] ++ zeros 7 ++ leBytes 8 0x8FFF ++ leBytes 8 1 ++ zeros 8) rfl (by decide +kernel),
   cmdMeets on (copyParams 1 1 0x9000 0x7FFFFF 1) rfl (by unfold copyOk; decide +kernel),
   cmdMeets on (copyParams 2 0 0 0 1) rfl (by unfold copyOk; decide +kernel),
   cmdMeets on (copyParams 0 2 0 0 1) rfl (by unfold copyOk; decide +kernel),
   cmdMeets on (copyParams 3 1 0 0x9000 1) rfl (by unfold copyOk; decide +kernel),
   cmdMeets on (copyParams 0 3 0 0 1) rfl (by unfold copyOk; decide +kernel),
   meets reading rfl ⟨_, _, rfl, rfl, by decide +kernel⟩⟩

/-- R493, R495: a power-up by PWR_EN leaves a rail marked WINDOW off; an assertion of RESET_N clears the mark. -/
theorem test_window_mark_stays_until_reset :
    (({ Sequencer.reset with railsWindow := 4 }).start
      { short := 0, khz0 := 100000, khz1 := 156250, diodeFault := 0 } 0).plan.contains (.inr 2) = false ∧
    ({ Sequencer.reset with railsWindow := 4 } : Sequencer).cleared.railsWindow = 0 := by decide +kernel

/-! ### The logbook -/

/-- R467: entries of one hub clk stand in ascending order of source; a later clk follows. -/
theorem test_log_order_by_source :
    (((((dev.logEnter hubSource 3 []).logEnter 2 2 []).logEnter 1 2 [0]).logEnter 1 2 [1]).log.queue.map
      fun e : LogItem => (e.source, e.payload)) = [(1, [0]), (1, [1]), (2, []), (12, [])] ∧
    ((({ dev.logEnter hubSource 3 [] with now := 15 }).logEnter 2 2 []).log.queue.map LogItem.source) = [12, 2] := by
  decide +kernel

theorem witness_LogbookActs :
    CmdMeets 0x0A01 (fun d ps => fieldAt ps 0 8 % 16 = 0 ∧ fieldAt ps 8 8 % 16 = 0 ∧ 16 ≤ fieldAt ps 8 8 ∧
      fieldAt ps 8 8 ≤ logBytes ∧ d.log.p ≤ fieldAt ps 0 8 + logBytes ∧ fieldAt ps 0 8 + fieldAt ps 8 8 ≤ d.log.p ∧
      d.host.linkUp = true) ∧
    CmdMeets 0x0A04 (fun _ _ => True) ∧
    CmdMeets 0x0A02 (fun d ps => fieldAt ps 0 1 = 1 ∧ fieldAt ps 1 7 = 0 ∧ d.hbmWaits (fieldAt ps 8 8) 1 = false ∧
      fieldAt ps 8 8 < hbmBytes ∧ streamRangeOk (fieldAt ps 8 8) (fieldAt ps 16 8) = true ∧
      d.hbmOffline (fieldAt ps 8 8) (fieldAt ps 16 8) = false ∧ d.log.stream = .off) ∧
    CmdMeets 0x0A02 (fun d ps => ps.headD 0 = 0 ∧ fieldAt ps 0 1 = 0 ∧ fieldAt ps 1 7 = 0 ∧ d.log.stream = .on) ∧
    Meets (fun d => d.log.queue = [⟨0, 12, 2, zeros 16⟩] ∧ d.log.unmarked = 0) ∧
    Meets (fun d => d.log.stream = .on ∧ (d.stack (stackOf d.log.streamBase)).state = 1 ∧
      d.log.streamPos + (64 - d.log.streamPos % 64) ≤ d.log.p) :=
  ⟨cmdMeets (on.modLog fun l => { l with p := 16 + logBytes }) (leBytes 8 16 ++ leBytes 8 logBytes ++ zeros 8) rfl
     (by decide +kernel),
   cmdMeets dev [] rfl trivial,
   cmdMeets on ([1] ++ zeros 7 ++ leBytes 8 0 ++ leBytes 8 0x100000) rfl (by decide +kernel),
   cmdMeets (on.modLog fun l => { l with stream := .on }) (zeros 24) rfl (by decide +kernel),
   meets (dev.modLog fun l => { l with queue := [⟨0, 12, 2, zeros 16⟩] }) rfl (by decide +kernel),
   meets (on.modLog fun l => { l with stream := .on, p := 64, streamPos := 16 }) rfl (by decide +kernel)⟩

theorem witness_LogEntryAdvancesWriter : (zeros 40).length + 32 ≤ logBytes := by decide +kernel

/-- An event of region 0. -/
def anEvent : EventRec := { code := 0x8000, region := 0, comb := 0, clk := 0, tick := 0, arg := 0 }

theorem witness_EventsAndHaltReport :
    Meets (fun d => d.host.routeMode = 0 ∧ (d.pilot (7 : Fin 8).val).events = [anEvent] ∧ d.hubEvents = [anEvent]) ∧
    Meets (fun d => d.host.routeMode = 2 ∧ d.hubEvents = [anEvent]) ∧
    Meets (fun d => d.comb.halting = true ∧ d.comb.haltReported = false ∧ ∀ r, r < 8 → (d.pilot r).state = 6) :=
  ⟨meets { dev with hubEvents := [anEvent], pilots := [(7, { Pilot.reset with events := [anEvent] })] } rfl (by decide +kernel),
   meets ({ dev with hubEvents := [anEvent] }.modHost fun h => { h with routeMode := 2 }) rfl (by decide +kernel),
   meets { dev with comb := { Comb.reset with halting := true }
                    pilots := (List.range 8).map fun r => (r, { Pilot.reset with state := 6 }) } rfl (by decide +kernel)⟩

/-! ### Comb sets -/

/-- A set of one comb that uses region 0, whose program is one end-of-tick SWAP to itself. -/
def setImage : List Byte :=
  let block := leBytes 2 1 ++ zeros 14 ++ leBytes 8 (0xC * 2 ^ 58 + 2 ^ 53)
  let front := leBytes 4 0x434F4D42 ++ leBytes 2 2 ++ leBytes 2 2 ++ [1, 0, 0, 0] ++ leBytes 4 50000 ++ leBytes 8 0x180 ++ zeros 8
  let rest := zeros 28 ++
    (leBytes 4 0 ++ leBytes 4 1 ++ leBytes 4 1000 ++ zeros 100 ++ leBytes 4 0x100 ++ zeros 44) ++ zeros 32 ++
    leBytes 4 0 ++ leBytes 4 92 ++ zeros 56 ++ block ++ leBytes 4 (crc32 block) ++ zeros 36
  front ++ leBytes 4 (crc32 (front ++ zeros 4 ++ rest)) ++ rest

/-- The image lies at offset 0 of HBM. -/
def withSet : Device := { on with hbm := Mem.reset.write 0 setImage }

def setParams : List Byte := leBytes 8 0 ++ leBytes 8 0x180

/-- The set that the image describes, loaded. -/
def loaded : Device :=
  { on with comb := { Comb.reset with state := .loaded, set := some (imgSet setImage), store := imgStore setImage } }

theorem second_of {α β : Type} {x : α × β} {a : α} {P : β → Prop} (h : x.1 = a) (hp : P x.2) : ∃ b, x = (a, b) ∧ P b :=
  ⟨x.2, Prod.ext h rfl, hp⟩

set_option maxRecDepth 100000 in
theorem witness_CombCommands :
    CmdMeets 0x0301 (fun d ps => d.hlt.trip = false ∧ d.loadWaits wid = false ∧
      d.loadRange (fieldAt ps 0 8) (fieldAt ps 8 8) = none ∧
      (∃ img d', (d.acted wid).readImage (fieldAt ps 0 8) (fieldAt ps 8 8) = (some img, d') ∧ d'.checkImage img = none) ∧
      d.comb.state = .empty) ∧
    CmdMeets 0x0302 (fun d ps => d.hlt.trip = false ∧ d.loadWaits wid = false ∧
      d.loadRange (fieldAt ps 0 8) (fieldAt ps 8 8) = none ∧
      ∃ img d', (d.acted wid).readImage (fieldAt ps 0 8) (fieldAt ps 8 8) = (some img, d') ∧ d'.checkImage img = none) ∧
    CmdMeets 0x0303 (fun d _ => ∃ c, d.hlt.trip = false ∧ d.clockLost = false ∧ d.comb.state ≠ .empty ∧
      (d.comb.state = .active → d.tick.life = .off) ∧ d.comb.set = some c) ∧
    CmdMeets 0x0304 (fun d _ => d.comb.state ≠ .empty ∧ (d.comb.state = .active → d.tick.life = .off)) ∧
    CmdMeets 0x0305 (fun _ _ => True) :=
  ⟨cmdMeets withSet setParams rfl ⟨by decide +kernel, by decide +kernel, by decide +kernel,
     ⟨setImage, second_of (by decide +kernel) (by decide +kernel)⟩, by decide +kernel⟩,
   cmdMeets withSet setParams rfl ⟨by decide +kernel, by decide +kernel, by decide +kernel,
     setImage, second_of (by decide +kernel) (by decide +kernel)⟩,
   cmdMeets loaded [] rfl ⟨imgSet setImage, by decide +kernel⟩, cmdMeets loaded [] rfl (by decide +kernel),
   cmdMeets dev [] rfl trivial⟩

/-! ### The tick -/

/-- `job` with the tick ON from a strike at time 0, and a source. -/
def ticking (src : Source) : Device :=
  job.modTick fun t => { t with life := .on, cfg := { TickCfg.reset with source := src, window := 100 }, coming := 1, configured := true }

/-- `ticking` some time later. -/
def tickingAt (src : Source) (t : Nat) : Device := { ticking src with now := t }

def tickParams : List Byte := leBytes 4 50000 ++ [0, 1, 0, 0] ++ leBytes 4 0

theorem witness_TickCommands :
    CmdMeets 0x0401 (fun d ps => 50000 ≤ fieldAt ps 0 4 ∧ fieldAt ps 0 4 ≤ 1000000000 ∧ fieldAt ps 0 4 % 10 = 0 ∧
      fieldAt ps 4 1 = 0 ∧ fieldAt ps 5 1 ≤ 1 ∧ fieldAt ps 7 1 = 0 ∧ fieldAt ps 6 1 ≤ 15 ∧
      (d.cplRing (fieldAt ps 6 1)).life = .on ∧ d.tmin ≤ fieldAt ps 0 4 ∧ d.tick.life = .off) ∧
    CmdMeets 0x0401 (fun d ps => fieldAt ps 0 4 = 1000000000 ∧ fieldAt ps 4 1 = 2 ∧ fieldAt ps 5 1 ≤ 1 ∧ fieldAt ps 7 1 = 0 ∧
      fieldAt ps 8 4 = 125000000 ∧ d.tmin ≤ fieldAt ps 0 4 ∧ d.tick.life = .starting ∧ d.tick.cfg.source = .swarm ∧
      d.tick.cfg.cpl = fieldAt ps 6 1) ∧
    CmdMeets 0x0401 (fun d ps => 50000 ≤ fieldAt ps 0 4 ∧ fieldAt ps 0 4 ≤ 1000000000 ∧ fieldAt ps 0 4 % 10 = 0 ∧
      fieldAt ps 4 1 = 0 ∧ fieldAt ps 5 1 ≤ 1 ∧ fieldAt ps 7 1 = 0 ∧ fieldAt ps 6 1 ≤ 15 ∧
      (d.cplRing (fieldAt ps 6 1)).life = .on ∧ d.tmin ≤ fieldAt ps 0 4 ∧ d.tick.life = .on ∧
      d.tick.cfg.source = .internal ∧ d.tick.cfg.cpl = fieldAt ps 6 1) ∧
    CmdMeets 0x0402 (fun d _ => d.hlt.trip = false ∧ d.clockLost = false ∧ d.tick.life = .off ∧ d.comb.state = .active ∧
      d.sourceUsable = true ∧ d.tmin ≤ d.tick.cfg.period) ∧
    CmdMeets 0x0402 (fun d _ => d.hlt.trip = false ∧ d.clockLost = false ∧ d.tick.life = .stopping ∧ d.comb.state = .active ∧
      d.sourceUsable = true ∧ d.tmin ≤ d.tick.cfg.period) ∧
    CmdMeets 0x0405 (fun _ _ => True) ∧ CmdMeets 0x0403 (fun d _ => d.tick.life = .off) ∧
    CmdMeets 0x0403 (fun d _ => d.tick.life = .on ∧ d.tick.running.isSome = true) ∧
    CmdMeets 0x0403 (fun d _ => d.tick.life = .stopping) ∧
    CmdMeets 0x0404 (fun d ps => 1 ≤ fieldAt ps 8 2 ∧ fieldAt ps 8 2 ≤ 64 ∧ fieldAt ps 10 6 = 0 ∧
      (∀ e ∈ stageEntries ps, e.bad = false ∧ ∀ r, r < 8 → e.mask.testBit r = true →
        ∀ m, d.shapeMax r e.reg = some m → e.value ≤ m) ∧
      d.stageTimely (fieldAt ps 0 8) = true ∧
      let later := d.tick.life != .on
      ((stageAll later (fieldAt ps 0 8) d.tick.staged (stageEntries ps)).filter
        fun x => x.later == later && x.tick == fieldAt ps 0 8).length ≤ 256) :=
  ⟨cmdMeets dev tickParams rfl (by decide +kernel),
   cmdMeets ((ticking .swarm).modTick fun t => { t with life := .starting })
     (leBytes 4 1000000000 ++ [2, 0, 0, 0] ++ leBytes 4 125000000) rfl (by decide +kernel),
   cmdMeets (ticking .internal) tickParams rfl (by decide +kernel),
   cmdMeets (job.modTick fun t => { t with configured := true }) [] rfl (by decide +kernel),
   cmdMeets (job.modTick fun t => { t with configured := true, life := .stopping }) [] rfl (by decide +kernel),
   cmdMeets dev [] rfl trivial,
   cmdMeets dev [] rfl (by decide +kernel),
   cmdMeets ((ticking .internal).modTick fun t => { t with running := some ⟨0, 0, false⟩ }) [] rfl (by decide +kernel),
   cmdMeets (dev.modTick fun t => { t with life := .stopping }) [] rfl (by decide +kernel),
   cmdMeets dev (leBytes 8 1 ++ leBytes 2 1 ++ zeros 6 ++ [0xFF, 63, 0, 0] ++ leBytes 4 9) rfl
     ⟨by decide +kernel, by decide +kernel, by decide +kernel,
      fun e he => by
        have h : stageEntries (leBytes 8 1 ++ leBytes 2 1 ++ zeros 6 ++ [0xFF, 63, 0, 0] ++ leBytes 4 9) =
          [{ mask := 0xFF, reg := 63, value := 9, bad := false }] := by decide +kernel
        rw [h, List.mem_singleton] at he
        subst he
        exact ⟨rfl, fun r _ _ m hm => nomatch hm⟩,
      by decide +kernel, by decide +kernel⟩⟩

theorem witness_StrikesActOnTheirSource :
    Meets (fun d => d.tick.cfg.source = .internal ∧ d.struck = true ∧ d.strikeBase + ns d.timing.period ≤ d.now) ∧
    Meets (fun d => d.tick.cfg.source = .internal ∧ d.struck = false ∧ d.tick.life = .starting ∧ d.asleep = false) ∧
    Meets (fun d => d.tick.cfg.source = .external ∧ (d.input 0).edge = true ∧ d.struck = true ∧
      d.strikeBase + ns (d.timing.period - d.timing.window) ≤ d.now ∧
      d.now ≤ d.strikeBase + ns (d.timing.period + d.timing.window)) ∧
    Meets (fun d => d.tick.cfg.source = .external ∧ (d.input 0).edge = true ∧ d.struck = false ∧ d.tick.life = .starting ∧
      d.asleep = false) ∧
    Meets (fun d => d.timing.source = .external ∧ d.tick.life = .on ∧
      d.strikeBase + ns (d.timing.period + d.timing.window) ≤ d.now) ∧
    Meets (fun d => d.timing.source = .swarm ∧ d.vxl.announced = [] ∧ d.tick.life = .on ∧
      d.strikeBase + ns (d.timing.period + d.timing.window) ≤ d.now) ∧
    Meets (fun d => d.tick.held = some ⟨1, 0, false⟩ ∧ d.tick.running = none ∧ d.tick.life = .on) ∧
    Meets (fun d => d.vxl.role = 1 ∧ d.vxl.announced = [(0, 5, false)] ∧ 5 ≤ d.now ∧ d.tick.life = .starting ∧
      d.asleep = false) ∧
    Meets (fun d => d.vxl.role = 2 ∧ d.tick.cfg.source = .swarm ∧ d.tick.life = .on ∧ d.vxl.fallbackSent = false ∧
      d.vxl.announced = [] ∧ d.tick.prevStrike + ns (d.tick.cfg.period + d.tick.cfg.window) ≤ d.now + ns d.vxl.lead.toNat) ∧
    Meets (fun d => (d.pilot (0 : Region).val).strikeDue = true ∧ d.live (0 : Region).val = true ∧ d.comb.state = .active ∧
      (d.pilot (0 : Region).val).idleUntilStrike = true) :=
  ⟨meets (tickingAt .internal (ns 50000)) rfl (by decide +kernel),
   meets (job.modTick fun t => { t with life := .starting }) rfl (by decide +kernel),
   meets ((tickingAt .external (ns 50100)).modInput 0 fun p => { p with edge := true }) rfl (by decide +kernel),
   meets ((job.modTick fun t => { t with life := .starting, cfg := { TickCfg.reset with source := .external } }).modInput 0
     fun p => { p with edge := true }) rfl (by decide +kernel),
   meets (tickingAt .external (ns 50100)) rfl (by decide +kernel), meets (tickingAt .swarm (ns 50100)) rfl (by decide +kernel),
   meets ((ticking .internal).modTick fun t => { t with held := some ⟨1, 0, false⟩ }) rfl (by decide +kernel),
   meets (({ dev with now := 5 }.modTick fun t => { t with life := .starting }).modVxl fun v =>
     { v with role := 1, announced := [(0, 5, false)] }) rfl (by decide +kernel),
   meets ((tickingAt .swarm (ns 46100)).modVxl fun v => { v with role := 2 }) rfl (by decide +kernel),
   meets (job.modPilot 0 fun p => { p with strikeDue := true, idleUntilStrike := true }) rfl (by decide +kernel)⟩

theorem witness_StrikeStartsOrIsHeld :
    ((ticking .internal).tick.life = .on ∧ (ticking .internal).tick.running = none ∧ (ticking .internal).tick.held = none) ∧
    (let d := (ticking .internal).modTick fun t => { t with running := some ⟨0, 0, false⟩ }
     d.tick.life = .on ∧ d.tick.running.isSome = true ∧ d.tick.held = none ∧ (d.tick.next.getD d.tick.cfg).catchUp = true ∧
       (d.tick.next.getD d.tick.cfg).source ≠ .swarm) ∧
    (let d := (ticking .internal).modTick fun t =>
       { t with running := some ⟨0, 0, false⟩, cfg := { t.cfg with catchUp := false } }
     d.tick.life = .on ∧ d.tick.running.isSome = true ∧ d.tick.held = none ∧
       (d.tick.next.getD d.tick.cfg).catchUp = false) ∧
    dev.tick.life = .off := by decide +kernel

/-! ### Flags, barriers, counters -/

/-- A pending set request of flag `f`. -/
def setReq (f : Nat) : FlagReq := { flag := f, value := true, parityOk := true, src := 0, cmd := none, tid := none }

theorem witness_FlagCommandsAct :
    CmdMeets 0x0501 (fun d ps => fieldAt ps 0 1 ≤ 3 ∧ fieldAt ps 1 1 ≤ 1 ∧ fieldAt ps 2 2 ≤ 4095 ∧ d.comb.state = .active) ∧
    CmdMeets 0x0502 (fun d ps => fieldAt ps 0 1 ≤ 3 ∧ fieldAt ps 1 3 = 0 ∧ d.comb.state = .active ∧ d.tick.life = .off ∧
      fieldAt ps 4 1 ≤ 63 ∧ 1 ≤ fieldAt ps 5 1 ∧ fieldAt ps 5 1 ≤ 64 ∧ fieldAt ps 6 2 + fieldAt ps 5 1 ≤ 4096 ∧
      fieldAt ps 8 2 ≤ 4095 ∧ fieldAt ps 8 2 < fieldAt ps 6 2 ∧ misuseOk (fieldAt ps 10 2) = true ∧
      (∀ k, k < 64 → (d.home (fieldAt ps 0 1)).flagTaken (some (fieldAt ps 4 1)) none (fieldAt ps 6 2 + k) = false) ∧
      (d.home (fieldAt ps 0 1)).flagTaken (some (fieldAt ps 4 1)) none (fieldAt ps 8 2) = false) ∧
    CmdMeets 0x0501 (fun d ps => fieldAt ps 0 1 ≤ 3 ∧ fieldAt ps 1 1 ≤ 1 ∧ fieldAt ps 2 2 ≤ 4095 ∧ d.comb.state ≠ .active) ∧
    CmdMeets 0x0502 (fun d ps => d.comb.state ≠ .active ∧ fieldAt ps 0 1 ≤ 3 ∧ fieldAt ps 1 3 = 0) ∧
    CmdMeets 0x0503 (fun d ps => d.tick.life ≠ .off ∧ fieldAt ps 0 1 ≤ 3 ∧ fieldAt ps 1 3 = 0) ∧
    CmdMeets 0x0503 (fun d ps => fieldAt ps 0 1 ≤ 3 ∧ fieldAt ps 1 3 = 0 ∧ d.comb.state = .active ∧ d.tick.life = .off ∧
      fieldAt ps 4 1 ≤ 63 ∧ fieldAt ps 5 1 = 1 ∧ fieldAt ps 6 2 ≤ 4095 ∧ fieldAt ps 8 2 ≤ 4095 ∧ fieldAt ps 10 2 ≤ 4095 ∧
      1 ≤ fieldAt ps 12 2 ∧ misuseOk (fieldAt ps 14 2) = true ∧ fieldAt ps 6 2 ≠ fieldAt ps 8 2 ∧
      fieldAt ps 6 2 ≠ fieldAt ps 10 2 ∧ fieldAt ps 8 2 ≠ fieldAt ps 10 2 ∧
      (d.home (fieldAt ps 0 1)).flagTaken none (some (fieldAt ps 4 1)) (fieldAt ps 6 2) = false ∧
      (d.home (fieldAt ps 0 1)).flagTaken none (some (fieldAt ps 4 1)) (fieldAt ps 8 2) = false) ∧
    Meets (fun d => d.homeRuns (3 : Die).val = true ∧ (d.home (3 : Die).val).reqs ≠ []) ∧
    Meets (fun d => d.homeRuns (3 : Die).val = true ∧ (d.home (3 : Die).val).reqs = [] ∧
      (d.home (3 : Die).val).restless = true) ∧
    Meets (fun d => d.homeRuns 3 = true ∧ (d.home 3).reqs = [{ setReq 5 with src := 7000, cmd := some wid }] ∧
      d.findCmd wid = some (someCmd 0x0501 [] true) ∧ (someCmd 0x0501 [] true).posted = false) ∧
    Meets (fun d => d.comb.state = .halted ∧ (d.home (0 : Die).val).halted = false ∧ (d.home (0 : Die).val).reqs = [] ∧
      (d.home (0 : Die).val).restless = false) :=
  ⟨cmdMeets job ([3, 1] ++ leBytes 2 4095) rfl (by decide +kernel),
   cmdMeets job ([3, 0, 0, 0, 63, 64] ++ leBytes 2 4032 ++ leBytes 2 4031 ++ leBytes 2 0) rfl (by decide +kernel),
   cmdMeets dev ([3, 1] ++ leBytes 2 4095) rfl (by decide +kernel), cmdMeets dev [3, 0, 0, 0] rfl (by decide +kernel),
   cmdMeets (ticking .internal) [3, 0, 0, 0] rfl (by decide +kernel),
   cmdMeets job ([3, 0, 0, 0, 63, 1] ++ leBytes 2 4095 ++ leBytes 2 0 ++ leBytes 2 1 ++ leBytes 2 1 ++ leBytes 2 0) rfl
     (by decide +kernel),
   meets (job.modHome 3 fun h => { h with reqs := [setReq 5] }) rfl (by decide +kernel),
   meets (job.modHome 3 fun h =>
     { h with cnts := [(1, { EvCounter.reset with en := true, src := 4, clr := 5, out := 6 })], flags := [5] }) rfl (by decide +kernel),
   meets ((job.modHome 3 fun h => { h with reqs := [{ setReq 5 with src := 7000, cmd := some wid }] }).modHost fun h =>
     { h with cmds := [someCmd 0x0501 [] true] }) rfl (by decide +kernel),
   meets (dev.modComb fun c => { c with state := .halted }) rfl (by decide +kernel)⟩

theorem witness_HomeClearsThenSets : (∀ g, (Home.reset.bar g).en = false) ∧ ∀ c, (Home.reset.counter c).en = false :=
  ⟨fun _ => rfl, fun _ => rfl⟩

/-- A home with barrier group 0, arrivals at flags 8 and 9, release at 0, and some flags set. -/
def barrierHome (fs : List Nat) : Home :=
  { Home.reset with bars := [(0, { Barrier.reset with en := true, n := 2, base := 8 })], flags := fs }

theorem witness_BarrierReleases :
    (let h := barrierHome [8, 9]
     (h.bar 0).en = true ∧ (∀ k, k < (h.bar 0).n.toNat → h.hasFlag ((h.bar 0).base.toNat + k) = true) ∧
       (h.bar 0).arrives (h.bar 0).release.toNat = false ∧ h.countersOf (h.bar 0).release.toNat = []) ∧
    (∀ k, k ≠ 0 → ((barrierHome [8, 9]).bar k).arrives ((barrierHome [8, 9]).bar 0).release.toNat = false) ∧
    ((barrierHome [8]).bar 0).en = true ∧
      ∃ k, k < ((barrierHome [8]).bar 0).n.toNat ∧ (barrierHome [8]).hasFlag (((barrierHome [8]).bar 0).base.toNat + k) = false :=
  ⟨by decide +kernel, fun k hk => by cases k with | zero => exact absurd rfl hk | succ n => rfl, by decide +kernel, 1, by decide +kernel⟩

/-! ### Message channels -/

/-- Ring 0 and endpoint 0 of die 0, both at the SU of site 181; the endpoint sends to the ring. -/
def ringRec : List Byte :=
  [0, 0, 1, 5] ++ leBytes 2 0 ++ leBytes 2 64 ++ leBytes 2 64 ++ [2, 0] ++ leBytes 2 16 ++ leBytes 2 17 ++ zeros 8
def epRec : List Byte :=
  [0, 0, 1, 5] ++ leBytes 2 200 ++ [1, 0] ++ leBytes 2 1 ++ leBytes 2 2 ++ leBytes 2 3 ++ zeros 10 ++ [1, 0] ++
    leBytes 2 1 ++ leBytes 2 1 ++ zeros 2

/-- `job` whose die 0 has a ring and an endpoint. -/
def chan (f : Endpoint → Endpoint) (g : MsgRing → MsgRing) : Device :=
  job.modHome 0 fun h =>
    { h with eps := [(0, f { Endpoint.reset with state := .on, record := epRec })]
             rings := [(0, g { MsgRing.reset with state := .on, record := ringRec })] }

theorem witness_ChannelLifeCycle :
    (∀ st : Life, CmdMeets 0x0506 (fun d ps => fieldAt ps 0 1 ≤ 3 ∧ fieldAt ps 1 3 = 0 ∧ d.comb.state = .active ∧
       d.endpointRefused (fieldAt ps 0 1) (sliceAt ps 4 32) = none ∧
       (d.ep (fieldAt ps 0 1) (fieldAt (sliceAt ps 4 32) 0 1)).state = st) ∧
     CmdMeets 0x0504 (fun d ps => fieldAt ps 0 1 ≤ 3 ∧ fieldAt ps 1 3 = 0 ∧ d.comb.state = .active ∧
       d.ringRefused (fieldAt ps 0 1) (sliceAt ps 4 24) = none ∧
       (d.ring_ (fieldAt ps 0 1) (fieldAt (sliceAt ps 4 24) 0 1)).state = st)) ∧
    (∀ st : Life, CmdMeets 0x0507 (fun d ps => fieldAt ps 0 1 ≤ 3 ∧ fieldAt ps 1 1 ≤ 63 ∧ fieldAt ps 2 2 = 0 ∧
      d.comb.state = .active ∧ (d.ep (fieldAt ps 0 1) (fieldAt ps 1 1)).state = st) ∧
     CmdMeets 0x0505 (fun d ps => fieldAt ps 0 1 ≤ 3 ∧ fieldAt ps 1 1 ≤ 63 ∧ fieldAt ps 2 2 = 0 ∧
      d.comb.state = .active ∧ (d.ring_ (fieldAt ps 0 1) (fieldAt ps 1 1)).state = st)) ∧
    CmdMeets 0x0508 (fun d ps => fieldAt ps 0 1 ≤ 3 ∧ fieldAt ps 1 1 = 0 ∧ fieldAt ps 2 1 ≤ 63 ∧ fieldAt ps 3 1 = 0 ∧
      d.comb.state ≠ .halted ∧ (d.home (fieldAt ps 0 1)).halted = false) ∧
    (∀ p ∈ [none, some ringRec], Meets (fun d => (d.ep 0 0).state = .stopping ∧ (d.ep 0 0).busy = false ∧
       (d.ep 0 0).closeCmd = some wid ∧ (d.ep 0 0).pendingOpen = p) ∧
     Meets (fun d => (d.ring_ 0 0).state = .stopping ∧ d.copiesInto 0 0 = false ∧ (d.ring_ 0 0).destroyCmd = some wid ∧
       (d.ring_ 0 0).pendingCreate = p)) ∧
    Meets (fun d => (d.ep 0 0).state = .stopping ∧ (d.ep 0 0).busy = true ∧ (d.ep 0 0).due = true ∧
      (d.ep 0 0).closeCmd = some wid ∧ d.engineReaches (epSite 0 (d.ep 0 0).record) = true) :=
  ⟨fun st => ⟨cmdMeets (chan (fun x => { x with state := st }) fun x => { x with state := .off }) ([0, 0, 0, 0] ++ epRec) (by cases st <;> rfl)
       (by cases st <;> decide +kernel),
     cmdMeets (chan (fun x => { x with state := .off }) fun x => { x with state := st }) ([0, 0, 0, 0] ++ ringRec) (by cases st <;> rfl)
       (by cases st <;> decide +kernel)⟩,
   fun st => ⟨cmdMeets (chan (fun x => { x with state := st }) id) (zeros 4) (by cases st <;> rfl)
       (by cases st <;> decide +kernel),
     cmdMeets (chan id fun x => { x with state := st }) (zeros 4) (by cases st <;> rfl)
       (by cases st <;> decide +kernel)⟩,
   cmdMeets dev [3, 0, 63, 0] rfl (by decide +kernel),
   List.forall_mem_cons.mpr ⟨⟨meets (chan (fun x => { x with state := .stopping, closeCmd := some wid }) id) rfl (by decide +kernel),
     meets (chan id fun x => { x with state := .stopping, destroyCmd := some wid }) rfl (by decide +kernel)⟩,
     List.forall_mem_singleton.mpr
       ⟨meets (chan (fun x => { x with state := .stopping, closeCmd := some wid, pendingOpen := some ringRec }) id) rfl
          (by decide +kernel),
        meets (chan id fun x => { x with state := .stopping, destroyCmd := some wid, pendingCreate := some ringRec }) rfl
          (by decide +kernel)⟩⟩,
   meets (chan (fun x => { x with state := .stopping, busy := true, due := true, closeCmd := some wid }) id) rfl
     (by decide +kernel)⟩

/-- A message of two rows at the head of the ring. -/
def aMsg : RingMsg :=
  { row := 0, rows := 2, endpoint := 0, len := 64, seq := 0, deliverable := true, wrap := false, remote := none, fill := 0 }

theorem witness_MessageEngineActs :
    Meets (fun d => d.sendReady 0 0 = true ∧ d.sendTurn 0 0 = true ∧ d.canOriginate 24 = true ∧
      (d.takeUpSend 0 0).1 = true) ∧
    Meets (fun d => d.sendReady 0 0 = true ∧ d.sendTurn 0 0 = true ∧ d.canOriginate 24 = true ∧
      (d.takeUpSend 0 0).1 = false) ∧
    Meets (fun d => (d.ep 0 0).state = .on ∧ (d.ep 0 0).busy = true ∧ (d.ep 0 0).due = true ∧ d.sendTurn 0 0 = true ∧
      d.canOriginate 24 = true) ∧
    Meets (fun d => ∃ q, (d.home 0).requests = [q] ∧ q.tid = none ∧ d.engineFree 0 = true ∧ d.releaseDue 0 = none ∧
      d.ringReached 0 q.ring = true) ∧
    Meets (fun d => ∃ q, (d.home 0).requests = [q] ∧ q.tid = some 7 ∧ d.engineFree 0 = true ∧ d.releaseDue 0 = none ∧
      d.ringReached 0 q.ring = true) ∧
    Meets (fun d => ∃ p, (d.home 0).replies = [p] ∧ d.engineFree 0 = true ∧
      d.engineReaches (epSite 0 (d.ep 0 p.endpoint).record) = true) ∧
    Meets (fun d => ∃ c, (d.home 0).copies = [c] ∧ d.engineOn 0 = true ∧
      d.engineReaches (rgSite c.die (d.ring_ c.die c.ring).record) = true ∧
      d.engineReaches (epSite 0 (d.ep 0 c.endpoint).record) = true) ∧
    Meets (fun d => d.engineFree 0 = true ∧ d.releaseDue 0 = some 0 ∧ (d.ring_ 0 0).inboxFull = true) ∧
    Meets (fun d => d.engineFree 0 = true ∧ d.releaseDue 0 = some 0 ∧ (d.ring_ 0 0).inboxFull = false) ∧
    Meets (fun d => (∃ m, (d.ring_ 0 0).msgs.find? (fun m => !m.wrap && m.remote.isSome && !m.deliverable) = some m) ∧
      d.engineOn 0 = true ∧ d.engineReaches (rgSite 0 (d.ring_ 0 0).record) = true) :=
  ⟨meets { (chan id id).modHome 0 fun h => { h with flags := [1] } with
           sus := [(181, { Su.reset with sram := Mem.reset.write (64 * 200) [1, 0, 0, 0] })] } rfl (by decide +kernel),
   meets ((chan id id).modHome 0 fun h => { h with flags := [1] }) rfl (by decide +kernel),
   meets (chan (fun x => { x with busy := true, due := true }) id) rfl (by decide +kernel),
   meets ((chan id id).modHome 0 fun h =>
       { h with requests := [{ fromDie := 1, device := 0, tid := none, endpoint := 0, ring := 0, rows := 1 }] }) rfl
     ⟨_, rfl, by decide +kernel⟩,
   meets ((chan id id).modHome 0 fun h =>
       { h with requests := [{ fromDie := 0, device := 1, tid := some 7, endpoint := 0, ring := 0, rows := 1 }] }) rfl
     ⟨_, rfl, by decide +kernel⟩,
   meets ((chan id id).modHome 0 fun h => { h with replies := [{ endpoint := 0, die := 0, ring := 0, result := .ok, row := 0 }] })
     rfl ⟨_, rfl, by decide +kernel⟩,
   meets ((chan id id).modHome 0 fun h => { h with copies := [{ endpoint := 0, die := 0, ring := 0, row := 0, rows := 1 }] })
     rfl ⟨_, rfl, by decide +kernel⟩,
   meets ((chan id fun g => { g with inboxFull := true, msgs := [aMsg] }).modHome 0 fun h => { h with flags := [17] }) rfl
     (by decide +kernel),
   meets ((chan id id).modHome 0 fun h => { h with flags := [17] }) rfl (by decide +kernel),
   meets (chan id fun g => { g with msgs := [{ aMsg with deliverable := false, remote := some 1 }] }) rfl
     ⟨⟨_, rfl⟩, by decide +kernel⟩⟩

/-- A full ring but for its last row, whose head message is one row long. -/
def wrapping : MsgRing := { MsgRing.reset with state := .on, record := ringRec, head := 2, tail := 63, used := 61 }

theorem witness_PlacementStaysInRing :
    (wrapping.head < rgRows wrapping.record ∧ wrapping.tail < rgRows wrapping.record ∧ (wrapping.place aMsg).1 = .ok ∧
      wrapping.head ≤ wrapping.tail ∧ (wrapping.place aMsg).2.1 = 0 ∧ (wrapping.place aMsg).2.2.1 ≠ none) ∧
    (wrapping.place { aMsg with rows := 3 }).1 ≠ .ok ∧ ({ wrapping with state := .off }.place aMsg).1 = .closed := by
  decide +kernel

/-! ### Power, health, security -/

/-- A device card for serial number 0. -/
def card : List Byte :=
  let front := leBytes 4 0x44564344 ++ leBytes 2 1 ++ zeros 10
  front ++ leBytes 4 (crc32 (front ++ zeros 4080)) ++ zeros 4076

set_option maxRecDepth 1000000 in
theorem card_ok : cardOk 0 card = true := by decide +kernel

/-- The key of the firmware images: the base point of the curve. -/
def fwKey : List Byte := beBytes 32 p256X ++ beBytes 32 p256Y

/-- A firmware image of one body row, signed with the key that belongs to the base point and the nonce 1. -/
def fwImage : List Byte :=
  let front := leBytes 4 0x46575247 ++ leBytes 2 1 ++ leBytes 2 0 ++ leBytes 4 1 ++ leBytes 4 0 ++ leBytes 4 0x1000 ++
    leBytes 4 0 ++ leBytes 4 64 ++ leBytes 4 0 ++ zeros 96 ++ zeros 64
  let r := p256X % p256N
  front ++ fwKey ++ beBytes 32 r ++ beBytes 32 ((sha256Nat front + r) % p256N)

set_option maxRecDepth 1000000 in
theorem fwImage_ok : imageCheck { Fuses.reset with keyHash := sha256 fwKey } fwImage = none := by decide +kernel

/-- `dev` with an image in ring SRAM at 0x9000 and the key of the images fused. -/
def withFw (img : List Byte) : Device :=
  { dev with ring := Mem.reset.write 0x9000 img
             sec := { Security.reset with fuses := { Fuses.reset with keyHash := sha256 fwKey, certs := [(0, zeros 4)] } } }

theorem fwImage_length : fwImage.length = 320 := by decide +kernel
theorem fwImage_read : (withFw fwImage).ring.bytes 0x9000 320 = fwImage := by decide +kernel

def fwParams : List Byte := leBytes 4 0x9000 ++ leBytes 4 320

/-- A PWR_STATE that waits for its state, and the state that the power rules then select. -/
def sleeping : Device := dev.modPwr fun p => { p with target := 1, stateCmd := some wid }
def parkSets_ (d : Device) : Device := d.toState.parkSets

theorem witness_PowerAndHealthCommands :
    CmdMeets 0x0601 (fun d ps => wakeFits d.pwr.target.toNat (fieldAt ps 0 4) = true) ∧
    CmdMeets 0x0601 (fun d ps => wakeFits d.pwr.target.toNat (fieldAt ps 0 4) = false) ∧
    ((parkSets_ sleeping).pwr.stateCmd = some wid ∧ (parkSets_ sleeping).pwr.wakeTo = none ∧ (parkSets_ dev).pwr.stateCmd = none) ∧
    CmdMeets 0x0602 (fun d ps => fieldAt ps 1 3 = 0 ∧ fieldAt ps 0 1 ≤ 3 ∧
      wakeFits (fieldAt ps 0 1) d.pwr.leeway.toNat = true ∧ (fieldAt ps 0 1 = 3 → d.tick.life = .off)) ∧
    CmdMeets 0x0603 (fun d ps => fieldAt ps 2 2 = 0 ∧ fieldAt ps 0 1 ≤ 7 ∧ 1 ≤ fieldAt ps 1 1 ∧ fieldAt ps 1 1 ≤ 4 ∧
      d.hlt.trip = false ∧ d.clockLost = false ∧ (d.pwrRegion (fieldAt ps 0 1)).heldOff = false ∧
      ∀ k ∈ d.combs, k.code (fieldAt ps 0 1) ≤ fieldAt ps 1 1) ∧
    CmdMeets 0x0603 (fun d ps => fieldAt ps 2 2 = 0 ∧ fieldAt ps 0 1 = 7 ∧ fieldAt ps 1 1 = 0 ∧ d.hlt.trip = false ∧
      d.clockLost = false ∧ (d.pwrRegion 7).heldOff = false ∧ d.combs = []) ∧
    CmdMeets 0x0603 (fun d ps => fieldAt ps 2 2 = 0 ∧ fieldAt ps 0 1 = 7 ∧ fieldAt ps 1 1 = 4 ∧ d.hlt.trip = false ∧
      d.clockLost = false ∧ (d.pwrRegion 7).heldOff = false ∧ d.combs = [] ∧ (d.pwrRegion 7).ceiling = 0) ∧
    CmdMeets 0x0604 (fun _ _ => True) ∧ CmdMeets 0x0605 (fun _ ps => 1000 ≤ fieldAt ps 0 4 ∧ fieldAt ps 0 4 ≤ 2000) ∧
    CmdMeets 0x0701 (fun _ ps => fieldAt ps 1 3 = 0 ∧ fieldAt ps 0 1 = 0) ∧
    CmdMeets 0x0701 (fun _ ps => fieldAt ps 1 3 = 0 ∧ fieldAt ps 0 1 = 1) ∧
    CmdMeets 0x0701 (fun _ ps => fieldAt ps 1 3 = 0 ∧ fieldAt ps 0 1 = 2) ∧
    CmdMeets 0x0702 (fun d ps => d.tick.life = .off ∧ d.hlt.trip = false ∧ cardOk d.sec.fuses.serial ps = true) ∧
    CmdMeets 0x0702 (fun d ps => d.tick.life = .off ∧ d.hlt.trip = false ∧ cardOk d.sec.fuses.serial ps = false) ∧
    CmdMeets 0x0703 (fun _ ps => fieldAt ps 3 1 = 0 ∧ (fieldAt ps 1 1 = 0 ∨ 12 ≤ fieldAt ps 1 1 ∧ fieldAt ps 1 1 ≤ 26) ∧
      (fieldAt ps 2 1 = 0 ∨ 12 ≤ fieldAt ps 2 1 ∧ fieldAt ps 2 1 ≤ 32)) ∧
    CmdMeets 0x0704 (fun d ps => fieldAt ps 1 3 = 0 ∧ fieldAt ps 0 1 < 8 ∧
      ∀ i, i < 3 → (fieldAt ps 0 1).testBit i = true → (d.input i).level = false) ∧
    CmdMeets 0x0705 (fun _ ps => threshOk (fieldAt ps 0 2) (fieldAt ps 2 2) (fieldAt ps 4 2) (fieldAt ps 6 2) (fieldAt ps 8 2)
      (fieldAt ps 10 2) (fieldAt ps 12 2) = true ∧ fieldAt ps 14 2 = 0) ∧
    CmdMeets 0x0A03 (fun _ ps => fieldAt ps 0 4 % 4 = 0 ∧ fieldAt ps 4 4 % 4 = 0 ∧ 4 ≤ fieldAt ps 4 4 ∧
      fieldAt ps 4 4 ≤ 4096 ∧ counterRangeOk (fieldAt ps 0 4) (fieldAt ps 4 4) = true) :=
  ⟨cmdMeets dev (leBytes 4 0) rfl (by decide +kernel),
   cmdMeets (dev.modPwr fun p => { p with target := 3, leeway := 0xFFFFFFFF }) (leBytes 4 0) rfl (by decide +kernel),
   by decide +kernel, cmdMeets dev [0, 0, 0, 0] rfl (by decide +kernel),
   cmdMeets dev [7, 4, 0, 0] rfl ⟨by decide +kernel, by decide +kernel, by decide +kernel, by decide +kernel,
     by decide +kernel, by decide +kernel, by decide +kernel, fun _ h => nomatch h⟩,
   cmdMeets dev [7, 0, 0, 0] rfl (by decide +kernel),
   cmdMeets (dev.modPwrRegion 7 fun g => { g with ceiling := 0 }) [7, 4, 0, 0] rfl (by decide +kernel),
   cmdMeets dev [] rfl trivial, cmdMeets dev (leBytes 4 2000) rfl (by decide +kernel),
   cmdMeets dev [0, 0, 0, 0] rfl (by decide +kernel), cmdMeets dev [1, 0, 0, 0] rfl (by decide +kernel),
   cmdMeets dev [2, 0, 0, 0] rfl (by decide +kernel),
   cmdMeets dev card rfl ⟨by decide +kernel, by decide +kernel, card_ok⟩, cmdMeets dev [] rfl (by decide +kernel),
   cmdMeets dev [255, 26, 32, 0] rfl (by decide +kernel), cmdMeets dev [7, 0, 0, 0] rfl (by decide +kernel),
   cmdMeets dev (leBytes 2 0x5A0 ++ leBytes 2 0x690 ++ leBytes 2 0x730 ++ leBytes 2 0x50 ++ leBytes 2 40 ++ leBytes 2 80 ++
     leBytes 2 0x5F0 ++ leBytes 2 0) rfl (by decide +kernel),
   cmdMeets dev (leBytes 4 0xC000000 ++ leBytes 4 4) rfl (by decide +kernel)⟩

/-- What SENSOR_READ finds before the trip is looked at. -/
def sampled (d : Device) (vs : List (Option (BitVec 16))) : Device :=
  let read := ((d.modHlt (·.takeThresh)).readSensors 0 vs).modHlt fun h => (List.range 5).foldl (fun h die => h.evalMax die) h
  let eval := ((List.range 4).foldl (fun d die => d.evalWarn die) read).evalEmergencies
  eval.modHlt fun h =>
    { h with coolSince := if h.allCool then (match h.coolSince with | some t => some t | none => some eval.now) else none }

/-- Die 0 is in thermal emergency. -/
def hot (holds : Bool) : Device :=
  { dev with pwr := { Power.reset with emerg := [(0, { Emergency.reset with thermal := !holds, holds := holds
                                                                            clearSince := if holds then some 0 else none })] }
             tick := { Tick.reset with life := .on }, now := ns 1000000 }

/-- What the droop monitor of region 0 makes of a measurement. -/
def droopAt (d : Device) (v : BitVec 16) : Nat := (BitVec.ofNat 16 (v.toNat + d.droopTrim 0).toNat).toNat

/-- A device whose setpoint lies far above what is measured, with a limit. -/
def drooping (limit : BitVec 16) : Device :=
  { dev with hlt := { Health.reset with droopWarn := 0, droopLimit := limit }
             sec := { Security.reset with fuses := { Fuses.reset with setpoints := [(1, 800)] } } }

theorem witness_MonitorsAndPins :
    Meets (fun d => (sampled d [some 0]).hlt.tripping = none) ∧
    Meets (fun d => (∃ i t, (sampled d [some 0x730]).hlt.tripping = some (i, t)) ∧
      (sampled d [some 0x730]).hlt.trip = false) ∧
    Meets (fun d => (∃ i t, (sampled d [some 0x730]).hlt.tripping = some (i, t)) ∧
      (sampled d [some 0x730]).hlt.trip = true) ∧
    Meets (fun d => d.hlt.trip = true ∧ d.hlt.coolSince = some 0 ∧ 0 + ns 100000000 ≤ d.now) ∧
    Meets (fun d => (d.emergency 0).triggers ≠ 0 ∧ (d.emergency 0).holds = false ∧ (d.pwrRegion 0).freq.toNat ≤ 1 ∧
      (d.pwrRegion 1).freq.toNat ≤ 1) ∧
    Meets (fun d => (d.emergency 0).clearSince = some 0 ∧ (d.emergency 0).holds = true ∧ 0 + ns 1000000 ≤ d.now ∧
      d.tick.life ≠ .off) ∧
    Meets (fun d => d.setpoint 0 (d.pwrRegion 0).freq.toNat ≤ d.hlt.droopWarn.toNat + droopAt d 700) ∧
    Meets (fun d => d.hlt.droopWarn.toNat + droopAt d 100 < d.setpoint 0 (d.pwrRegion 0).freq.toNat ∧
      d.setpoint 0 (d.pwrRegion 0).freq.toNat < d.hlt.droopLimit.toNat + droopAt d 100) ∧
    Meets (fun d => d.hlt.droopWarn.toNat + droopAt d 0 < d.setpoint 0 (d.pwrRegion 0).freq.toNat ∧
      d.hlt.droopLimit.toNat + droopAt d 0 ≤ d.setpoint 0 (d.pwrRegion 0).freq.toNat) ∧
    Meets (fun d => d.idleOk = false ∧ d.pwr.state = 1 ∧ d.pwr.wakeTo = none) ∧
    Meets (fun d => d.pwr.wakeTo = some 0) ∧
    Meets (fun d => ((d.input 2).drive 2 true 49 d.now).edge = false) ∧
    Meets (fun d => ((d.input 2).drive 2 true 50 d.now).edge = true) ∧
    Meets (fun d => (d.input 1).level = true ∧ (d.input 1).stuck = false ∧ (d.input 1).since + ns (inputStuckNs 1) < d.now) ∧
    ((true ≠ Input.reset.level ∧ (50 : Nat) ≤ 50 ∧ ∀ t, Input.reset.lastAssert = some t → t + ns (inputInterval 0) ≤ 0) ∧
      (∃ t, ({ Input.reset with lastAssert := some 0 } : Input).lastAssert = some t ∧ 0 < t + ns (inputInterval 0)) ∧
      ({ Input.reset with level := true } : Input).level = true) :=
  ⟨meets dev rfl (by decide +kernel), meets dev rfl ⟨⟨0, 0x730, by decide +kernel⟩, by decide +kernel⟩,
   meets (dev.modHlt fun h => { h with trip := true }) rfl ⟨⟨0, 0x730, by decide +kernel⟩, by decide +kernel⟩,
   meets { dev with hlt := { Health.reset with trip := true, coolSince := some 0 }, now := ns 100000000 } rfl (by decide +kernel),
   meets (hot false) rfl (by decide +kernel), meets (hot true) rfl (by decide +kernel), meets dev rfl (by decide +kernel),
   meets (drooping 1000) rfl (by decide +kernel), meets (drooping 0) rfl (by decide +kernel),
   meets { dev with pwr := { Power.reset with state := 1 }, tick := { Tick.reset with life := .starting } } rfl
     (by decide +kernel),
   meets (dev.modPwr fun p => { p with state := 2, wakeTo := some 0 }) rfl (by decide +kernel),
   meets dev rfl (by decide +kernel), meets dev rfl (by decide +kernel),
   meets ({ dev with now := ns (inputStuckNs 1) + 1 }.modInput 1 fun p => { p with level := true }) rfl (by decide +kernel),
   ⟨by decide, by decide, fun _ h => nomatch h⟩, ⟨0, rfl, by decide +kernel⟩, rfl⟩

set_option maxRecDepth 1000000 in
theorem witness_SecurityAndRestart :
    CmdMeets 0x0801 (fun d ps => d.host.loader ≠ 2 ∧ fieldAt ps 0 4 = 0x9000 ∧ fieldAt ps 4 4 = 320 ∧
      d.ring.rangeBad (fieldAt ps 0 4) (fieldAt ps 4 4) = false ∧ imageCheck d.sec.fuses (d.ring.bytes 0x9000 320) = none) ∧
    ((Fuses.reset.commit 1).2 = true ∧ ({ Fuses.reset with weak := 1 }.commit 1).2 = false) ∧
    CmdMeets 0x0801 (fun d ps => d.host.loader ≠ 2 ∧ fieldAt ps 0 4 = 0x9000 ∧ fieldAt ps 4 4 = 320 ∧
      d.ring.rangeBad (fieldAt ps 0 4) (fieldAt ps 4 4) = true) ∧
    CmdMeets 0x0801 (fun d ps => d.host.loader ≠ 2 ∧ fieldAt ps 0 4 = 0x9000 ∧ fieldAt ps 4 4 = 320 ∧
      d.ring.rangeBad (fieldAt ps 0 4) (fieldAt ps 4 4) = false ∧ imageCheck d.sec.fuses (d.ring.bytes 0x9000 320) = some 1) ∧
    CmdMeets 0x0802 (fun _ _ => True) ∧
    CmdMeets 0x0803 (fun d ps => fieldAt ps 1 3 = 0 ∧ fieldAt ps 0 1 ≤ 2 ∧
      fieldAt ps 4 4 < (d.sec.fuses.certs.getD (fieldAt ps 0 1) []).length) ∧
    CmdMeets 0x0804 (fun _ _ => True) ∧ Meets (fun d => d.seq.ref0 = true ∧ d.seq.ref1 = true) :=
  ⟨cmdMeets (withFw fwImage) fwParams rfl ⟨by decide +kernel, by decide +kernel, by decide +kernel, by decide +kernel,
     by
       show imageCheck _ ((withFw fwImage).ring.bytes 0x9000 320) = none
       rw [fwImage_read]
       exact fwImage_ok⟩,
   by decide +kernel,
   cmdMeets { dev with ring := { cells := [], marks := [(577, .poison)] } } fwParams rfl (by decide +kernel),
   cmdMeets (withFw []) fwParams rfl (by decide +kernel), cmdMeets dev (zeros 32) rfl trivial,
   cmdMeets (withFw []) ([0, 0, 0, 0] ++ leBytes 4 3) rfl (by decide +kernel), cmdMeets dev [] rfl trivial,
   meets dev rfl (by decide +kernel)⟩

theorem witness_SequencerAndResetPin :
    (∃ s : State, s.dev.seq.pwrEn = false ∧ s.dev.seq.rerun = false ∧ s.dev.seq.status = 0 ∧ s.dev.seq.aonValid = true) ∧
    (∃ s : State, s.dev.seq.aonValid = false ∧ s.dev.seq.pwrEn = true ∧ s.dev.seq.status = 0) ∧
    (∃ s : State, s.dev.seq.plan = [.inl (3 : Fin 4).val] ∧ s.dev.seq.status = 4) ∧
    (∃ s : State, s.dev.seq.checking = some (18 : Fin 19).val ∧ 2 ≤ (18 : Fin 19).val) ∧
    (∃ s : State, s.dev.seq.checking = some (1 : Fin 19).val ∧ (1 : Fin 19).val ≤ 1) ∧ Sequencer.reset.plan = [] ∧
    (∃ s : State, s.dev.seq.pwrEn = true ∧ s.dev.up = false) ∧ (∃ s : State, s.dev.seq.offPlan = [18, 17]) ∧
    (∃ s : State, s.dev.seq.offPlan = [0] ∧ s.dev.seq.status = 0xE) ∧
    (∃ s : State, s.dev.seq.pwrOk = true ∧ s.dev.seq.on 18 = true) ∧
    (∃ s : State, (s.dev.input 3).level = false) ∧
    (∃ s : State, (s.dev.input 3).level = true ∧ s.dev.okLongEnough = true ∧ s.dev.seq.railsOn.getLsbD 0 = true ∧
      s.dev.seq.railsOn.getLsbD 1 = true) ∧
    (∃ s : State, (s.dev.input 3).level = true ∧ s.dev.okLongEnough = false) ∧
    ∃ s : State, s.dev.seq.hubHeld = true ∧ s.dev.seq.resetLow = false ∧ s.dev.okLongEnough = true :=
  ⟨⟨⟨[], { dev with seq := { Sequencer.reset with pwrEn := false, status := 0 } }⟩, by decide +kernel⟩,
   ⟨⟨[], { dev with seq := { Sequencer.reset with aonValid := false, status := 0 } }⟩, by decide +kernel⟩,
   ⟨⟨[], { dev with seq := { Sequencer.reset with plan := [.inl 3], status := 4 } }⟩, by decide +kernel⟩,
   ⟨⟨[], { dev with seq := { Sequencer.reset with checking := some 18 } }⟩, by decide +kernel⟩,
   ⟨⟨[], { dev with seq := { Sequencer.reset with checking := some 1 } }⟩, by decide +kernel⟩, rfl,
   ⟨held, by decide +kernel⟩, ⟨⟨[], { dev with seq := { Sequencer.reset with offPlan := [18, 17] } }⟩, by decide +kernel⟩,
   ⟨⟨[], { dev with seq := { Sequencer.reset with offPlan := [0], status := 0xE } }⟩, by decide +kernel⟩,
   ⟨⟨[], dev⟩, by decide +kernel⟩, ⟨⟨[], dev⟩, by decide +kernel⟩,
   ⟨⟨[], dev.modInput 3 fun p => { p with level := true }⟩, by decide +kernel⟩,
   ⟨⟨[], { dev with seq := { Sequencer.reset with okSince := some 0 } }.modInput 3 fun p => { p with level := true }⟩,
     by decide +kernel⟩,
   ⟨⟨[], { dev with seq := { Sequencer.reset with hubHeld := true } }⟩, by decide +kernel⟩⟩

/-! ### Vexlink -/

/-- Device number 0 with port 0 in a state. -/
def vx (f : VxlPort → VxlPort) : Device :=
  on.modVxl fun v => { v with valid := true, ports := [(0, f { VxlPort.reset with life := .on, version := 2, rate := 1, width := 3 })] }

/-- What a link partner offers and finds at the best. -/
def training : Training := { modes := 7, versions := 3, good := 0xF, reversed := false, polarity := 0, delayPs := 0 }

/-- A group that the multicast tests send to. -/
def grouped : Device := (vx id).modVxl fun v => { v with groups := [(0, 9, [1])] }

theorem some_pair {α β : Type} {o : Option (α × β)} (h : o.isSome = true) : ∃ a b, o = some (a, b) :=
  match o, h with
  | some (a, b), _ => ⟨a, b, rfl⟩

set_option maxRecDepth 100000 in
theorem witness_VexlinkCommands :
    CmdMeets 0x0901 (fun d ps => fieldAt ps 0 1 ≤ 11 ∧ 1 ≤ fieldAt ps 1 1 ∧ fieldAt ps 1 1 ≤ 7 ∧ 1 ≤ fieldAt ps 2 1 ∧
      fieldAt ps 2 1 ≤ 3 ∧ fieldAt ps 3 1 = 4 ∧ (d.port (fieldAt ps 0 1)).life = .off) ∧
    CmdMeets 0x0902 (fun d ps => fieldAt ps 0 1 ≤ 11 ∧ fieldAt ps 1 3 = 0 ∧ d.vxl.valid = true ∧
      d.seq.portOk (fieldAt ps 0 1) = true ∧ (d.port (fieldAt ps 0 1)).life = .off) ∧
    CmdMeets 0x0902 (fun d ps => fieldAt ps 0 1 ≤ 11 ∧ fieldAt ps 1 3 = 0 ∧ d.vxl.valid = true ∧
      d.seq.portOk (fieldAt ps 0 1) = true ∧ (d.port (fieldAt ps 0 1)).life = .stopping) ∧
    CmdMeets 0x0902 (fun d ps => fieldAt ps 0 1 ≤ 11 ∧ fieldAt ps 1 3 = 0 ∧ d.vxl.valid = true ∧
      d.seq.portOk (fieldAt ps 0 1) = true ∧ (d.port (fieldAt ps 0 1)).life = .on) ∧
    CmdMeets 0x0902 (fun d ps => fieldAt ps 0 1 ≤ 11 ∧ fieldAt ps 1 3 = 0 ∧ d.vxl.valid = false) ∧
    CmdMeets 0x0903 (fun d ps => fieldAt ps 0 1 ≤ 11 ∧ fieldAt ps 1 3 = 0 ∧ (d.port (fieldAt ps 0 1)).life = .stopping) ∧
    CmdMeets 0x0903 (fun d ps => fieldAt ps 0 1 ≤ 11 ∧ fieldAt ps 1 3 = 0 ∧ (d.port (fieldAt ps 0 1)).life = .starting) ∧
    CmdMeets 0x0903 (fun d ps => fieldAt ps 0 1 ≤ 11 ∧ fieldAt ps 1 3 = 0 ∧ (d.port (fieldAt ps 0 1)).life = .on) ∧
    CmdMeets 0x0903 (fun d ps => fieldAt ps 0 1 ≤ 11 ∧ fieldAt ps 1 3 = 0 ∧ (d.port (fieldAt ps 0 1)).life = .off) ∧
    CmdMeets 0x0904 (fun d ps => fieldAt ps 0 4 < 2 ^ 18 ∧ ∀ q, q < 12 → (d.port q).life = .off) ∧
    CmdMeets 0x0905 (fun d ps => 1 ≤ fieldAt ps 2 2 ∧ fieldAt ps 2 2 ≤ 64 ∧ fieldAt ps 0 2 + fieldAt ps 2 2 ≤ 1024 ∧
      fieldAt ps 4 4 = 0 ∧ (∀ e ∈ bearingEntries ps, bearingOk e.2 = true) ∧
      bearingsDistinct ((bearingEntries ps).foldl (fun t e => t.put e.1 e.2) d.vxl.bearings) = true) ∧
    CmdMeets 0x0906 (fun _ ps => fieldAt ps 0 1 ≤ 15 ∧ fieldAt ps 1 1 ≤ 64 ∧ fieldAt ps 2 2 = 0 ∧ fieldAt ps 4 4 < 2 ^ 18 ∧
      ∀ k, k < fieldAt ps 1 1 → fieldAt ps (8 + 4 * k) 4 < 2 ^ 18) ∧
    CmdMeets 0x0907 (fun d ps => d.vxl.valid = true ∧ d.hbmRefused 2 (fieldAt ps 0 8) (fieldAt ps 16 8) = none ∧
      ∃ x d', (d.acted wid).newTransfer 28 (BitVec.ofNat 18 (chartDevice (BitVec.ofNat 64 (fieldAt ps 8 8))))
        { Transfer.blank with src := fieldAt ps 0 8, dst := BitVec.ofNat 64 (fieldAt ps 8 8), len := fieldAt ps 16 8,
                              closed := true, cmd := some wid } = some (x, d')) ∧
    CmdMeets 0x0908 (fun _ ps => bitsNat (fieldAt ps 0 4) 9 8 = 0 ∧ 5 ≤ bitsNat (fieldAt ps 0 4) 29 20 ∧
      bitsNat (fieldAt ps 0 4) 29 20 ≤ 1000 ∧ 1 ≤ bitsNat (fieldAt ps 0 4) 19 10 ∧ bitsNat (fieldAt ps 0 4) 19 10 ≤ 1000 ∧
      10 ≤ bitsNat (fieldAt ps 0 4) 7 0 ∧ bitsNat (fieldAt ps 0 4) 7 0 ≤ 200) ∧
    CmdMeets 0x0909 (fun _ _ => True) ∧
    CmdMeets 0x090A (fun d ps => fieldAt ps 0 1 ≤ 2 ∧ fieldAt ps 1 1 ≤ 11 ∧ fieldAt ps 2 2 < 2 ^ 12 ∧ 1000 ≤ fieldAt ps 4 4 ∧
      fieldAt ps 4 4 ≤ 100000 ∧ d.tick.life = .off) ∧
    CmdMeets 0x090A (fun d ps => fieldAt ps 0 1 = 0 ∧ fieldAt ps 1 1 = 15 ∧ fieldAt ps 2 2 < 2 ^ 12 ∧ d.tick.life = .off) :=
  ⟨cmdMeets dev [11, 7, 3, 4] rfl (by decide +kernel),
   cmdMeets (dev.modVxl fun v => { v with valid := true }) [11, 0, 0, 0] rfl (by decide +kernel),
   cmdMeets (vx fun p => { p with life := .stopping }) (zeros 4) rfl (by decide +kernel),
   cmdMeets (vx id) (zeros 4) rfl (by decide +kernel), cmdMeets dev (zeros 4) rfl (by decide +kernel),
   cmdMeets (vx fun p => { p with life := .stopping }) (zeros 4) rfl (by decide +kernel),
   cmdMeets (vx fun p => { p with life := .starting }) (zeros 4) rfl (by decide +kernel),
   cmdMeets (vx id) (zeros 4) rfl (by decide +kernel), cmdMeets dev (zeros 4) rfl (by decide +kernel),
   cmdMeets dev (leBytes 4 (2 ^ 18 - 1)) rfl (by decide +kernel),
   cmdMeets dev (leBytes 2 1023 ++ leBytes 2 1 ++ zeros 4 ++ leBytes 8 0) rfl (by decide +kernel),
   cmdMeets dev ([15, 1, 0, 0] ++ leBytes 4 9 ++ leBytes 4 (2 ^ 18 - 1)) rfl (by decide +kernel),
   cmdMeets grouped (leBytes 8 0 ++ leBytes 8 (9 * 2 ^ 46) ++ leBytes 8 64) rfl
     ⟨by decide +kernel, by decide +kernel, some_pair (by decide +kernel)⟩,
   cmdMeets dev (leBytes 4 (5 * 2 ^ 20 + 1000 * 2 ^ 10 + 10)) rfl (by decide +kernel), cmdMeets dev [] rfl trivial,
   cmdMeets dev ([2, 11] ++ leBytes 2 4095 ++ leBytes 4 1000) rfl (by decide +kernel),
   cmdMeets dev ([0, 15] ++ zeros 6) rfl (by decide +kernel)⟩

/-- A frame for device 0 from device 1, next in sequence. -/
def hdr : FrameHdr :=
  { hops := 0, dest := 0, src := 1, lseq := 0, good := true, part := none, corrected := 0, uncorrectable := 0, reserved := false }

def badHdr : FrameHdr := { hdr with good := false }

/-- A write of `n` bytes to address 0. -/
def txnOf (op : BitVec 8) (n : Nat) : Txn := { tid := 7, address := 0, op := op, xfer := 0, poison := 0, data := zeros n }
def txn (op : BitVec 8) : Txn := txnOf op 64

/-- A flit of an ACK frame that waits for its acknowledgement. -/
def aFlit : Frame := { flit := 0, time := 0, hops := 1, dest := 3, src := 1, lseq := 0, body := .ack 7 }

/-- `vx` in retraining, with a partner that finds one good lane. -/
def retraining : Device := vx fun p => { p with retrain := true, minWidth := 4 }
def narrow : Training := { training with good := 1 }

/-- Port 0 with a replay buffer and a count of replays. -/
def replaying (sent : List Frame) (tries : Nat) : Device := vx fun p => { p with sent := sent, tries := tries }

/-- The frame has reached port 0 of the device. -/
def LinkMeets (c : Instr) (h : FrameHdr) (b : FrameBody) (d : Device) (P : Device → Prop) : Prop :=
  d.up = true ∧ linkFrame c = some (0, h, b) ∧ c.wellFormed = true ∧ P d

theorem witness_LinkLayer :
    (Meets (fun d => (d.port 0).life = .starting ∧ ∃ v, (d.port 0).trained training = some v) ∧
     Meets (fun d => (d.port 0).life = .starting ∧ (d.port 0).trained { training with modes := 0 } = none) ∧
     Meets (fun d => (d.port 0).life = .on ∧ (d.port 0).retrain = false ∧ (1000 : Nat) < 1001) ∧
     Meets (fun d => 16 ≤ (d.port 0).tries ∧ (d.port 0).life = .on ∧ (d.port 0).retrain = false) ∧
     Meets (fun d => (d.port 0).life = .on ∧ (d.port 0).retrain = true ∧ ∃ w, (d.port 0).trained training = some w ∧
       (d.port 0).minWidth ≤ widthLanes w.width.toNat) ∧
     Meets (fun d => (d.port 0).life = .on ∧ (d.port 0).retrain = true ∧ ∃ w, (d.port 0).trained narrow = some w ∧
       widthLanes w.width.toNat < (d.port 0).minWidth) ∧
     Meets (fun d => (d.port 0).usable = true ∧ (d.port 0).sent = []) ∧
     Meets (fun d => (d.port 0).usable = true ∧ (d.port 0).sent ≠ [] ∧ (d.port 0).tries < 16) ∧
     Meets (fun d => (d.port 0).usable = true ∧ (d.port 0).sent ≠ [] ∧ 16 ≤ (d.port 0).tries) ∧
     Meets (fun d => (d.port 0).takes = true ∧ hdr.good = true ∧ hdr.uncorrectable = 0 ∧ hdr.corrected = 0 ∧ hdr.reserved = false) ∧
     Meets (fun d => (d.port 0).life = .stopping ∧ (d.port 0).disableCmd = some wid)) ∧
    (LinkMeets (.ack 0 hdr 7) hdr (.ack 7) dev (fun d => (d.port 0).takes = false) ∧
     LinkMeets (.ack 0 badHdr 7) badHdr (.ack 7) (vx id) (fun d => (d.port 0).takes = true ∧ badHdr.good = false) ∧
     (let h := { hdr with reserved := true }
      LinkMeets (.ack 0 h 7) h (.ack 7) (vx id) fun d => d.linkOk 0 h (.ack 7) ∧ h.reserved = true) ∧
     (let h := { hdr with part := some (0, 1) }
      LinkMeets (.writeTxn 0 h (txnOf 1 256)) h (.write (txnOf 1 256)) (vx id) fun d =>
        d.linkOk 0 h (.write (txnOf 1 256)) ∧ (flitsOf h (.write (txnOf 1 256))).1 + (flitsOf h (.write (txnOf 1 256))).2 <
          FrameBody.flits (.write (txnOf 1 256))) ∧
     (let h := { hdr with dest := 5 }
      LinkMeets (.ack 0 h 7) h (.ack 7) (vx id) fun d => d.hears 0 h (.ack 7) ∧ d.vxl.own h.dest = false ∧
        d.localAlias h.dest = false ∧ h.hops = 0) ∧
     (let h := { hdr with dest := 5, hops := 1 }
      LinkMeets (.ack 0 h 7) h (.ack 7) (vx id) fun d => d.hears 0 h (.ack 7) ∧ d.vxl.own h.dest = false ∧
        d.localAlias h.dest = false ∧ h.hops ≠ 0)) :=
  ⟨⟨meets (vx fun p => { p with life := .starting }) rfl ⟨by decide +kernel, _, rfl⟩,
    meets (vx fun p => { p with life := .starting }) rfl (by decide +kernel), meets (vx id) rfl (by decide +kernel),
    meets (replaying [aFlit] 16) rfl (by decide +kernel), meets retraining rfl ⟨by decide +kernel, by decide +kernel, _, rfl, by decide +kernel⟩,
    meets retraining rfl ⟨by decide +kernel, by decide +kernel, _, rfl, by decide +kernel⟩,
    meets (vx id) rfl (by decide +kernel), meets (replaying [aFlit] 15) rfl (by decide +kernel),
    meets (replaying [aFlit] 16) rfl (by decide +kernel), meets (vx id) rfl (by decide +kernel),
    meets (vx fun p => { p with life := .stopping, disableCmd := some wid }) rfl (by decide +kernel)⟩,
   ⟨rfl, rfl, by decide +kernel, by decide +kernel⟩, ⟨rfl, rfl, by decide +kernel, by decide +kernel⟩,
   ⟨rfl, rfl, by decide +kernel, by unfold Device.linkOk; decide +kernel⟩,
   ⟨rfl, rfl, by decide +kernel, by unfold Device.linkOk; decide +kernel⟩,
   ⟨rfl, rfl, by decide +kernel, by unfold Device.hears Device.linkOk; decide +kernel⟩,
   ⟨rfl, rfl, by decide +kernel, by unfold Device.hears Device.linkOk; decide +kernel⟩⟩

/-- A landing window on rows 0 to 3 of the SU at site 181, of the IOU at site 12. -/
def window : List Byte := [1, 5, 0, 0] ++ leBytes 2 0 ++ leBytes 2 4 ++ [0, 0] ++ leBytes 2 0x8010 ++ zeros 4

/-- The chart address of those rows. -/
def rowsChart : Word64 := BitVec.ofNat 64 (2 ^ 44 + 2 ^ 28 + 5 * 2 ^ 22)

/-- `vx` on a job with that window. -/
def landing : Device :=
  withImage { vx id with comb := job.comb } 12 (image (zeros 4 ++ [0, 1] ++ zeros 0x7A ++ window))

/-- A frame with a body has come through port 0 of the device for which it is. -/
def HearMeets (d : Device) (b : FrameBody) (P : Device → Prop) : Prop :=
  d.up = true ∧ d.hears 0 hdr b ∧ d.forHere hdr.dest ∧ P d

theorem hearMeets {d : Device} {b : FrameBody} {P : Device → Prop} (hu : d.up = true)
    (h : ((d.port 0).takes && (d.port 0).rxSeq == 0 && (d.port 0).follows (flitsOf hdr b).1 b &&
      decide (b.flits ≤ (flitsOf hdr b).1 + (flitsOf hdr b).2)) = true) (ho : d.vxl.own 0 = true) (hp : P d) :
    HearMeets d b P := by
  simp only [Bool.and_eq_true, beq_iff_eq, decide_eq_true_eq] at h
  exact ⟨hu, ⟨⟨h.1.1.1, rfl, rfl, h.1.1.2.symm, h.1.2⟩, rfl, h.2⟩, .inl ho, hp⟩

theorem ok_false {α : Type} {x : Except α Bool} (h : (match x with | .ok b => !b | .error _ => false) = true) :
    x = .ok false :=
  match x, h with
  | .ok false, _ => rfl

theorem err_of {α β : Type} {x : Except α β} (h : (match x with | .ok _ => false | .error _ => true) = true) :
    ∃ e, x = .error e :=
  match x, h with
  | .error e, _ => ⟨e, rfl⟩

theorem some_with {α : Type} {P : α → Prop} [DecidablePred P] {o : Option α} (h : (o.any fun a => decide (P a)) = true) :
    ∃ a, o = some a ∧ P a :=
  match o, h with
  | some a, h => ⟨a, rfl, of_decide_eq_true h⟩

/-- The flag of bit 63 of space 2, and the first register. -/
def flagChart : Word64 := BitVec.ofNat 64 (2 ^ 45 + 131064)
def regChart : Word64 := BitVec.ofNat 64 (2 ^ 45 + 2 ^ 40)

/-- `landing` with the window in a state and requests queued for it. -/
def landingWith (st : BitVec 2) (n : Nat) : Device :=
  landing.modIou 12 fun x =>
    { x with windows := [(0, { Window.reset with state := st, queue := List.replicate n (1, 9, false) })] }

/-- A request on rows 0 to 3 finds the window in a state with a number of requests queued. -/
def windowIs (st : BitVec 2) (n : Nat) (d : Device) : Prop :=
  d.vxl.admission 7 = .fresh ∧ d.comb.state ≠ .halted ∧ chartSpace rowsChart = 1 ∧ scratchPlace rowsChart = some (0, 1, 5, 0) ∧
    ∃ w, d.windowAt 0 1 5 0 (4 : BitVec 16).toNat = some w ∧ (d.window w).state = st ∧
      ((d.iou w.iou).windows.map fun k => k.2.queue.length).sum = n

theorem window_of {st : BitVec 2} {n : Nat} {d : Device} (h : d.vxl.admission 7 = .fresh) (hc : d.comb.state ≠ .halted)
    (hw : ((d.windowAt 0 1 5 0 (4 : BitVec 16).toNat).any fun w => decide ((d.window w).state = st ∧
      ((d.iou w.iou).windows.map fun k => k.2.queue.length).sum = n)) = true) : windowIs st n d :=
  ⟨h, hc, by decide +kernel, by decide +kernel, some_with hw⟩

/-- What the source table answers for TID 7. -/
def srcWith (es : List SrcEntry) : Device := (vx id).modVxl fun v => { v with src := es }
def anEntry : SrcEntry := { device := 0, orig := 0, top := 7, done := [], doing := [] }

theorem witness_RequestsAreCarriedOut :
    HearMeets (vx id) (.write (txn 1)) (fun d => (Instr.writeTxn 0 hdr (txn 1)).wellFormed = true ∧ (txn 1).xfer = 0 ∧
      d.vxl.admission 7 = .fresh ∧ chartSpace (txn 1).address = 0 ∧
      d.hbmRemote (chartOffset (txn 1).address) (txn 1).data.length = .ok false) ∧
    HearMeets ((vx id).modStack 0 fun s => { s with state := 3 }) (.write (txn 1)) (fun d => d.vxl.admission 7 = .fresh ∧
      ∃ e, d.hbmRemote (chartOffset (txn 1).address) (txn 1).data.length = .error e) ∧
    HearMeets (vx id) (.flag 7 flagChart true) (fun d => d.vxl.admission 7 = .fresh ∧ chartSpace flagChart = 2 ∧
      d.comb.state ≠ .halted ∧ chartOffset flagChart % 8 = 0 ∧ chartOffset flagChart < 131072) ∧
    HearMeets (vx id) (.readReq 7 0 4032) (fun d => chartSpace 0 = 0 ∧ 1 ≤ (4032 : BitVec 16).toNat ∧
      (4032 : BitVec 16).toNat ≤ 4032 ∧ d.hbmRemote (chartOffset 0) (4032 : BitVec 16).toNat = .ok false) ∧
    HearMeets (vx id) (.regRead 7 regChart 256) (fun _ =>
      chartSpace regChart = 2 ∧ bitsNat (chartOffset regChart) 43 32 = 2 ^ 8 ∧ chartOffset regChart % 2 ^ 32 % 4 = 0 ∧
      (256 : BitVec 16).toNat % 4 = 0 ∧ 4 ≤ (256 : BitVec 16).toNat ∧ (256 : BitVec 16).toNat ≤ 256 ∧
      counterRangeOk (chartOffset regChart % 2 ^ 32) (256 : BitVec 16).toNat = true) ∧
    HearMeets landing (.creditReq 7 rowsChart 4) (windowIs 0 0) ∧
    HearMeets (landingWith 1 15) (.creditReq 7 rowsChart 4) (windowIs 1 15) ∧
    HearMeets (landingWith 1 16) (.creditReq 7 rowsChart 4) (windowIs 1 16) ∧
    HearMeets (vx id) (.placeReq 7 3 63 4) (fun d => d.vxl.admission 7 = .fresh ∧ d.comb.state ≠ .halted) ∧
    HearMeets (vx id) (.withdraw 7) (fun _ => True) ∧ HearMeets (vx id) (.prune 5) (fun _ => True) ∧
    HearMeets (srcWith [{ anEntry with done := [7] }]) (.flag 7 flagChart true) (fun d => d.vxl.admission 7 = .done) ∧
    HearMeets (srcWith [{ anEntry with doing := [7] }]) (.creditReq 7 rowsChart 4) (fun d => d.vxl.admission 7 = .doing) ∧
    HearMeets (srcWith [{ anEntry with top := 1031 }]) (.placeReq 7 0 0 1) (fun d => d.vxl.admission 7 = .stale) ∧
    HearMeets (srcWith (List.replicate 4096 { anEntry with device := 1 })) (.write (txn 1)) (fun d => d.vxl.admission 7 = .full) :=
  ⟨hearMeets rfl (by decide +kernel) (by decide +kernel) ⟨by decide +kernel, by decide +kernel, by decide +kernel,
     by decide +kernel, ok_false (by decide +kernel)⟩,
   hearMeets rfl (by decide +kernel) (by decide +kernel) ⟨by decide +kernel, err_of (by decide +kernel)⟩,
   hearMeets rfl (by decide +kernel) (by decide +kernel) (by decide +kernel),
   hearMeets rfl (by decide +kernel) (by decide +kernel) ⟨by decide +kernel, by decide +kernel, by decide +kernel,
     ok_false (by decide +kernel)⟩,
   hearMeets rfl (by decide +kernel) (by decide +kernel) (by decide +kernel),
   hearMeets rfl (by decide +kernel) (by decide +kernel) (window_of (by decide +kernel) (by decide +kernel) (by decide +kernel)),
   hearMeets rfl (by decide +kernel) (by decide +kernel) (window_of (by decide +kernel) (by decide +kernel) (by decide +kernel)),
   hearMeets rfl (by decide +kernel) (by decide +kernel) (window_of (by decide +kernel) (by decide +kernel) (by decide +kernel)),
   hearMeets rfl (by decide +kernel) (by decide +kernel) (by decide +kernel),
   hearMeets rfl (by decide +kernel) (by decide +kernel) trivial, hearMeets rfl (by decide +kernel) (by decide +kernel) trivial,
   hearMeets rfl (by decide +kernel) (by decide +kernel) (by decide +kernel),
   hearMeets rfl (by decide +kernel) (by decide +kernel) (by decide +kernel),
   hearMeets rfl (by decide +kernel) (by decide +kernel) (by decide +kernel),
   hearMeets rfl (by decide +kernel) (by decide +kernel) (by decide +kernel)⟩

/-- A transaction with TID 7 that waits for its answer. -/
def outstanding (k : TxnKind) (f : FrameBody) : Outstanding :=
  { tid := 7, dest := 1, kind := k, frame := f, waiting := false, queued := false, resends := 0, retries := 3,
    site := some (12, 0), cmd := none, lasts := [], data := none }

/-- `landing` with one such transaction. -/
def sent (o : Outstanding) : Device := landing.modVxl fun v => { v with out := [o] }

def sentWrite : Outstanding := outstanding .write (.write (txn 1))
def sentRead : Outstanding := outstanding .read (.readReq 7 0 64)
def sentCredit : Outstanding := outstanding .credit (.creditReq 7 rowsChart 4)
def sentPlace : Outstanding := outstanding (.placement 0 0) (.placeReq 7 0 0 1)

/-- A transfer to device 1 that waits for its grant, with TID 7 among what it has sent. -/
def transfer : Transfer :=
  { Transfer.blank with xfer := 5, dest := 9, receivers := [1], credit := some 7, len := 64, sent := [(0, 7, [])] }

/-- A placement that waits for its answer at endpoint 0 of die 0. -/
def placing : Device :=
  { sent sentPlace with homes := (chan (fun x => { x with busy := true, waitReply := true }) id).homes, pilots := job.pilots }

/-- A copy to another device whose read of device 1 has gone out. -/
def copying : Device :=
  (sent { sentRead with site := none, cmd := some wid }).modHost fun h =>
    { h with cmds := [someCmd 0x0201 (copyParams 3 3 0 0 64) true] }

theorem witness_AnswersReachTheirSender :
    HearMeets (sent sentWrite) (.ack 7) (fun d => d.transferOf 7 = none ∧
      ∃ o, d.findOut 7 = some o ∧ o.kind = .write ∧ o.waiting = false) ∧
    HearMeets (landing.modVxl fun v => { v with running := [transfer] }) (.ack 7) (fun d => ∃ t, d.transferOf 7 = some t) ∧
    HearMeets (sent sentWrite) (.nak 7 1 0) (fun d => d.vxl.running = [] ∧ nakResends 1 = true ∧
      ∃ o, d.findOut 7 = some o ∧ o.waiting = false ∧ o.data = none ∧ o.resends < o.retries) ∧
    HearMeets (sent sentWrite) (.nak 7 0 0) (fun d => d.vxl.running = [] ∧ nakResends 0 = false ∧
      ∃ o, d.findOut 7 = some o ∧ o.waiting = false ∧ o.data = none) ∧
    HearMeets (landing.modVxl fun v => { v with running := [transfer] }) (.nak 7 1 0) (fun d =>
      ∃ t, (d.vxl.running.find? fun t => t.credit == some 7 || t.sent.any fun q => q.2.1 == 7) = some t) ∧
    HearMeets landing (.nak 7 0 5) (fun _ => (5 : Word) ≠ 0) ∧
    (∀ queued, HearMeets (sent sentCredit) (.grant 7 queued) (fun d => d.vxl.running = [] ∧
      ∃ o, d.findOut 7 = some o ∧ o.kind = .credit ∧ o.site = some (12, 0))) ∧
    HearMeets placing (.placeResp 7 .ok 0) (fun d =>
      (∃ o, d.findOut 7 = some o ∧ o.kind = .placement 0 0) ∧ (d.ep 0 0).waitReply = true ∧ (d.ep 0 0).owed = none ∧
        d.engineFree 0 = true ∧ d.engineReaches (epSite 0 (d.ep 0 0).record) = true) ∧
    HearMeets (placing.modHome 0 fun h => { h with halted := true }) (.placeResp 7 .ok 0) (fun d => d.engineFree 0 = false) ∧
    HearMeets (sent sentRead) (.regData (txn 4)) (fun d => (Instr.regData 0 hdr (txn 4)).wellFormed = true ∧
      d.findOut 7 = some sentRead ∧ sentRead.kind = .read ∧ sentRead.data = none ∧ sentRead.cmd = none ∧
      sentRead.site = some (12, 0) ∧ (txn 4).data.length = sentRead.frame.asked) ∧
    HearMeets (sent sentRead) (.readData (txn 3)) (fun _ => (Instr.readData 0 hdr (txn 3)).wellFormed = true) ∧
    HearMeets copying (.readData (txn 3)) (fun d => (∃ o, d.findOut 7 = some o ∧ o.cmd = some wid) ∧
      ∃ c, d.findCmd wid = some c ∧ copyDstKind c.params = 3) :=
  ⟨hearMeets rfl (by decide +kernel) (by decide +kernel) ⟨by decide +kernel, _, rfl, by decide +kernel⟩,
   hearMeets rfl (by decide +kernel) (by decide +kernel) ⟨_, rfl⟩,
   hearMeets rfl (by decide +kernel) (by decide +kernel) ⟨by decide +kernel, by decide +kernel, _, rfl, by decide +kernel⟩,
   hearMeets rfl (by decide +kernel) (by decide +kernel) ⟨by decide +kernel, by decide +kernel, _, rfl, by decide +kernel⟩,
   hearMeets rfl (by decide +kernel) (by decide +kernel) ⟨_, rfl⟩,
   hearMeets rfl (by decide +kernel) (by decide +kernel) (by decide +kernel),
   fun queued => hearMeets rfl (by cases queued <;> decide +kernel) (by decide +kernel)
     ⟨by decide +kernel, _, rfl, by decide +kernel⟩,
   hearMeets rfl (by decide +kernel) (by decide +kernel) ⟨⟨_, rfl, by decide +kernel⟩, by decide +kernel⟩,
   hearMeets rfl (by decide +kernel) (by decide +kernel) (by decide +kernel),
   hearMeets rfl (by decide +kernel) (by decide +kernel) (by decide +kernel),
   hearMeets rfl (by decide +kernel) (by decide +kernel) (by decide +kernel),
   hearMeets rfl (by decide +kernel) (by decide +kernel) ⟨⟨_, rfl, by decide +kernel⟩, _, rfl, by decide +kernel⟩⟩

/-- A member of a swarm whose master is reached by port `up`. -/
def member (up : BitVec 4) : Device :=
  { vx id with tick := (ticking .swarm).tick }.modVxl fun v => { v with role := 2, up := up }

theorem witness_LimitsAndStrikes :
    Meets (fun d => ∃ f, (d.port 0).held.find? (fun f => f.flit == 0) = some f) ∧
    Meets (fun d => ∃ o, d.findOut 7 = some o ∧ o.waiting = false ∧ o.queued = false ∧ o.data = none ∧ o.resends < o.retries) ∧
    Meets (fun d => ∃ o, d.findOut 7 = some o ∧ o.waiting = false ∧ o.queued = false ∧ o.data = none ∧ o.retries ≤ o.resends) ∧
    Meets (fun d => ∃ o, d.findOut 7 = some o ∧ o.kind = .credit) ∧
    Meets (fun d => ∃ t, d.findTransfer 5 = some t ∧ t.clean.waitsFor = [1]) ∧
    Meets (fun d => d.hears 0 hdr (.strike 3 4000 false) ∧ d.vxl.role ≠ 2) ∧
    Meets (fun d => d.hears 0 hdr (.strike 3 4000 false) ∧ d.vxl.role = 2 ∧ (0 : PortIx).val ≠ d.vxl.up.toNat) ∧
    Meets (fun d => d.hears 0 hdr (.strike 3 4000 false) ∧ d.vxl.role = 2 ∧ (0 : PortIx).val = d.vxl.up.toNat ∧
      d.vxl.struckNos = [] ∧ d.vxl.announced = [] ∧ d.tick.cfg.source = .swarm ∧ d.tick.configured = true ∧
      d.tick.life = .on ∧ 0 < (4000 : Word).toInt ∧ (-1 : Word).toInt < 0) :=
  ⟨meets (vx fun p => { p with held := [aFlit] }) rfl ⟨_, rfl⟩,
   meets (sent sentWrite) rfl ⟨_, rfl, by decide +kernel⟩,
   meets (sent { sentWrite with resends := 3 }) rfl ⟨_, rfl, by decide +kernel⟩,
   meets (sent sentCredit) rfl ⟨_, rfl, by decide +kernel⟩,
   meets (landing.modVxl fun v => { v with running := [transfer] }) rfl ⟨_, rfl, by decide +kernel⟩,
   meets (vx id) rfl (by unfold Device.hears Device.linkOk; decide +kernel),
   meets (member 1) rfl (by unfold Device.hears Device.linkOk; decide +kernel),
   meets (member 0) rfl (by unfold Device.hears Device.linkOk; decide +kernel)⟩

/-! ### Pilots -/

/-- The pilot of region 0 stands at the word, of opcode `opc`, on a device with the property. -/
def PilotMeets (opc w : Nat) (P : Device → Prop) : Prop :=
  ∃ (s : State) (d : Device), s.runs d ∧ d.pilotAt 0 opc w ∧ P d

theorem pilotMeets {opc w : Nat} {P : Device → Prop} (d : Device) (hu : d.up = true)
    (h : d.pilotReady 0 = true ∧ d.progMark 0 (d.pilot 0).pc.toNat = none ∧
      progWord (d.programIn 0 (d.combOf 0)) (d.pilot 0).pc.toNat = w ∧ bitsNat w 63 58 = opc) (hp : P d) :
    PilotMeets opc w P :=
  ⟨⟨[], d⟩, d, ⟨rfl, hu⟩, h, hp⟩

/-- A pilot instruction: its opcode and the bits below it. -/
def pw (opc low : Nat) : Nat := opc * 2 ^ 58 + low

/-- `job` at a pilot instruction, with summary 1 and the shape maximum of register 3 set. -/
def atPilot (w : Nat) (x : Summary) : Device :=
  atWord ((job.modPilot 0 fun p => { p with sums := [(1, x)] }).modComb fun c =>
    { c with set := c.set.map fun s => { s with shapeMax := [⟨0xFF, 3, 4⟩] } }) w

def poisoned : Summary := { Summary.reset with poison := true }

/-- `job` with a wait of pilot 0, and flag 5 of die 0 set. -/
def waiting (x : PilotWait) : Device := (job.modPilot 0 fun p => { p with wait := some x }).modHome 0 fun h => { h with flags := [5] }

/-- A summary that reaches its pilot at time 0. -/
def aSummary : SummaryMsg :=
  { pub := false, src := 1, sent := 0, due := 0, idx := 0, op := 0, ty := 0, val := 0, poison := false, epoch := 0 }

/-- Of five summaries that SFUs send in one clk, the one of the last site in ascending y and x waits a clk more (R221). -/
theorem test_summary_bus_takes_four :
    ((summaryBus 60 0 ([5, 1, 2, 3, 4].map fun k => { aSummary with src := k })).map fun m => m.due / 60) =
      [25, 24, 24, 24, 24] := by
  decide +kernel

/-- The pilot of region 0 stands at a NOP whose row in the program store is marked. -/
def markedWord (m : RowMark) : Device :=
  job.modComb fun c => { c with store := [(0, { StoreSlot.reset with program := zeros 16 ++ leBytes 8 (pw 0xD 0), progMarks := [(0, m)] })] }

theorem witness_PilotInstructions :
    (PilotMeets 1 (pw 1 7) (fun _ => bitsNat (pw 1 7) 51 50 = 0) ∧
     PilotMeets 1 (pw 1 (2 ^ 50 + 2 ^ 45)) (fun d => bitsNat (pw 1 (2 ^ 50 + 2 ^ 45)) 51 50 = 1 ∧ ((d.pilot 0).sum 1).poison = false) ∧
     PilotMeets 1 (pw 1 (2 ^ 50 + 2 ^ 45)) (fun d => bitsNat (pw 1 (2 ^ 50 + 2 ^ 45)) 51 50 = 1 ∧ ((d.pilot 0).sum 1).poison = true) ∧
     PilotMeets 1 (pw 1 (2 * 2 ^ 50)) (fun _ => 1 < bitsNat (pw 1 (2 * 2 ^ 50)) 51 50)) ∧
    (PilotMeets 2 (pw 2 (2 ^ 43)) (fun _ => True) ∧ PilotMeets 3 (pw 3 (2 ^ 43)) (fun _ => True) ∧
     PilotMeets 4 (pw 4 1) (fun _ => True) ∧ PilotMeets 7 (pw 7 0x1000) (fun _ => True) ∧ PilotMeets 8 (pw 8 9) (fun _ => True) ∧
     PilotMeets 9 (pw 9 (2 * 2 ^ 45)) (fun _ => True) ∧ PilotMeets 0xA (pw 0xA 0) (fun _ => True) ∧
     PilotMeets 0xB (pw 0xB 1) (fun _ => True) ∧ PilotMeets 0xC (pw 0xC 0) (fun _ => True) ∧
     PilotMeets 0xD (pw 0xD 0) (fun _ => True)) ∧
    (let w := pw 5 (2 ^ 55 + 2 ^ 50)
     PilotMeets 5 w fun d => bitsNat w 57 55 ≠ 0 ∧ ((d.pilot 0).sum (bitsNat w 54 50)).poison = true) ∧
    (let w := pw 5 (2 ^ 33)
     PilotMeets 5 w fun d => bitsNat w 57 55 = 0 ∧
       brHolds (bitsNat w 57 55) ((d.pilot 0).sum (bitsNat w 54 50)).ty.toNat ((d.pilot 0).sum (bitsNat w 54 50)).val
         (BitVec.ofNat 32 (bitsNat w 31 0)) = true ∧ (d.pilot 0).pc.toNat < bitsNat w 41 33) ∧
    (let w := pw 5 (2 ^ 42)
     PilotMeets 5 w fun d => bitsNat w 57 55 = 0 ∧
       brHolds (bitsNat w 57 55) ((d.pilot 0).sum (bitsNat w 54 50)).ty.toNat ((d.pilot 0).sum (bitsNat w 54 50)).val
         (BitVec.ofNat 32 (bitsNat w 31 0)) = true ∧ bitsNat w 41 33 ≤ (d.pilot 0).pc.toNat ∧
       (d.pilot 0).taken.getD (d.pilot 0).pc.toNat 0 < bitsNat w 49 42) ∧
    (let w := pw 5 0
     PilotMeets 5 w fun d => bitsNat w 57 55 = 0 ∧ bitsNat w 41 33 ≤ (d.pilot 0).pc.toNat ∧
       bitsNat w 49 42 ≤ (d.pilot 0).taken.getD (d.pilot 0).pc.toNat 0) ∧
    (PilotMeets 6 (pw 6 2) (fun _ => (pw 6 2).testBit 55 = false) ∧
     (let w := pw 6 (2 ^ 55 + 2 * 2 ^ 49)
      PilotMeets 6 w fun d => w.testBit 55 = true ∧ d.shapeMax 0 (bitsNat w 54 49) = none) ∧
     (let w := pw 6 (2 ^ 55 + 3 * 2 ^ 49)
      PilotMeets 6 w fun d => w.testBit 55 = true ∧ ∃ m, d.shapeMax 0 (bitsNat w 54 49) = some m ∧
        ((d.pilot 0).shape.getD (bitsNat w 54 49) 0).toNat ≤ m) ∧
     (let w := pw 6 (2 ^ 55 + 3 * 2 ^ 49)
      PilotMeets 6 w fun d => w.testBit 55 = true ∧ ∃ m, d.shapeMax 0 (bitsNat w 54 49) = some m ∧
        m < ((d.pilot 0).shape.getD (bitsNat w 54 49) 0).toNat)) ∧
    (Meets (fun d => d.live 0 = true ∧ (d.pilot 0).wait = some ⟨.flag 0 5 true, 0, false⟩ ∧ d.flagVal 0 5 = true) ∧
     Meets (fun d => d.live 0 = true ∧ (d.pilot 0).wait = some ⟨.summary 0 0, 0, false⟩ ∧ 0 ≤ ((d.pilot 0).sum 0).count.toNat) ∧
     Meets (fun d => d.live 0 = true ∧ (d.pilot 0).waitc = 1) ∧
     Meets (fun d => d.live 0 = true ∧ ∃ m rest,
       firstSummary (clkUnits (d.pwrRegion 0).freq.toNat) (d.pilot 0).sumBus = some (m, rest) ∧ m.epoch = (d.pilot 0).comb) ∧
     Meets (fun d => d.live 0 = true ∧ ∃ m rest,
       firstSummary (clkUnits (d.pwrRegion 0).freq.toNat) (d.pilot 0).sumBus = some (m, rest) ∧ m.epoch ≠ (d.pilot 0).comb) ∧
     Meets (fun d => d.live 0 = true ∧ ∃ p, d.clkPilots.find 0 = some p) ∧
     Meets (fun d => d.live 0 = true ∧ 2 ^ (d.pilot 0).stallLog2.toNat ≤ (d.pilot 0).stall) ∧
     Meets (fun d => d.live 0 = true ∧
       ∃ x, (d.regionWaits 0).find? (fun w => decide (2 ^ d.waitLog2 0 ≤ w.clk)) = some x ∧ x.site = none) ∧
     Meets (fun d => d.live 0 = true ∧
       ∃ x, (d.regionWaits 0).find? (fun w => decide (2 ^ d.waitLog2 0 ≤ w.clk)) = some x ∧ x.site = some 181)) ∧
    (Meets (fun d => d.pilotReady 0 = true ∧ d.progMark 0 (d.pilot 0).pc.toNat = some .uncorrectable) ∧
     Meets (fun d => d.pilotReady 0 = true ∧ d.progMark 0 (d.pilot 0).pc.toNat = some .correctable ∧
       bitsNat (progWord (d.programIn 0 (d.combOf 0)) (d.pilot 0).pc.toNat) 63 58 = 0xD)) :=
  ⟨⟨pilotMeets (atPilot (pw 1 7) .reset) rfl (by decide +kernel) (by decide +kernel),
    pilotMeets (atPilot (pw 1 (2 ^ 50 + 2 ^ 45)) .reset) rfl (by decide +kernel) (by decide +kernel),
    pilotMeets (atPilot (pw 1 (2 ^ 50 + 2 ^ 45)) poisoned) rfl (by decide +kernel) (by decide +kernel),
    pilotMeets (atPilot (pw 1 (2 * 2 ^ 50)) .reset) rfl (by decide +kernel) (by decide +kernel)⟩,
   ⟨pilotMeets (atPilot (pw 2 (2 ^ 43)) .reset) rfl (by decide +kernel) trivial,
    pilotMeets (atPilot (pw 3 (2 ^ 43)) .reset) rfl (by decide +kernel) trivial,
    pilotMeets (atPilot (pw 4 1) .reset) rfl (by decide +kernel) trivial,
    pilotMeets (atPilot (pw 7 0x1000) .reset) rfl (by decide +kernel) trivial,
    pilotMeets (atPilot (pw 8 9) .reset) rfl (by decide +kernel) trivial,
    pilotMeets (atPilot (pw 9 (2 * 2 ^ 45)) .reset) rfl (by decide +kernel) trivial,
    pilotMeets (atPilot (pw 0xA 0) .reset) rfl (by decide +kernel) trivial,
    pilotMeets (atPilot (pw 0xB 1) .reset) rfl (by decide +kernel) trivial,
    pilotMeets (atPilot (pw 0xC 0) .reset) rfl (by decide +kernel) trivial,
    pilotMeets (atPilot (pw 0xD 0) .reset) rfl (by decide +kernel) trivial⟩,
   pilotMeets (atPilot (pw 5 (2 ^ 55 + 2 ^ 50)) poisoned) rfl (by decide +kernel) (by decide +kernel),
   pilotMeets (atPilot (pw 5 (2 ^ 33)) .reset) rfl (by decide +kernel) (by decide +kernel),
   pilotMeets (atPilot (pw 5 (2 ^ 42)) .reset) rfl (by decide +kernel) (by decide +kernel),
   pilotMeets (atPilot (pw 5 0) .reset) rfl (by decide +kernel) (by decide +kernel),
   ⟨pilotMeets (atPilot (pw 6 2) .reset) rfl (by decide +kernel) (by decide +kernel),
    pilotMeets (atPilot (pw 6 (2 ^ 55 + 2 * 2 ^ 49)) .reset) rfl (by decide +kernel) (by decide +kernel),
    pilotMeets (atPilot (pw 6 (2 ^ 55 + 3 * 2 ^ 49)) .reset) rfl (by decide +kernel) ⟨by decide +kernel, 4, by decide +kernel⟩,
    pilotMeets ((atPilot (pw 6 (2 ^ 55 + 3 * 2 ^ 49)) .reset).modPilot 0 fun p => { p with shape := [(3, 5)] }) rfl
      (by decide +kernel) ⟨by decide +kernel, 4, by decide +kernel⟩⟩,
   ⟨meets (waiting ⟨.flag 0 5 true, 0, false⟩) rfl (by decide +kernel), meets (waiting ⟨.summary 0 0, 0, false⟩) rfl (by decide +kernel),
   meets (job.modPilot 0 fun p => { p with waitc := 1 }) rfl (by decide +kernel),
   meets (job.modPilot 0 fun p => { p with sumBus := [aSummary] }) rfl ⟨by decide +kernel, _, _, rfl, by decide +kernel⟩,
   meets (job.modPilot 0 fun p => { p with sumBus := [{ aSummary with epoch := 1 }] }) rfl
     ⟨by decide +kernel, _, _, rfl, by decide +kernel⟩,
   meets { job with clkPilots := [(0, .reset)] } rfl ⟨by decide +kernel, _, rfl⟩,
   meets (job.modPilot 0 fun p => { p with stall := 2 ^ 16 }) rfl (by decide +kernel),
   meets (waiting ⟨.flag 0 6 true, 2 ^ 21, false⟩) rfl ⟨by decide +kernel, some_with (by decide +kernel)⟩,
   meets (suWith { Su.reset with
       ctx := [(0, { Ctx.reset with state := .waiting, await := some (0, 5, true), waitClk := 2 ^ 21 })] } (zeros 0x80)) rfl
     ⟨by decide +kernel, some_with (by decide +kernel)⟩⟩,
   ⟨meets (markedWord .uncorrectable) rfl (by decide +kernel), meets (markedWord .correctable) rfl (by decide +kernel)⟩⟩

theorem witness_BackwardBranchLimit :
    (let w := pw 5 (2 ^ 42)
     PilotMeets 5 w fun d => bitsNat w 41 33 ≤ (d.pilot 0).pc.toNat ∧
       (d.pilot 0).taken.getD (d.pilot 0).pc.toNat 0 < bitsNat w 49 42 ∧ bitsNat w 57 55 = 0 ∧
       brHolds (bitsNat w 57 55) ((d.pilot 0).sum (bitsNat w 54 50)).ty.toNat ((d.pilot 0).sum (bitsNat w 54 50)).val
         (BitVec.ofNat 32 (bitsNat w 31 0)) = true) ∧
    (let w := pw 5 (2 ^ 42)
     PilotMeets 5 w fun d => bitsNat w 41 33 ≤ (d.pilot 0).pc.toNat ∧
       bitsNat w 49 42 ≤ (d.pilot 0).taken.getD (d.pilot 0).pc.toNat 0) :=
  ⟨pilotMeets (atPilot (pw 5 (2 ^ 42)) .reset) rfl (by decide +kernel) (by decide +kernel),
   pilotMeets ((atPilot (pw 5 (2 ^ 42)) .reset).modPilot 0 fun p => { p with taken := [(0, 1)] }) rfl (by decide +kernel)
     (by decide +kernel)⟩

theorem witness_StopHaltsTheJob : (0 : Nat) < 8 ∧ (job.pilot 0).state ≠ 6 ∧ job.comb.state = .active := by decide +kernel

/-! ### Planes and swaps -/

/-- `job` with every pilot draining and region 0 ready to swap to comb 0. -/
def swapping (f : Pilot → Pilot) : Device :=
  { job with pilots := (List.range 8).map fun r =>
      (r, (if r = 0 then f else id)
        { Pilot.reset with state := 4, drain := true, loading := some 0, loaded := true, target := some ⟨0, false, 0⟩ }) }

/-- The target of swap 0 has reached the pilot of region 0. -/
def told (f : Pilot → Pilot) : Device := job.modPilot 0 fun p => f { p with ringIn := [⟨0, false, 0⟩] }
def targetComes (d : Device) : Prop :=
  (d.pilot 0).ringIn = [⟨0, false, 0⟩] ∧ d.live 0 = true ∧ d.comb.state = .active ∧ (d.pilot 0).idleUntilStrike = false ∧
    (d.pilot 0).swapNo = 0

theorem witness_SwapActs :
    (∀ u ∈ [1, 145, 181, 0], Meets (fun d => (d.drainOut u).unitRuns u = true ∧ ((d.drainOut u).unit u).eocSent = false ∧
      (d.drainOut u).combDone u = true)) ∧
    (siteKind 1 = .mu ∧ siteKind 145 = .sfu ∧ siteKind 181 = .su ∧ siteKind 0 = .iou) ∧
    Meets (fun d => targetComes d ∧ (d.pilot 0).target = none ∧ d.usesRegion (d.combOf 0) 0 = true) ∧
    Meets (fun d => targetComes d ∧ (d.pilot 0).target = none ∧ d.usesRegion (d.combOf 0) 0 = false) ∧
    Meets (fun d => targetComes d ∧ (d.pilot 0).target = some ⟨0, false, 0⟩) ∧
    Meets (fun d => targetComes d ∧ (d.pilot 0).target = some ⟨0, true, 0⟩) ∧
    Meets (fun d => d.clockRuns 0 = true ∧ d.comb.state = .active ∧ (d.pilot 0).loading = some 0 ∧ (d.pilot 0).loaded = false) ∧
    Meets (fun d => d.clockRuns 0 = true ∧ d.comb.state = .active ∧ (d.pilot 0).loading = some 0 ∧ (d.pilot 0).loaded = true) ∧
    Meets (fun d => (d.pilot 0).target = some ⟨0, false, 0⟩ ∧ d.live 0 = true ∧ d.comb.state = .active ∧
      (d.pilot 0).issued = false ∧ d.mayIssue 0 0 = true) ∧
    Meets (fun d => (d.pilot 0).target = some ⟨0, false, 0⟩ ∧ d.live 0 = true ∧ d.comb.state = .active ∧
      (d.pilot 0).issued = true ∧ (d.pilot 0).switchClk = 0 ∧ d.badIdle 0 = []) ∧
    Meets (fun d => (d.pilot 0).target = some ⟨0, false, 0⟩ ∧ d.live 0 = true ∧ d.comb.state = .active ∧
      (d.pilot 0).issued = true ∧ (d.pilot 0).switchClk = 0 ∧ d.badIdle 0 = [1] ∧ (d.pilot 0).reloaded = false) ∧
    Meets (fun d => (d.pilot 0).target = some ⟨0, false, 0⟩ ∧ d.live 0 = true ∧ d.comb.state = .active ∧
      (d.pilot 0).issued = true ∧ (d.pilot 0).switchClk = 0 ∧ d.badIdle 0 = [1] ∧ (d.pilot 0).reloaded = true) ∧
    Meets (fun d => (d.pwrRegion 0).startCmd = some wid) :=
  ⟨List.forall_mem_cons.mpr ⟨meets { atTile [0] with mus := [(1, { Mu.reset with state := 2 })] } rfl (by decide +kernel),
     List.forall_mem_cons.mpr ⟨meets { atVec 0 0 with sfus := [(145, { Sfu.reset with state := 2 })] } rfl (by decide +kernel),
       List.forall_mem_cons.mpr ⟨meets (suWith { Su.reset with state := 1 } (zeros 0x90)) rfl (by decide +kernel),
         List.forall_mem_singleton.mpr (meets (iouWith 0 { Iou.reset with state := 1 }) rfl (by decide +kernel))⟩⟩⟩,
   by decide,
   meets (told id) rfl (by unfold targetComes; decide +kernel),
   meets ((told id).modComb fun c => { c with set := c.set.map fun s =>
       { s with combs := [{ successor := 0, minfreq := 0, budget := 0, regions := [1] }] } }) rfl
     (by unfold targetComes; decide +kernel),
   meets (told fun p => { p with target := some ⟨0, false, 0⟩ }) rfl (by unfold targetComes; decide +kernel),
   meets (told fun p => { p with target := some ⟨0, true, 0⟩ }) rfl (by unfold targetComes; decide +kernel),
   meets (job.modPilot 0 fun p => { p with loading := some 0 }) rfl (by decide +kernel),
   meets (job.modPilot 0 fun p => { p with loading := some 0, loaded := true }) rfl (by decide +kernel),
   meets (swapping id) rfl (by decide +kernel),
   meets (swapping fun p => { p with issued := true, switchClk := 0 }) rfl (by decide +kernel),
   meets { swapping (fun p => { p with issued := true, switchClk := 0 }) with
           switches := [(1, { Switch.reset with swIdle := [(0, .uncorrectable)] })] } rfl (by decide +kernel),
   meets { swapping (fun p => { p with issued := true, switchClk := 0, reloaded := true }) with
           switches := [(1, { Switch.reset with swIdle := [(0, .uncorrectable)] })] } rfl (by decide +kernel),
   meets (dev.modPwrRegion 0 fun g => { g with startCmd := some wid }) rfl (by decide +kernel)⟩

/-! ### The switch fabric -/

/-- A word of comb 0 on virtual channel 0. -/
def aWord : Item := Item.make .vector 0 0 0 true

/-- Site 1 forwards what reaches its south port (code 2) to its east port (code 1), a word waiting there. -/
def routed (delay : Nat) (w : Item) (f : Switch → Switch) : Device :=
  let img := leBytes 2 1 ++ leBytes 2 1 ++ leBytes 4 0 ++ leBytes 2 24 ++ zeros 6 ++
    leBytes 8 (2 ^ 30 + 2 ^ 26 + 2 * 2 ^ 20 + delay * 2 ^ 6)
  { job with switches := [(1, f { Switch.reset with active := { comb := some 0, image := img, marks := [] }
                                                    bufs := [(⟨.vector, 2, 0⟩, { Buf.reset with items := [w] })] })] }

/-- The switch of site 1 runs, its delay lines have taken up their words, and `P` holds of what its output then finds. -/
def outputFinds (d : Device) (P : Device → Prop) : Prop :=
  d.started (siteRegion 1) = true ∧ (d.switch 1).active.comb.isSome = true ∧ d.comb.state = .active ∧ P (d.fillLines 1 .vector 1)

/-- The output follows entry `e` in this clk, with room. -/
def follows (t : Device) (e : Route) : Prop :=
  t.routeNow 1 .vector 1 0 = some e ∧ t.live (siteRegion 1) = true ∧
    (t.switch 1).lastSent.getD (sendKey .vector 1 0) 0 ≠ (t.pilot (siteRegion 1)).combClk + 1 ∧
    t.hasRoom 1 .vector 1 e.slot = true

/-- The entry of `routed`. -/
def theRoute (delay : Nat) : Route :=
  { id := 0, mode := 1, bank := 0, out := 1, slot := 0, src := 2, srcVc := 0, adds := 0, fmt := 0, delay := delay }

/-- The same word with a wrong sideband parity bit. -/
def badWord : Item := { aWord with parS := !aWord.parS }

/-- A word on its way to port 2 of site 1. -/
def crossing (bridge : Bool) (tries : Nat) : Crossing :=
  { bridge := bridge, site := 1, port := 2, net := .vector, vc := 0, tries := tries, item := aWord }

theorem witness_WordsMove :
    Meets (fun d => outputFinds d fun t => t.routeNow 1 .vector 2 0 = none) ∧
    Meets (fun d => outputFinds d fun t => follows t (theRoute 0) ∧
      (t.switch 1).headFor (theRoute 0) ⟨.vector, 2, 0⟩ = some aWord ∧ aWord.sideOk .vector = true ∧ aWord.dataOk .vector = true) ∧
    Meets (fun d => outputFinds d fun t => follows t (theRoute 0) ∧
      (t.switch 1).headFor (theRoute 0) ⟨.vector, 2, 0⟩ = some badWord ∧ badWord.sideOk .vector = false) ∧
    Meets (fun d => outputFinds d fun t => follows t (theRoute 1) ∧ t.ripe 1 (theRoute 1) = some aWord) ∧
    (theRoute 0).keys .vector = [⟨.vector, 2, 0⟩] ∧
    Meets (fun d => d.clockRuns (siteRegion 1) = true ∧
      takeFirst (fun c => !c.bridge && c.site == 1 && c.port == 2 && c.net == .vector && c.vc == 0) d.crossings =
        some (crossing false 0, []) ∧ d.relock.contains (siteDie 1) = false) ∧
    Meets (fun d => d.clockRuns (siteRegion 1) = true ∧
      takeFirst (fun c => c.bridge && c.site == 1 && c.port == 2 && c.net == .vector && c.vc == 0) d.crossings =
        some (crossing true 2, []) ∧ (crossing true 2).tries + 1 < 4) ∧
    Meets (fun d => d.clockRuns (siteRegion 1) = true ∧
      takeFirst (fun c => c.bridge && c.site == 1 && c.port == 2 && c.net == .vector && c.vc == 0) d.crossings =
        some (crossing true 3, []) ∧ 4 ≤ (crossing true 3).tries + 1) :=
  ⟨meets (routed 0 aWord id) rfl (by unfold outputFinds; decide +kernel),
   meets (routed 0 aWord id) rfl (by unfold outputFinds follows; decide +kernel),
   meets (routed 0 badWord id) rfl (by unfold outputFinds follows; decide +kernel),
   meets ((routed 1 aWord fun x => { x with lines := [(0, [(0, aWord)])] }).modPilot 0 fun p => { p with combClk := 1 }) rfl
     (by unfold outputFinds follows; decide +kernel),
   by decide, meets { job with crossings := [crossing false 0] } rfl (by decide +kernel),
   meets { job with crossings := [crossing true 2] } rfl (by decide +kernel),
   meets { job with crossings := [crossing true 3] } rfl (by decide +kernel)⟩

theorem witness_ArrivalByEpoch :
    badWord.sideOk .vector = false ∧
    ({ aWord with data := 1 }.sideOk .vector = true ∧ { aWord with data := 1 }.dataOk .vector = false) ∧
    (aWord.sideOk .vector = true ∧ aWord.dataOk .vector = true ∧
      (crossing false 0).item.epoch = (job.pilot (siteRegion 1)).comb) ∧
    (let d := job.modPilot 0 fun p => { p with comb := 1, drain := true }
     (crossing false 0).item.epoch ≠ (d.pilot (siteRegion 1)).comb ∧ (d.pilot (siteRegion 1)).drain = true) ∧
    (let d := job.modPilot 0 fun p => { p with comb := 1 }
     (crossing false 0).item.epoch ≠ (d.pilot (siteRegion 1)).comb ∧ (d.pilot (siteRegion 1)).drain = false) := by
  decide +kernel

/-! ### Tokens -/

/-- A unit that has received one token on lane 0. -/
def oneToken (t : Nat) : Machine.Unit := { Unit.reset with inq := [(⟨.control, 4, 0⟩, [Item.make .control t 0 0 true])] }

/-- A unit section whose counter 0 takes its bound from tokens if `src` is 1, and whose branch table starts with `e`. -/
def tokenSection (off src e : Nat) : List Byte :=
  let z := zeros 0x90
  let z := (z.take (off + 8)) ++ leBytes 1 src ++ z.drop (off + 9)
  z.take 0x70 ++ leBytes 2 e ++ z.drop 0x72

/-- MU 1, or SU 181, or the HBM IOU at site 0, with a token. -/
def muTok (t : Nat) (sec : List Byte) : Device := { withImage job 1 (image sec) with mus := [(1, { Mu.reset with unit := oneToken t })] }
def suTok (t : Nat) : Device := { withImage job 181 (image (zeros 0x90)) with sus := [(181, { Su.reset with unit := oneToken t })] }
def iouTok (t : Nat) : Device := { withImage job 0 (image (zeros 0x90)) with ious := [(0, { Iou.reset with unit := oneToken t })] }

/-- The unit of site `u` has the token at the head of lane 0, on a device with the property. -/
def TokenMeets (u t : Nat) (P : Device → Prop) : Prop :=
  ∃ (s : State) (d : Device) (m : Machine.Unit), s.runs d ∧ d.tokenAt u 0 (BitVec.ofNat 16 t) m ∧ P d

theorem tokenMeets {u t : Nat} {P : Device → Prop} (d : Device) (hu : d.up = true) (h : d.unitRuns u = true)
    (ht : (d.headToken u 0).map (·.1) = some (BitVec.ofNat 16 t)) (hp : P d) : TokenMeets u t P :=
  match hd : d.headToken u 0, ht with
  | some (a, m), ht => ⟨⟨[], d⟩, d, m, ⟨rfl, hu⟩, ⟨h, by rw [hd, ← (Option.some.inj ht : a = _)]⟩, hp⟩

/-- The program has raised counter 7 of MU 1 in this clk. -/
def raisedOnce : Device :=
  (muTok 0x1007 (zeros 0x90)).modMu 1 fun x => { x with unit := { x.unit with raises := [(7, .reset, [1])] } }

theorem witness_TokensAct :
    TokenMeets 1 0x1007 (fun _ => tokType 0x1007 = 1) ∧
    (raisedOnce.up = true ∧ raisedOnce.unitRuns 1 = true ∧
      (raisedOnce.headToken 1 0).map (fun p => (p.1, p.2.raises.find (bitsNat (tokArg 0x1007) 2 0))) =
        some (0x1007, some (.reset, [1]))) ∧
    TokenMeets 1 0x2FF8 (fun d => tokType 0x2FF8 = 2 ∧ (d.counterRec 1 (bitsNat (tokArg 0x2FF8) 2 0)).bsrc = 1) ∧
    TokenMeets 1 0x2000 (fun d => tokType 0x2000 = 2 ∧ (d.counterRec 1 (bitsNat (tokArg 0x2000) 2 0)).bsrc ≠ 1) ∧
    TokenMeets 1 0x3007 (fun _ => tokType 0x3007 = 3 ∧ siteKind 1 = .mu) ∧
    TokenMeets 181 0x3008 (fun _ => tokType 0x3008 = 3 ∧ siteKind 181 = .su ∧ 8 ≤ tokArg 0x3008) ∧
    TokenMeets 181 0x3007 (fun _ => tokType 0x3007 = 3 ∧ siteKind 181 = .su ∧ tokArg 0x3007 < 8) ∧
    TokenMeets 1 0x4000 (fun d => tokType 0x4000 = 4 ∧ siteKind 1 = .mu ∧
      fieldAt (d.section 1) (0x70 + 2 * bitsNat (tokArg 0x4000) 3 0) 2 ≠ 0xFFFF) ∧
    TokenMeets 1 0x4000 (fun d => tokType 0x4000 = 4 ∧ siteKind 1 = .mu ∧
      fieldAt (d.section 1) (0x70 + 2 * bitsNat (tokArg 0x4000) 3 0) 2 = 0xFFFF) ∧
    TokenMeets 0 0x4000 (fun _ => tokType 0x4000 = 4 ∧ siteKind 0 = .iou) ∧
    TokenMeets 1 0x5001 (fun _ => 5 ≤ tokType 0x5001) ∧
    Meets (fun d => d.started (siteRegion 1) = true ∧ d.comb.state = .active ∧ (d.switch 1).active.comb.isSome = true ∧
      d.laneToken (siteRegion 1) (d.switch 1).laneNext true = some (0, 0x5001)) ∧
    Meets (fun d => d.started (siteRegion 1) = true ∧ d.comb.state = .active ∧ (d.switch 1).active.comb.isSome = true ∧
      takeFirst (fun p : Nat × Item => p.1 == 2) (d.switch 1).routeAt = some ((2, aWord), [])) ∧
    { Switch.reset with bankNext := some true }.bank ≠ true ∧ { Switch.reset with bankNext := some false }.bank = false ∧
    TokenMeets 1 0x0000 (fun _ => tokType 0 = 0) ∧ TokenMeets 1 0xF000 (fun _ => 6 ≤ tokType 0xF000) :=
  ⟨tokenMeets (muTok 0x1007 (zeros 0x90)) rfl (by decide +kernel) (by decide +kernel) (by decide +kernel),
   by decide +kernel,
   tokenMeets (muTok 0x2FF8 (tokenSection 0x10 1 0)) rfl (by decide +kernel) (by decide +kernel) (by decide +kernel),
   tokenMeets (muTok 0x2000 (zeros 0x90)) rfl (by decide +kernel) (by decide +kernel) (by decide +kernel),
   tokenMeets (muTok 0x3007 (zeros 0x90)) rfl (by decide +kernel) (by decide +kernel) (by decide +kernel),
   tokenMeets (suTok 0x3008) rfl (by decide +kernel) (by decide +kernel) (by decide +kernel),
   tokenMeets (suTok 0x3007) rfl (by decide +kernel) (by decide +kernel) (by decide +kernel),
   tokenMeets (muTok 0x4000 (zeros 0x90)) rfl (by decide +kernel) (by decide +kernel) (by decide +kernel),
   tokenMeets (muTok 0x4000 (tokenSection 0x10 0 0xFFFF)) rfl (by decide +kernel) (by decide +kernel) (by decide +kernel),
   tokenMeets (iouTok 0x4000) rfl (by decide +kernel) (by decide +kernel) (by decide +kernel),
   tokenMeets (muTok 0x5001 (zeros 0x90)) rfl (by decide +kernel) (by decide +kernel) (by decide +kernel),
   meets ((muTok 0 (zeros 0x90)).modPilot 0 fun p => { p with tokens := [0x5001] }) rfl (by decide +kernel),
   meets ((muTok 0 (zeros 0x90)).modSwitch 1 fun x => { x with routeAt := [(2, aWord)] }) rfl (by decide +kernel),
   by decide +kernel, by decide +kernel,
   tokenMeets (muTok 0 (zeros 0x90)) rfl (by decide +kernel) (by decide +kernel) (by decide +kernel),
   tokenMeets (muTok 0xF000 (zeros 0x90)) rfl (by decide +kernel) (by decide +kernel) (by decide +kernel)⟩

/-! ### Multiplier units -/

/-- `atTile` with changes to the MU. -/
def mu1 (ws : List Nat) (f : Mu → Mu) : Device := (atTile ws).modMu 1 f

/-- An accumulator range of one word at 0. -/
def aRange (s : RangeState) : RangeEntry :=
  { base := 0, m := 1, n := 1, state := s, flags := .none, poison := false, fp32 := true }

/-- A drain of it: its words read, or none yet. -/
def aDrain (read : Bool) : DrainJob :=
  { instr := 0, ocfg := 0, m := 1, n := 1, bm := 1, bn := 1, base := 0, toNet := false, vc := 0, first := 0, pitch := 1
    begun := read, scale := [], bias := [], row := if read then 1 else 0, col := 0, part := [], place := 0, word := none }

/-- MMA of one element from rows 0 and 0 into accumulator word `32 × k`, or DRAIN of it with bound sources `b`. -/
def mmaWords (k : Nat) : List Nat := [2 ^ 58 + 2 ^ 39 + 2 ^ 29 + 2 ^ 15, 2 ^ 22, 2 ^ 22, k * 2 ^ 50]
def drainWords (b : Nat) : List Nat := [3 * 2 ^ 58 + 2 ^ 44 + 2 ^ 34 + b * 2 ^ 16, 2 ^ 35, 0, 0]

/-- The pilot's shape registers 0 and 1 hold 2. -/
def shaped (d : Device) : Device := d.modPilot 0 fun p => { p with shape := [(0, 2), (1, 2)] }

def drainBounds (d : Device) : Nat × Nat :=
  let x := drainAt (d.section 1) (d.mu 1).pc
  (d.boundOf 1 x.bsrcM x.m x.breg [] 0, d.boundOf 1 x.bsrcN x.n (x.breg + 1) [] 1)

def drainHere (d : Device) : DrainOp := drainAt (d.section 1) (d.mu 1).pc

theorem is_some {α : Type} {o : Option α} (h : o.isSome = true) : ∃ a, o = some a :=
  match o, h with
  | some a, _ => ⟨a, rfl⟩

theorem left_of {α β : Type} {x : α ⊕ β} (h : x.isLeft = true) : ∃ a, x = .inl a :=
  match x, h with
  | .inl a, _ => ⟨a, rfl⟩

theorem right_of {α β γ δ : Type} {x : α ⊕ (β × γ × δ)} (h : x.isRight = true) : ∃ a b c, x = .inr (a, b, c) :=
  match x, h with
  | .inr (a, b, c), _ => ⟨a, b, c, rfl⟩

theorem witness_TileInstructions :
    Meets (fun d => d.muReady 1 1 = true ∧ (d.mu 1).jobs.all (·.ready) = true ∧ (d.mu 1).jobs.length < 2 ∧
      ∃ f, d.tileCheck 1 (tileAt (d.section 1) (d.mu 1).pc) [] = .inl f) ∧
    Meets (fun d => d.muReady 1 1 = true ∧ (d.mu 1).jobs.all (·.ready) = true ∧ (d.mu 1).jobs.length < 2 ∧
      ∃ bm bn bk, d.tileCheck 1 (tileAt (d.section 1) (d.mu 1).pc) [] = .inr (bm, bn, bk)) ∧
    Meets (fun d => d.muReady 1 2 = true ∧ (d.mu 1).jobs.all (·.ready) = true ∧ (d.mu 1).jobs.length < 2) ∧
    Meets (fun d => d.muReady 1 3 = true ∧ (drainHere d).m < (drainBounds d).1) ∧
    Meets (fun d => d.muReady 1 3 = true ∧ (drainBounds d).1 ≤ (drainHere d).m ∧ (drainHere d).n < (drainBounds d).2) ∧
    Meets (fun d => d.muReady 1 3 = true ∧ (drainBounds d).1 ≤ (drainHere d).m ∧ (drainBounds d).2 ≤ (drainHere d).n ∧
      (drainHere d).footprint (.parse (muOutcfg (d.section 1) 0)) (d.cntVal 1) = none ∧
      findRange (d.mu 1).ranges 0 1 1 = some (aRange .resident)) ∧
    Meets (fun d => d.muReady 1 3 = true ∧ (drainBounds d).1 ≤ (drainHere d).m ∧ (drainBounds d).2 ≤ (drainHere d).n ∧
      (drainHere d).footprint (.parse (muOutcfg (d.section 1) 0)) (d.cntVal 1) = none ∧ findRange (d.mu 1).ranges 0 1 1 = none) ∧
    Meets (fun d => d.muReady 1 4 = true ∧ (d.mu 1).jobs = [] ∧ ∀ e ∈ (d.mu 1).ranges, e.state ≠ .draining) ∧
    Meets (fun d => d.muReady 1 5 = true) ∧ Meets (fun d => d.muReady 1 6 = true ∧ (d.mu 1).engine.running = false) ∧
    Meets (fun d => d.muReady 1 7 = true ∧ (d.mu 1).jobs = [] ∧ (d.mu 1).drains = [] ∧ (d.mu 1).engine.running = false) ∧
    Meets (fun d => d.muReady 1 8 = true) ∧
    Meets (fun d => siteKind 1 = .mu ∧ d.unitRuns 1 = true ∧ (d.mu 1).drains = [aDrain true] ∧ (aDrain true).begun = true ∧
      (aDrain true).allRead = true ∧ (aDrain true).word = none ∧
      (d.mu 1).ranges.find? (fun e => e.base == (aDrain true).base) = some (aRange .draining)) ∧
    Meets (fun d => d.muReady 1 3 = true ∧ (drainBounds d).1 ≤ (drainHere d).m ∧ (drainBounds d).2 ≤ (drainHere d).n ∧
      ∃ f, (drainHere d).footprint (.parse (muOutcfg (d.section 1) 0)) (d.cntVal 1) = some f) ∧
    Meets (fun d => d.muReady 1 3 = true ∧ (drainBounds d).1 ≤ (drainHere d).m ∧ (drainBounds d).2 ≤ (drainHere d).n ∧
      (drainHere d).footprint (.parse (muOutcfg (d.section 1) 0)) (d.cntVal 1) = none ∧
      findRange (d.mu 1).ranges 0 1 1 = some (aRange .draining)) ∧
    Meets (fun d => d.muReady 1 6 = true ∧ (d.mu 1).engine.running = false ∧
      (muWord (d.section 1) (d.mu 1).pc 0).testBit 57 = true) :=
  ⟨meets (atTile (mmaWords 16383)) rfl ⟨by decide +kernel, by decide +kernel, by decide +kernel, left_of (by decide +kernel)⟩,
   meets (atTile (mmaWords 0)) rfl ⟨by decide +kernel, by decide +kernel, by decide +kernel, right_of (by decide +kernel)⟩,
   meets (atTile [2 * 2 ^ 58]) rfl (by decide +kernel),
   meets (shaped (atTile (drainWords 4))) rfl (by decide +kernel),
   meets (shaped (atTile (drainWords 1))) rfl (by decide +kernel),
   meets (mu1 (drainWords 0) fun m => { m with ranges := [aRange .resident] }) rfl (by decide +kernel),
   meets (atTile (drainWords 0)) rfl (by decide +kernel), meets (atTile [4 * 2 ^ 58]) rfl (by decide +kernel),
   meets (atTile [5 * 2 ^ 58]) rfl (by decide +kernel), meets (atTile [6 * 2 ^ 58]) rfl (by decide +kernel),
   meets (atTile [7 * 2 ^ 58]) rfl (by decide +kernel), meets (atTile [8 * 2 ^ 58]) rfl (by decide +kernel),
   meets (mu1 [0] fun m => { m with drains := [aDrain true], ranges := [aRange .draining] }) rfl (by decide +kernel),
   meets (atTile [3 * 2 ^ 58 + 2 ^ 45 + 2 ^ 34, 4095 * 2 ^ 47 + 2 ^ 35, 0, 0]) rfl
     ⟨by decide +kernel, by decide +kernel, by decide +kernel, is_some (by decide +kernel)⟩,
   meets (mu1 (drainWords 0) fun m => { m with ranges := [aRange .draining] }) rfl (by decide +kernel),
   meets (atTile [6 * 2 ^ 58 + 2 ^ 57]) rfl (by decide +kernel)⟩

def anOperand : OperandJob := { desc := 0, first := 0, fill := [], bytes := [] }

/-- An MMA of one element whose operands have been read. -/
def aJob : MmaJob :=
  { instr := 0, fmt := 9, group := 0, m := 1, n := 1, k := 1, bm := 1, bn := 1, bk := 1, base := 0, overwrite := true,
    a := anOperand, b := anOperand, table := [], ready := true, poison := false }

theorem witness_RetireWritesTile :
    Meets (fun d => siteKind 1 = .mu ∧ d.unitRuns 1 = true ∧ (d.mu 1).jobs = [aJob] ∧ aJob.ready = true ∧
      (d.mu 1).arrayUpset = none ∧ aJob.bn ≤ aJob.n) :=
  meets (mu1 (mmaWords 0) fun m => { m with jobs := [aJob] }) rfl (by decide +kernel)

theorem not_below {o : Option Int} (h : (o.any fun c => decide (c < 0)) = false) : ¬∃ c, o = some c ∧ c < 0 :=
  fun ⟨_, ho, hc⟩ => by
    subst ho
    exact absurd (of_decide_eq_false h) (not_not_intro hc)

/-- -1, 1 and 2, and a NaN: inside, below and above the bounds -1 and 1. -/
theorem witness_ClipFollowsItsBounds :
    (let below (a b : Word) : Prop := ∃ c, (fl32 a).compare (fl32 b) = some c ∧ c < 0
     ((fl32 0x7FC00000).isNan = true) ∧
     ((fl32 0).isNan = false ∧ below 0xBF800000 0x3F800000) ∧
     (¬below 0x3F800000 0xBF800000 ∧ below 0xC0000000 0xBF800000) ∧
     (¬below 0x40000000 0xBF800000 ∧ below 0x3F800000 0x40000000) ∧
     (¬below 0x3F800000 0xBF800000 ∧ ¬below 0x3F800000 0x3F800000)) ∧
    (let c : OutCfg := .parse ([0, 4] ++ zeros 14)
     c.scaleEn = false ∧ c.biasEn = false ∧ c.lutEn = false ∧ c.clipEn = true) :=
  ⟨⟨by decide +kernel, ⟨by decide +kernel, some_with (by decide +kernel)⟩,
    ⟨not_below (by decide +kernel), some_with (by decide +kernel)⟩,
    ⟨not_below (by decide +kernel), some_with (by decide +kernel)⟩, not_below (by decide +kernel), not_below (by decide +kernel)⟩,
   by decide +kernel⟩

/-! ### Vector engines and SFUs -/

def vecOk (d : Device) (opc : Nat) : Bool :=
  d.up && d.vecRuns 145 && (d.eng 145).recv.isNone && !(d.eng 145).upset && (d.vins 145).opc == opc

/-- The SFU at site 145 stands at an instruction, of opcode `opc`, on a device with the property. -/
def VecMeets (opc : Nat) (P : Device → VIns → Prop) : Prop :=
  ∃ (s : State) (d : Device) (i : VIns), s.runs d ∧ d.vecAt 145 opc i ∧ P d i

theorem vecMeets {opc : Nat} {P : Device → VIns → Prop} (d : Device) (h : vecOk d opc = true)
    (hp : P d (d.vins 145)) : VecMeets opc P := by
  simp only [vecOk, Bool.and_eq_true, Option.isNone_iff_eq_none, Bool.not_eq_true', beq_iff_eq] at h
  exact ⟨⟨[], d⟩, d, _, ⟨rfl, h.1.1.1.1⟩, ⟨h.1.1.1.2, Device.recvPump_idle h.1.1.2 40, Engine.hazard_idle h.1.1.2 _ _, h.1.2, rfl, h.2⟩, hp⟩

/-- The SFU at an instruction of opcode `opc` with fields `low`, word 1, and S[0] = `v`. -/
def atOp (opc low w1 : Nat) (v : Word) : Device :=
  (atVec (opc * 2 ^ 26 + low) w1).modSfu 145 fun m => { m with engine := { m.engine with s := [(0, { val := v, poison := false })] } }

theorem atOp_vec {P : Device → VIns → Prop} (opc low w1 : Nat) (v : Word) (h : vecOk (atOp opc low w1 v) opc = true)
    (hp : P (atOp opc low w1 v) ((atOp opc low w1 v).vins 145)) : VecMeets opc P := vecMeets _ h hp

/-- Every vector instruction of the table is met at some state. -/
theorem witness_vectorOpcodes : ∀ opc ∈ (List.range 0x1B).map (· + 1) ++ (List.range 10).map (· + 0x20) ++
    [0x30, 0x31, 0x3E, 0x3F], VecMeets opc fun _ _ => True := fun opc h =>
  have all : ∀ opc ∈ (List.range 0x1B).map (· + 1) ++ (List.range 10).map (· + 0x20) ++
      [0x30, 0x31, 0x3E, 0x3F], vecOk (atOp opc 0 0 0) opc = true := by decide +kernel
  atOp_vec opc 0 0 0 (all opc h) trivial

theorem witness_LaneInstructions :
    VecMeets 0x1A (fun d i => 1 ≤ ((d.eng 145).sval i.b).toNat ∧ ((d.eng 145).sval i.b).toNat ≤ 254) ∧
    VecMeets 0x1A (fun d i => ((d.eng 145).sval i.b).toNat = 0) ∧
    VecMeets 0x1A (fun d i => 254 < ((d.eng 145).sval i.b).toNat) :=
  ⟨atOp_vec 0x1A 0 0 254 (by decide +kernel) (by decide +kernel), atOp_vec 0x1A 0 0 0 (by decide +kernel) (by decide +kernel),
   atOp_vec 0x1A 0 0 255 (by decide +kernel) (by decide +kernel)⟩

theorem witness_LanesBeyondVlStay : siteKind 1 = .mu ∧ siteKind 145 = .sfu ∧ (0 : Nat) < ((atOp 0 0 0 0).eng 145).vl.toNat ∧
    ((atOp 0 0 0 0).eng 145).vl.toNat ≤ 64 := by decide +kernel

/-- The same with a vector length of 0. -/
def noLanes (opc w1 : Nat) : Device :=
  (atOp opc 0 w1 0).modSfu 145 fun m => { m with engine := { m.engine with vl := 0 } }

/-- The banks have been read and written in this clk. -/
def busy (opc : Nat) : Device := (atOp opc 0 0 0).modSfu 145 fun m => { m with readers := [0], writers := [0] }

/-- The vector engine of MU 1 stands at VEND. -/
def vecRunsAtMu (d : Device) : Bool :=
  d.vecRuns 1 && (d.eng 1).recv.isNone && !(d.eng 1).upset && (d.vins 1).opc == 0x3F

theorem witness_ScalarMemoryAndNetwork :
    VecMeets 0x13 (fun _ i => i.x % 16 < 2 ∧ i.x.testBit 5 = false) ∧
    VecMeets 0x20 (fun d i => let n := elemBytesOf (mfmtBits (bitsNat i.w1 31 28)) (d.eng 145).vl.toNat
      n ≠ 0 ∧ vecBeyond 145 (d.vecRow 145 i) n = none ∧ d.vecMayRead 145 (d.vecRow 145 i) (ceilDiv n 64) = true ∧
        ∃ b x, d.vecRead 145 (d.vecRow 145 i) (ceilDiv n 64) = (b, x)) ∧
    VecMeets 0x20 (fun d i => let n := elemBytesOf (mfmtBits (bitsNat i.w1 31 28)) (d.eng 145).vl.toNat
      n ≠ 0 ∧ vecBeyond 145 (d.vecRow 145 i) n = none ∧ d.vecMayRead 145 (d.vecRow 145 i) (ceilDiv n 64) = false) ∧
    VecMeets 0x21 (fun d i => vecBeyond 145 (d.vecRow 145 i) ((d.eng 145).packed i).1.length = none ∧
      d.vecMayWrite 145 (d.vecRow 145 i) (ceilDiv ((d.eng 145).packed i).1.length 64) = false) ∧
    VecMeets 0x22 (fun d i => vecBeyond 145 (d.vecRow 145 i) (4 * i.count) = none ∧ d.vecMayRead 145 (d.vecRow 145 i) 1 = false) ∧
    VecMeets 0x23 (fun d i => vecBeyond 145 (d.vecRow 145 i) (4 * i.count) = none ∧ d.vecMayWrite 145 (d.vecRow 145 i) 1 = false) ∧
    VecMeets 0x22 (fun d i => ∃ last, vecBeyond 145 (d.vecRow 145 i) (4 * i.count) = some last) ∧
    VecMeets 0x23 (fun d i => vecBeyond 145 (d.vecRow 145 i) (4 * i.count) = none ∧ d.vecMayWrite 145 (d.vecRow 145 i) 1 = true) ∧
    VecMeets 0x20 (fun d i => let n := elemBytesOf (mfmtBits (bitsNat i.w1 31 28)) (d.eng 145).vl.toNat
      n = 0 ∧ vecBeyond 145 (d.vecRow 145 i) n = none) ∧
    VecMeets 0x20 (fun d i => let n := elemBytesOf (mfmtBits (bitsNat i.w1 31 28)) (d.eng 145).vl.toNat
      ∃ last, vecBeyond 145 (d.vecRow 145 i) n = some last) ∧
    VecMeets 0x21 (fun d i => vecBeyond 145 (d.vecRow 145 i) ((d.eng 145).packed i).1.length = none ∧
      d.vecMayWrite 145 (d.vecRow 145 i) (ceilDiv ((d.eng 145).packed i).1.length 64) = true) ∧
    VecMeets 0x21 (fun d i => ∃ last, vecBeyond 145 (d.vecRow 145 i) ((d.eng 145).packed i).1.length = some last) ∧
    VecMeets 0x22 (fun d i => vecBeyond 145 (d.vecRow 145 i) (4 * i.count) = none ∧ d.vecMayRead 145 (d.vecRow 145 i) 1 = true) ∧
    VecMeets 0x23 (fun d i => ∃ last, vecBeyond 145 (d.vecRow 145 i) (4 * i.count) = some last) ∧
    VecMeets 0x24 (fun d i => ceilDiv (elemBytesOf (mfmtBits (bitsNat i.w1 31 28)) (d.eng 145).vl.toNat) 64 ≠ 0) ∧
    VecMeets 0x24 (fun d i => ceilDiv (elemBytesOf (mfmtBits (bitsNat i.w1 31 28)) (d.eng 145).vl.toNat) 64 = 0) ∧
    VecMeets 0x25 (fun d _ => (d.unit 145).out = []) ∧ VecMeets 0x27 (fun d _ => (d.unit 145).out = []) ∧
    VecMeets 0x3F (fun d _ => (d.unit 145).out = [] ∧ siteKind 145 = .sfu) ∧
    (∀ wait, Meets (fun d => vecRunsAtMu d = true ∧ siteKind 1 = .mu ∧ ((d.drainOut 1).mu 1).vecWait = wait)) :=
  ⟨atOp_vec 0x13 1 0 0 (by decide +kernel) (by decide +kernel),
   atOp_vec 0x20 0 (1023 - 3) 0 (by decide +kernel) ⟨by decide +kernel, by decide +kernel, by decide +kernel, _, _, rfl⟩,
   vecMeets (busy 0x20) (by decide +kernel) (by decide +kernel), vecMeets (busy 0x21) (by decide +kernel) (by decide +kernel),
   vecMeets (busy 0x22) (by decide +kernel) (by decide +kernel), vecMeets (busy 0x23) (by decide +kernel) (by decide +kernel),
   atOp_vec 0x22 0 1024 0 (by decide +kernel) ⟨1024, by decide +kernel⟩,
   atOp_vec 0x23 0 0 0 (by decide +kernel) (by decide +kernel),
   vecMeets (noLanes 0x20 0) (by decide +kernel) (by decide +kernel),
   atOp_vec 0x20 0 4095 0 (by decide +kernel) ⟨4098, by decide +kernel⟩,
   atOp_vec 0x21 0 0 0 (by decide +kernel) (by decide +kernel),
   atOp_vec 0x21 0 1021 0 (by decide +kernel) ⟨1024, by decide +kernel⟩,
   atOp_vec 0x22 0 1023 0 (by decide +kernel) (by decide +kernel),
   atOp_vec 0x23 0 1024 0 (by decide +kernel) ⟨1024, by decide +kernel⟩,
   atOp_vec 0x24 0 0 0 (by decide +kernel) (by decide +kernel),
   vecMeets (noLanes 0x24 0) (by decide +kernel) (by decide +kernel),
   atOp_vec 0x25 0 0 0 (by decide +kernel) (by decide +kernel), atOp_vec 0x27 0 0 0 (by decide +kernel) (by decide +kernel),
   atOp_vec 0x3F 0 0 0 (by decide +kernel) (by decide +kernel), fun wait => meets ((atMuVec (0x3F * 2 ^ 26) 0).modMu 1 fun m => { m with vecWait := wait })
     (by cases wait <;> rfl) (by cases wait <;> decide +kernel)⟩

/-! ### Scale units -/

/-- The SFU at site 145 at an instruction, with slot 0 recorded as a leader of `members`, or as a member slot. -/
def atSlot (opc low : Nat) (leader : Bool) (members : Nat) (words : List Nat) (f : Slot → Slot) : Device :=
  let rec_ := [1, 0, 4] ++ leBytes 1 (if leader then 2 else 0) ++ zeros 8 ++ leBytes 4 0x3F800000 ++ leBytes 1 members ++ zeros 15
  let sec := leBytes 4 0 ++ leBytes 4 8 ++ leBytes 2 1 ++ zeros (0x90 - 10) ++ rec_ ++ leBytes 4 (opc * 2 ^ 26 + low) ++ zeros 4
  { withImage job 145 (image sec) with
    sfus := [(145, { Sfu.reset with
      state := 1, slots := [(0, f .reset)]
      unit := { Unit.reset with inq := [(⟨.scalar, 4, 0⟩, words.map fun w => Item.make .scalar w 0 0 true)] } })] }

theorem witness_ScaleUnitsAct :
    VecMeets 0x16 (fun d i => siteKind 145 = .sfu ∧ (d.eng 145).vl ≠ 0 ∧ ∃ r, slotRec (d.section 145) i.x = some r) ∧
    VecMeets 0x17 (fun d i => ∃ r, slotRec (d.section 145) (i.x % 16) = some r ∧ r.leader = true ∧
      ((d.sfu 145).slot (i.x % 16)).reports.length < r.members) ∧
    VecMeets 0x17 (fun d i => ∃ r, slotRec (d.section 145) (i.x % 16) = some r ∧ r.leader = true ∧
      r.members ≤ ((d.sfu 145).slot (i.x % 16)).reports.length) ∧
    (∀ low ∈ [0, 16], VecMeets 0x17 (fun d i => i.x.testBit 4 = decide (low = 16) ∧
      ∃ r, slotRec (d.section 145) (i.x % 16) = some r ∧ r.leader = false)) ∧
    VecMeets 0x16 (fun d i => slotRec (d.section 145) i.x = none) ∧
    VecMeets 0x17 (fun d i => slotRec (d.section 145) (i.x % 16) = none) ∧
    VecMeets 0x16 (fun d _ => siteKind 145 = .sfu ∧ (d.eng 145).vl = 0) ∧
    Meets (fun d => d.unitRuns 145 = true ∧ (d.sfu 145).state = 1 ∧
      (∃ r, slotRec (d.section 145) 0 = some r ∧ r.leader = true ∧
        ((d.unit 145).takeWords r.vc 4).any (fun p => p.1 == [1, 2, 3, 4]) = true) ∧ ((d.sfu 145).slot 0).closing = none) ∧
    Meets (fun d => d.unitRuns 145 = true ∧ (d.sfu 145).state = 1 ∧
      (∃ r, slotRec (d.section 145) 0 = some r ∧ r.leader = true ∧
        ((d.unit 145).takeWords r.vc 4).any (fun p => p.1 == [1, 2, 3, 4]) = true ∧
        r.members ≤ ((d.sfu 145).slot 0).reports.length + 1) ∧ ((d.sfu 145).slot 0).closing = some 63) ∧
    (∀ wait, Meets (fun d => d.unitRuns 145 = true ∧ ((d.sfu 145).slot 0).waitMsg = wait ∧
      ∃ r, slotRec (d.section 145) 0 = some r ∧ r.leader = false ∧
        ((d.unit 145).takeWords r.vc 3).any (fun p => p.1 == [1, 2, 3]) = true)) :=
  ⟨vecMeets (atSlot 0x16 0 true 0 [] id) (by decide +kernel) ⟨by decide +kernel, by decide +kernel, is_some (by decide +kernel)⟩,
   vecMeets (atSlot 0x17 0 true 1 [] id) (by decide +kernel) (some_with (by decide +kernel)),
   vecMeets (atSlot 0x17 0 true 0 [] id) (by decide +kernel) (some_with (by decide +kernel)),
   List.forall_mem_cons.mpr ⟨vecMeets (atSlot 0x17 0 false 0 [] id) (by decide +kernel) ⟨by decide +kernel, some_with (by decide +kernel)⟩,
     List.forall_mem_singleton.mpr
       (vecMeets (atSlot 0x17 16 false 0 [] id) (by decide +kernel) ⟨by decide +kernel, some_with (by decide +kernel)⟩)⟩,
   vecMeets (atSlot 0x16 1 true 0 [] id) (by decide +kernel) (by decide +kernel),
   vecMeets (atSlot 0x17 1 true 0 [] id) (by decide +kernel) (by decide +kernel),
   vecMeets (noLanes 0x16 0) (by decide +kernel) (by decide +kernel),
   meets (atSlot 0x3E 0 true 1 [1, 2, 3, 4] id) rfl
     ⟨by decide +kernel, by decide +kernel, some_with (by decide +kernel), by decide +kernel⟩,
   meets (atSlot 0x17 0 true 1 [1, 2, 3, 4] fun s => { s with closing := some 63 }) rfl
     ⟨by decide +kernel, by decide +kernel, some_with (by decide +kernel), by decide +kernel⟩,
   fun wait => meets (atSlot 0x3E 0 false 0 [1, 2, 3] fun s => { s with waitMsg := wait }) (by cases wait <;> rfl)
     ⟨by cases wait <;> decide +kernel, by cases wait <;> rfl, some_with (by cases wait <;> decide +kernel)⟩⟩

/-! ### Storage units and streams -/

/-- A descriptor of one element at `start`, of a kind, with a DONE, a WAIT and a NEXT field. -/
def desc (kind mode done wait next start : Nat) : List Byte :=
  leBytes 1 kind ++ [1, 0] ++ leBytes 1 mode ++ leBytes 2 done ++ leBytes 2 wait ++ leBytes 4 next ++ zeros 4 ++
    leBytes 8 start ++ leBytes 4 64 ++ zeros 20 ++ leBytes 2 1 ++ zeros 14

/-- The SU at site 181 with context 7 in a state, on a descriptor, and words received on channel 0. -/
def suCtx (s : CtxState) (bs : List Byte) (words : List Item) (f : Ctx → Ctx) : Device :=
  suWith { Su.reset with
    ctx := [(7, f { Ctx.reset with state := s, bytes := bs, total := 1 })]
    unit := { Unit.reset with inq := [(⟨.vector, 4, 0⟩, words)] } } (zeros 0x80)

/-- The IOU at site `u` the same way. -/
def iouCtx (u : Nat) (s : CtxState) (bs : List Byte) (words : List Item) : Device :=
  iouWith u { Iou.reset with
    ctx := [(7, { Ctx.reset with state := s, bytes := bs, total := 1 })]
    unit := { Unit.reset with inq := [(⟨.vector, 4, 0⟩, words)] } }

/-- A closed word of a packing queue. -/
def packed : PackWord :=
  { bytes := zeros 64, count := 64, last := true, tag := false, poison := false, parityOk := true, ctx := 7, address := 0 }

/-- An IOU with that word in its outward queue. -/
def outward (u : Nat) : Device := iouWith u { Iou.reset with outQ := [(7, { PackQueue.reset with closed := [packed] })] }

/-- The context that a command for context 7 acts on, and that `P` selects. -/
def chosen (d : Device) (u : Nat) (p : Nat → Bool) : Prop := (d.ctxKeys u 7).find? p = some 7

/-- The SU fetches the descriptor at row 65535, which reads as the bytes. -/
def fetching (bs : List Byte) (marks : List (Nat × RowMark)) (f : Su → Su) : Device :=
  (suCtx .fetching [] [] fun c => { c with desc := 65535 }).modSu 181 fun s =>
    f { s with sram := { Mem.reset.write (64 * 65535) bs with marks := marks } }

/-- The row that the fetch finds. -/
def fetched (d : Device) : List Byte × Bool := (((d.su 181).read (d.ctx 181 7).desc).1, ((d.su 181).read (d.ctx 181 7).desc).2.1)

def nextIsOk (d : Device) : Bool :=
  (Desc.parse (fetched d).1).next.all fun n => n.1 || decide (n.2 < secNdesc (d.section 181))

def fetches (d : Device) : Prop :=
  d.streams 181 = true ∧ (d.ctx 181 7).state = .fetching ∧ (d.su 181).copyRead = none ∧ (d.su 181).bankRead = none

/-- A word for the grid. -/
def inward (u : Nat) (tag : Bool) : Device := iouWith u { Iou.reset with inQ := [(7, { PackQueue.reset with closed := [{ packed with tag := tag }] })] }

/-- A landing window of the IOU at site 12 whose release flag is set. -/
def releasing : Device :=
  ({ landing with pilots := job.pilots }.modHome 0 fun h => { h with flags := [16] }).modIou 12 fun x =>
    { x with windows := [(0, { Window.reset with state := 2 })] }

theorem witness_StreamsMove :
    (Meets (fun d => d.streams 181 = true ∧ d.started (siteRegion 181) = true ∧ (d.ctx 181 7).state = .between) ∧
     Meets (fun d => d.streams 181 = true ∧ (chosen d 181 fun k => (d.ctx 181 k).state == .waiting && (d.ctx 181 k).seen) ∧
       (d.ctx 181 7).d.wait = some (3, 4095, true) ∧ (d.ctx 181 7).d.waitClr = true) ∧
     Meets (fun d => d.streams 181 = true ∧ (chosen d 181 fun k => (d.ctx 181 k).state == .waiting && (d.ctx 181 k).seen) ∧
       (d.ctx 181 7).d.waitClr = false) ∧
     Meets (fun d => d.streams 181 = true ∧ (d.ctx 181 7).state = .fetching ∧ (d.su 181).copyRead = none ∧
       (d.su 181).bankRead = some ((d.ctx 181 7).desc % 16)) ∧
     Meets (fun d => fetches d ∧ (fetched d).2 = true) ∧
     Meets (fun d => fetches d ∧ (fetched d).2 = false ∧ descBad (fetched d).1 true = true) ∧
     Meets (fun d => fetches d ∧ (fetched d).2 = false ∧ descBad (fetched d).1 true = false ∧ nextIsOk d = false) ∧
     Meets (fun d => fetches d ∧ (fetched d).2 = false ∧ descBad (fetched d).1 true = false ∧ nextIsOk d = true) ∧
     Meets (fun d => d.streams 181 = true ∧ (chosen d 181 fun k =>
       (d.ctx 181 k).state == .running && ((d.ctx 181 k).d.kind == 4 || (d.ctx 181 k).moved == (d.ctx 181 k).total) &&
         d.settled 181 k) ∧ siteDuty 181 = none) ∧
     siteDuty 12 = some (.port 0)) ∧
    (Meets (fun d => d.streams 181 = true ∧ (List.range 8).find? (d.canRead 181) = some 7 ∧ (d.su 181).bankRead = none ∧
       (d.su 181).copyRead = none) ∧
     Meets (fun d => d.streams 181 = true ∧ (List.range 8).find? (d.canRead 181) = some 7 ∧ (d.su 181).bankRead = none ∧
       (d.su 181).copyRead = some ((((d.ctx 181 7).d.addr (d.ctx 181 7).moved).toNat / 64) % 16)) ∧
     (∀ p ∈ [(0, Duty.hbm 0), (15, .hub), (12, .port 0)], Meets (fun d => d.streams p.1 = true ∧
       (chosen d p.1 fun k => (d.ctx p.1 k).runs 1 && decide ((d.ctx p.1 k).moved < (d.ctx p.1 k).total)) ∧
       siteDuty p.1 = some p.2 ∧ ((d.iou p.1).inqueue (d.ctx p.1 7).d.vc).size + d.readsOut p.1 7 < packCap ∧
       ((d.iou p.1).inqueue (d.ctx p.1 7).d.vc).room ((d.ctx p.1 7).d.esize != 0) = true)) ∧
     Meets (fun d => d.streams 181 = true ∧ (d.su 181).bankWrite = none ∧ (List.range 8).find? (d.canWrite 181) = some 7 ∧
       (d.unit 181).queue ⟨.vector, 4, (d.ctx 181 7).d.vc⟩ = [aWord] ∧ (d.ctx 181 7).runs 2 = true) ∧
     Meets (fun d => d.streams 181 = true ∧ (d.su 181).bankWrite = none ∧ (List.range 8).find? (d.canWrite 181) = some 7 ∧
       (d.unit 181).queue ⟨.vector, 4, (d.ctx 181 7).d.vc⟩ = [aWord] ∧ (d.ctx 181 7).runs 4 = true) ∧
     Meets (fun d => d.streams 181 = true ∧ siteKind 181 = .su ∧ (d.ctx 181 7).runs 3 = true) ∧
     Meets (fun d => d.streams 0 = true ∧ siteKind 0 = .iou ∧ d.writerOf 0 0 = some 7 ∧
       (∃ p, (d.unit 0).nextIn (if (d.ctx 0 7).d.esize = 0 then .vector else .scalar) 0 = some p) ∧
       ((d.iou 0).outq 0).room ((d.ctx 0 7).d.esize != 0) = true) ∧
     (∀ u ∈ [0, 15, 12], Meets (fun d => d.streams u = true ∧ siteKind u = .iou ∧ ((d.iou u).outq 7).closed = [packed])) ∧
     (∀ tag, Meets (fun d => d.streams 0 = true ∧ siteKind 0 = .iou ∧ ((d.iou 0).inqueue 7).closed = [{ packed with tag := tag }] ∧
       (d.pilot (siteRegion 0)).drain = false ∧ d.gridRoom 0 7 = true ∧ d.credit 0 .scalar 7 = true)) ∧
     Meets (fun d => d.live (siteRegion 12) = true ∧
       ∃ k, (d.windowsOf (siteDie 12)).find? (fun k => k.iou == 12 && k.win == 0) = some k ∧ (d.window k).state = 2 ∧
         (winRelease k.record).testBit 15 = true ∧
         d.flagVal (bitsNat (winRelease k.record) 13 12) (winRelease k.record % 4096) = true ∧
         (d.home (bitsNat (winRelease k.record) 13 12)).reqs = [])) :=
  ⟨⟨meets (suCtx .between (desc 1 0 0 0 0 0) [] id) rfl (by decide +kernel),
    meets (suCtx .waiting (desc 1 1 0 0xFFFF 0 0) [] fun c => { c with seen := true }) rfl (by unfold chosen; decide +kernel),
    meets (suCtx .waiting (desc 1 0 0 0x8000 0 0) [] fun c => { c with seen := true }) rfl (by unfold chosen; decide +kernel),
    meets (fetching (desc 1 0 0 0 0 0) [] fun s => { s with bankRead := some 15 }) rfl (by decide +kernel),
    meets (fetching (desc 1 0 0 0 0 0) [(65535, .poison)] id) rfl (by unfold fetches; decide +kernel),
    meets (fetching (desc 0 0 0 0 0 0) [] id) rfl (by unfold fetches; decide +kernel),
    meets (fetching (desc 1 0 0 0 (2 ^ 31 + 1) 0) [] id) rfl (by unfold fetches; decide +kernel),
    meets (fetching (desc 1 0 0 0 0 0) [] id) rfl (by unfold fetches; decide +kernel),
    meets (suCtx .running (desc 1 0 0 0 0 0) [] fun c => { c with moved := 1 }) rfl (by unfold chosen; decide +kernel), by decide⟩,
   meets (suCtx .running (desc 1 0 0 0 0 0) [] id) rfl (by decide +kernel),
   meets ((suCtx .running (desc 1 0 0 0 0 0) [] id).modSu 181 fun s => { s with copyRead := some 0 }) rfl (by decide +kernel),
   List.forall_mem_cons.mpr ⟨meets (iouCtx 0 .running (desc 1 0 0 0 0 0) []) rfl (by unfold chosen; decide +kernel),
     List.forall_mem_cons.mpr ⟨meets (iouCtx 15 .running (desc 1 0 0 0 0 0) []) rfl (by unfold chosen; decide +kernel),
       List.forall_mem_singleton.mpr (meets (iouCtx 12 .running (desc 1 0 0 0 0 0) []) rfl (by unfold chosen; decide +kernel))⟩⟩,
   meets (suCtx .running (desc 2 0 0 0 0 0) [aWord] id) rfl (by decide +kernel),
   meets (suCtx .running (desc 4 0 0 0 0 0) [aWord] id) rfl (by decide +kernel),
   meets (suCtx .running (desc 3 0 0 0 0 0) [] id) rfl (by decide +kernel),
   meets (iouCtx 0 .running (desc 2 0 0 0 0 0) [aWord]) rfl
     ⟨by decide +kernel, by decide +kernel, by decide +kernel, is_some (by decide +kernel), by decide +kernel⟩,
   List.forall_mem_cons.mpr ⟨meets (outward 0) rfl (by decide +kernel),
     List.forall_mem_cons.mpr ⟨meets (outward 15) rfl (by decide +kernel),
       List.forall_mem_singleton.mpr (meets (outward 12) rfl (by decide +kernel))⟩⟩,
   fun tag => meets (inward 0 tag) (by cases tag <;> rfl) (by cases tag <;> decide +kernel),
   meets releasing rfl ⟨by decide +kernel, some_with (by decide +kernel)⟩⟩

theorem witness_DescriptorStartsOrFaults :
    (let d := suCtx .between (desc 1 0 0 0 0 (2 ^ 22 - 64)) [] id
     let x := (d.ctx 181 7).d
     x.csrc = false ∧ x.kind ≠ 3 ∧ (spaceOf 181).1 ≤ (x.extent x.outer).1 ∧ (x.extent x.outer).2 ≤ (spaceOf 181).2) ∧
    (let d := suCtx .between ((desc 1 0 0 0 0 0).take 0x18 ++ leBytes 4 (2 ^ 32 - 64) ++ zeros 20 ++ leBytes 2 2 ++ zeros 14) [] id
     let x := (d.ctx 181 7).d
     x.csrc = false ∧ x.outer ≠ 0 ∧ (x.extent x.outer).1 < (spaceOf 181).1) ∧
    (let d := suCtx .running (desc 1 0 0xBFFF 0 (2 ^ 31 + 5) 0) [] id
     (d.ctx 181 7).d.done = some (3, 4095) ∧ (d.ctx 181 7).d.next = some (false, 5)) := by
  decide +kernel

/-! ### HBM and scrubbers -/

/-- `on` with changes to the controller of stack 7. -/
def stack7 (f : Stack → Stack) : Device := on.modStack 7 f

theorem witness_StackControllerActs :
    Meets (fun d => (d.stack 7).state = 1 ∧
      ∃ p, takeFirst (fun h : HbmRead => ((d.iou h.site).inqueue (d.ctx h.site h.ctx).d.vc).room (h.bytes != 64))
        (d.stack 7).reads = some p) ∧
    Meets (fun d => (d.stack 7).state = 1 ∧ (∃ w, (d.stack 7).writes = [w]) ∧ ∃ w, nextWrite (d.stack 7).writes = some w) ∧
    Meets (fun d => (d.stack 7).state = 1 ∧ d.hbm.mark (7 * stackBytes / 64 + (d.stack 7).scrub.toNat) = none ∧
      (d.stack 7).scrub.toNat + 1 < stackBytes / 64) ∧
    Meets (fun d => d.pwr.state = 3 ∧ d.pwr.wakeTo = none ∧ (d.stack 7).state = 1 ∧ (d.stack 7).reads = [] ∧
      (d.stack 7).writes = []) ∧
    Meets (fun d => (d.stack 7).state = 2 ∧ d.pwr.state ≠ 3 ∧ d.hlt.trip = false) ∧
    Meets (fun d => (d.stack 7).state = 2 ∧ d.pwr.wakeTo ≠ none ∧ d.hlt.trip = false) ∧
    Meets (fun d => (d.stack 7).state = 0 ∧ d.seq.ref0 = true) :=
  ⟨meets (stack7 fun s => { s with reads := [{ site := 0, ctx := 0, offset := 0, bytes := 64, last := true }] }) rfl
     ⟨by decide +kernel, is_some (by decide +kernel)⟩,
   meets (stack7 fun s => { s with writes := [{ time := 0, site := 0, ctx := 0, offset := 0, bytes := zeros 64, poison := false }] }) rfl
     ⟨by decide +kernel, ⟨_, rfl⟩, _, rfl⟩,
   meets on rfl (by decide +kernel), meets { on with pwr := { Power.reset with state := 3 } } rfl (by decide +kernel),
   meets (stack7 fun s => { s with state := 2 }) rfl (by decide +kernel),
   meets { stack7 (fun s => { s with state := 2 }) with pwr := { Power.reset with state := 3, wakeTo := some 0 } } rfl
     (by decide +kernel),
   meets dev rfl (by decide +kernel)⟩

theorem witness_HbmReadsWhatWasWritten : dev.hbm.wf = true ∧ (zeros 64).length = 64 ∧ 60 + (zeros 4).length ≤ 64 ∧
    (zeros 4).length < 64 ∧ 0 < (zeros 4).length ∧ ({ cells := [], marks := [(0, .poison)] } : Mem).wf = true ∧
    ({ cells := [], marks := [(0, .poison)] } : Mem).mark 0 = some .poison := by decide +kernel

/-- `dev` with row 0 of ring SRAM marked. -/
def marked (m : RowMark) (back : Option Nat) : Device := { dev with ring := { cells := [], marks := [(0, m)] }, ringBack := back }

theorem witness_ScrubbersAct :
    Meets (fun d => d.ringBack = none ∧ d.ring.mark d.ringScrub = some .correctable) ∧
    Meets (fun d => d.ringBack = none ∧ d.ring.mark d.ringScrub = some .uncorrectable) ∧
    Meets (fun d => d.ring.wf = true ∧ d.ringBack = some 0 ∧ d.ring.mark 0 = some .correctable) ∧
    Meets (fun d => siteKind 181 = .su ∧ d.clockRuns (siteRegion 181) = true ∧ d.usable 181 = true ∧
      (d.su 181).scrubBack = none ∧ (d.su 181).bankRead = none ∧ (d.su 181).copyRead = none ∧
      (d.su 181).sram.mark (d.su 181).scrubRow = none ∧ (d.su 181).scrubRow + 1 < 65536) ∧
    (∀ path : Bool, Meets (fun d => d.clockRuns (siteRegion 181) = true ∧ d.usable 181 = true ∧ (d.su 181).scrubBack = none ∧
      (if path then (d.su 181).copyRead else (d.su 181).bankRead) = some ((d.su 181).scrubRow % 16))) ∧
    (∀ rs : List Nat, rs ∈ [[], [0]] → Meets (fun d => d.clockRuns (siteRegion 1) = true ∧ d.usable 1 = true ∧ siteKind 1 = .mu ∧
       (d.mu 1).scrubBack = none ∧ (d.mu 1).readFree [(d.mu 1).scrubRow] = rs.isEmpty ∧
       (d.mu 1).scratch.mark (d.mu 1).scrubRow = none) ∧
     Meets (fun d => d.clockRuns (siteRegion 145) = true ∧ d.usable 145 = true ∧ siteKind 145 = .sfu ∧
       (d.sfu 145).scrubBack = none ∧ (d.sfu 145).readers.contains (sfuBank (d.sfu 145).scrubRow) = !rs.isEmpty ∧
       (d.sfu 145).sram.mark (d.sfu 145).scrubRow = none)) ∧
    (∀ clean : Bool, Meets (fun d => d.clockRuns (siteRegion 1) = true ∧
      ∃ q, (d.switch 1).scrubAt 1 = some q ∧
        ((d.switch 1).planeMarks 1).find q.1 = if clean then none else some .correctable)) ∧
    Meets (fun d => d.clockRuns (siteRegion 1) = true ∧
      ∃ q, (d.switch 1).scrubAt 0 = some q ∧ ((d.switch 1).planeMarks 0).find q.1 = some .uncorrectable) ∧
    Meets (fun d => (d.switch 1).scrubAt 3 = none) ∧
    Meets (fun d => d.clockRuns 7 = true ∧ d.comb.storeScrub.getD 7 0 < 370080 ∧
      (d.storeSlot 7 (storePlace (d.comb.storeScrub.getD 7 0)).1).unitMarks.find (storePlace (d.comb.storeScrub.getD 7 0)).2 = none) ∧
    Meets (fun d => d.clockRuns 7 = true ∧ 370080 ≤ d.comb.storeScrub.getD 7 0 ∧
      (d.storeSlot 7 (storePlace (d.comb.storeScrub.getD 7 0)).1).progMarks.find (storePlace (d.comb.storeScrub.getD 7 0)).2 = none) ∧
    Meets (fun d => d.log.scrubBack = none ∧ d.log.mem.mark d.log.scrubRow = none) :=
  ⟨meets (marked .correctable none) rfl (by decide +kernel), meets (marked .uncorrectable none) rfl (by decide +kernel),
   meets (marked .correctable (some 0)) rfl (by decide +kernel), meets dev rfl (by decide +kernel),
   fun path => meets (dev.modSu 181 fun s => if path then { s with copyRead := some 0 } else { s with bankRead := some 0 })
     (by cases path <;> rfl) (by cases path <;> decide +kernel),
   List.forall_mem_cons.mpr ⟨⟨meets dev rfl (by decide +kernel), meets dev rfl (by decide +kernel)⟩,
     List.forall_mem_singleton.mpr ⟨meets (dev.modMu 1 fun m => { m with readers := [0] }) rfl (by decide +kernel),
       meets (dev.modSfu 145 fun m => { m with readers := [0] }) rfl (by decide +kernel)⟩⟩,
   fun clean => meets (dev.modSwitch 1 fun s =>
       { s with idle := { comb := some 0, image := image (zeros 64), marks := if clean then [] else [(1, .correctable)] } })
     (by cases clean <;> rfl)
     ⟨by cases clean <;> rfl, (1, 0), by cases clean <;> decide +kernel, by cases clean <;> decide +kernel⟩,
   meets (dev.modSwitch 1 fun s => { s with active := { comb := some 0, image := image (zeros 64), marks := [(1, .uncorrectable)] } })
     rfl ⟨by decide +kernel, (1, 0), by decide +kernel, by decide +kernel⟩,
   meets dev rfl (by decide +kernel), meets dev rfl (by decide +kernel),
   meets (dev.modComb fun c => { c with storeScrub := [(7, 370080)] }) rfl (by decide +kernel), meets dev rfl (by decide +kernel)⟩

/-! ### Small behaviours, with results worked out from the spec -/

/-- The device after a command that answers a next state. -/
def after (c : Instr) (d : Device) : Device :=
  match exec c ⟨[], d⟩ with
  | .next t => t.dev
  | _ => d

/-- The published check value of CRC-32: the digits 1 to 9 give CBF43926. -/
theorem test_crc32 : crc32 ((List.range 9).map fun k => BitVec.ofNat 8 (0x31 + k)) = 0xCBF43926 := by decide +kernel

/-- FIPS 180-4's example: SHA-256 of "abc". -/
theorem test_sha256 : sha256 [0x61, 0x62, 0x63] = 0xba7816bf8f01cfea414140de5dae2223b00361a396177a9cb410ff61f20015ad := by
  decide +kernel

/-- 2^24 + 1 is not a binary32 number: the tie goes to the even one, 2^24. -/
theorem test_add_ties_to_even : (addTy 0 0x4B800000 0x3F800000).1 = 0x4B800000 := by decide +kernel

/-- The largest binary32 number twice is infinite. -/
theorem test_add_overflows : (addTy 0 0x7F7FFFFF 0x7F7FFFFF).1 = 0x7F800000 := by decide +kernel

/-- Infinity less infinity is the NaN of R150. -/
theorem test_sub_invalid : (fl32 (subTy 0 0x7F800000 0x7F800000).1).isNan = true := by decide +kernel

/-- A doorbell of 256 on a ring of 256 entries is ignored and counted (R383). -/
theorem test_doorbell_at_entries : (after (.doorbell 0 256) dev).host.errDoorbell = 1 := by decide +kernel
theorem test_doorbell_last : ((after (.doorbell 0 255) dev).cmdRing 0).tail = 255 := by decide +kernel

/-- HOST_IRQ_PENDING clears the bits written 1 (R410). -/
theorem test_irq_write_one_clears :
    (after (.registerWrite 0x014 5) (dev.modHost fun h => { h with irqPending := 7 })).host.irqPending = 2 := by decide +kernel

/-- A write of eight bytes to a register changes nothing but the window error (R378). -/
theorem test_hwr_register_size : (after (.hwr 0x800018 (zeros 8)) dev).host.irqMask = 1 ∧
    (after (.hwr 0x800018 (zeros 8)) dev).host.err = 1 := by decide +kernel

/-- WAITC 1 waits one clk: the pilot stays at its instruction until the wait ends (R218). -/
theorem test_waitc : let d := after (.waitc 0) (atPilot (pw 0xB 1) .reset)
    (d.pilot 0).waitc = 1 ∧ (d.pilot 0).pc = 0 ∧ ((after (.waitcEnd 0) d).pilot 0).pc = 1 := by decide +kernel

/-- SETSH of an immediate writes its shape register (R222). -/
theorem test_setsh : ((after (.setsh 0) (atPilot (pw 1 (63 * 2 ^ 52 + 7)) .reset)).pilot 0).shape.getD 63 0 = 7 := by decide +kernel

/-- An instruction of another opcode than the one at the pilot's place changes nothing. -/
theorem test_other_opcode : after (.token 0) (atPilot (pw 0xB 1) .reset) = atPilot (pw 0xB 1) .reset := by decide +kernel

/-- Two arrivals of two: the release flag toggles and the arrivals clear (R287). -/
theorem test_barrier : ((barrierHome [8, 9]).evalGroup 0 0).flags = [0] := by decide +kernel

/-- A wrap: the message goes to row 0, and the wrap marker holds row 63 (R302). -/
theorem test_placement_wraps : (wrapping.place aMsg).2.1 = 0 ∧ (wrapping.place aMsg).2.2.1 = some 63 ∧
    (wrapping.place aMsg).2.2.2.used = 64 := by decide +kernel

/-- 0 × 0 in the format FP32 starts from 0 under OVERWRITE: the accumulator word is 0, the job is gone (R112, R155). -/
theorem test_mma_retire : let d := after (.mmaRetire 1) (mu1 (mmaWords 0) fun m => { m with jobs := [aJob], acc := [(0, 5)] })
    (d.mu 1).acc.getD 0 9 = 0 ∧ (d.mu 1).jobs = [] ∧ (d.mu 1).tiles = 1 := by decide +kernel

/-- VIOTA writes the lane numbers below VL (R198). -/
theorem test_viota : let d := after (.viota 145) (atOp 0x0F 0 0 0)
    (d.eng 145).lane 0 63 = 63 ∧ (d.eng 145).pc = 1 := by decide +kernel

/-- A frame with a bad CRC is answered by the number of the last good one, with the replay bit (R338). -/
theorem test_bad_frame : ((after (.ack 0 badHdr 7) (vx id)).port 0).acks = [(0xFFF, true)] := by decide +kernel

/-- A row that is written whole reads back, and only its burst is listed. -/
theorem test_hbm_row : ((dev.hbmWriteBurst 64 (zeros 63 ++ [1]) false .write).hbm.cells.map (·.1)) = [127] := by decide +kernel

/-- The clock inputs the wrong way round are swapped (R490). -/
theorem test_swapped_clocks : clockInputs 156250 100000 = (false, false, true) := by decide

/-- HELLO for versions 1 to 3 at the boot loader agrees on 1 (R398). -/
theorem test_hello_version : ((after (.hello wid) (withCmd dev 0x0101 [1, 3, 0, 0])).host.version) = 1 := by decide +kernel

/-- FLAG_WRITE completes only once its change is visible (R285). -/
theorem test_flag_write : let d := after (.flagWrite wid) (withCmd job 0x0501 ([3, 1] ++ leBytes 2 4095))
    ((d.home 3).hasFlag 4095, (d.findCmd wid).map (·.posted)) = (false, some false) ∧
    (((after (.flagChange 3) d).home 3).hasFlag 4095 = true) := by decide +kernel

/-- e = 2.71828 18284… lies 0.35 spacings above the code 0x402DF854, so the Max error of EXP, 2 spacings, leaves four codes
(R204). -/
theorem test_fn_bounds : fnCodes 1 (fl32 0x3F800000) = (0x402DF853, 0x402DF856) := by decide +kernel

/-- A bit that the hardware sets in the clk of a write of 1 ends set (R12). -/
theorem test_set_beats_clear : let d := dev.modHost fun h => h.setIrq dev.now 0
    (after (.registerWrite 0x014 1) d).host.irqPending = 1 ∧
      (after (.registerWrite 0x014 1) { d with now := 5 }).host.irqPending = 0 := by decide +kernel

/-- The idle block passes 5/24 ns. -/
theorem test_idle : (step State.reset) = .next ⟨[], dev.timeStep⟩ ∧ dev.timeStep.now = 5 := ⟨rfl, by decide +kernel⟩

end Sys2Proof.Tests
end

section
/-! SUPPORT and PROOFS. The registers of the host port: which operation each offset names, what the W1C bits keep, and
what a write to HOST_CMD_CTRL does to a held ring; then the statements on reset and on register writes. -/

namespace Sys2Proof.Machine

/-! ### The device right after reset (R14, R381, R386, R452) -/

@[simp] theorem Mem.reset_byte (a : Nat) : Mem.reset.byte a = 0 := rfl

theorem Device.reset_cmdRing_ne {q : Nat} (h : q ≠ 0) : Device.reset.cmdRing q = .reset := by
  simp [Device.cmdRing, Device.reset, HostPort.reset, Tab.getD, h]

theorem Device.reset_cplRing_ne {q : Nat} (h : q ≠ 0) : Device.reset.cplRing q = .reset := by
  simp [Device.cplRing, Device.reset, HostPort.reset, Tab.getD, h]

theorem Device.reset_storesOk : Device.reset.storesOk := ⟨Mem.wf_reset, Mem.wf_reset, Mem.wf_reset⟩

theorem State.reset_queueOk : State.reset.queueOk := fun _ h => nomatch h

/-- Settles O6: the tables of reset hold an entry for the rings 0 only, and its stores and its queue are empty. -/
theorem resetValues : Obligations.ResetValues := by
  unfold Obligations.ResetValues
  refine ⟨⟨rfl, rfl, rfl, rfl, rfl, rfl, rfl, ?otherRingsOff, rfl, rfl, rfl, ?ringSramZero, ?logbookZero, ?limits⟩,
    Device.reset_storesOk, State.reset_queueOk⟩
  case otherRingsOff =>
    intro q hq
    exact ⟨congrArg CmdRing.life (Device.reset_cmdRing_ne hq), congrArg CplRing.life (Device.reset_cplRing_ne hq)⟩
  case ringSramZero => exact Mem.reset_byte
  case logbookZero => exact Mem.reset_byte
  case limits => exact fun _ => ⟨rfl, rfl, rfl⟩

/-! ### Bits that a write of 1 clears (R11, R12) -/

/-- The marks of bits set in this clk are those of hub time `now` once the clk has begun. -/
@[simp] theorem HostPort.fresh_freshAt (h : HostPort) (now : Nat) : (h.fresh now).freshAt = now := by
  unfold HostPort.fresh
  split
  · assumption
  · rfl

theorem HostPort.fresh_of_freshAt {h : HostPort} {now : Nat} (hf : h.freshAt = now) : h.fresh now = h :=
  if_pos hf

@[simp] theorem HostPort.setErr_freshAt (h : HostPort) (now : Nat) (bits : BitVec 4) :
    (h.setErr now bits).freshAt = now := h.fresh_freshAt now

@[simp] theorem HostPort.setIrq_freshAt (h : HostPort) (now q : Nat) : (h.setIrq now q).freshAt = now :=
  h.fresh_freshAt now

/-- In the clk in which the hardware has set bits, a clear leaves those bits as they are. -/
theorem HostPort.clearErr_same {h : HostPort} {now : Nat} (v : BitVec 4) (hf : h.freshAt = now) :
    (h.clearErr now v).err = h.err &&& ~~~v ||| h.freshErr := by
  simp [HostPort.clearErr, HostPort.fresh_of_freshAt hf]

theorem HostPort.clearIrq_same {h : HostPort} {now : Nat} (v : BitVec 16) (hf : h.freshAt = now) :
    (h.clearIrq now v).irqPending = h.irqPending &&& ~~~v ||| h.freshIrq := by
  simp [HostPort.clearIrq, HostPort.fresh_of_freshAt hf]

/-- A bit of HOST_ERR that is set in the clk of a write of 1 ends set (R12). -/
theorem HostPort.setErr_beats_clearErr (h : HostPort) (now : Nat) (bits v : BitVec 4) :
    ((h.setErr now bits).clearErr now v).err &&& bits = bits := by
  have hfresh : (h.setErr now bits).freshErr = (h.fresh now).freshErr ||| bits := rfl
  rw [HostPort.clearErr_same v (h.setErr_freshAt now bits), hfresh]
  ext i hi
  cases hb : bits[i] <;> simp [hb]

/-- A bit of HOST_IRQ_PENDING that is set in the clk of a write of 1 ends set (R12). -/
theorem HostPort.setIrq_beats_clearIrq (h : HostPort) (now : Nat) (q : Fin 16) (v : BitVec 16) :
    ((h.setIrq now q.val).clearIrq now v).irqPending.getLsbD q.val = true := by
  have hfresh : (h.setIrq now q.val).freshIrq = (h.fresh now).freshIrq ||| BitVec.ofNat 16 (2 ^ q.val) := rfl
  have hbit : (BitVec.ofNat 16 (2 ^ q.val)).getLsbD q.val = true := by
    rw [BitVec.getLsbD_ofNat, decide_eq_true q.isLt, Nat.testBit_two_pow_self, Bool.and_self]
  rw [HostPort.clearIrq_same v (h.setIrq_freshAt now q.val), hfresh, BitVec.getLsbD_or, BitVec.getLsbD_or, hbit,
    Bool.or_true, Bool.or_true]

/-! ### Which operation an offset of the HOST_ block names (R410) -/

theorem Device.writeHostReg_irqPending (d : Device) (v : Word) :
    d.writeHostReg 0x014 v = d.modHost (·.clearIrq d.now (BitVec.setWidth 16 v)) := by
  simp [Device.writeHostReg]

theorem Device.writeHostReg_irqMask (d : Device) (v : Word) :
    d.writeHostReg 0x018 v = { d with host := { d.host with irqMask := BitVec.setWidth 16 v } } := by
  simp [Device.writeHostReg, Device.modHost]

theorem Device.writeHostReg_err (d : Device) (v : Word) :
    d.writeHostReg 0x01C v = d.modHost (·.clearErr d.now (BitVec.setWidth 4 v)) := by
  simp [Device.writeHostReg]

/-- The first word of the block of command ring `q` is its doorbell. -/
theorem Device.writeHostReg_cmdTail (d : Device) (q : RingIx) (v : Word) :
    d.writeHostReg (0x100 + 16 * q.val) v = d.ringDoorbell q.val v := by
  have hq := q.isLt
  have hix : (0x100 + 16 * q.val - 0x100) / 16 = q.val := by omega
  rw [Device.writeHostReg, if_neg (by omega), if_neg (by omega), if_neg (by omega), if_pos (by omega), hix]

/-- The third word of the block of command ring `q` is HOST_CMD_CTRL. -/
theorem Device.writeHostReg_cmdCtrl (d : Device) (q : RingIx) (v : Word) :
    d.writeHostReg (0x108 + 16 * q.val) v = d.writeCtrl q.val v := by
  have hq := q.isLt
  have hix : (0x108 + 16 * q.val - 0x100) / 16 = q.val := by omega
  rw [Device.writeHostReg, if_neg (by omega), if_neg (by omega), if_neg (by omega), if_neg (by omega),
    if_pos (by omega), hix]

/-- The second word of the block of completion ring `q` is its head. -/
theorem Device.writeHostReg_cplHead (d : Device) (q : RingIx) (v : Word) :
    d.writeHostReg (0x204 + 16 * q.val) v = d.writeCplHead q.val v := by
  have hq := q.isLt
  have hix : (0x204 + 16 * q.val - 0x200) / 16 = q.val := by omega
  rw [Device.writeHostReg, if_neg (by omega), if_neg (by omega), if_neg (by omega), if_neg (by omega),
    if_neg (by omega), if_pos (by omega), hix]

/-- The offset is none of IRQ_PENDING, IRQ_MASK and HOST_ERR and no ring register that takes a write: it is read-only or
reserved. -/
def hostRegIgnores (off : Nat) : Prop :=
  off ∉ [0x014, 0x018, 0x01C] ∧
    (off < 0x100 ∨ 0x300 ≤ off ∨ (off < 0x200 ∧ off % 16 ∉ [0, 8]) ∨ (0x200 ≤ off ∧ off % 16 ≠ 4))

theorem Device.writeHostReg_ignored (d : Device) {off : Nat} (v : Word) (h : hostRegIgnores off) :
    d.writeHostReg off v = d := by
  simp only [hostRegIgnores, List.mem_cons, List.not_mem_nil, or_false, not_or] at h
  obtain ⟨⟨hpending, hmask, herr⟩, hrings⟩ := h
  rw [Device.writeHostReg, if_neg hpending, if_neg hmask, if_neg herr, if_neg (by omega), if_neg (by omega),
    if_neg (by omega)]

/-- A REGISTER_WRITE at an aligned offset of the HOST_ block answers what the register's own write does. -/
theorem State.answers_registerWrite {s : State} {d d' : Device} {off : Nat} {v : Word} (h : s.runs d)
    (hlt : off < 0x1000) (halign : off % 4 = 0) (hd : d.writeHostReg off v = d') :
    s.answers (.registerWrite off v) d' :=
  State.answers_liftIf h rfl (by simp [Instr.wellFormed, hlt, halign]) hd

theorem State.answers_cplHeadWrite {s : State} {d d' : Device} {q : RingIx} {v : Word} (h : s.runs d)
    (hd : d.writeCplHead q.val v = d') : s.answers (.cplHeadWrite q v) d' :=
  State.answers_lift (f := fun d => d.writeCplHead q.val v) h rfl hd

theorem State.answers_resume {s : State} {d d' : Device} {q : RingIx} {v : Word} (h : s.runs d)
    (hd : d.writeCtrl q.val v = d') : s.answers (.resume q v) d' :=
  State.answers_lift (f := fun d => d.writeCtrl q.val v) h rfl hd

/-! ### Completion heads and HOST_CMD_CTRL (R384, R390) -/

theorem ofNat16_mod_eq_setWidth (v : Word) : BitVec.ofNat 16 (v.toNat % 65536) = BitVec.setWidth 16 v :=
  BitVec.eq_of_toNat_eq (by simp)

theorem Device.writeCplHead_below (d : Device) {q : Nat} {v : Word} (h : v.toNat % 65536 < (d.cplRing q).entries) :
    d.writeCplHead q v = d.modCplRing q fun r => { r with head := BitVec.setWidth 16 v } := by
  simp only [Device.writeCplHead, if_pos h, ofNat16_mod_eq_setWidth]

theorem Device.writeCplHead_beyond (d : Device) {q : Nat} {v : Word} (h : (d.cplRing q).entries ≤ v.toNat % 65536) :
    d.writeCplHead q v = d.doorbellError := if_neg (Nat.not_lt.2 h)

/-- RESUME with a NEW_HEAD below ENTRIES: the held ring goes on at NEW_HEAD. -/
theorem Device.writeCtrl_resumes (d : Device) {q : Nat} {v : Word} (hlife : (d.cmdRing q).life ≠ .off)
    (hheld : (d.cmdRing q).held = true) (hresume : v.getLsbD 16 = true)
    (hlt : v.toNat % 65536 < (d.cmdRing q).entries) :
    d.writeCtrl q v =
      (d.modCmdRing q fun r => { r with newHead := BitVec.setWidth 16 v }).modCmdRing q fun r =>
        { r with head := BitVec.setWidth 16 v, held := false, resume := true } := by
  simp [Device.writeCtrl, hlife, hheld, hresume, hlt]

/-- Settles O9: each offset names one operation, which the lemmas above state. -/
theorem registerWrites : Obligations.RegisterWrites := by
  unfold Obligations.RegisterWrites
  refine ⟨?registers, ?cplHead, ?resume⟩
  case registers =>
    intro s d v h
    refine ⟨State.answers_registerWrite h (by omega) rfl (d.writeHostReg_irqPending v),
      State.answers_registerWrite h (by omega) rfl (d.writeHostReg_irqMask v),
      State.answers_registerWrite h (by omega) rfl (d.writeHostReg_err v),
      fun hold => ⟨HostPort.clearIrq_old _ hold, HostPort.clearErr_old _ hold⟩,
      fun q => d.host.setIrq_beats_clearIrq d.now q _, fun bits => d.host.setErr_beats_clearErr d.now bits _,
      fun q => ?_, fun q => ?_, fun q => ?_, fun off halign hlt hw1c hrings => ?_⟩
    · exact State.answers_registerWrite h (by omega) (by omega) (d.writeHostReg_cmdTail q v)
    · exact State.answers_registerWrite h (by omega) (by omega) (d.writeHostReg_cmdCtrl q v)
    · exact State.answers_registerWrite h (by omega) (by omega) (d.writeHostReg_cplHead q v)
    · exact State.answers_registerWrite h hlt halign (d.writeHostReg_ignored v ⟨hw1c, hrings⟩)
  case cplHead =>
    intro s d q v h
    exact ⟨fun hlt => State.answers_cplHeadWrite h (d.writeCplHead_below hlt),
      fun hge => State.answers_cplHeadWrite h (d.writeCplHead_beyond hge),
      d.doorbellError_err, d.doorbellError_errDoorbell, rfl⟩
  case resume =>
    intro s d q v h hlife hheld hresume hlt
    refine ⟨_, State.answers_resume h (d.writeCtrl_resumes hlife hheld hresume hlt), ?_, fun k hk => ?_, rfl⟩
    · simp only [Device.modCmdRing_cmdRing]
    · rw [Device.modCmdRing_cmdRing_ne _ _ _ hk, Device.modCmdRing_cmdRing_ne _ _ _ hk]

end Sys2Proof.Machine
end

section
/-! SUPPORT and PROOFS. The identity commands of the Device family: taking a command changes none of the fields that
their replies report, and each row, once its conditions hold, completes with its reply. -/

namespace Sys2Proof.Machine

/-! ### What the replies report does not depend on the command's own mark (R32, R401) -/

@[simp] theorem Device.acted_loader (d : Device) (id : CmdId) : (d.acted id).host.loader = d.host.loader := rfl

@[simp] theorem Device.acted_helloReply (d : Device) (id : CmdId) (v : Nat) :
    (d.acted id).helloReply v = d.helloReply v := rfl

@[simp] theorem Device.acted_statusReply (d : Device) (id : CmdId) : (d.acted id).statusReply = d.statusReply := rfl

@[simp] theorem Device.acted_factoryMapBytes (d : Device) (id : CmdId) :
    (d.acted id).factoryMapBytes = d.factoryMapBytes := rfl

/-! ### The rows (R32, R398, R401, R402) -/

/-- With no comb set loaded, HELLO takes the agreed version whatever version it had before (R398). -/
theorem Device.hello_agrees {d : Device} {id : CmdId} {ps : List Byte} {v : Nat} (hready : d.ready id 0x0101 ps)
    (hreserved : fieldAt ps 2 2 = 0)
    (hagree : agreeVersion d.host.loader (fieldAt ps 0 1) (fieldAt ps 1 1) = some v) (hempty : d.comb.state = .empty) :
    d.hello id =
      ((d.acted id).modHost fun h => { h with version := BitVec.ofNat 8 v }).complete id Status.ok (d.helloReply v) := by
  simp only [Device.hello, Device.runCmd_ready _ hready, Device.acted_loader, Device.acted_comb,
    Device.acted_helloReply, hreserved, hagree, hempty, ne_eq, not_true_eq_false, and_false, if_false]

theorem Device.statusCmd_replies {d : Device} {id : CmdId} {ps : List Byte} (hready : d.ready id 0x0102 ps) :
    d.statusCmd id = (d.acted id).complete id Status.ok d.statusReply := by
  rw [Device.statusCmd, Device.runCmd_ready _ hready, Device.acted_statusReply]

theorem Device.factoryMap_replies {d : Device} {id : CmdId} {ps : List Byte} (hready : d.ready id 0x0103 ps) :
    d.factoryMap id = (d.acted id).complete id Status.ok d.factoryMapBytes := by
  rw [Device.factoryMap, Device.runCmd_ready _ hready, Device.acted_factoryMapBytes]

/-- ROM_READ of a range within its table gives the table's bytes there (R402). -/
theorem Device.romRead_inRange {d : Device} {id : CmdId} {ps bs : List Byte} (hready : d.ready id 0x0104 ps)
    (hreserved : fieldAt ps 1 3 = 0) (hpos : 1 ≤ fieldAt ps 8 4) (hmax : fieldAt ps 8 4 ≤ 4096)
    (htable : romBytes (fieldAt ps 0 1) = some bs) (hrange : fieldAt ps 4 4 + fieldAt ps 8 4 ≤ bs.length) :
    d.romRead id =
      (d.acted id).complete id Status.ok ((bs.drop (fieldAt ps 4 4)).take (fieldAt ps 8 4)) := by
  have hsound : ¬(fieldAt ps 1 3 ≠ 0 ∨ fieldAt ps 8 4 < 1 ∨ 4096 < fieldAt ps 8 4) := by omega
  simp only [Device.romRead, Device.runCmd_ready _ hready, if_neg hsound, htable, if_neg (Nat.not_lt.2 hrange)]

/-- Settles O15: each row acts once on the command that is ready, and its reply reads the device as it was before. -/
theorem identityCommandsReply : Obligations.IdentityCommandsReply := by
  unfold Obligations.IdentityCommandsReply
  intro s d id ps hruns
  refine ⟨?hello, ?status, ?factoryMap, ?romRead⟩
  case hello =>
    intro v hready hreserved hagree hempty
    exact State.answers_lift hruns rfl (Device.hello_agrees hready hreserved hagree hempty)
  case status =>
    intro hready
    exact State.answers_lift hruns rfl (Device.statusCmd_replies hready)
  case factoryMap =>
    intro hready
    exact State.answers_lift hruns rfl (Device.factoryMap_replies hready)
  case romRead =>
    intro bs hready hreserved hpos hmax htable hrange
    exact State.answers_lift hruns rfl (Device.romRead_inRange hready hreserved hpos hmax htable hrange)

end Sys2Proof.Machine
end

section
/-! SUPPORT and PROOFS. The arrival of a word over a seam or a bridge: what the sideband, the data parity and the epoch
decide, and what the receiving buffer then holds. -/

namespace Sys2Proof.Machine

/-! ### Buffers of a switch -/

/-- Replacing the entry of a listed key is found under that key. -/
theorem find?_map_replace {l : List (BufKey × Buf)} {k : BufKey} (b : Buf) (h : l.any (·.1 == k) = true) :
    (l.map fun p => if p.1 == k then (k, b) else p).find? (·.1 == k) = some (k, b) := by
  induction l with
  | nil => simp at h
  | cons p l ih =>
    by_cases hp : (p.1 == k) = true
    · rw [List.map_cons, if_pos hp]
      exact List.find?_cons_of_pos (beq_self_eq_true k)
    · have hrest : l.any (·.1 == k) = true := by
        rw [List.any_cons, Bool.or_eq_true] at h
        exact h.resolve_left hp
      rw [List.map_cons, if_neg hp]
      exact (List.find?_cons_of_neg (p := fun q : BufKey × Buf => q.1 == k) hp).trans (ih hrest)

/-- A buffer that has been set holds what it was set to; one set to its reset value is not listed and reads as that. -/
@[simp] theorem Switch.buf_setBuf (s : Switch) (k : BufKey) (b : Buf) : (s.setBuf k b).buf k = b := by
  unfold Switch.setBuf
  split_ifs with hreset hlisted
  · have hnone : (s.bufs.filter fun p => p.1 != k).find? (·.1 == k) = none := by simp
    simp only [Switch.buf, hnone, hreset]
  · simp only [Switch.buf, find?_map_replace b hlisted]
  · have hnone : s.bufs.find? (·.1 == k) = none := by
      rw [List.find?_eq_none]
      exact fun p hp hk => hlisted (List.any_of_mem hp hk)
    simp [Switch.buf, hnone]

/-! ### Discarding a stale item (R60) -/

@[simp] theorem Device.staleReport_switches (d : Device) (r : Nat) : (d.staleReport r).switches = d.switches := by
  unfold Device.staleReport
  split <;> rfl

@[simp] theorem Device.staleReport_switch (d : Device) (r u : Nat) : (d.staleReport r).switch u = d.switch u := by
  simp [Device.switch]

theorem Device.staleSwitch_switch (d : Device) (u : Nat) :
    (d.staleSwitch u).switch u = { d.switch u with stale := satInc (d.switch u).stale } := by
  simp [Device.staleSwitch]

/-! ### Where an item goes (R60, R84) -/

@[simp] theorem Device.progress_switch (d : Device) (r u : Nat) : (d.progress r).switch u = d.switch u := rfl

/-- An item of the comb that the region runs joins its buffer. -/
theorem Device.settleItem_own {d : Device} {c : Crossing} (h : c.item.epoch = (d.pilot (siteRegion c.site)).comb) :
    let k : BufKey := ⟨c.net, c.port, c.vc⟩
    ((d.settleItem c).switch c.site).buf k =
      { (d.switch c.site).buf k with items := ((d.switch c.site).buf k).items ++ [c.item] } := by
  simp [Device.settleItem, h]

/-- An item of another comb is held while the region drains. -/
theorem Device.settleItem_held {d : Device} {c : Crossing} (h : c.item.epoch ≠ (d.pilot (siteRegion c.site)).comb)
    (hdrain : (d.pilot (siteRegion c.site)).drain = true) :
    let k : BufKey := ⟨c.net, c.port, c.vc⟩
    ((d.settleItem c).switch c.site).buf k =
      { (d.switch c.site).buf k with hold := ((d.switch c.site).buf k).hold ++ [c.item] } := by
  simp [Device.settleItem, h, hdrain]

/-- An item of another comb is discarded where the region does not drain. -/
theorem Device.settleItem_stale {d : Device} {c : Crossing} (h : c.item.epoch ≠ (d.pilot (siteRegion c.site)).comb)
    (hdrain : (d.pilot (siteRegion c.site)).drain = false) : d.settleItem c = d.staleSwitch c.site := by
  simp [Device.settleItem, h, hdrain]

/-! ### What the parity decides (R98) -/

theorem Device.arrive_sideBad {d : Device} {c : Crossing} (h : c.item.sideOk c.net = false) :
    d.arrive c = d.sidebandFail c.site ⟨c.net, c.port, c.vc⟩ := by
  simp [Device.arrive, h]

theorem Device.arrive_dataBad {d : Device} {c : Crossing} (hs : c.item.sideOk c.net = true)
    (hd : c.item.dataOk c.net = false) :
    d.arrive c = (d.parityHit c.site).settleItem { c with item := { c.item with poison := true }.sealed c.net } := by
  simp [Device.arrive, hs, hd]

theorem Device.arrive_sound {d : Device} {c : Crossing} (hs : c.item.sideOk c.net = true)
    (hd : c.item.dataOk c.net = true) : d.arrive c = d.settleItem c := by
  simp [Device.arrive, hs, hd]

/-- Settles O47: the parity says whether the item settles, and the epoch says where. -/
theorem arrivalByEpoch : Obligations.ArrivalByEpoch := by
  unfold Obligations.ArrivalByEpoch
  intro d c
  refine ⟨?sideBad, ?dataBad, ?own, ?held, ?stale⟩
  case sideBad => exact Device.arrive_sideBad
  case dataBad => exact Device.arrive_dataBad
  case own =>
    intro hs hd he
    rw [Device.arrive_sound hs hd]
    exact Device.settleItem_own he
  case held =>
    intro hs hd he hdrain
    rw [Device.arrive_sound hs hd]
    exact Device.settleItem_held he hdrain
  case stale =>
    intro hs hd he hdrain
    rw [Device.arrive_sound hs hd, Device.settleItem_stale he hdrain, Device.staleSwitch_switch]
    exact ⟨rfl, rfl⟩

end Sys2Proof.Machine
end

section
/-! SUPPORT and PROOFS. Strikes: what a loop over the regions leaves in each of them, what the power manager does at the
start of a tick, and how a strike starts a tick, is held or is skipped. -/

namespace Sys2Proof.Machine

/-! ### A loop over the first indices -/

/-- A loop that takes each index below `n` once, and at index `i` changes the part `get · i` by `g` and no other part,
changes by `g` just the parts below `n`. -/
theorem foldl_range_get {α β : Type} (get : α → Nat → β) (act : α → Nat → α) (g : β → β)
    (same : ∀ a i, get (act a i) i = g (get a i)) (other : ∀ a i j, j ≠ i → get (act a i) j = get a j)
    (n : Nat) (a : α) (j : Nat) : get ((List.range n).foldl act a) j = if j < n then g (get a j) else get a j := by
  induction n with
  | zero => simp
  | succ n ih =>
    rw [List.range_succ, List.foldl_append, List.foldl_cons, List.foldl_nil]
    rcases Nat.lt_trichotomy j n with hlt | rfl | hgt
    · rw [other _ _ _ (by omega), ih, if_pos hlt, if_pos (by omega)]
    · rw [same, ih, if_neg (by omega), if_pos (by omega)]
    · rw [other _ _ _ (by omega), ih, if_neg (by omega), if_neg (by omega)]

/-- A loop of changes to the pilots 0 to 7. -/
theorem Device.foldl_modPilot_pilot (d : Device) (f : Pilot → Pilot) {r : Nat} (h : r < 8) :
    ((List.range 8).foldl (fun d r => d.modPilot r f) d).pilot r = f (d.pilot r) := by
  rw [foldl_range_get Device.pilot _ f (fun d i => d.modPilot_pilot i f) (fun d i _ hj => d.modPilot_pilot_ne i f hj),
    if_pos h]

/-- A loop of changes to pilots changes the pilots only. -/
theorem Device.foldl_modPilot_eq (d : Device) (f : Pilot → Pilot) (l : List Nat) :
    ∃ ps, l.foldl (fun d r => d.modPilot r f) d = { d with pilots := ps } :=
  List.foldlRecOn l (fun d r => d.modPilot r f) (motive := fun e : Device => ∃ ps, e = { d with pilots := ps })
    ⟨d.pilots, rfl⟩ fun e ⟨_, he⟩ r _ => ⟨(e.modPilot r f).pilots, by rw [he]; rfl⟩

/-! ### What the power manager changes (R411 to R419) -/

theorem Device.placeRegion_eq (d : Device) (s r : Nat) : ∃ p, d.placeRegion s r = { d with pwr := p } := by
  unfold Device.placeRegion
  dsimp only
  split_ifs <;> exact ⟨_, rfl⟩

/-- A loop over regions of which each step changes power state only. -/
theorem Device.foldl_pwr_eq {f : Device → Nat → Device} (h : ∀ d r, ∃ p, f d r = { d with pwr := p }) (d : Device)
    (l : List Nat) : ∃ p, l.foldl f d = { d with pwr := p } :=
  List.foldlRecOn l f (motive := fun e : Device => ∃ p, e = { d with pwr := p }) ⟨d.pwr, rfl⟩ fun e ⟨p, he⟩ r _ => by
    obtain ⟨p', h'⟩ := h e r
    exact ⟨p', by rw [h', he]⟩

theorem Device.enterState_eq (d : Device) (s : Nat) : ∃ p, d.enterState s = { d with pwr := p } := by
  obtain ⟨p, hp⟩ := Device.foldl_pwr_eq (fun d r => d.placeRegion_eq s r)
    (d.modPwr fun p => { p with state := BitVec.ofNat 3 s, wakeTo := none }) (List.range 8)
  exact ⟨p, hp⟩

theorem Device.ungate_eq (d : Device) : ∃ p, d.ungate = { d with pwr := p } := by
  unfold Device.ungate
  split
  · exact d.enterState_eq 0
  · exact ⟨d.pwr, rfl⟩

/-- The tick's flags are all that a mark of a slow region changes (R428). -/
theorem Device.markBelow_eq (d : Device) : ∃ f, d.markBelow = { d with tick := { d.tick with flags := f } } := by
  unfold Device.markBelow
  split
  · exact ⟨_, rfl⟩
  · exact ⟨d.tick.flags, rfl⟩

/-- The frequencies at a strike: power, the free values that are drawn, and the tick's flags (R419, R428). -/
theorem Device.strikeFreqs_eq (d : Device) :
    ∃ p n f, d.strikeFreqs = { d with pwr := p, free := n, tick := { d.tick with flags := f } } := by
  unfold Device.strikeFreqs
  dsimp only
  generalize hloop : List.foldl _ _ _ = e
  have he : ∃ p, e = { d with free := d.free + 8, pwr := p } := by
    rw [← hloop]
    refine Device.foldl_pwr_eq (fun e r => ?_) { d with free := d.free + 8 } _
    split_ifs
    · exact ⟨e.pwr, rfl⟩
    · exact ⟨e.pwr, rfl⟩
    · exact ⟨_, rfl⟩
  obtain ⟨p, rfl⟩ := he
  obtain ⟨f, hf⟩ := Device.markBelow_eq { d with free := d.free + 8, pwr := p }
  exact ⟨p, d.free + 8, f, hf⟩

/-! ### The start of a tick (R51) -/

/-- The tick as its strike `k` has started it; `w` says that the strike found the units gated. -/
def Tick.begun (t : Tick) (k : Strike) (w late : Bool) (flags : BitVec 16) : Tick :=
  { t with number := k.number, running := some k, held := none, firstClk := none, startDelay := 0, woken := w,
           late := late, overrun := false, flags := flags }

/-- A tick starts: its strike runs, nothing is held, and the strike stands at every pilot. -/
theorem Device.beginTick_spec (d : Device) (k : Strike) (late : Bool) :
    (∃ w f, (d.beginTick k late).tick = d.tick.begun k w late f) ∧
      ∀ r, r < 8 → ((d.beginTick k late).pilot r).strikeDue = true := by
  unfold Device.beginTick
  dsimp only
  generalize hstart : d.modTick _ = e
  generalize hpilots : (List.range 8).foldl (fun d r => d.modPilot r fun p => { p with strikeDue := true }) e = e'
  obtain ⟨p, hungate⟩ := e'.ungate_eq
  obtain ⟨p', n, f, hfreqs⟩ := e'.ungate.strikeFreqs_eq
  rw [hfreqs, hungate]
  constructor
  · obtain ⟨ps, hps⟩ := e.foldl_modPilot_eq (fun p => { p with strikeDue := true }) (List.range 8)
    rw [← hpilots, hps, ← hstart]
    exact ⟨_, f, rfl⟩
  · intro r hr
    have hdue := e.foldl_modPilot_pilot (fun p => { p with strikeDue := true }) hr
    rw [hpilots] at hdue
    exact congrArg Pilot.strikeDue hdue

/-! ### What a strike does (R51, R62) -/

/-- The device whose tick has been struck at hub time `time`: it is ON, and the next strike takes the next number. -/
def Device.counted (d : Device) (time : Nat) : Device :=
  (d.modTick fun t =>
    { t with life := .on, coming := t.coming + 1, prevStrike := time,
             strike0 := if t.life == .starting then time else t.strike0, cfg := t.next.getD t.cfg, next := none }).modVxl
    fun v => { v with fallbackSent := false }

/-- The strike that comes next, at hub time `time`. -/
def Tick.comingStrike (t : Tick) (time : Nat) (fb : Bool) : Strike :=
  { number := t.coming, time := time, fallback := fb }

theorem Device.strikeAt_starts {d : Device} (time : Nat) (fb : Bool)
    (h : d.tick.life = .starting ∨ (d.tick.life = .on ∧ d.tick.running = none ∧ d.tick.held = none)) :
    d.strikeAt time fb = (d.counted time).beginTick (d.tick.comingStrike time fb) false := by
  rcases h with hlife | ⟨hlife, hrunning, hheld⟩
  · simp [Device.strikeAt, Device.counted, Tick.comingStrike, hlife, Device.modTick, Device.modVxl]
  · simp [Device.strikeAt, Device.counted, Tick.comingStrike, hlife, hrunning, hheld, Device.modTick, Device.modVxl]

/-- Under CATCH_UP a strike that finds the tick running is held, where none is held yet. -/
theorem Device.strikeAt_held {d : Device} (time : Nat) (fb : Bool) (hlife : d.tick.life = .on)
    (hrunning : d.tick.running.isSome = true) (hheld : d.tick.held = none)
    (hcatch : (d.tick.next.getD d.tick.cfg).catchUp = true) (hsource : (d.tick.next.getD d.tick.cfg).source ≠ .swarm) :
    d.strikeAt time fb =
      (d.counted time).modTick fun t => { t with overrun := true, held := some (d.tick.comingStrike time fb) } := by
  have hnot : d.tick.running.isNone = false := by simpa using hrunning
  simp [Device.strikeAt, Device.counted, Tick.comingStrike, hlife, hrunning, hnot, hheld, hcatch, hsource,
    Device.modTick, Device.modVxl]

/-- Without CATCH_UP it is skipped and counted. -/
theorem Device.strikeAt_skipped {d : Device} (time : Nat) (fb : Bool) (hlife : d.tick.life = .on)
    (hrunning : d.tick.running.isSome = true) (hcatch : (d.tick.next.getD d.tick.cfg).catchUp = false) :
    d.strikeAt time fb =
      (d.counted time).modTick fun t =>
        { t with overrun := true, skippedAll := satInc t.skippedAll, skipped := satInc t.skipped } := by
  have hnot : d.tick.running.isNone = false := by simpa using hrunning
  simp [Device.strikeAt, Device.counted, hlife, hrunning, hnot, hcatch, Device.modTick, Device.modVxl]

theorem Device.strikeAt_idle {d : Device} (time : Nat) (fb : Bool)
    (h : d.tick.life = .off ∨ d.tick.life = .stopping) : d.strikeAt time fb = d := by
  rcases h with hlife | hlife <;> simp [Device.strikeAt, hlife]

/-- Settles O26: the three outcomes of a strike, and what the start of a tick leaves. -/
theorem strikeStartsOrIsHeld : Obligations.StrikeStartsOrIsHeld := by
  unfold Obligations.StrikeStartsOrIsHeld
  intro d time fb
  refine ⟨?starts, ?held, ?skipped, ?idle⟩
  case starts =>
    intro h
    rw [Device.strikeAt_starts time fb h]
    obtain ⟨⟨w, f, htick⟩, hdue⟩ := (d.counted time).beginTick_spec (d.tick.comingStrike time fb) false
    rw [htick]
    exact ⟨rfl, rfl, rfl, rfl, rfl, hdue⟩
  case held =>
    intro hlife hrunning hheld hcatch hsource
    rw [Device.strikeAt_held time fb hlife hrunning hheld hcatch hsource]
    exact ⟨rfl, rfl, rfl, rfl, rfl⟩
  case skipped =>
    intro hlife hrunning hheld hcatch
    rw [Device.strikeAt_skipped time fb hlife hrunning hcatch]
    exact ⟨hheld, rfl, rfl, rfl, rfl⟩
  case idle => exact Device.strikeAt_idle time fb

end Sys2Proof.Machine
end

section
/-! SUPPORT and PROOFS. The stop of a region: the halt that follows it reaches the pilots, the power state of the
regions, the comb set, the tick and the host's commands, and nothing else. -/

namespace Sys2Proof.Machine

/-! ### The regions stop (R64, R235) -/

/-- A pilot that has not stopped stops with cause `c` and no place of its own. -/
def Pilot.halted (p : Pilot) (c : Nat) : Pilot := if p.state = 6 then p else p.stop 0xFF 0xFF c

theorem Pilot.halted_state (p : Pilot) (c : Nat) : (p.halted c).state = 6 := by
  unfold Pilot.halted
  split
  · assumption
  · rfl

theorem Pilot.halted_stopped {p : Pilot} (c : Nat) (h : p.state = 6) : p.halted c = p := if_pos h

theorem Pilot.halted_cause {p : Pilot} (c : Nat) (h : p.state ≠ 6) : (p.halted c).cause = BitVec.ofNat 4 c := by
  rw [Pilot.halted, if_neg h]
  rfl

/-- What `stopAll` does in one region. -/
def Device.stopOne (c : Nat) (d : Device) (r : Nat) : Device :=
  (d.modPilot r (·.halted c)).modPwrRegion r fun g => { g with halted := true }

theorem Device.stopAll_eq_foldl (d : Device) (c : Nat) : d.stopAll c = (List.range 8).foldl (Device.stopOne c) d := rfl

theorem Device.stopAll_pilot (d : Device) (c : Nat) {q : Nat} (h : q < 8) :
    (d.stopAll c).pilot q = (d.pilot q).halted c := by
  rw [Device.stopAll_eq_foldl, foldl_range_get Device.pilot (Device.stopOne c) (·.halted c)
    (fun d i => d.modPilot_pilot i (·.halted c)) (fun d i _ hj => d.modPilot_pilot_ne i (·.halted c) hj), if_pos h]

theorem Device.stopAll_pwrRegion (d : Device) (c : Nat) {q : Nat} (h : q < 8) :
    ((d.stopAll c).pwrRegion q).halted = true := by
  rw [Device.stopAll_eq_foldl, foldl_range_get Device.pwrRegion (Device.stopOne c) (fun g => { g with halted := true })
    (fun d i => Device.modPwrRegion_pwrRegion _ i _) (fun d i _ hj => Device.modPwrRegion_pwrRegion_ne _ i _ hj),
    if_pos h]

theorem Device.stopAll_eq (d : Device) (c : Nat) : ∃ ps w, d.stopAll c = { d with pilots := ps, pwr := w } :=
  List.foldlRecOn (List.range 8) (Device.stopOne c)
    (motive := fun e : Device => ∃ ps w, e = { d with pilots := ps, pwr := w })
    ⟨d.pilots, d.pwr, rfl⟩
    fun e ⟨_, _, he⟩ r _ => ⟨(e.stopOne c r).pilots, (e.stopOne c r).pwr, by rw [he]; rfl⟩

/-! ### The tick goes OFF (R56, R394) -/

/-- The completion of a command is the host port's. -/
theorem Device.complete_eq (d : Device) (id : CmdId) (status : Nat) (payload : List Byte) (detail : Word) :
    ∃ h, d.complete id status payload detail = { d with host := h } := by
  unfold Device.complete
  split
  · exact ⟨d.host, rfl⟩
  · split
    · exact ⟨d.host, rfl⟩
    · exact ⟨_, rfl⟩

theorem Device.haltTick_eq (d : Device) :
    ∃ h, d.haltTick =
      { d with host := h, tick := { d.tick with life := .off, pendingStart := false, staged := [], held := none } } :=
  List.foldlRecOn _ _ (motive := fun e : Device => ∃ h, e =
      { d with host := h, tick := { d.tick with life := .off, pendingStart := false, staged := [], held := none } })
    ⟨d.host, rfl⟩ fun e ⟨_, he⟩ id _ => by
      obtain ⟨h, hc⟩ := e.complete_eq id Status.ok [] 0
      exact ⟨h, by rw [hc, he]⟩

/-! ### The halt of the job (R64) -/

/-- The halt of an active job, by part: what `stopAll` makes of pilots and power, the set HALTED, the tick OFF. -/
theorem Device.haltJob_eq {d : Device} (region cause : Nat) (h : d.comb.state = .active) :
    ∃ c p, d.haltJob region cause =
        { d with pilots := (d.stopAll cause).pilots, pwr := (d.stopAll cause).pwr, comb := c, host := p,
                 tick := { d.tick with life := .off, pendingStart := false, staged := [], held := none } } ∧
      c.state = .halted ∧ c.haltRegion = BitVec.ofNat 8 region ∧ c.halting = true := by
  obtain ⟨ps, w, hstop⟩ := d.stopAll_eq cause
  unfold Device.haltJob
  rw [hstop]
  dsimp only
  rw [if_pos h]
  obtain ⟨p, hp⟩ := Device.haltTick_eq _
  rw [hp]
  exact ⟨_, p, rfl, rfl, rfl, rfl⟩

theorem Device.stopRegion_running {d : Device} {r : Nat} (x y cause : Nat) (h : (d.pilot r).state ≠ 6) :
    d.stopRegion r x y cause = (d.modPilot r (·.stop x y cause)).haltJob r 10 := if_neg h

/-- Settles O44: the region stops first, the halt leaves it as it is and stops the others, and the rest is its frame. -/
theorem stopHaltsTheJob : Obligations.StopHaltsTheJob := by
  unfold Obligations.StopHaltsTheJob
  intro d r x y cause hr hrun hactive
  set e := d.modPilot r (·.stop x y cause) with he
  obtain ⟨c, p, hhalt, hstate, hregion, hhalting⟩ := Device.haltJob_eq (d := e) r 10 hactive
  have hpilot (q : Nat) (hq : q < 8) : (e.haltJob r 10).pilot q = (e.pilot q).halted 10 := by
    rw [Device.pilot, hhalt]
    exact e.stopAll_pilot 10 hq
  have hmine : (e.haltJob r 10).pilot r = (d.pilot r).stop x y cause := by
    rw [hpilot r hr, he, Device.modPilot_pilot]
    exact Pilot.halted_stopped 10 rfl
  have hother (q : Nat) (hq : q < 8) (hne : q ≠ r) : (e.haltJob r 10).pilot q = (d.pilot q).halted 10 := by
    rw [hpilot q hq, he, Device.modPilot_pilot_ne _ _ _ hne]
  have hpower (q : Nat) (hq : q < 8) : ((e.haltJob r 10).pwrRegion q).halted = true := by
    rw [Device.pwrRegion, hhalt]
    exact e.stopAll_pwrRegion 10 hq
  rw [Device.stopRegion_running x y cause hrun, ← he]
  refine ⟨congrArg Pilot.state hmine, congrArg Pilot.cause hmine, congrArg Pilot.stopX hmine,
    congrArg Pilot.stopY hmine, fun q hq hne => ⟨?otherStops, fun hlive => ?otherCause⟩, ?rest⟩
  case otherStops => rw [hother q hq hne, Pilot.halted_state]
  case otherCause =>
    rw [hother q hq hne]
    exact Pilot.halted_cause 10 hlive
  case rest =>
    rw [hhalt] at hpower ⊢
    exact ⟨hstate, hregion, hhalting, rfl, rfl, hpower, rfl, rfl, rfl, rfl, rfl, rfl⟩

end Sys2Proof.Machine
end

section
/-! SUPPORT and PROOFS. The commands of a comb set, and what activation leaves: the halt report that is still owed, the
clearing of the job, and the start of every region touch the hub's own state only where the rules say. -/

namespace Sys2Proof.Machine

/-! ### The hub's part of a job -/

/-- What the hub holds of a job outside the regions: comb set, tick, homes, HBM and the commands in progress. -/
def Device.jobPart (d : Device) : Comb × Tick × Tab Home × Mem × List Cmd :=
  (d.comb, d.tick, d.homes, d.hbm, d.host.cmds)

theorem Device.jobPart_eq_iff (d e : Device) :
    e.jobPart = d.jobPart ↔
      e.comb = d.comb ∧ e.tick = d.tick ∧ e.homes = d.homes ∧ e.hbm = d.hbm ∧ e.host.cmds = d.host.cmds := by
  simp [Device.jobPart]

/-- A loop keeps what each of its steps keeps. -/
theorem foldl_keeps {α β γ : Type} (view : α → γ) {f : α → β → α} (h : ∀ a b, view (f a b) = view a) (l : List β)
    (a : α) : view (l.foldl f a) = view a :=
  List.foldlRecOn l f (motive := fun e => view e = view a) rfl fun e he b _ => (h e b).trans he

/-! ### The report of a halt (R64, R65) -/

@[simp] theorem Device.putEntry_jobPart (d : Device) (q : Nat) (p : Packet) : (d.putEntry q p).jobPart = d.jobPart := by
  unfold Device.putEntry Device.writeRing
  dsimp only
  split <;> rfl

@[simp] theorem Device.modCplRing_jobPart (d : Device) (q : Nat) (f : CplRing → CplRing) :
    (d.modCplRing q f).jobPart = d.jobPart := rfl

@[simp] theorem Device.writePacket_jobPart (d : Device) (q : Nat) (p : Packet) :
    (d.writePacket q p).jobPart = d.jobPart := by
  unfold Device.writePacket
  dsimp only
  split <;> simp

@[simp] theorem HostPort.setIrq_cmds (h : HostPort) (now q : Nat) : (h.setIrq now q).cmds = h.cmds := by
  unfold HostPort.setIrq HostPort.fresh
  dsimp only
  split <;> rfl

@[simp] theorem Device.sendNotify_jobPart (d : Device) (q : Nat) : (d.sendNotify q).jobPart = d.jobPart := by
  unfold Device.sendNotify
  split_ifs <;> rfl

@[simp] theorem Device.notify_jobPart (d : Device) (q : Nat) : (d.notify q).jobPart = d.jobPart := by
  have hset : (d.modHost (·.setIrq d.now q)).jobPart = d.jobPart := by
    simp [Device.jobPart, Device.modHost]
  unfold Device.notify
  dsimp only
  split
  · rw [Device.sendNotify_jobPart, hset]
  · exact hset

/-- An unsolicited packet is no matter of the job (R385). -/
@[simp] theorem Device.postUnsolicited_jobPart (d : Device) (q opcode : Nat) (payload : List Byte) (report : Bool) :
    (d.postUnsolicited q opcode payload report).jobPart = d.jobPart := by
  unfold Device.postUnsolicited
  dsimp only
  split
  · simp
  · cases report <;> rfl

/-- A tick's report is the logbook's and the tick's own. -/
theorem Device.postReport_frame (d : Device) (status last stop : Nat) :
    let t := d.postReport status last stop
    t.comb = d.comb ∧ t.homes = d.homes ∧ t.hbm = d.hbm ∧ t.host.cmds = d.host.cmds := by
  intro t
  obtain ⟨hcomb, -, hhomes, hhbm, hcmds⟩ := (Device.jobPart_eq_iff _ _).1 <|
    ({ d with free := d.free + 3 }.logEnter hubSource 1 (d.reportBytes status last stop)).postUnsolicited_jobPart
      d.tick.cfg.cpl 0x0401 (d.reportBytes status last stop) true
  exact ⟨hcomb, hhomes, hhbm, hcmds⟩

/-- The report of a halt leaves the loaded set, the homes, HBM and the commands as they are. -/
theorem Device.haltReport_frame (d : Device) :
    d.haltReport.comb.set = d.comb.set ∧ d.haltReport.homes = d.homes ∧ d.haltReport.hbm = d.hbm ∧
      d.haltReport.host.cmds = d.host.cmds := by
  unfold Device.haltReport
  split
  · obtain ⟨hcomb, hframe⟩ := Device.postReport_frame
      (d.modComb fun c => { c with halting := false, haltReported := true }) 0x8405 d.comb.combAtHalt.toNat
      d.comb.haltTime
    have hset := congrArg Comb.set hcomb
    exact ⟨hset, hframe⟩
  · exact ⟨rfl, rfl, rfl, rfl⟩

/-! ### What activation clears (R43, R236, R295, R308) -/

/-- The homes in the state in which activation leaves them. -/
def Device.clearHomes (d : Device) : Device := (List.range 4).foldl (fun d k => d.modHome k Home.cleared) d

theorem Device.clearHomes_home (d : Device) {k : Nat} (h : k < 4) : d.clearHomes.home k = (d.home k).cleared := by
  rw [Device.clearHomes, foldl_range_get Device.home _ Home.cleared (fun d i => d.modHome_home i _)
    (fun d i _ hj => d.modHome_home_ne i _ hj), if_pos h]

theorem Device.clearHomes_eq (d : Device) : ∃ hs, d.clearHomes = { d with homes := hs } :=
  List.foldlRecOn (List.range 4) (fun d k => d.modHome k Home.cleared)
    (motive := fun e : Device => ∃ hs, e = { d with homes := hs }) ⟨d.homes, rfl⟩
    fun e ⟨_, he⟩ k _ => ⟨(e.modHome k Home.cleared).homes, by rw [he]; rfl⟩

/-- The planes, units, crossings and pilots in that state. -/
def Device.clearRegions (d : Device) : Device :=
  (List.range 8).foldl (fun d r => d.modPilot r Pilot.cleared)
    { d with switches := d.switches.mapAll fun _ s => s.cleared, mus := d.mus.mapAll fun _ m => m.cleared,
             sfus := d.sfus.mapAll fun _ m => m.cleared, sus := d.sus.mapAll fun _ m => m.cleared,
             ious := d.ious.mapAll fun _ m => m.cleared, crossings := [], clkPilots := [] }

theorem Device.clearRegions_jobPart (d : Device) : d.clearRegions.jobPart = d.jobPart :=
  foldl_keeps Device.jobPart (fun _ _ => by rfl) _ _

/-- The stack controllers in that state. -/
def Device.clearStacks (d : Device) (split : BitVec 2) : Device :=
  (List.range 8).foldl (fun d k => d.modStack k (·.activated split)) d

theorem Device.clearStacks_jobPart (d : Device) (split : BitVec 2) : (d.clearStacks split).jobPart = d.jobPart :=
  foldl_keeps Device.jobPart (fun _ _ => by rfl) _ _

theorem Device.clearJob_eq (d : Device) (split : BitVec 2) :
    d.clearJob split =
      ((d.clearRegions.clearHomes.clearStacks split).modVxl Vxl.abandon).modTick fun t =>
        { t with staged := [], held := none, running := none } := rfl

/-- Activation clears each home but for its wait limits and leaves no value staged; comb set, HBM and the
commands stay. -/
theorem Device.clearJob_spec (d : Device) (split : BitVec 2) :
    let t := d.clearJob split
    t.tick.staged = [] ∧ (∀ k, k < 4 → t.home k = (d.home k).cleared) ∧ t.comb = d.comb ∧ t.hbm = d.hbm ∧
      t.host.cmds = d.host.cmds := by
  rw [Device.clearJob_eq]
  intro t
  obtain ⟨hcomb, -, hhomes, hhbm, hcmds⟩ := (Device.jobPart_eq_iff _ _).1 d.clearRegions_jobPart
  obtain ⟨hcomb', -, hhomes', hhbm', hcmds'⟩ :=
    (Device.jobPart_eq_iff _ _).1 (d.clearRegions.clearHomes.clearStacks_jobPart split)
  obtain ⟨hs, hclear⟩ := d.clearRegions.clearHomes_eq
  refine ⟨rfl, fun k hk => ?homes, ?comb, ?hbm, ?cmds⟩
  case homes =>
    calc t.home k = (d.clearRegions.clearHomes.clearStacks split).home k := rfl
      _ = d.clearRegions.clearHomes.home k := by rw [Device.home, hhomes']; rfl
      _ = (d.clearRegions.home k).cleared := d.clearRegions.clearHomes_home hk
      _ = (d.home k).cleared := by rw [Device.home, hhomes]; rfl
  case comb => exact hcomb'.trans (by rw [hclear]; exact hcomb)
  case hbm => exact hhbm'.trans (by rw [hclear]; exact hhbm)
  case cmds => exact hcmds'.trans (by rw [hclear]; exact hcmds)

/-! ### What activation starts (R41, R43, R51) -/

@[simp] theorem Device.modPilot_jobPart (d : Device) (r : Nat) (f : Pilot → Pilot) :
    (d.modPilot r f).jobPart = d.jobPart := rfl

@[simp] theorem Device.modSwitch_jobPart (d : Device) (u : Nat) (f : Switch → Switch) :
    (d.modSwitch u f).jobPart = d.jobPart := rfl

@[simp] theorem Device.renameCtxs_jobPart (d : Device) (u : Nat) (m : List (Nat × Nat)) :
    (d.renameCtxs u m).jobPart = d.jobPart := by
  unfold Device.renameCtxs
  split <;> rfl

@[simp] theorem Device.startIou_jobPart (d : Device) (u : Nat) : (d.startIou u).jobPart = d.jobPart :=
  d.renameCtxs_jobPart u (carriedKeys (d.iou u).ctx)

@[simp] theorem Device.startUnit_jobPart (d : Device) (u : Nat) (slots : Nat → Slot → Slot) :
    (d.startUnit u slots).jobPart = d.jobPart := by
  unfold Device.startUnit
  cases siteKind u with
  | mu => rfl
  | sfu => rfl
  | su => rfl
  | iou => exact d.startIou_jobPart u

@[simp] theorem Device.loadActive_jobPart (d : Device) (r c : Nat) (slots : Nat → Nat → Slot → Slot) :
    (d.loadActive r c slots).jobPart = d.jobPart := by
  refine foldl_keeps Device.jobPart (fun e u => ?_) _ _
  dsimp only
  split
  · rfl
  · rw [Device.startUnit_jobPart, Device.modSwitch_jobPart]

@[simp] theorem Device.startRegion_jobPart (d : Device) (entry r : Nat) :
    (d.startRegion entry r).jobPart = d.jobPart := by
  rw [Device.startRegion, Device.loadActive_jobPart, Device.modPilot_jobPart]

theorem Device.placeRegion_jobPart (d : Device) (s r : Nat) : (d.placeRegion s r).jobPart = d.jobPart := by
  obtain ⟨p, hp⟩ := d.placeRegion_eq s r
  rw [hp]
  rfl

theorem Device.idleFreqs_jobPart (d : Device) : d.idleFreqs.jobPart = d.jobPart :=
  foldl_keeps Device.jobPart (fun e r => by split <;> rfl) _ _

@[simp] theorem Device.activatePower_jobPart (d : Device) : d.activatePower.jobPart = d.jobPart := by
  unfold Device.activatePower
  dsimp only
  rw [Device.idleFreqs_jobPart, foldl_keeps Device.jobPart fun e r => e.placeRegion_jobPart _ r]
  exact foldl_keeps Device.jobPart (fun _ _ => by rfl) _ _

/-- Everything after the clearing leaves the hub's part of the job but for the set, which is ACTIVE on its
ENTRY comb. -/
theorem Device.activate_jobPart (d : Device) (c : CombSet) :
    (d.activate c).jobPart =
      ((d.haltReport.clearJob c.split).modComb fun k =>
        { k with state := .active, active := some c.entry, haltRegion := 0xFF, combAtHalt := 0xFF, runStart := none,
                 swapNo := 0, swaps := [], halting := false, haltReported := false }).jobPart := by
  have hmarker (e : Device) : (e.jobMarker c).jobPart = e.jobPart := rfl
  rw [Device.activate, hmarker, Device.activatePower_jobPart,
    foldl_keeps Device.jobPart fun e r => e.startRegion_jobPart c.entry r]
  exact foldl_keeps Device.jobPart (fun _ _ => by rfl) _ _

/-- Settles O23: report, clearing and start, of which the clearing alone touches the homes and the staged values. -/
theorem activationClearsJobState : Obligations.ActivationClearsJobState := by
  unfold Obligations.ActivationClearsJobState
  intro d c t
  obtain ⟨hcomb, htick, hhomes, hhbm, hcmds⟩ := (Device.jobPart_eq_iff _ _).1 (d.activate_jobPart c)
  obtain ⟨hstaged, hcleared, hcomb', hhbm', hcmds'⟩ := d.haltReport.clearJob_spec c.split
  obtain ⟨hset, hhomes₀, hhbm₀, hcmds₀⟩ := d.haltReport_frame
  have hhome (k : Nat) (hk : k < 4) : t.home k = (d.home k).cleared :=
    calc t.home k = (d.haltReport.clearJob c.split).home k := by rw [Device.home, hhomes]; rfl
      _ = (d.haltReport.home k).cleared := hcleared k hk
      _ = (d.home k).cleared := by rw [Device.home, hhomes₀]; rfl
  refine ⟨by rw [hcomb]; rfl, by rw [hcomb]; rfl, ?set, by rw [htick]; exact hstaged,
    hcmds.trans (hcmds'.trans hcmds₀), hhbm.trans (hhbm'.trans hhbm₀), fun k hk => ?home⟩
  case set =>
    rw [hcomb]
    exact (congrArg Comb.set hcomb').trans hset
  case home =>
    rw [hhome k hk]
    exact ⟨rfl, rfl, rfl, rfl, rfl, rfl, rfl⟩

/-! ### The commands of a comb set (R43 to R45, R500) -/

theorem Device.acted_loadRange (d : Device) (id : CmdId) (a n : Nat) :
    (d.acted id).loadRange a n = d.loadRange a n := rfl

/-- An image that passes every check is loaded, or only verified. -/
theorem Device.loadCmd_passes {d d' : Device} {id : CmdId} {ps img : List Byte} (install : Bool)
    (hrange : d.loadRange (fieldAt ps 0 8) (fieldAt ps 8 8) = none)
    (hread : (d.acted id).readImage (fieldAt ps 0 8) (fieldAt ps 8 8) = (some img, d'))
    (hcheck : d'.checkImage img = none) :
    (d.acted id).loadCmd id ps install = (if install then d'.installSet img else d').complete id Status.ok := by
  simp only [Device.loadCmd, Device.acted_loadRange, hrange, hread, hcheck]

theorem Device.combLoad_ready {d : Device} {id : CmdId} {ps : List Byte} (hready : d.ready id 0x0301 ps)
    (htrip : d.hlt.trip = false) (hwaits : d.loadWaits id = false)
    (hstate : d.comb.state = .empty ∨ d.comb.state = .loaded) :
    d.combLoad id = (d.acted id).loadCmd id ps true := by
  have hidle : ¬(d.comb.state = .active ∨ d.comb.state = .halted) := by
    rcases hstate with h | h <;> simp [h]
  simp [Device.combLoad, hwaits, Device.runCmd_ready _ hready, htrip, hidle]

theorem Device.combVerify_ready {d : Device} {id : CmdId} {ps : List Byte} (hready : d.ready id 0x0302 ps)
    (hwaits : d.loadWaits id = false) : d.combVerify id = (d.acted id).loadCmd id ps false := by
  simp [Device.combVerify, hwaits, Device.runCmd_ready _ hready]

theorem Device.combActivate_activates {d : Device} {id : CmdId} {ps : List Byte} {c : CombSet}
    (hready : d.ready id 0x0303 ps) (htrip : d.hlt.trip = false) (hclock : d.clockLost = false)
    (hstate : d.comb.state ≠ .empty) (hoff : d.comb.state = .active → d.tick.life = .off) (hset : d.comb.set = some c) :
    d.combActivate id = ((d.acted id).activate c).complete id Status.ok := by
  have hhealth : ¬(d.hlt.trip = true ∨ d.clockLost = true) := by simp [htrip, hclock]
  have hidle : ¬(d.comb.state = .active ∧ d.tick.life ≠ .off) := fun h => h.2 (hoff h.1)
  rw [Device.combActivate, Device.runCmd_ready _ hready]
  refine (if_neg hhealth).trans ((if_neg hidle).trans ?_)
  simp only [Device.acted_comb, hset]

theorem Device.combUnload_unloads {d : Device} {id : CmdId} {ps : List Byte} (hready : d.ready id 0x0304 ps)
    (hstate : d.comb.state ≠ .empty) (hoff : d.comb.state = .active → d.tick.life = .off) :
    d.combUnload id = (d.acted id).unload.complete id Status.ok := by
  have hidle : ¬(d.comb.state = .active ∧ d.tick.life ≠ .off) := fun h => h.2 (hoff h.1)
  rw [Device.combUnload, Device.runCmd_ready _ hready]
  exact (if_neg hidle).trans (if_neg hstate)

theorem Device.combStatus_replies {d : Device} {id : CmdId} {ps : List Byte} (hready : d.ready id 0x0305 ps) :
    d.combStatus id = (d.acted id).complete id Status.ok d.combStatusReply :=
  Device.runCmd_ready _ hready

/-- Settles O22: each command acts once on the device that says so, past the checks that its premises pass. -/
theorem combCommands : Obligations.CombCommands := by
  unfold Obligations.CombCommands
  constructor
  · intro s d id ps img d' hruns htrip hwaits hrange hread hcheck
    constructor
    · intro hready hstate
      exact State.answers_lift hruns rfl
        ((Device.combLoad_ready hready htrip hwaits hstate).trans (Device.loadCmd_passes true hrange hread hcheck))
    · intro hready
      exact State.answers_lift hruns rfl
        ((Device.combVerify_ready hready hwaits).trans (Device.loadCmd_passes false hrange hread hcheck))
  · intro s d id ps hruns
    refine ⟨?activate, ?unload, ?status⟩
    case activate =>
      intro c hready htrip hclock hstate hoff hset
      exact State.answers_lift hruns rfl (Device.combActivate_activates hready htrip hclock hstate hoff hset)
    case unload =>
      intro hready hstate hoff
      exact State.answers_lift hruns rfl (Device.combUnload_unloads hready hstate hoff)
    case status =>
      intro hready
      exact State.answers_lift hruns rfl (Device.combStatus_replies hready)

end Sys2Proof.Machine
end

section
/-! SUPPORT and PROOFS. The commands of the tick: which checks each passes, and what it then does. -/

namespace Sys2Proof.Machine

/-! ### What taking the command does not change -/

theorem Device.acted_stageTimely (d : Device) (id : CmdId) (n : Nat) :
    (d.acted id).stageTimely n = d.stageTimely n := rfl

/-- Two changes of the tick that agree on it. -/
theorem Device.modTick_congr {d : Device} {f g : Tick → Tick} (h : f d.tick = g d.tick) :
    d.modTick f = d.modTick g := by
  rw [Device.modTick, h, Device.modTick]

/-! ### TICK_CONFIG (R50, R55) -/

/-- The configuration that the parameters of TICK_CONFIG describe. -/
def tickCfgOf (ps : List Byte) : TickCfg :=
  { period := fieldAt ps 0 4, source := sourceOf (fieldAt ps 4 1), catchUp := fieldAt ps 5 1 == 1, cpl := fieldAt ps 6 1,
    window := fieldAt ps 8 4 }

/-- The parameters of TICK_CONFIG are in range. -/
def tickCfgInRange (ps : List Byte) : Prop :=
  50000 ≤ fieldAt ps 0 4 ∧ fieldAt ps 0 4 ≤ 1000000000 ∧ fieldAt ps 0 4 % 10 = 0 ∧ fieldAt ps 4 1 ≤ 2 ∧
    fieldAt ps 5 1 ≤ 1 ∧ fieldAt ps 7 1 = 0 ∧ fieldAt ps 6 1 ≤ 15 ∧
    (fieldAt ps 4 1 ≠ 0 → 100 ≤ fieldAt ps 8 4 ∧ fieldAt ps 8 4 ≤ fieldAt ps 0 4 / 8)

/-- What TICK_CONFIG stores in the tick: while ON the policy at once, and the rest for the strikes after the next. -/
def Tick.configure (t : Tick) (c : TickCfg) : Tick :=
  if t.life = .on then { t with cfg := { t.cfg with catchUp := c.catchUp }, next := some c }
  else { t with cfg := c, next := none, configured := true }

theorem Tick.configure_on {t : Tick} {c : TickCfg} (h : t.life = .on) :
    t.configure c = { t with cfg := { t.cfg with catchUp := c.catchUp }, next := some c } := if_pos h

theorem Tick.configure_notOn {t : Tick} {c : TickCfg} (h : t.life ≠ .on) :
    t.configure c = { t with cfg := c, next := none, configured := true } := if_neg h

/-- A sound TICK_CONFIG that keeps source and ring, or finds the tick OFF, is stored. -/
theorem Device.tickConfig_stores {d : Device} {id : CmdId} {ps : List Byte} (hready : d.ready id 0x0401 ps)
    (hrange : tickCfgInRange ps) (hring : (d.cplRing (fieldAt ps 6 1)).life = .on) (hperiod : d.tmin ≤ fieldAt ps 0 4)
    (hkeeps : d.tick.life ≠ .off →
      sourceOf (fieldAt ps 4 1) = d.tick.cfg.source ∧ fieldAt ps 6 1 = d.tick.cfg.cpl) :
    d.tickConfig id = ((d.acted id).modTick (·.configure (tickCfgOf ps))).complete id Status.ok := by
  obtain ⟨hmin, hmax, hstep, hsource, hpolicy, hzero, hcpl, hwindow⟩ := hrange
  have hsound : ¬(fieldAt ps 0 4 < 50000 ∨ 1000000000 < fieldAt ps 0 4 ∨ fieldAt ps 0 4 % 10 ≠ 0 ∨ 2 < fieldAt ps 4 1 ∨
      1 < fieldAt ps 5 1 ∨ fieldAt ps 7 1 ≠ 0 ∨
      (fieldAt ps 4 1 ≠ 0 ∧ (fieldAt ps 8 4 < 100 ∨ fieldAt ps 0 4 / 8 < fieldAt ps 8 4))) := by omega
  have hsame : ¬(d.tick.life ≠ .off ∧
      (sourceOf (fieldAt ps 4 1) ≠ d.tick.cfg.source ∨ fieldAt ps 6 1 ≠ d.tick.cfg.cpl)) := by
    rintro ⟨hlife, hne⟩
    obtain ⟨hs, hc⟩ := hkeeps hlife
    exact hne.elim (· hs) (· hc)
  have hopen : ¬(15 < fieldAt ps 6 1 ∨ (d.cplRing (fieldAt ps 6 1)).life ≠ .on) := by simp [hring, hcpl]
  rw [Device.tickConfig, Device.runCmd_ready _ hready]
  exact (if_neg hsound).trans ((if_neg hsame).trans ((if_neg hopen).trans (if_neg (Nat.not_lt.2 hperiod))))

/-! ### TICK_START and TICK_STATUS (R54) -/

/-- The job, its source and its period allow the tick to start. -/
def Device.mayTick (d : Device) : Prop :=
  d.hlt.trip = false ∧ d.clockLost = false ∧ d.comb.state = .active ∧ d.sourceUsable = true ∧
    d.tmin ≤ d.tick.cfg.period

/-- TICK_START where the tick may start: at once from OFF, else pending. -/
theorem Device.tickStart_allowed {d : Device} {id : CmdId} {ps : List Byte} (hready : d.ready id 0x0402 ps)
    (hmay : d.mayTick) (hlife : d.tick.life = .off ∨ d.tick.life = .stopping) :
    d.tickStart id =
      if d.tick.life = .stopping then
        ((d.acted id).modTick fun t => { t with pendingStart := true }).complete id Status.acceptedPending
      else (d.acted id).tickStarting.complete id Status.ok := by
  obtain ⟨htrip, hclock, hactive, hsource, hperiod⟩ := hmay
  have hhealth : ¬(d.hlt.trip = true ∨ d.clockLost = true) := by simp [htrip, hclock]
  have hidle : ¬(d.tick.life = .starting ∨ d.tick.life = .on) := by rcases hlife with h | h <;> simp [h]
  have husable : ¬((!d.sourceUsable) = true) := by simp [hsource]
  rw [Device.tickStart, Device.runCmd_ready _ hready]
  exact (if_neg hhealth).trans ((if_neg hidle).trans ((if_neg (not_not_intro hactive)).trans
    ((if_neg husable).trans (if_neg (Nat.not_lt.2 hperiod)))))

theorem Device.tickStatus_replies {d : Device} {id : CmdId} {ps : List Byte} (hready : d.ready id 0x0405 ps) :
    d.tickStatus id =
      (d.acted id).complete id Status.ok
        (leBytes 1 d.tick.life.code ++ leBytes 7 0 ++ leBytes 8 d.tick.number ++ leBytes 4 d.tick.early.toNat ++
          leBytes 4 d.tick.missing.toNat ++ leBytes 4 d.tick.skippedAll.toNat ++ leBytes 4 d.host.lostReports.toNat) :=
  Device.runCmd_ready _ hready

/-! ### TICK_STOP (R54, R56) -/

theorem Device.tickStop_off {d : Device} {id : CmdId} {ps : List Byte} (hready : d.ready id 0x0403 ps)
    (hlife : d.tick.life = .off) : d.tickStop id = (d.acted id).complete id Status.ok := by
  simp only [Device.tickStop, Device.runCmd_ready _ hready, Device.acted_tick, hlife]

/-- A running tick ends first, with the values that it has still to load. -/
theorem Device.tickStop_running {d : Device} {id : CmdId} {ps : List Byte} (hready : d.ready id 0x0403 ps)
    (hlife : d.tick.life = .on) (hrunning : d.tick.running.isSome = true) :
    d.tickStop id =
      (d.acted id).modTick fun t =>
        { t with life := .stopping, held := none,
                 staged := t.staged.filter fun x => !x.later && decide (x.tick ≤ t.number) } := by
  have hstaged : d.tick.stagedRunning = d.tick.staged.filter fun x => !x.later && decide (x.tick ≤ d.tick.number) := by
    simp [Tick.stagedRunning, hrunning]
  have hnot : ¬(d.tick.running.isNone = true) := by
    rw [Option.isNone_iff_eq_none]
    exact Option.isSome_iff_ne_none.1 hrunning
  simp only [Device.tickStop, Device.runCmd_ready _ hready, Device.acted_tick, hlife]
  refine (if_neg hnot).trans (Device.modTick_congr ?_)
  rw [Device.acted_tick, hstaged]

theorem Device.tickStop_stopping {d : Device} {id : CmdId} {ps : List Byte} (hready : d.ready id 0x0403 ps)
    (hlife : d.tick.life = .stopping) :
    d.tickStop id = (d.acted id).modTick fun t => { t with pendingStart := false } := by
  simp only [Device.tickStop, Device.runCmd_ready _ hready, Device.acted_tick, hlife]

/-! ### TICK_STAGE (R56) -/

@[simp] theorem stageEntries_length (ps : List Byte) : (stageEntries ps).length = fieldAt ps 8 2 := by
  simp [stageEntries]

/-- Every entry is sound, and no value is beyond the maximum of a register that it names. -/
def Device.stageSound (d : Device) (e : StageEntry) : Prop :=
  e.bad = false ∧ ∀ r, r < 8 → e.mask.testBit r = true → ∀ m, d.shapeMax r e.reg = some m → e.value ≤ m

/-- TICK_STAGE with sound entries, in time and within the limit of a tick, stages its values. -/
theorem Device.tickStage_stages {d : Device} {id : CmdId} {ps : List Byte} (hready : d.ready id 0x0404 ps)
    (hmin : 1 ≤ fieldAt ps 8 2) (hmax : fieldAt ps 8 2 ≤ 64) (hzero : fieldAt ps 10 6 = 0)
    (hsound : ∀ e ∈ stageEntries ps, d.stageSound e) (htimely : d.stageTimely (fieldAt ps 0 8) = true)
    {l : List Staged} (hl : stageAll (d.tick.life != .on) (fieldAt ps 0 8) d.tick.staged (stageEntries ps) = l)
    (hroom : (l.filter fun x => x.later == (d.tick.life != .on) && x.tick == fieldAt ps 0 8).length ≤ 256) :
    d.tickStage id = ((d.acted id).modTick fun t => { t with staged := l }).complete id Status.ok := by
  have hform : ¬((stageEntries ps).length = 0 ∨ 64 < (stageEntries ps).length ∨ fieldAt ps 10 6 ≠ 0 ∨
      ((stageEntries ps).any (·.bad)) = true) := by
    have hbad : (stageEntries ps).any (·.bad) = false := by
      rw [List.any_eq_false]
      exact fun e he => by simp [(hsound e he).1]
    rw [stageEntries_length, hbad]
    simp only [Bool.false_eq_true, or_false]
    omega
  subst hl
  rw [Device.tickStage, Device.runCmd_ready _ hready]
  refine (if_neg hform).trans ((if_neg ?inRange).trans ((if_neg ?timely).trans (if_neg (Nat.not_lt.2 hroom))))
  case timely =>
    rw [Device.acted_stageTimely, htimely]
    exact Bool.false_ne_true
  case inRange =>
    rw [List.any_eq_true]
    rintro ⟨e, he, hbeyond⟩
    rw [List.any_eq_true] at hbeyond
    obtain ⟨r, hr, hvalue⟩ := hbeyond
    obtain ⟨hbit, hmore⟩ := Bool.and_eq_true_iff.1 hvalue
    cases hm : (d.acted id).shapeMax r e.reg with
    | none => simp [hm] at hmore
    | some m =>
      have hle := (hsound e he).2 r (List.mem_range.1 hr) hbit m hm
      simp only [hm, decide_eq_true_eq] at hmore
      omega

/-- Settles O24: each command past its checks. -/
theorem tickCommands : Obligations.TickCommands := by
  unfold Obligations.TickCommands
  constructor
  · intro s d id ps hruns
    refine ⟨?config, ?start, ?status⟩
    case config =>
      intro hready hmin hmax hstep hsource hpolicy hzero hcpl hwindow hring hperiod c
      have hstore := Device.tickConfig_stores hready ⟨hmin, hmax, hstep, hsource, hpolicy, hzero, hcpl, hwindow⟩ hring
        hperiod
      constructor
      · intro hlife hkeeps
        exact State.answers_lift hruns rfl ((hstore hkeeps).trans
          (congrArg (·.complete id Status.ok) (Device.modTick_congr (Tick.configure_notOn hlife))))
      · intro hlife hs hc
        exact State.answers_lift hruns rfl ((hstore fun _ => ⟨hs, hc⟩).trans
          (congrArg (·.complete id Status.ok) (Device.modTick_congr (Tick.configure_on hlife))))
    case start =>
      intro hready htrip hclock hactive hsource hperiod
      have hstart := Device.tickStart_allowed hready ⟨htrip, hclock, hactive, hsource, hperiod⟩
      constructor
      · intro hlife
        exact State.answers_lift hruns rfl ((hstart (.inl hlife)).trans (if_neg (by simp [hlife])))
      · intro hlife
        exact State.answers_lift hruns rfl ((hstart (.inr hlife)).trans (if_pos hlife))
    case status =>
      intro hready
      exact State.answers_lift hruns rfl (Device.tickStatus_replies hready)
  · intro s d id ps hruns
    refine ⟨?stopOff, ?stopRunning, ?stopStopping, ?stage⟩
    case stopOff =>
      intro hready hlife
      exact State.answers_lift hruns rfl (Device.tickStop_off hready hlife)
    case stopRunning =>
      intro hready hlife hrunning
      exact State.answers_lift hruns rfl (Device.tickStop_running hready hlife hrunning)
    case stopStopping =>
      intro hready hlife
      exact State.answers_lift hruns rfl (Device.tickStop_stopping hready hlife)
    case stage =>
      intro hready hmin hmax hzero hsound htimely later l hroom
      exact State.answers_lift hruns rfl (Device.tickStage_stages hready hmin hmax hzero hsound htimely rfl hroom)

end Sys2Proof.Machine
end

section
/-! SUPPORT and PROOFS. The events that strike the tick, by source; and the strike at a pilot: what becomes of the
pilot, and that the region's units and hold buffers change no other pilot and no memory. -/

namespace Sys2Proof.Machine

/-! ### Strikes by source (R50 to R53, R62, R367, R369) -/

theorem Device.timerStrike_due {d : Device} (hsource : d.tick.cfg.source = .internal) (hstruck : d.struck = true)
    (hdue : d.strikeBase + ns d.timing.period ≤ d.now) :
    d.timerStrike = d.strikeOrAnnounce (d.strikeBase + ns d.timing.period) false := by
  simp [Device.timerStrike, hsource, hstruck, hdue]

theorem Device.timerStrike_first {d : Device} (hsource : d.tick.cfg.source = .internal) (hstruck : d.struck = false)
    (hlife : d.tick.life = .starting) (hawake : d.asleep = false) :
    d.timerStrike = d.strikeOrAnnounce d.now false := by
  simp [Device.timerStrike, hsource, hstruck, hlife, hawake]

theorem Device.tickInEdge_inWindow {d : Device} (hsource : d.tick.cfg.source = .external)
    (hedge : (d.input 0).edge = true) (hstruck : d.struck = true)
    (hopen : d.strikeBase + ns (d.timing.period - d.timing.window) ≤ d.now)
    (hclose : d.now ≤ d.strikeBase + ns (d.timing.period + d.timing.window)) :
    d.tickInEdge = (d.modInput 0 fun p => { p with edge := false }).strikeOrAnnounce d.now false := by
  simp [Device.tickInEdge, hsource, hedge, hstruck, Nat.not_lt.2 hopen, Nat.not_lt.2 hclose]

theorem Device.tickInEdge_first {d : Device} (hsource : d.tick.cfg.source = .external)
    (hedge : (d.input 0).edge = true) (hstruck : d.struck = false) (hlife : d.tick.life = .starting)
    (hawake : d.asleep = false) :
    d.tickInEdge = (d.modInput 0 fun p => { p with edge := false }).strikeOrAnnounce d.now false := by
  simp [Device.tickInEdge, hsource, hedge, hstruck, hlife, hawake]

/-- The number that follows the last master strike. -/
def Vxl.nextMaster (v : Vxl) : Word := match v.lastMaster with | some w => w + 1 | none => 0

/-- The fallback at the end of the window takes the next master number at a member. -/
theorem Device.fallback_due {d : Device} (hsource : d.timing.source ≠ .internal)
    (hannounced : d.timing.source = .swarm → d.vxl.announced = []) (hlife : d.tick.life = .on)
    (hdue : d.strikeBase + ns (d.timing.period + d.timing.window) ≤ d.now) :
    d.fallback =
      ((if d.vxl.role = 2 then d.modVxl fun v =>
          { v with lastMaster := some d.vxl.nextMaster, struckNos := d.vxl.nextMaster :: v.struckNos } else d).modTick
        fun t => { t with missing := satInc t.missing }).strikeOrAnnounce
        (d.strikeBase + ns (d.timing.period + d.timing.window)) true := by
  have hstrikes : ¬(d.tick.life ≠ .on ∨ d.timing.source = .internal ∨
      d.now < d.strikeBase + ns (d.timing.period + d.timing.window) ∨
      (d.timing.source = .swarm ∧ (!d.vxl.announced.isEmpty) = true)) := by
    rintro (h | h | h | ⟨h, h'⟩)
    · exact h hlife
    · exact hsource h
    · omega
    · simp [hannounced h] at h'
  exact if_neg hstrikes

theorem Device.caughtUp_held {d : Device} {k : Strike} (hheld : d.tick.held = some k)
    (hrunning : d.tick.running = none) (hlife : d.tick.life = .on) : d.caughtUp = d.beginTick k true := by
  simp [Device.caughtUp, hheld, hrunning, hlife]

/-- A master takes the strike that it has announced once that is due. -/
theorem Device.announcedStrike_master {d : Device} {n time : Nat} {fb : Bool} {rest : List (Nat × Nat × Bool)}
    (hrole : d.vxl.role = 1) (hann : d.vxl.announced = (n, time, fb) :: rest) (hdue : time ≤ d.now)
    (hawake : d.tick.life = .starting → d.asleep = false) :
    d.announcedStrike = (d.modVxl fun v => { v with announced := rest }).strikeAt time fb := by
  have hready : ¬(d.now < time ∨ (d.tick.life = .starting ∧ d.asleep = true)) := by
    rintro (h | ⟨h, h'⟩)
    · omega
    · simp [hawake h] at h'
  simp [Device.announcedStrike, hann, hready, Device.modVxl, hrole]

/-- A member sends the fallback strike LEAD before it takes it. -/
theorem Device.fallbackSend_due {d : Device} (hrole : d.vxl.role = 2) (hsource : d.tick.cfg.source = .swarm)
    (hlife : d.tick.life = .on) (hsent : d.vxl.fallbackSent = false) (hann : d.vxl.announced = [])
    (hdue : d.tick.prevStrike + ns (d.tick.cfg.period + d.tick.cfg.window) ≤ d.now + ns d.vxl.lead.toNat) :
    d.fallbackSend =
      (d.ownStrike.2.sendStrikes d.ownStrike.1 d.vxl.nextMaster (1000 * d.vxl.lead.toNat) true []).modVxl fun v =>
        { v with fallbackSent := true } := by
  have hsends : ¬(d.vxl.role ≠ 2 ∨ d.tick.cfg.source ≠ .swarm ∨ d.tick.life ≠ .on ∨ d.vxl.fallbackSent = true ∨
      (!d.vxl.announced.isEmpty) = true ∨
      d.now + ns d.vxl.lead.toNat < d.tick.prevStrike + ns (d.tick.cfg.period + d.tick.cfg.window)) := by
    simp [hrole, hsource, hlife, hsent, hann, hdue]
  exact if_neg hsends

/-! ### What a discarded item changes of a pilot (R60, R231) -/

/-- What the strike sets in a pilot. -/
def Pilot.strikePart (p : Pilot) : Bool × Bool × Bool × Word × Nat × BitVec 9 × Tab Word :=
  (p.strikeDue, p.idleUntilStrike, p.drain, p.tick, p.combClk, p.pc, p.shape)

/-- From `d` to `e` nothing changes in any pilot but that of region `r`, in what the strike has set there, in HBM or at
the host port. -/
structure Device.KeepsStrike (r : Nat) (d e : Device) : Prop where
  mine : (e.pilot r).strikePart = (d.pilot r).strikePart
  others : ∀ q, q ≠ r → e.pilot q = d.pilot q
  hbm : e.hbm = d.hbm
  host : e.host = d.host

theorem Device.KeepsStrike.refl (r : Nat) (d : Device) : d.KeepsStrike r d := ⟨rfl, fun _ _ => rfl, rfl, rfl⟩

theorem Device.KeepsStrike.trans {r : Nat} {d e f : Device} (h : d.KeepsStrike r e) (h' : e.KeepsStrike r f) :
    d.KeepsStrike r f :=
  ⟨h'.mine.trans h.mine, fun q hq => (h'.others q hq).trans (h.others q hq), h'.hbm.trans h.hbm, h'.host.trans h.host⟩

theorem Device.KeepsStrike.foldl {r : Nat} {f : Device → Nat → Device} {l : List Nat}
    (h : ∀ d : Device, ∀ u ∈ l, d.KeepsStrike r (f d u)) (d : Device) : d.KeepsStrike r (l.foldl f d) :=
  List.foldlRecOn l f (motive := d.KeepsStrike r) (.refl r d) fun e he u hu => he.trans (h e u hu)

theorem Pilot.raise_strikePart (p : Pilot) (e : EventRec) : (p.raise e).strikePart = p.strikePart := by
  unfold Pilot.raise
  dsimp only
  split <;> rfl

theorem Device.keepsStrike_modPilot (d : Device) (r : Nat) {f : Pilot → Pilot}
    (h : ∀ p, (f p).strikePart = p.strikePart) : d.KeepsStrike r (d.modPilot r f) :=
  ⟨by rw [Device.modPilot_pilot, h], fun _ hq => d.modPilot_pilot_ne r f hq, rfl, rfl⟩

theorem Device.keepsStrike_raiseOnce (d : Device) (r code : Nat) (arg : Word) :
    d.KeepsStrike r (d.raiseOnce r code arg) := by
  refine d.keepsStrike_modPilot r fun p => ?_
  split
  · rfl
  · exact p.raise_strikePart (d.eventOf r code arg)

theorem Device.keepsStrike_staleReport (d : Device) (r : Nat) : d.KeepsStrike r (d.staleReport r) := by
  unfold Device.staleReport
  split
  · exact .refl r d
  · have hmark :=
      Device.keepsStrike_modPilot d.drawWord.2 r (f := fun p => { p with staleInTick := true }) fun _ => rfl
    have hraise := Device.keepsStrike_raiseOnce
      (d.drawWord.2.modPilot r fun p => { p with staleInTick := true }) r 0x01 d.drawWord.1
    obtain ⟨hmine, hothers, hhbm, hhost⟩ := hmark.trans hraise
    exact ⟨hmine, hothers, hhbm, hhost⟩

/-- The sites that a region lists are its own. -/
theorem siteRegion_of_mem {r u : Nat} (h : u ∈ regionSites r) : siteRegion u = r := by
  obtain ⟨k, hk, rfl⟩ := List.mem_map.1 h
  have hk := List.mem_range.1 hk
  unfold siteRegion siteDie siteX siteOf
  split <;> omega

/-! ### The first clk of a comb at a site (R84) -/

theorem Device.keepsStrike_releaseHold (d : Device) {r u : Nat} (h : siteRegion u = r) :
    d.KeepsStrike r (d.releaseHold u) := by
  have hstale (e : Device) : e.KeepsStrike r (e.staleSwitch u) := by
    obtain ⟨hmine, hothers, hhbm, hhost⟩ :=
      (e.modSwitch u fun s => { s with stale := satInc s.stale }).keepsStrike_staleReport r
    rw [Device.staleSwitch, h]
    exact ⟨hmine, hothers, hhbm, hhost⟩
  unfold Device.releaseHold
  split
  · exact .refl r d
  · obtain ⟨hmine, hothers, hhbm, hhost⟩ := Device.KeepsStrike.foldl (fun e _ _ => hstale e) d
    exact ⟨hmine, hothers, hhbm, hhost⟩

theorem Device.keepsStrike_releaseHolds (d : Device) (r : Nat) : d.KeepsStrike r (d.releaseHolds r) :=
  .foldl (fun e _ hu => e.keepsStrike_releaseHold (siteRegion_of_mem hu)) d

/-- A site's hold buffers are all empty. -/
def Device.holdsNothing (d : Device) (u : Nat) : Prop := ((d.switch u).bufs.all fun p => p.2.hold.isEmpty) = true

theorem Device.releaseHolds_empty {d : Device} {r : Nat} (h : ∀ u ∈ regionSites r, d.holdsNothing u) :
    d.releaseHolds r = d :=
  List.foldlRecOn (regionSites r) _ (motive := (· = d)) rfl fun e he u hu => by
    subst he
    exact if_pos (h u hu)

/-! ### The strike at a pilot (R51, R56, R230) -/

/-- The pilot of region `r` takes the strike: it starts the tick at index 0 with its staged values. -/
def Device.strikePilot (d : Device) (r : Nat) : Device :=
  let n := d.tick.number
  let vals := stagedFor d.tick.staged r n
  let d := d.modTick fun t =>
    { t with staged := t.staged.filter fun x => !(!x.later && x.region == r && decide (x.tick ≤ n)) }
  let prog := d.programIn r (d.combOf r)
  (d.newLimits r).modPilot r fun p =>
    { p with strikeDue := false, idleUntilStrike := false, drain := false, tick := BitVec.ofNat 32 n, combClk := 0,
             pc := 0, state := if prog.isEmpty then 0 else 1, once := [], staleInTick := false, stall := 0, busy := 0,
             shapeDue := p.shapeDue.filter fun e => !(vals.any fun x => x.reg == e.reg),
             shape := vals.foldl (fun t x => t.put x.reg x.value) p.shape }

/-- Pilots, switches, HBM and host port. -/
def Device.sitePart (d : Device) : Tab Pilot × Tab Switch × Mem × HostPort := (d.pilots, d.switches, d.hbm, d.host)

theorem Device.switches_of_sitePart {d e : Device} (h : e.sitePart = d.sitePart) : e.switches = d.switches :=
  congrArg (·.2.1) h

theorem Device.keepsStrike_of_sitePart {d e : Device} (r : Nat) (h : e.sitePart = d.sitePart) : d.KeepsStrike r e := by
  have hpilot (q : Nat) : e.pilot q = d.pilot q := congrArg (fun p => p.1.getD q .reset) h
  exact ⟨by rw [hpilot], fun q _ => hpilot q, congrArg (·.2.2.1) h, congrArg (·.2.2.2) h⟩

theorem Device.withSfus_sitePart (d : Device) (t : Tab Sfu) : { d with sfus := t }.sitePart = d.sitePart := rfl

/-- What tick and comb set note of a region's first clk touches no pilot and no switch. -/
theorem Device.firstClk_sitePart (d : Device) (unused noted : Prop) [Decidable unused] [Decidable noted]
    (f : Tick → Tick) (g : Comb → Comb) :
    (if unused then d else (if noted then d else d.modTick f).modComb g).sitePart = d.sitePart := by
  split_ifs <;> rfl

/-- Counters at their presets touch no pilot and no switch. -/
theorem Device.presets_sitePart (d : Device) (us : List Nat) :
    (us.foldl (fun d u => if (d.section u).isEmpty then d else d.modUnit u fun m =>
      { m with cnt := d.freshCounters u }) d).sitePart = d.sitePart := by
  refine foldl_keeps Device.sitePart (fun e u => ?_) us d
  split
  · rfl
  · unfold Device.modUnit
    split <;> rfl

/-- All that follows the pilot's own part of its strike keeps that part; with nothing in the region's hold buffers it
leaves every switch as it is. -/
theorem Device.pilotStrike_keeps {d : Device} {r : Nat} (hdue : (d.pilot r).strikeDue = true) (hlive : d.live r = true)
    (hactive : d.comb.state = .active) (hidle : (d.pilot r).idleUntilStrike = true) :
    (d.strikePilot r).KeepsStrike r (d.pilotStrike r) ∧
      ((∀ u ∈ regionSites r, d.holdsNothing u) → (d.pilotStrike r).switches = d.switches) := by
  have htakes : ¬((!(d.pilot r).strikeDue) = true ∨ (!(d.pilot r).idleUntilStrike) = true ∨ (!d.live r) = true ∨
      d.comb.state ≠ .active) := by simp [hdue, hlive, hactive, hidle]
  unfold Device.pilotStrike
  extract_lets p n vals d₁ prog d₂ d₃ d₄ d₅ k d₆
  rw [if_neg htakes]
  have hpilot : d₂ = d.strikePilot r := rfl
  have hunits : d₄.sitePart = d₂.sitePart := (d₃.withSfus_sitePart _).trans (d₂.presets_sitePart (regionSites r))
  have hholds : d₄.KeepsStrike r d₅ := d₄.keepsStrike_releaseHolds r
  rw [← hpilot]
  constructor
  · refine ((Device.keepsStrike_of_sitePart r hunits).trans hholds).trans (Device.keepsStrike_of_sitePart r ?_)
    apply Device.firstClk_sitePart
  · intro h
    have hswitches : d₄.switches = d.switches := (Device.switches_of_sitePart hunits).trans rfl
    have hnothing (u : Nat) (hu : u ∈ regionSites r) : d₄.holdsNothing u := by
      rw [Device.holdsNothing, Device.switch, hswitches]
      exact h u hu
    have hempty : d₅ = d₄ := Device.releaseHolds_empty hnothing
    refine (Device.switches_of_sitePart (d := d₅) ?_).trans (hempty ▸ hswitches)
    apply Device.firstClk_sitePart

/-- Limits that take effect are the watchdog's part of the pilot, and the home's. -/
theorem Device.newLimits_pilot (d : Device) (r q : Nat) :
    (d.newLimits r).pilot q =
      (d.modPilot r fun p => { p with stallLog2 := p.stallNext.getD p.stallLog2, stallNext := none }).pilot q := rfl

theorem Device.strikePilot_strikePart (d : Device) (r : Nat) :
    ((d.strikePilot r).pilot r).strikePart =
      (false, false, false, BitVec.ofNat 32 d.tick.number, 0, 0,
        (stagedFor d.tick.staged r d.tick.number).foldl (fun q x => q.put x.reg x.value) (d.pilot r).shape) := by
  rw [Device.strikePilot, Device.modPilot_pilot, Device.newLimits_pilot, Device.modPilot_pilot]
  rfl

theorem Device.strikePilot_pilot_ne (d : Device) {r q : Nat} (h : q ≠ r) : (d.strikePilot r).pilot q = d.pilot q := by
  rw [Device.strikePilot, Device.modPilot_pilot_ne _ _ _ h, Device.newLimits_pilot, Device.modPilot_pilot_ne _ _ _ h]
  rfl

/-- Settles O25: each event by its source's lemma; at a pilot, the pilot's own part and what keeps it. -/
theorem strikesActOnTheirSource : Obligations.StrikesActOnTheirSource := by
  unfold Obligations.StrikesActOnTheirSource
  constructor
  · intro s d hruns
    refine ⟨?timer, ?timerFirst, ?edge, ?edgeFirst, ?fallback, ?caughtUp, ?master, ?send⟩
    case timer =>
      intro hsource hstruck hdue
      exact State.answers_lift hruns rfl (Device.timerStrike_due hsource hstruck hdue)
    case timerFirst =>
      intro hsource hstruck hlife hawake
      exact State.answers_lift hruns rfl (Device.timerStrike_first hsource hstruck hlife hawake)
    case edge =>
      intro hsource hedge hstruck hopen hclose
      exact State.answers_lift hruns rfl (Device.tickInEdge_inWindow hsource hedge hstruck hopen hclose)
    case edgeFirst =>
      intro hsource hedge hstruck hlife hawake
      exact State.answers_lift hruns rfl (Device.tickInEdge_first hsource hedge hstruck hlife hawake)
    case fallback =>
      intro hsource hannounced hlife hdue
      exact State.answers_lift hruns rfl (Device.fallback_due hsource hannounced hlife hdue)
    case caughtUp =>
      intro k hheld hrunning hlife
      exact State.answers_lift hruns rfl (Device.caughtUp_held hheld hrunning hlife)
    case master =>
      intro n time fb rest hrole hann hdue hawake
      exact State.answers_lift (f := fun d => if d.vxl.role = 1 then d.announcedStrike else d) hruns rfl
        ((if_pos hrole).trans (Device.announcedStrike_master hrole hann hdue hawake))
    case send =>
      intro hrole hsource hlife hsent hann hdue
      exact State.answers_lift hruns rfl (Device.fallbackSend_due hrole hsource hlife hsent hann hdue)
  · intro s d r hruns hdue hlive hactive hidle
    refine ⟨d.pilotStrike r.val, State.answers_lift hruns rfl rfl, ?_⟩
    obtain ⟨⟨hmine, hothers, hhbm, hhost⟩, hswitches⟩ := Device.pilotStrike_keeps hdue hlive hactive hidle
    rw [Device.strikePilot_strikePart] at hmine
    simp only [Pilot.strikePart, Prod.mk.injEq] at hmine
    obtain ⟨hstrike, hwait, hdrain, htick, hclk, hpc, hshape⟩ := hmine
    exact ⟨hstrike, hwait, hdrain, htick, hclk, hpc, hshape,
      fun q hq => (hothers q hq).trans (d.strikePilot_pilot_ne hq), hhbm, hhost, hswitches⟩

end Sys2Proof.Machine
end

section
/-! SUPPORT and PROOFS. The acts of a comb swap: what each row does once its premises let it act. -/

namespace Sys2Proof.Machine

/-! ### Markers and targets (R57, R228, R229) -/

/-- The marker of unit `u` has reached its pilot. -/
def Device.marked (d : Device) (u : Nat) : Device :=
  (d.modPilot (siteRegion u) fun p => { p with markers := u :: p.markers }).trySwap (siteRegion u)

/-- Unit `u` has sent its marker. -/
def Device.markerSent (d : Device) (u : Nat) : Device := d.modUnit u fun m => { m with eocSent := true }

/-- An SU or an IOU whose marker has gone has ended the comb. -/
def Device.ended (d : Device) (u : Nat) : Device :=
  match siteKind u with
  | .su => d.modSu u fun s => { s with state := 2 }
  | .iou => d.modIou u fun s => { s with state := 2 }
  | _ => d

theorem Device.ended_other {d : Device} {u : Nat} (h : siteKind u = .mu ∨ siteKind u = .sfu) : d.ended u = d := by
  rcases h with h | h <;> rw [Device.ended, h]

theorem Device.ended_su {d : Device} {u : Nat} (h : siteKind u = .su) :
    d.ended u = d.modSu u fun s => { s with state := 2 } := by rw [Device.ended, h]

theorem Device.ended_iou {d : Device} {u : Nat} (h : siteKind u = .iou) :
    d.ended u = d.modIou u fun s => { s with state := 2 } := by rw [Device.ended, h]

/-- A unit with nothing more to do in the comb sends its marker. -/
theorem Device.eocMarker_done {d : Device} {u : Nat} (hruns : (d.drainOut u).unitRuns u = true)
    (hunsent : ((d.drainOut u).unit u).eocSent = false) (hdone : (d.drainOut u).combDone u = true) :
    d.eocMarker u = (((d.drainOut u).markerSent u).ended u).marked u := by
  have hsends : ¬((!(d.drainOut u).unitRuns u) = true ∨ ((d.drainOut u).unit u).eocSent = true ∨
      (!(d.drainOut u).combDone u) = true) := by simp [hruns, hunsent, hdone]
  exact if_neg hsends

@[simp] theorem Pilot.learn_comb (p : Pilot) (t : SwapTarget) : (p.learn t).comb = p.comb := by
  unfold Pilot.learn
  dsimp only
  split <;> rfl

@[simp] theorem Device.learn_combOf (d : Device) (r : Nat) (t : SwapTarget) :
    (d.modPilot r (·.learn t)).combOf r = d.combOf r := by
  simp [Device.combOf]

/-- The device in which the pilot of region `r` has the targets `ts` on the ring. -/
def Device.ringLeft (d : Device) (r : Nat) (ts : List SwapTarget) : Device :=
  d.modPilot r fun p => { p with ringIn := ts }

section
variable {d : Device} {r : Nat} {t : SwapTarget} {ts : List SwapTarget}

/-- A pilot with no target yet learns that of its swap; one whose region its comb does not use then stands at the
swap, and takes part in it if the new comb uses the region. -/
theorem Device.swapTarget_learns (hring : (d.pilot r).ringIn = t :: ts) (hlive : d.live r = true)
    (hactive : d.comb.state = .active) (hidle : (d.pilot r).idleUntilStrike = false) (hno : t.no = (d.pilot r).swapNo)
    (htarget : (d.pilot r).target = none) :
    d.swapTarget r =
      if d.usesRegion (d.combOf r) r then (d.ringLeft r ts).modPilot r (·.learn t)
      else ((d.ringLeft r ts).modPilot r (·.learn t)).modPilot r fun p =>
        { p with state := 4, drain := d.usesRegion t.target r } := by
  have hcomb : (d.ringLeft r ts).combOf r = d.combOf r := by simp [Device.ringLeft, Device.combOf]
  have huses : ((d.ringLeft r ts).modPilot r (·.learn t)).usesRegion
      (((d.ringLeft r ts).modPilot r (·.learn t)).combOf r) r = d.usesRegion (d.combOf r) r := by
    rw [Device.learn_combOf, hcomb]
    rfl
  have htakes : ¬((!d.live r) = true ∨ d.comb.state ≠ .active ∨ (d.pilot r).idleUntilStrike = true ∨
      (d.pilot r).swapNo < t.no) := by simp [hlive, hactive, hidle, hno]
  rw [Device.swapTarget, hring]
  refine (if_neg htakes).trans ?_
  rw [htarget]
  refine (if_neg (by omega)).trans ?_
  rw [← huses]
  rfl

/-- A pilot with a target of the swap compares the one that comes. -/
theorem Device.swapTarget_compares {x : SwapTarget} (hring : (d.pilot r).ringIn = t :: ts) (hlive : d.live r = true)
    (hactive : d.comb.state = .active) (hidle : (d.pilot r).idleUntilStrike = false) (hno : t.no = (d.pilot r).swapNo)
    (htarget : (d.pilot r).target = some x) (hsame : x.no = t.no) :
    d.swapTarget r = if x ≠ t then (d.ringLeft r ts).swapMismatch r else d.ringLeft r ts := by
  simp [Device.swapTarget, hring, hlive, hactive, hidle, hno, htarget, hsame, Device.ringLeft]

end

/-! ### Plane loads, issue and completion (R41, R59, R229) -/

section
variable {d : Device} {r : Nat}

/-- The end of a load: the planes hold the comb; or the planes that the scrubber found bad are written again. -/
theorem Device.planeLoadDone_loading {c : Nat} (hclock : d.clockRuns r = true) (hactive : d.comb.state = .active)
    (hloading : (d.pilot r).loading = some c) :
    d.planeLoadDone r =
      if (d.pilot r).loaded then
        (regionSites r).foldl (fun d u => if (d.switch u).idleReload then d.loadIdle r c u else d) d
      else ((regionSites r).foldl (fun d u => d.loadIdle r c u) d).modPilot r fun p => { p with loaded := true } := by
  have hruns : ¬((!d.clockRuns r) = true ∨ d.comb.state ≠ .active) := by simp [hclock, hactive]
  rw [Device.planeLoadDone, if_neg hruns, hloading]

theorem Device.swapIssue_issues {t : SwapTarget} (htarget : (d.pilot r).target = some t) (hlive : d.live r = true)
    (hactive : d.comb.state = .active) (hissued : (d.pilot r).issued = false) (hmay : d.mayIssue r t.target = true) :
    d.swapIssue r =
      (d.modPilot r fun p =>
        { p with issued := true, state := 4, swaps := satInc p.swaps, switchClk := 64 }).noteIssue r t := by
  simp [Device.swapIssue, htarget, hlive, hactive, hissued, hmay]

/-- The judgement at the switch clk on the sites whose idle planes are bad. -/
def Device.swapJudged (d : Device) (r : Nat) (t : SwapTarget) : List Nat → Device
  | [] => d.completeSwap r t
  | u :: us =>
    if (d.pilot r).reloaded then (d.raiseFree r 0x2A).stopRegion r (siteX u) (siteY u) 4
    else d.reloadPlanes r t.target (u :: us)

/-- At the switch clk the swap completes, waits for a reload, or fails after one, as the idle planes say. -/
theorem Device.swapComplete_due {t : SwapTarget} {bad : List Nat} (htarget : (d.pilot r).target = some t)
    (hlive : d.live r = true) (hactive : d.comb.state = .active) (hissued : (d.pilot r).issued = true)
    (hclk : (d.pilot r).switchClk = 0) (hbad : d.badIdle r = bad) : d.swapComplete r = d.swapJudged r t bad := by
  have hdue : ¬((!d.live r) = true ∨ d.comb.state ≠ .active ∨ (!(d.pilot r).issued) = true ∨
      (d.pilot r).switchClk ≠ 0) := by simp [hlive, hactive, hissued, hclk]
  rw [Device.swapComplete, htarget, hbad]
  exact if_neg hdue

theorem Device.regionStart_commanded {id : CmdId} (h : (d.pwrRegion r).startCmd = some id) :
    d.regionStart r = ((d.startRegionClock r).complete id Status.ok).catchUp r := by
  simp only [Device.regionStart, h]

end

/-- Settles O45: each act by its lemma; what a comb's start makes of a pilot stands in `startComb` field by field. -/
theorem swapActs : Obligations.SwapActs := by
  unfold Obligations.SwapActs
  constructor
  · intro s d hruns
    refine ⟨?marker, ?target, ?load, ?issue, ?complete, ?start⟩
    case marker =>
      intro u e sent done hunit hunsent hdone
      have hmarker := Device.eocMarker_done hunit hunsent hdone
      refine ⟨fun hkind => ?_, fun hkind => ?_, fun hkind => ?_⟩
      · rw [Device.ended_other hkind] at hmarker
        exact State.answers_lift hruns rfl hmarker
      · rw [Device.ended_su hkind] at hmarker
        exact State.answers_lift hruns rfl hmarker
      · rw [Device.ended_iou hkind] at hmarker
        exact State.answers_lift hruns rfl hmarker
    case target =>
      intro r t ts hring hlive hactive hidle hno got
      refine ⟨fun htarget huses => ?_, fun htarget huses => ?_, fun x htarget hsame => ⟨fun heq => ?_, fun hne => ?_⟩⟩
      · exact State.answers_lift hruns rfl
          ((Device.swapTarget_learns hring hlive hactive hidle hno htarget).trans (if_pos huses))
      · exact State.answers_lift hruns rfl
          ((Device.swapTarget_learns hring hlive hactive hidle hno htarget).trans (if_neg (by simp [huses])))
      · exact State.answers_lift hruns rfl
          ((Device.swapTarget_compares hring hlive hactive hidle hno htarget hsame).trans (if_neg (not_not_intro heq)))
      · exact State.answers_lift hruns rfl
          ((Device.swapTarget_compares hring hlive hactive hidle hno htarget hsame).trans (if_pos hne))
    case load =>
      intro r c hclock hactive hloading
      have hload := Device.planeLoadDone_loading hclock hactive hloading
      exact ⟨fun hloaded => State.answers_lift hruns rfl (hload.trans (if_neg (by simp [hloaded]))),
        fun hloaded => State.answers_lift hruns rfl (hload.trans (if_pos hloaded))⟩
    case issue =>
      intro r t htarget hlive hactive hissued hmay
      exact State.answers_lift hruns rfl (Device.swapIssue_issues htarget hlive hactive hissued hmay)
    case complete =>
      intro r t htarget hlive hactive hissued hclk
      have hdue {bad : List Nat} (hbad : d.badIdle r.val = bad) : d.swapComplete r.val = d.swapJudged r.val t bad :=
        Device.swapComplete_due htarget hlive hactive hissued hclk hbad
      exact ⟨fun hbad => State.answers_lift hruns rfl (hdue hbad),
        fun u us hbad hfirst => State.answers_lift hruns rfl ((hdue hbad).trans (if_neg (by simp [hfirst]))),
        fun u us hbad hagain => State.answers_lift hruns rfl ((hdue hbad).trans (if_pos hagain))⟩
    case start =>
      intro r id hcmd
      exact State.answers_lift hruns rfl (Device.regionStart_commanded hcmd)
  · intro p c succ eot program
    exact ⟨rfl, rfl, rfl, rfl, rfl, rfl, rfl, rfl, rfl, rfl, rfl, rfl, rfl, rfl, rfl, rfl, rfl, rfl, rfl⟩

end Sys2Proof.Machine
end

section
/-! SUPPORT and PROOFS. Words in the switch fabric: the input buffers of a route entry, what the entry takes from them,
and what WORD_SEND, the arrivals over seams and bridges and the relock of a seam do. -/

namespace Sys2Proof.Machine

/-! ### The buffers of a switch beside the one that is set -/

/-- Replacing the entry of one key leaves what is found under another. -/
theorem find?_map_replace_ne {k k' : BufKey} (l : List (BufKey × Buf)) (b : Buf) (h : k' ≠ k) :
    (l.map fun p => if p.1 == k then (k, b) else p).find? (·.1 == k') = l.find? (·.1 == k') := by
  have hkey : (k == k') = false := beq_false_of_ne h.symm
  induction l with
  | nil => rfl
  | cons p l ih =>
    rw [List.map_cons, List.find?_cons, List.find?_cons, ih]
    by_cases hp : (p.1 == k) = true
    · have hp' : (p.1 == k') = false := by rw [eq_of_beq hp]; exact hkey
      rw [if_pos hp, hp', hkey]
    · rw [if_neg hp]

theorem Switch.buf_setBuf_ne (s : Switch) {k k' : BufKey} (b : Buf) (h : k' ≠ k) : (s.setBuf k b).buf k' = s.buf k' := by
  unfold Switch.setBuf
  split_ifs
  · have hpred : (fun p : BufKey × Buf => decide ((p.1 != k) = true ∧ (p.1 == k') = true)) = fun p => p.1 == k' := by
      funext p
      by_cases hp : p.1 = k' <;> simp [hp, h]
    simp only [Switch.buf, List.find?_filter, hpred]
  · simp only [Switch.buf, find?_map_replace_ne _ b h]
  · simp [Switch.buf, List.find?_append, h.symm]

/-! ### Heads of the input buffers (R72, R98) -/

/-- A head word that an entry finds stands first in the buffer. -/
theorem Switch.items_of_headFor {s : Switch} {e : Route} {k : BufKey} {w : Item} (h : s.headFor e k = some w) :
    ∃ rest, (s.buf k).items = w :: rest := by
  unfold Switch.headFor at h
  dsimp only at h
  split_ifs at h
  exact List.head?_eq_some_iff.1 h

/-- Whether an entry finds a head word depends only on whether it has taken that of the buffer and whether there is one. -/
theorem Switch.headFor_isSome_congr {s t : Switch} {k : BufKey} (e : Route) (htaken : (t.buf k).taken = (s.buf k).taken)
    (hitems : (t.buf k).items.head?.isSome = (s.buf k).items.head?.isSome) :
    (t.headFor e k).isSome = (s.headFor e k).isSome := by
  unfold Switch.headFor
  dsimp only
  rw [htaken]
  split_ifs
  · rfl
  · exact hitems

@[simp] theorem Device.raiseFree_switch (d : Device) (r code u : Nat) : (d.raiseFree r code).switch u = d.switch u := rfl

/-- A head word with bad data parity is poisoned where it stands. -/
theorem Device.checkHead_buf {d : Device} {u : Nat} {k : BufKey} {w : Item} {rest : List Item}
    (hitems : ((d.switch u).buf k).items = w :: rest) (hbad : w.dataOk k.net = false) (k' : BufKey) :
    ((d.checkHead u k).switch u).buf k' =
      ((d.switch u).setBuf k
        { (d.switch u).buf k with items := { w with poison := true }.sealed k.net :: rest }).buf k' := by
  simp only [Device.checkHead, hitems, hbad, Bool.false_eq_true, if_false, Device.raiseFree_switch,
    Device.modSwitch_switch]
  rfl

/-- The check of a head may poison the word; a word stays at the head. -/
theorem Device.checkHead_headFor_isSome (d : Device) (u : Nat) (e : Route) (k k' : BufKey) :
    (((d.checkHead u k).switch u).headFor e k').isSome = ((d.switch u).headFor e k').isSome := by
  rcases hitems : ((d.switch u).buf k).items with _ | ⟨w, rest⟩
  · simp only [Device.checkHead, hitems]
  by_cases hdata : w.dataOk k.net = true
  · simp only [Device.checkHead, hitems, hdata, if_true]
  have hbuf := Device.checkHead_buf hitems (Bool.eq_false_of_not_eq_true hdata) k'
  by_cases hk : k' = k
  · subst hk
    rw [Switch.buf_setBuf] at hbuf
    exact Switch.headFor_isSome_congr e (by rw [hbuf]) (by rw [hbuf, hitems]; rfl)
  · rw [Switch.buf_setBuf_ne _ _ hk] at hbuf
    exact Switch.headFor_isSome_congr e (by rw [hbuf]) (by rw [hbuf])

theorem Device.checkHeads_headFor_isSome (d : Device) (u : Nat) (e : Route) (ks : List BufKey) (k : BufKey) :
    (((ks.foldl (fun d k => d.checkHead u k) d).switch u).headFor e k).isSome = ((d.switch u).headFor e k).isSome :=
  List.foldlRecOn ks _ (motive := fun t : Device => ((t.switch u).headFor e k).isSome = ((d.switch u).headFor e k).isSome)
    rfl fun t ht k' _ => (t.checkHead_headFor_isSome u e k' k).trans ht

/-- A sound head word stays as it is. -/
theorem Device.checkHead_sound {d : Device} {u : Nat} {e : Route} {k : BufKey} {w : Item}
    (hhead : (d.switch u).headFor e k = some w) (hdata : w.dataOk k.net = true) : d.checkHead u k = d := by
  obtain ⟨rest, hitems⟩ := Switch.items_of_headFor hhead
  simp only [Device.checkHead, hitems, hdata, if_true]

/-! ### What an entry takes from its inputs (R72, R91 to R93, R98) -/

theorem Route.src_mem_keys (e : Route) (net : Net) : ⟨net, e.src, e.srcVc⟩ ∈ e.keys net := by
  unfold Route.keys Route.ports
  split <;> simp

/-- An entry that forwards has one input. -/
theorem Route.ports_forward {e : Route} (h : e.mode = 1) : e.ports = [e.src] := by simp [Route.ports, h]

theorem Route.keys_forward {e : Route} (net : Net) (h : e.mode = 1) : e.keys net = [⟨net, e.src, e.srcVc⟩] := by
  rw [Route.keys, Route.ports_forward h, List.map_singleton]

theorem Switch.headsReady_iff (s : Switch) (e : Route) (net : Net) :
    s.headsReady e net = true ↔ ∀ k ∈ e.keys net, (s.headFor e k).isSome = true := List.all_eq_true

/-- Every input of the entry has a head word with a sound sideband. -/
def Switch.HeadsSound (s : Switch) (e : Route) (net : Net) : Prop :=
  ∀ k ∈ e.keys net, ∃ w, s.headFor e k = some w ∧ w.sideOk net = true

theorem Switch.HeadsSound.ready {s : Switch} {e : Route} {net : Net} (h : s.HeadsSound e net) :
    s.headsReady e net = true :=
  (s.headsReady_iff e net).2 fun k hk => by
    obtain ⟨w, hhead, -⟩ := h k hk
    exact Option.isSome_iff_exists.2 ⟨w, hhead⟩

theorem Switch.HeadsSound.find?_sideBad {s : Switch} {e : Route} {net : Net} (h : s.HeadsSound e net) :
    ((e.keys net).find? fun k => (s.headFor e k).any fun w => !w.sideOk net) = none :=
  List.find?_eq_none.2 fun k hk => by
    obtain ⟨w, hhead, hside⟩ := h k hk
    simp [hhead, hside]

theorem Switch.headsSound_forward {s : Switch} {e : Route} {net : Net} {w : Item} (hmode : e.mode = 1)
    (hhead : s.headFor e ⟨net, e.src, e.srcVc⟩ = some w) (hside : w.sideOk net = true) : s.HeadsSound e net := by
  intro k hk
  rw [Route.keys_forward net hmode, List.mem_singleton] at hk
  exact ⟨w, hk ▸ hhead, hside⟩

theorem Device.modSwitch_congr {d : Device} {u : Nat} {f g : Switch → Switch} (h : f (d.switch u) = g (d.switch u)) :
    d.modSwitch u f = d.modSwitch u g := by
  have h' : f (d.switches.getD u .reset) = g (d.switches.getD u .reset) := h
  simp only [Device.modSwitch, Tab.upd, h']

theorem Device.gather_sideBad {d : Device} {u : Nat} {net : Net} {e : Route} {k : BufKey}
    (h : ((e.keys net).find? fun k => ((d.switch u).headFor e k).any fun w => !w.sideOk net) = some k) :
    d.gather u net e = (d.sidebandFail u k, none) := by
  simp only [Device.gather, h]

/-- With sound sidebands at every input the entry takes a word or a sum: the checks of the heads leave a head at its
source. -/
theorem Device.gather_takes {d : Device} {u : Nat} {net : Net} {e : Route}
    (h : (d.switch u).HeadsSound e net) : ∃ t w, d.gather u net e = (t, some w) := by
  set t := (e.keys net).foldl (fun d k => d.checkHead u k) d with ht
  have hsrc : ((t.switch u).headFor e ⟨net, e.src, e.srcVc⟩).isSome = true := by
    obtain ⟨w, hhead, -⟩ := h _ (e.src_mem_keys net)
    rw [ht, Device.checkHeads_headFor_isSome, hhead]
    rfl
  have hheads : ((e.keys net).filterMap fun k => (t.switch u).headFor e k) ≠ [] := by
    obtain ⟨w, hw⟩ := Option.isSome_iff_exists.1 hsrc
    exact List.ne_nil_of_mem (List.mem_filterMap.2 ⟨_, e.src_mem_keys net, hw⟩)
  obtain ⟨w, ws, hcons⟩ := List.exists_cons_of_ne_nil hheads
  simp only [Device.gather, h.find?_sideBad, ← ht, hcons]
  exact ⟨_, _, rfl⟩

/-- An entry that forwards takes the head of its one input as it is. -/
theorem Device.gather_forward {d : Device} {u : Nat} {net : Net} {e : Route} {w : Item} (hmode : e.mode = 1)
    (hhead : (d.switch u).headFor e ⟨net, e.src, e.srcVc⟩ = some w) (hside : w.sideOk net = true)
    (hdata : w.dataOk net = true) :
    d.gather u net e =
      (((d.modSwitch u fun x =>
        x.take (routesOf x.active.image net) (natOfBool x.bank) e ⟨net, e.src, e.srcVc⟩).drainOut u).progress
          (siteRegion u), some w) := by
  have hcheck : d.checkHead u ⟨net, e.src, e.srcVc⟩ = d := Device.checkHead_sound hhead hdata
  simp only [Device.gather, (Switch.headsSound_forward hmode hhead hside).find?_sideBad]
  simp only [Route.keys_forward net hmode, Route.ports_forward hmode, hcheck, hhead, hmode, List.foldl_cons,
    List.foldl_nil, List.filterMap_cons, List.filterMap_nil, List.any_nil, Bool.false_eq_true, if_false,
    OfNat.one_ne_ofNat]
  exact congrArg (fun t : Device => ((t.drainOut u).progress (siteRegion u), some w)) (Device.modSwitch_congr rfl)

/-! ### WORD_SEND (R70 to R72, R75, R78) -/

theorem Device.fillLines_other (d : Device) (u : Nat) {net : Net} (out : Nat) (h : net ≠ .vector) :
    d.fillLines u net out = d := by
  cases net with
  | vector => exact absurd rfl h
  | scalar => rfl
  | control => rfl

/-- Without delay lines at the output there is nothing to fill. -/
theorem Device.fillLines_none {d : Device} {u out : Nat}
    (h : ∀ e ∈ routesOf (d.switch u).active.image .vector, e.delay = 0 ∨ e.out ≠ out) (net : Net) :
    d.fillLines u net out = d := by
  have hnone : ((routesOf (d.switch u).active.image .vector).filter fun e =>
      e.mode != 0 && e.delay != 0 && e.bank == natOfBool (d.switch u).bank && e.out == out) = [] := by
    refine List.filter_eq_nil_iff.2 fun e he => ?_
    rcases h e he with hdelay | hout
    · simp [hdelay]
    · simp [hout]
  cases net with
  | vector => simp only [Device.fillLines, hnone, List.foldl_nil]
  | scalar => rfl
  | control => rfl

/-- The slot or lane on which an entry sends (R70). -/
def Route.sendSlot (e : Route) (net : Net) (lane : Nat) : Nat :=
  match net with
  | .control => lane
  | _ => e.slot

/-- The switch at `u` carries out its part of the active comb. -/
structure Device.Switches (d : Device) (u : Nat) : Prop where
  started : d.started (siteRegion u) = true
  comb : (d.switch u).active.comb.isSome = true
  active : d.comb.state = .active

/-- With its delay lines filled, the output follows entry `e` in this clk, has sent nothing in it, and has room. -/
structure Device.Follows (t : Device) (u : Nat) (net : Net) (out lane : Nat) (e : Route) : Prop where
  route : t.routeNow u net out lane = some e
  live : t.live (siteRegion u) = true
  unsent : (t.switch u).lastSent.getD (sendKey net out lane) 0 ≠ (t.pilot (siteRegion u)).combClk + 1
  room : t.hasRoom u net out (e.sendSlot net lane) = true

theorem Device.Switches.runs {d : Device} {u : Nat} (h : d.Switches u) :
    ¬(!d.started (siteRegion u) || (d.switch u).active.comb.isNone || decide (d.comb.state ≠ .active)) = true := by
  obtain ⟨w, hw⟩ := Option.isSome_iff_exists.1 h.comb
  simp [h.started, h.active, hw]

theorem Device.Follows.maySend {t : Device} {u : Nat} {net : Net} {out lane : Nat} {e : Route}
    (h : t.Follows u net out lane e) :
    ¬((!t.live (siteRegion u)) = true ∨
      (t.switch u).lastSent.getD (sendKey net out lane) 0 = (t.pilot (siteRegion u)).combClk + 1 ∨
      (!t.hasRoom u net out (e.sendSlot net lane)) = true) := by
  simp [h.live, h.unsent, h.room]

section
variable {d : Device} {u : Nat} {net : Net} {out lane : Nat} {e : Route}

theorem Device.wordSend_idle (hsw : d.Switches u) (h : (d.fillLines u net out).routeNow u net out lane = none) :
    d.wordSend u net out lane = d.fillLines u net out := by
  refine (if_neg hsw.runs).trans ?_
  simp only [h]

/-- From a delay line the oldest word leaves once it is ripe. -/
theorem Device.wordSend_ripe {w : Item} (hsw : d.Switches u) (h : (d.fillLines u net out).Follows u net out lane e)
    (hdelay : e.delay ≠ 0) (hripe : (d.fillLines u net out).ripe u e = some w) :
    d.wordSend u net out lane =
      ((d.fillLines u net out).modSwitch u fun x => { x with lines := x.lines.put e.id ((x.line e).drop 1) }).sendNow u
        net out lane e w := by
  refine (if_neg hsw.runs).trans ?_
  simp only [h.route]
  refine (if_neg h.maySend).trans ((if_pos hdelay).trans ?_)
  simp only [hripe]

/-- Without a delay line the entry gathers its inputs once every one has a head. -/
theorem Device.wordSend_gathers (hsw : d.Switches u) (h : (d.fillLines u net out).Follows u net out lane e)
    (hdelay : e.delay = 0) (hready : ((d.fillLines u net out).switch u).headsReady e net = true) {t : Device}
    {w : Option Item} (hgather : (d.fillLines u net out).gather u net e = (t, w)) :
    d.wordSend u net out lane = w.elim t (t.sendNow u net out lane e) := by
  refine (if_neg hsw.runs).trans ?_
  simp only [h.route]
  refine (if_neg h.maySend).trans ((if_neg (not_not.2 hdelay)).trans ((if_neg (by simp [hready])).trans ?_))
  simp only [hgather]
  cases w <;> rfl

end

/-! ### Arrivals (R82 to R87) -/

theorem Device.seamArrival_takes {d : Device} {u port v : Nat} {net : Net} {c : Crossing} {rest : List Crossing}
    (hclock : d.clockRuns (siteRegion u) = true) (hopen : d.relock.contains (siteDie u) = false)
    (hfirst : takeFirst (fun c => !c.bridge && c.site == u && c.port == port && c.net == net && c.vc == v) d.crossings =
      some (c, rest)) : d.seamArrival u port net v = { d with crossings := rest }.arrive c := by
  simp only [Device.seamArrival, hclock, hopen, hfirst, Bool.not_true, Bool.or_self, Bool.false_eq_true, if_false]

section
variable {d : Device} {u port v : Nat} {net : Net} {c : Crossing} {rest : List Crossing}
  (hclock : d.clockRuns (siteRegion u) = true)
  (hfirst : takeFirst (fun c => c.bridge && c.site == u && c.port == port && c.net == net && c.vc == v) d.crossings =
    some (c, rest))
include hclock hfirst

/-- An attempt whose CRC holds brings the word. -/
theorem Device.bridgeArrival_good :
    d.bridgeArrival u port net v true = { d with crossings := rest }.arrive c := by
  simp only [Device.bridgeArrival, hclock, hfirst, Bool.not_true, Bool.false_eq_true, if_false, if_true]

/-- After a failed attempt before the fourth the word stays first, to be tried again. -/
theorem Device.bridgeArrival_retry (htries : c.tries + 1 < 4) :
    d.bridgeArrival u port net v false =
      { d with crossings := { c with tries := c.tries + 1 } :: rest }.modIou (bridgeIou u port) fun i =>
        { i with bridgeRetry := satInc i.bridgeRetry } := by
  simp only [Device.bridgeArrival, hclock, hfirst, Bool.not_true, Bool.false_eq_true, if_false, if_pos htries]

theorem Device.bridgeArrival_fails (htries : 4 ≤ c.tries + 1) :
    d.bridgeArrival u port net v false =
      { d with crossings := { c with tries := 4 } :: rest }.bridgeFail u port := by
  simp only [Device.bridgeArrival, hclock, hfirst, Bool.not_true, Bool.false_eq_true, if_false,
    if_neg (Nat.not_lt.2 htries)]

end

/-- Settles O46: the output's outcomes by its route entry, and the arrivals by the first word on its way. -/
theorem wordsMove : Obligations.WordsMove := by
  unfold Obligations.WordsMove
  intro s d hruns
  refine ⟨?send, ?seam, ?bridge, ?relock⟩
  case send =>
    intro u net out lane hstarted hcomb hactive
    have hsw : d.Switches u.val := ⟨hstarted, hcomb, hactive⟩
    have send {t' : Device} (h : d.wordSend u.val net out.val lane.val = t') : s.answers (.wordSend u net out lane) t' :=
      State.answers_lift hruns rfl h
    refine ⟨fun hroute => send (Device.wordSend_idle hsw hroute), ?routed, ?noLines⟩
    case routed =>
      intro e hroute hlive hunsent hroom
      have hfollows : (d.fillLines u.val net out.val).Follows u.val net out.val lane.val e :=
        ⟨hroute, hlive, hunsent, hroom⟩
      refine ⟨?takes, ?forward, ?sideBad, ?ripe⟩
      case takes =>
        intro hdelay hheads
        have hsound : ((d.fillLines u.val net out.val).switch u.val).HeadsSound e net := hheads
        obtain ⟨t', w, hgather⟩ := Device.gather_takes hsound
        exact ⟨t', w, hgather, send (Device.wordSend_gathers hsw hfollows hdelay hsound.ready hgather)⟩
      case forward =>
        intro w hdelay hmode hhead hside hdata
        exact send (Device.wordSend_gathers hsw hfollows hdelay (Switch.headsSound_forward hmode hhead hside).ready
          (Device.gather_forward hmode hhead hside hdata))
      case sideBad =>
        intro k hdelay hheads hbad
        exact send (Device.wordSend_gathers hsw hfollows hdelay ((Switch.headsReady_iff _ e net).2 hheads)
          (Device.gather_sideBad hbad))
      case ripe =>
        intro w hdelay hripe
        exact send (Device.wordSend_ripe hsw hfollows hdelay hripe)
    case noLines =>
      rintro (hnet | hlines)
      · exact d.fillLines_other u.val out.val hnet
      · exact Device.fillLines_none hlines net
  case seam =>
    intro u port net v c rest hclock hfirst hopen
    exact State.answers_lift hruns rfl (Device.seamArrival_takes hclock hopen hfirst)
  case bridge =>
    intro u port net v c rest hclock hfirst
    exact ⟨State.answers_lift hruns rfl (Device.bridgeArrival_good hclock hfirst),
      fun htries => State.answers_lift hruns rfl (Device.bridgeArrival_retry hclock hfirst htries),
      fun htries => State.answers_lift hruns rfl (Device.bridgeArrival_fails hclock hfirst htries)⟩
  case relock =>
    intro k
    exact State.answers_lift (f := fun d => { d with relock := d.relock.filter (· != k.val) }) hruns rfl rfl

end Sys2Proof.Machine
end

section
/-! SUPPORT and PROOFS. Control tokens: what a change to a unit leaves alone, what a unit makes of the token at the head
of a lane, and the bank that a ROUTE token sets in a switch. -/

namespace Sys2Proof.Machine

/-! ### A change to the shared part of a unit -/

@[simp] theorem Device.modUnit_unit (d : Device) (u : Nat) (f : Unit → Unit) : (d.modUnit u f).unit u = f (d.unit u) := by
  unfold Device.modUnit Device.unit
  cases siteKind u <;> simp

@[simp] theorem Device.modUnit_switch (d : Device) (u v : Nat) (f : Unit → Unit) :
    (d.modUnit u f).switch v = d.switch v := by
  unfold Device.modUnit
  cases siteKind u <;> rfl

@[simp] theorem Device.modUnit_pilot (d : Device) (u r : Nat) (f : Unit → Unit) :
    (d.modUnit u f).pilot r = d.pilot r := by
  unfold Device.modUnit
  cases siteKind u <;> rfl

@[simp] theorem Device.modUnit_section (d : Device) (u v : Nat) (f : Unit → Unit) :
    (d.modUnit u f).section v = d.section v := by
  simp only [Device.section, Device.modUnit_switch]

@[simp] theorem Device.modUnit_counterRec (d : Device) (u v i : Nat) (f : Unit → Unit) :
    (d.modUnit u f).counterRec v i = d.counterRec v i := by
  simp only [Device.counterRec, Device.modUnit_section]

/-- Two changes one after the other are one change. -/
theorem Device.modUnit_modUnit (d : Device) (u : Nat) (f g : Unit → Unit) :
    (d.modUnit u f).modUnit u g = d.modUnit u fun m => g (f m) := by
  unfold Device.modUnit
  cases siteKind u with
  | mu => simp only [Device.modMu, Tab.upd_upd]
  | sfu => simp only [Device.modSfu, Tab.upd_upd]
  | su => simp only [Device.modSu, Tab.upd_upd]
  | iou => simp only [Device.modIou, Tab.upd_upd]

/-! ### Counters (R95, R114) -/

/-- What a raise makes of a counter is fixed by the section and the shape bus, whatever the unit holds. -/
@[simp] theorem Device.modUnit_raised (d : Device) (u v i n : Nat) (f : Unit → Unit) (c : Counter) :
    (d.modUnit u f).raised v i n c = d.raised v i n c := by
  simp only [Device.raised, Device.bounded, Device.boundRead, Device.shapeReg, Device.modUnit_counterRec,
    Device.modUnit_pilot]

/-- A token's raise joins that of the program, or of the vector program, in the same clk. -/
theorem Device.raiseOf_joins {d : Device} {u i k : Nat} {c : Counter} (h : (d.unit u).raises.find i = some (c, [k]))
    (hother : k ≠ 0) : d.raiseOf u i 0 = (c, [0, k]) := by
  simp [Device.raiseOf, h, hother.symm]

/-- A loop that ends changes where its program stands, not the counters. -/
theorem Device.leaveLoops_cnt (d : Device) (u i j : Nat) : (d.leaveLoops u i).cnt u j = d.cnt u j := by
  refine List.foldlRecOn _ _ (motive := fun t : Device => t.cnt u j = d.cnt u j) ?_ fun t ht l _ => ?_
  · simp only [Device.cnt, Device.modUnit_unit]
  · refine Eq.trans ?_ ht
    cases hkind : siteKind u with
    | mu => by_cases hl : l.1 = 1 <;> simp [Device.cnt, Device.unit, hkind, hl]
    | sfu => simp [Device.cnt, Device.unit, hkind]
    | su => rfl
    | iou => rfl

theorem Device.raiseCnt_cnt (d : Device) (u i k : Nat) :
    (d.raiseCnt u i k).cnt u i = d.raised u i (d.raiseOf u i k).2.length (d.raiseOf u i k).1 := by
  unfold Device.raiseCnt
  dsimp only
  split_ifs
  · rw [Device.leaveLoops_cnt]
    simp only [Device.cnt, Device.modUnit_unit, Tab.getD_put_self]
  · simp only [Device.cnt, Device.modUnit_unit, Tab.getD_put_self]

@[simp] theorem Device.progress_cnt (d : Device) (r u i : Nat) : (d.progress r).cnt u i = d.cnt u i := rfl

/-! ### The token at the head of a lane (R94, R97) -/

theorem tokRefused_iff (t : BitVec 16) : tokRefused t = true ↔ tokType t = 0 ∨ 5 ≤ tokType t := by
  simp [tokRefused]

section
variable {d : Device} {u lane : Nat} {t : BitVec 16} {m : Unit} (htok : d.tokenAt u lane t m)
include htok

/-- A token of the row's type leaves its lane, and the unit acts on it. -/
theorem Device.unitToken_acts {ty : Nat} {act : Nat → Device → Device} {t' : Device} (hty : tokType t = ty)
    (hpos : 0 < ty) (hlt : ty < 5) (hact : act (tokArg t) (d.modUnit u fun _ => m) = t') :
    d.unitToken u lane ty act = t'.progress (siteRegion u) := by
  obtain ⟨hruns, hhead⟩ := htok
  have hsound : tokRefused t = false := by
    rw [Bool.eq_false_iff, ne_eq, tokRefused_iff]
    omega
  simp only [Device.unitToken, hruns, hhead, hsound, hty, hact, Bool.not_true, Bool.false_eq_true, if_false, if_true]

/-- A token of no unit leaves its lane whatever row takes it. -/
theorem Device.unitToken_refused (ty : Nat) (act : Nat → Device → Device) (h : tokType t = 0 ∨ 5 ≤ tokType t) :
    d.unitToken u lane ty act = ((d.modUnit u fun _ => m).badToken u).progress (siteRegion u) := by
  obtain ⟨hruns, hhead⟩ := htok
  simp only [Device.unitToken, hruns, hhead, (tokRefused_iff t).2 h, Bool.not_true, Bool.false_eq_true, if_false, if_true]

/-! ### STEP, BOUND, DONE and BRANCH (R94 to R97, R115, R253) -/

theorem Device.stepToken_raises (hty : tokType t = 1) :
    d.stepToken u lane =
      ((d.modUnit u fun _ => m).raiseCnt u (bitsNat (tokArg t) 2 0) 0).progress (siteRegion u) :=
  Device.unitToken_acts htok hty (by decide) (by decide) rfl

theorem Device.boundToken_sets (hty : tokType t = 2) (hsrc : (d.counterRec u (bitsNat (tokArg t) 2 0)).bsrc = 1) :
    d.boundToken u lane =
      ((d.modUnit u fun _ => m).modUnit u fun m =>
        { m with cnt := m.cnt.upd (bitsNat (tokArg t) 2 0) .reset fun c =>
            { c with bound := BitVec.ofNat 32 (bitsNat (tokArg t) 11 3) } }).progress (siteRegion u) := by
  refine Device.unitToken_acts htok hty (by decide) (by decide) ?_
  exact if_pos ((d.modUnit_counterRec ..).symm ▸ hsrc)

/-- A counter whose bound does not come from tokens refuses one. -/
theorem Device.boundToken_bad (hty : tokType t = 2) (hsrc : (d.counterRec u (bitsNat (tokArg t) 2 0)).bsrc ≠ 1) :
    d.boundToken u lane = ((d.modUnit u fun _ => m).badToken u).progress (siteRegion u) := by
  refine Device.unitToken_acts htok hty (by decide) (by decide) ?_
  exact if_neg ((d.modUnit_counterRec ..).symm ▸ hsrc)

theorem Device.doneToken_level (hty : tokType t = 3) (hkind : siteKind u = .mu ∨ siteKind u = .sfu) :
    d.doneToken u lane =
      ((d.modUnit u fun _ => m).modUnit u fun x =>
        { x with doneLevels := Device.doneToken.insertLevel (bitsNat (tokArg t) 2 0) m.doneLevels }).progress
          (siteRegion u) := by
  refine Device.unitToken_acts htok hty (by decide) (by decide) ?_
  rcases hkind with hkind | hkind <;> simp only [hkind, Device.modUnit_modUnit]

/-- An SU has contexts 0 to 7 only. -/
theorem Device.doneToken_bad (hty : tokType t = 3) (hkind : siteKind u = .su) (harg : 8 ≤ tokArg t) :
    d.doneToken u lane = ((d.modUnit u fun _ => m).badToken u).progress (siteRegion u) := by
  refine Device.unitToken_acts htok hty (by decide) (by decide) ?_
  simp only [hkind, if_pos harg]

theorem Device.doneToken_ctx (hty : tokType t = 3)
    (hkind : siteKind u = .iou ∨ (siteKind u = .su ∧ tokArg t < 8)) :
    d.doneToken u lane =
      ((d.modUnit u fun _ => m).doneCtx u (bitsNat (tokArg t) 2 0)).progress (siteRegion u) := by
  refine Device.unitToken_acts htok hty (by decide) (by decide) ?_
  rcases hkind with hkind | ⟨hkind, harg⟩
  · simp only [hkind]
  · simp only [hkind, if_neg (Nat.not_le.2 harg)]

/-- An MU or SFU goes to the entry of its branch table, if the table has one. -/
theorem Device.branchToken_entry (hty : tokType t = 4) (hkind : siteKind u = .mu ∨ siteKind u = .sfu) :
    d.branchToken u lane =
      (if fieldAt (d.section u) (0x70 + 2 * bitsNat (tokArg t) 3 0) 2 = 0xFFFF then (d.modUnit u fun _ => m).badToken u
       else (d.modUnit u fun _ => m).modUnit u fun m =>
         { m with branch := some (fieldAt (d.section u) (0x70 + 2 * bitsNat (tokArg t) 3 0) 2) }).progress
        (siteRegion u) := by
  refine Device.unitToken_acts htok hty (by decide) (by decide) ?_
  rcases hkind with hkind | hkind <;> simp only [hkind, Device.modUnit_section]

theorem Device.branchToken_ignored (hty : tokType t = 4) (hkind : siteKind u = .su ∨ siteKind u = .iou) :
    d.branchToken u lane = (d.modUnit u fun _ => m).progress (siteRegion u) := by
  refine Device.unitToken_acts htok hty (by decide) (by decide) ?_
  rcases hkind with hkind | hkind <;> simp only [hkind]

end

theorem mem_insertLevel (k j : Nat) (l : List Nat) : j ∈ Device.doneToken.insertLevel k l ↔ j = k ∨ j ∈ l := by
  unfold Device.doneToken.insertLevel
  split_ifs with h
  · have hk : k ∈ l := by simpa using h
    exact ⟨.inr, fun hj => hj.elim (fun hjk => hjk ▸ hk) id⟩
  · exact List.mem_cons

/-! ### ROUTE (R94, R96) -/

section
variable {d : Device} {u : Nat} (hstarted : d.started (siteRegion u) = true) (hactive : d.comb.state = .active)
  (hcomb : (d.switch u).active.comb.isSome = true)
include hstarted hactive hcomb

theorem Device.routeToken_runs :
    ¬(!d.started (siteRegion u) || d.comb.state != .active || (d.switch u).active.comb.isNone) = true := by
  obtain ⟨w, hw⟩ := Option.isSome_iff_exists.1 hcomb
  simp [hstarted, hactive, hw]

theorem Device.routeToken_system {i : Nat} {x : BitVec 16}
    (h : d.laneToken (siteRegion u) (d.switch u).laneNext true = some (i, x)) :
    d.routeToken u 3 = d.modSwitch u fun s => { s with bankNext := some (x.getLsbD 0), laneNext := i + 1 } := by
  refine (if_neg (Device.routeToken_runs hstarted hactive hcomb)).trans ((if_pos rfl).trans ?_)
  simp only [h]

theorem Device.routeToken_lane {lane k : Nat} {w : Item} {rest : List (Nat × Item)} (hlane : lane ≠ 3)
    (h : takeFirst (fun p : Nat × Item => p.1 == lane) (d.switch u).routeAt = some ((k, w), rest)) :
    d.routeToken u lane =
      (d.modSwitch u fun s => { s with bankNext := some (w.data.getLsbD 0), routeAt := rest }).progress
        (siteRegion u) := by
  refine (if_neg (Device.routeToken_runs hstarted hactive hcomb)).trans ((if_neg hlane).trans ?_)
  simp only [h]

end

theorem Switch.nextBank_same {x : Switch} {b : Bool} (h : x.bankNext = some b) (hb : x.bank = b) :
    x.nextBank = { x with bankNext := none } := by
  simp only [Switch.nextBank, h, if_pos hb]

theorem Switch.nextBank_other {x : Switch} {b : Bool} (h : x.bankNext = some b) (hb : x.bank ≠ b) :
    x.nextBank =
      { x with bank := b, bankNext := none,
               bufs := (x.bufs.map fun p => (p.1, { p.2 with taken := [] })).filter fun p => p.2 != .reset } := by
  simp only [Switch.nextBank, h, if_neg hb]

/-- Settles O48: a token of a unit by its type, and a ROUTE token by where it has come. -/
theorem tokensAct : Obligations.TokensAct := by
  unfold Obligations.TokensAct
  refine ⟨?unit, ?route, ?bank⟩
  case unit =>
    intro s d u lane t m hruns htok
    refine ⟨fun hty => ?step, fun hty c k hraised hother => ?joint, fun hty hsrc => ?bound, fun hty hsrc => ?boundBad,
      fun hty hkind => ?level, fun hty hkind harg => ?doneBad, fun hty hkind => ?ctx, fun hty hkind => ?branch,
      fun hty hkind => ?branchIgnored, fun c hty hc => ?refused⟩
    case step => exact State.answers_lift hruns rfl (Device.stepToken_raises htok hty)
    case joint =>
      refine ⟨_, State.answers_lift hruns rfl (Device.stepToken_raises htok hty), ?_⟩
      have hjoins : (d.modUnit u.val fun _ => m).raiseOf u.val (bitsNat (tokArg t) 2 0) 0 = (c, [0, k]) :=
        Device.raiseOf_joins (by rw [Device.modUnit_unit, hraised]) hother
      rw [Device.progress_cnt, Device.raiseCnt_cnt, hjoins, Device.modUnit_raised]
      rfl
    case bound => exact State.answers_lift hruns rfl (Device.boundToken_sets htok hty hsrc)
    case boundBad => exact State.answers_lift hruns rfl (Device.boundToken_bad htok hty hsrc)
    case level =>
      exact ⟨_, fun k => mem_insertLevel (bitsNat (tokArg t) 2 0) k m.doneLevels,
        State.answers_lift hruns rfl (Device.doneToken_level htok hty hkind)⟩
    case doneBad => exact State.answers_lift hruns rfl (Device.doneToken_bad htok hty hkind harg)
    case ctx => exact State.answers_lift hruns rfl (Device.doneToken_ctx htok hty hkind)
    case branch =>
      have hentry := Device.branchToken_entry htok hty hkind
      exact ⟨fun he => State.answers_lift hruns rfl (hentry.trans (by rw [if_neg he])),
        fun he => State.answers_lift hruns rfl (hentry.trans (by rw [if_pos he]))⟩
    case branchIgnored => exact State.answers_lift hruns rfl (Device.branchToken_ignored htok hty hkind)
    case refused =>
      have hrefused {c : Instr} {ty : Nat} {act : Nat → Device → Device}
          (hexec : exec c s = s.lift fun d => d.unitToken u.val lane.val ty act) :
          s.answers c (((d.modUnit u.val fun _ => m).badToken u.val).progress (siteRegion u.val)) :=
        State.answers_lift hruns hexec (Device.unitToken_refused htok ty act hty)
      simp only [List.mem_cons, List.not_mem_nil, or_false] at hc
      rcases hc with rfl | rfl | rfl | rfl <;> exact hrefused rfl
  case route =>
    intro s d u hruns hstarted hactive hcomb
    refine ⟨fun i x hx => ?system, fun lane k w rest hlane hfirst => ?routed⟩
    case system => exact State.answers_lift hruns rfl (Device.routeToken_system hstarted hactive hcomb hx)
    case routed =>
      have hval : lane.val ≠ 3 := fun h => hlane (Fin.ext h)
      exact State.answers_lift hruns rfl (Device.routeToken_lane hstarted hactive hcomb hval hfirst)
  case bank =>
    intro x b hnext
    by_cases hb : x.bank = b
    · rw [Switch.nextBank_same hnext hb]
      exact ⟨hb, rfl, fun _ => rfl, fun hne => absurd hb hne⟩
    · rw [Switch.nextBank_other hnext hb]
      refine ⟨rfl, rfl, fun h => absurd h hb, fun _ p hp => ?_⟩
      obtain ⟨q, -, rfl⟩ := List.mem_map.1 (List.mem_of_mem_filter hp)
      rfl

end Sys2Proof.Machine
end

section
/-! SUPPORT and PROOFS. The tile program of an MU: what reading a record of bounds leaves as it is, what a claim and a
poisoned operand make of the range table, and what each instruction does once it may issue. -/

namespace Sys2Proof.Machine

/-- Two changes of an MU one after the other are one change. -/
theorem Device.modMu_modMu (d : Device) (u : Nat) (f g : Mu → Mu) :
    (d.modMu u f).modMu u g = d.modMu u fun m => g (f m) := by
  simp only [Device.modMu, Tab.upd_upd]

/-! ### Reading a record of bounds (R124, R126) -/

/-- `m'` is `m` after reads of the scratchpad: nothing that issues or retires has changed. -/
structure Mu.ReadsTo (m m' : Mu) : Prop where
  unit : m'.unit = m.unit
  pc : m'.pc = m.pc
  acc : m'.acc = m.acc
  ranges : m'.ranges = m.ranges
  jobs : m'.jobs = m.jobs

theorem Mu.readRow_readsTo (m : Mu) (row : Nat) : m.ReadsTo (m.readRow row).2.2 := by
  unfold Mu.readRow
  rcases m.rowNow row with ⟨bs, mark⟩
  rcases mark with _ | (_ | _ | _) <;> exact ⟨rfl, rfl, rfl, rfl, rfl⟩

/-- The record at `row`, where an instruction takes a bound from one: its bytes, whether they come poisoned, and the MU
after the read. -/
def Mu.boundRecord (m : Mu) (used : Prop) [Decidable used] (row : Nat) : List Byte × Bool × Mu :=
  if used then m.readRow row else ([], false, m)

theorem Mu.boundRecord_readsTo (m : Mu) (used : Prop) [Decidable used] (row : Nat) :
    m.ReadsTo (m.boundRecord used row).2.2 := by
  unfold Mu.boundRecord
  split
  · exact m.readRow_readsTo row
  · exact ⟨rfl, rfl, rfl, rfl, rfl⟩

/-- The counters are in no part of the MU that a read changes. -/
theorem Device.cntVal_readsTo {d : Device} {u : Nat} {m : Mu} (h : (d.mu u).ReadsTo m) :
    (d.modMu u fun _ => m).cntVal u = d.cntVal u := by
  funext i
  unfold Device.cntVal Device.cnt Device.unit
  cases siteKind u with
  | mu => simp only [Device.modMu_mu, h.unit]
  | sfu => rfl
  | su => rfl
  | iou => rfl

/-- The record that a tile takes its bounds from. -/
def Tile.boundRecord (t : Tile) (m : Mu) : List Byte × Bool × Mu :=
  m.boundRecord (t.bsrcM = 2 ∨ t.bsrcN = 2 ∨ t.bsrcK = 2) t.baddr

theorem Tile.boundRecord_eq (t : Tile) (m : Mu) :
    (if (t.bsrcM == 2 || t.bsrcN == 2 || t.bsrcK == 2) = true then m.readRow t.baddr else ([], false, m)) =
      t.boundRecord m :=
  if_congr (by simp [or_assoc]) rfl rfl

/-- The record that a drain takes its bounds from. -/
def DrainOp.boundRecord (x : DrainOp) (m : Mu) : List Byte × Bool × Mu :=
  m.boundRecord (x.bsrcM = 2 ∨ x.bsrcN = 2) x.baddr

theorem DrainOp.boundRecord_eq (x : DrainOp) (m : Mu) :
    (if (x.bsrcM == 2 || x.bsrcN == 2) = true then m.readRow x.baddr else ([], false, m)) = x.boundRecord m :=
  if_congr (by simp) rfl rfl

/-! ### The range table (R132, R140) -/

/-- A change of the entries at a base that keeps where they lie changes what a search for one of them finds. -/
theorem Mu.findRange_modRange {m : Mu} {f : RangeEntry → RangeEntry} {a rows cols : Nat} {x : RangeEntry}
    (hx : findRange m.ranges a rows cols = some x)
    (hkeeps : ∀ e, (f e).base = e.base ∧ (f e).m = e.m ∧ (f e).n = e.n) :
    findRange (m.modRange a f).ranges a rows cols = some (f x) := by
  have hbase : x.base = a := by
    have := List.find?_some hx
    simp only [Bool.and_eq_true, beq_iff_eq] at this
    exact this.1.1
  have hsame : (fun e : RangeEntry => e.base == a && e.m == rows && e.n == cols) ∘
      (fun e => if e.base == a then f e else e) = fun e => e.base == a && e.m == rows && e.n == cols := by
    funext e
    by_cases he : e.base = a <;> simp [he, hkeeps e]
  rw [findRange, Mu.modRange, List.find?_map, hsame]
  refine (congrArg (Option.map _) hx).trans ?_
  simp [hbase]

@[simp] theorem Mu.claim_acc (m : Mu) (t : Tile) (a : Nat) (fresh : Bool) : (m.claim t a fresh).acc = m.acc := by
  unfold Mu.claim; split <;> rfl
@[simp] theorem Mu.claim_scratch (m : Mu) (t : Tile) (a : Nat) (fresh : Bool) :
    (m.claim t a fresh).scratch = m.scratch := by
  unfold Mu.claim; split <;> rfl
@[simp] theorem Mu.claim_jobs (m : Mu) (t : Tile) (a : Nat) (fresh : Bool) : (m.claim t a fresh).jobs = m.jobs := by
  unfold Mu.claim; split <;> rfl

/-- The range that a tile claims is in the table, and accumulates. -/
theorem Mu.findRange_claim (m : Mu) (t : Tile) (a : Nat) (fresh : Bool) :
    ∃ x, findRange (m.claim t a fresh).ranges a t.m t.n = some x ∧ x.state = .accumulating := by
  unfold Mu.claim
  split
  case h_1 e he =>
    exact ⟨_, Mu.findRange_modRange he fun _ => ⟨rfl, rfl, rfl⟩, rfl⟩
  case h_2 hnone =>
    have hnone' : m.ranges.find? (fun e => e.base == a && e.m == t.m && e.n == t.n) = none := hnone
    simp [findRange, List.find?_append, hnone']

/-! ### A job that the array takes (R112, R140) -/

/-- What fixes a job from its issue on: its instruction, its bounds and its tile. -/
def MmaJob.issued (j : MmaJob) : Nat × Nat × Nat × Nat × Nat × Nat × Nat := (j.instr, j.bm, j.bn, j.bk, j.m, j.n, j.k)

/-- The MU in which job `k`, on the range at `base`, has taken a poisoned operand. -/
def Mu.jobPoisoned (m : Mu) (k base : Nat) : Mu :=
  { (m.modRange base fun e => { e with poison := true }) with
    jobs := m.jobs.modify k fun j => { j with poison := true }, poisonTiles := satInc m.poisonTiles }

@[simp] theorem Device.raiseOnceFree_mu (d : Device) (r code u : Nat) : (d.raiseOnceFree r code).mu u = d.mu u := rfl

theorem Device.jobPoison_mu {d : Device} {u k : Nat} {j : MmaJob} (hjob : (d.mu u).jobs[k]? = some j)
    (hclean : j.poison = false) : (d.jobPoison u k).mu u = (d.mu u).jobPoisoned k j.base := by
  simp only [Device.jobPoison, hjob, hclean, Bool.false_eq_true, if_false]
  rw [Device.raiseOnceFree_mu, Device.modMu_mu, Mu.jobPoisoned]

theorem Mu.jobPoisoned_jobs_issued (m : Mu) (k base : Nat) :
    (m.jobPoisoned k base).jobs.map MmaJob.issued = m.jobs.map MmaJob.issued := by
  apply List.ext_getElem?
  intro i
  rw [List.getElem?_map, List.getElem?_map, Mu.jobPoisoned, List.getElem?_modify]
  cases m.jobs[i]? with
  | none => rfl
  | some j =>
    dsimp only [Option.map_eq_map, Option.map_some]
    split <;> rfl

/-- The MU in which a tile has claimed the range at `a` and `job` has joined the jobs of the array. -/
def Mu.join (m : Mu) (t : Tile) (a : Nat) (fresh : Bool) (job : MmaJob) : Mu :=
  { m.claim t a fresh with jobs := (m.claim t a fresh).jobs ++ [job] }

/-- The MU in which the array has taken `job`; `poison` says that its record of bounds came poisoned. -/
def Mu.take (m : Mu) (t : Tile) (a : Nat) (fresh poison : Bool) (job : MmaJob) : Mu :=
  if poison then (m.join t a fresh job).jobPoisoned m.jobs.length a else m.join t a fresh job

section
variable (m : Mu) (t : Tile) (a : Nat) (fresh poison : Bool) (job : MmaJob)

@[simp] theorem Mu.take_acc : (m.take t a fresh poison job).acc = m.acc := by
  cases poison <;> exact m.claim_acc t a fresh

@[simp] theorem Mu.take_scratch : (m.take t a fresh poison job).scratch = m.scratch := by
  cases poison <;> exact m.claim_scratch t a fresh

theorem Mu.take_jobs_issued :
    (m.take t a fresh poison job).jobs.map MmaJob.issued = m.jobs.map MmaJob.issued ++ [job.issued] := by
  cases poison with
  | false => simp [Mu.take, Mu.join]
  | true => simp [Mu.take, Mu.join, Mu.jobPoisoned_jobs_issued]

theorem Mu.findRange_take : ∃ x, findRange (m.take t a fresh poison job).ranges a t.m t.n = some x ∧
    x.state = .accumulating ∧ (poison = true → x.poison = true) := by
  obtain ⟨x, hx, hstate⟩ := m.findRange_claim t a fresh
  cases poison with
  | false => exact ⟨x, hx, hstate, nofun⟩
  | true =>
    exact ⟨{ x with poison := true },
      Mu.findRange_modRange (m := m.join t a fresh job) hx fun _ => ⟨rfl, rfl, rfl⟩, hstate, fun _ => rfl⟩

end

/-! ### MMA and VMMA (R112, R131, R132) -/

section
variable {d : Device} {u : Nat} {t : Tile} {rec : List Byte} {recBad : Bool} {m : Mu}
  (hready : (d.mu u).jobs.all (·.ready) = true) (hroom : (d.mu u).jobs.length < 2)
  (hrec : t.boundRecord (d.mu u) = (rec, recBad, m))
include hready hroom hrec

/-- A tile that fails a check faults at its instruction. -/
theorem Device.tileIssue_faults {f : MuFault} (hcheck : (d.modMu u fun _ => m).tileCheck u t rec = .inl f) :
    d.tileIssue u t = (d.modMu u fun _ => m).muFault u m.pc f := by
  simp only [Device.tileIssue, Tile.boundRecord_eq, hready, hrec, hcheck, Nat.not_le.2 hroom, Bool.not_true, decide_false,
    Bool.or_false, Bool.false_eq_true, if_false]

/-- A tile that passes the checks claims its range and becomes a job. -/
theorem Device.tileIssue_joins {bm bn bk a : Nat}
    (hcheck : (d.modMu u fun _ => m).tileCheck u t rec = .inr (bm, bn, bk))
    (ha : accEffective t.accBase t.accEn t.accCnt t.accStride ((d.modMu u fun _ => m).cntVal u) = a) :
    ∃ (fresh : Bool) (job : MmaJob),
      d.tileIssue u t =
        (if recBad then ((d.modMu u fun _ => m).modMu u (·.join t a fresh job)).jobPoison u m.jobs.length
         else (d.modMu u fun _ => m).modMu u (·.join t a fresh job)).muNext u ∧
      job.issued = (m.pc, bm, bn, bk, t.m, t.n, t.k) ∧ job.base = a ∧ job.poison = false := by
  subst ha
  simp only [Device.tileIssue, Tile.boundRecord_eq, hready, hrec, hcheck, Nat.not_le.2 hroom, Bool.not_true, decide_false,
    Bool.or_false, Bool.false_eq_true, if_false]
  exact ⟨_, _, rfl, rfl, rfl, rfl⟩

/-- The issue stage then goes on from a device in whose MU the array has taken that job. -/
theorem Device.tileIssue_takes {bm bn bk a : Nat}
    (hcheck : (d.modMu u fun _ => m).tileCheck u t rec = .inr (bm, bn, bk))
    (ha : accEffective t.accBase t.accEn t.accCnt t.accStride ((d.modMu u fun _ => m).cntVal u) = a) :
    ∃ (e : Device) (fresh : Bool) (job : MmaJob), d.tileIssue u t = e.muNext u ∧
      e.mu u = m.take t a fresh recBad job ∧ job.issued = (m.pc, bm, bn, bk, t.m, t.n, t.k) := by
  obtain ⟨fresh, job, hissue, hissued, rfl, hclean⟩ := Device.tileIssue_joins hready hroom hrec hcheck ha
  refine ⟨_, fresh, job, hissue, ?_, hissued⟩
  cases recBad with
  | false => simp [Mu.take]
  | true =>
    have hjob : (((d.modMu u fun _ => m).modMu u (·.join t job.base fresh job)).mu u).jobs[m.jobs.length]? = some job := by
      simp [Mu.join]
    rw [if_pos rfl, Device.jobPoison_mu hjob hclean, Device.modMu_mu, Device.modMu_mu, Mu.take, if_pos rfl]

end

/-! ### DRAIN and DRAIN_COMPLETE (R126, R135 to R139) -/

/-- The job of a drain of the range at `a` that issues at `pc` within the bounds `bm` and `bn`. -/
def DrainOp.job (x : DrainOp) (cv : Nat → Nat) (pc bm bn a : Nat) : DrainJob :=
  { instr := pc, ocfg := x.ocfg, m := x.m, n := x.n, bm := bm, bn := bn, base := a, toNet := x.dest == 1, vc := x.vc,
    first := x.base + (if x.idxEn then cv x.cnt * x.stride else 0), pitch := x.pitch, begun := false, scale := [],
    bias := [], row := 0, col := 0, part := [], place := 0, word := none }

/-- The MU in which `job` drains the range at `a`; `poison` says that its record of bounds came poisoned. -/
def Mu.startDrain (m : Mu) (a : Nat) (poison : Bool) (job : DrainJob) : Mu :=
  { (m.modRange a fun e => { e with state := .draining, poison := e.poison || poison }) with
    drains := m.drains ++ [job] }

section
variable {d : Device} {u bm bn : Nat} {x : DrainOp} {rec : List Byte} {recBad : Bool} {m : Mu}
  (hready : d.muReady u 3 = true) (hx : drainAt (d.section u) (d.mu u).pc = x)
  (hrec : x.boundRecord (d.mu u) = (rec, recBad, m))
  (hbm : (d.modMu u fun _ => m).boundOf u x.bsrcM x.m x.breg rec 0 = bm)
include hready hx hrec hbm

theorem Device.drain_overM (hover : x.m < bm) :
    d.drain u = (d.modMu u fun _ => m).muFault u (d.mu u).pc (.over_ 1 bm) := by
  simp only [Device.drain, hready, hx, DrainOp.boundRecord_eq, hrec, hbm, if_pos hover, Bool.not_true,
    Bool.false_eq_true, if_false]

variable (hbn : (d.modMu u fun _ => m).boundOf u x.bsrcN x.n (x.breg + 1) rec 1 = bn) (hm : bm ≤ x.m)
include hbn hm

theorem Device.drain_overN (hover : x.n < bn) :
    d.drain u = (d.modMu u fun _ => m).muFault u (d.mu u).pc (.over_ 2 bn) := by
  simp only [Device.drain, hready, hx, DrainOp.boundRecord_eq, hrec, hbm, hbn, if_neg (Nat.not_lt.2 hm), if_pos hover,
    Bool.not_true, Bool.false_eq_true, if_false]

variable (hn : bn ≤ x.n)
include hn

theorem Device.drain_outside {f : MuFault}
    (hfoot : x.footprint (.parse (muOutcfg (d.section u) x.ocfg)) ((d.modMu u fun _ => m).cntVal u) = some f) :
    d.drain u = (d.modMu u fun _ => m).muFault u (d.mu u).pc f := by
  simp only [Device.drain, hready, hx, DrainOp.boundRecord_eq, hrec, hbm, hbn, if_neg (Nat.not_lt.2 hm),
    if_neg (Nat.not_lt.2 hn), hfoot, Bool.not_true, Bool.false_eq_true, if_false]

variable {a : Nat}
  (hfoot : x.footprint (.parse (muOutcfg (d.section u) x.ocfg)) ((d.modMu u fun _ => m).cntVal u) = none)
  (ha : accEffective x.accBase x.accEn x.accCnt x.accStride ((d.modMu u fun _ => m).cntVal u) = a)
include hfoot ha

/-- A drain of a tile that is in no entry faults. -/
theorem Device.drain_noRange (hnone : findRange m.ranges a x.m x.n = none) :
    d.drain u = (d.modMu u fun _ => m).muFault u (d.mu u).pc (.range a) := by
  simp only [Device.drain, hready, hx, DrainOp.boundRecord_eq, hrec, hbm, hbn, if_neg (Nat.not_lt.2 hm),
    if_neg (Nat.not_lt.2 hn), hfoot, ha, Device.modMu_mu, hnone, Bool.not_true, Bool.false_eq_true, if_false]

/-- A drain of a tile that is in an entry starts, unless an earlier drain of it runs. -/
theorem Device.drain_inRange {e : RangeEntry} (hpc : m.pc = (d.mu u).pc)
    (he : findRange m.ranges a x.m x.n = some e) :
    d.drain u =
      if e.state = .draining then (d.modMu u fun _ => m).muFault u (d.mu u).pc (.range a)
      else
        ((d.modMu u fun _ => m).modMu u
          fun m' => m'.startDrain a recBad (x.job ((d.modMu u fun _ => m).cntVal u) m'.pc bm bn a)).muNext u := by
  simp only [Device.drain, hready, hx, DrainOp.boundRecord_eq, hrec, hbm, hbn, if_neg (Nat.not_lt.2 hm),
    if_neg (Nat.not_lt.2 hn), hfoot, ha, Device.modMu_mu, Device.modMu_modMu, he, Bool.not_true,
    Bool.false_eq_true, if_false]
  rw [← hpc]
  rfl

end

/-- A drain that has been read whole and whose last word has left frees its entry. -/
theorem Device.drainComplete_frees {d : Device} {u : Nat} {j : DrainJob} {rest : List DrainJob} {e : RangeEntry}
    (hkind : siteKind u = .mu) (hruns : d.unitRuns u = true) (hdrains : (d.mu u).drains = j :: rest)
    (hbegun : j.begun = true) (hread : j.allRead = true) (hword : j.word = none)
    (hentry : (d.mu u).ranges.find? (fun e => e.base == j.base) = some e) :
    d.drainComplete u =
      (d.modMu u fun m =>
        { m with ranges := m.ranges.filter fun e => e.base != j.base, drains := rest,
                 drainCount := satInc m.drainCount,
                 flags := m.flags ||| BitVec.ofNat 5 (natOfBool e.flags.ovf + 2 * natOfBool e.flags.inv +
                   4 * natOfBool e.flags.unf + 8 * natOfBool e.poison) }).progress (siteRegion u) := by
  simp [Device.drainComplete, hkind, hruns, hdrains, hbegun, hread, hword, Mu.entryOf, hentry]

/-! ### FENCE, LOOP, VEC and END (R117 to R119, R134) -/

section
variable {d : Device} {u : Nat}

theorem Device.fence_passes (hready : d.muReady u 4 = true) (hjobs : (d.mu u).jobs = [])
    (hranges : ∀ e ∈ (d.mu u).ranges, e.state ≠ .draining) : d.fence u = d.muNext u := by
  have hidle : ((d.mu u).ranges.any fun e => e.state == .draining) = false := by simpa using hranges
  simp [Device.fence, hready, hjobs, hidle]

theorem Device.muLoop_ready (hready : d.muReady u 5 = true) :
    let w := muWord (d.section u) (d.mu u).pc 0
    let r := d.loopPass u 1 (bitsNat w 57 55) (bitsNat w 54 52) (bitsNat w 51 44) ((d.mu u).pc + 1)
    d.muLoop u =
      (r.2.muGoto u (if r.1 then bitsNat w 43 32 else (d.mu u).pc + 1)).progress (siteRegion u) :=
  if_neg (by simp [hready])

/-- The device in which the vector program of the VEC at `pc` has started. -/
def Device.vecStarted (d : Device) (u pc w : Nat) : Device :=
  d.modMu u fun m =>
    { m with engine := { m.engine with running := true, pc := bitsNat w 47 32 }, vecInstr := pc, vecWait := w.testBit 57 }

/-- VEC starts the vector program; with WAIT the issue stage passes it without the boundary at which a BRANCH acts. -/
theorem Device.vec_starts (hready : d.muReady u 6 = true) (hidle : (d.mu u).engine.running = false) {w : Nat}
    (hw : muWord (d.section u) (d.mu u).pc 0 = w) :
    d.vec u =
      if w.testBit 57 then
        ((d.vecStarted u (d.mu u).pc w).modMu u fun m => { m with pc := (d.mu u).pc + 1 }).progress (siteRegion u)
      else (d.vecStarted u (d.mu u).pc w).muNext u := by
  subst hw
  exact if_neg (by simp [hready, hidle])

theorem Device.muEnd_ends (hready : d.muReady u 7 = true) (hjobs : (d.mu u).jobs = []) (hdrains : (d.mu u).drains = [])
    (hidle : (d.mu u).engine.running = false) :
    d.muEnd u = (d.modMu u fun m => { m with state := 2 }).progress (siteRegion u) :=
  if_pos (by simp [hready, hjobs, hdrains, hidle])

end

/-- Settles O49: each instruction by its lemma. An MMA or a VMMA whose checks pass leaves behind a device in whose MU the
array has taken the job; that MU is `Mu.take`, whose fields the statement names. -/
theorem tileInstructions : Obligations.TileInstructions := by
  unfold Obligations.TileInstructions
  intro s d u hruns m sec
  refine ⟨?tile, ?drain, ?fence, ?loop, ?vec, ?endOp, ?nop, ?drainComplete⟩
  case tile =>
    intro opc c hopc hready hjobs hroom t b d₁
    have hissue {t' : Device} (h : d.tileIssue u.val t = t') : s.answers c t' := by
      rcases hopc with ⟨rfl, rfl⟩ | ⟨rfl, rfl⟩
      · exact State.answers_lift hruns rfl ((if_pos hready).trans h)
      · exact State.answers_lift hruns rfl ((if_pos hready).trans h)
    have hrec : t.boundRecord m = (b.1, b.2.1, b.2.2) := rfl
    have hreads : m.ReadsTo b.2.2 := m.boundRecord_readsTo _ t.baddr
    refine ⟨fun f hcheck => ?_, fun bm bn bk hcheck => ?_⟩
    · rw [← hreads.pc]
      exact hissue (Device.tileIssue_faults hjobs hroom hrec hcheck)
    · obtain ⟨e, fresh, job, htakes, hmu, hissued⟩ := Device.tileIssue_takes hjobs hroom hrec hcheck rfl
      refine ⟨e, hissue htakes, ?_⟩
      rw [hmu, ← hreads.pc, ← hreads.acc, ← hreads.jobs, ← hissued]
      exact ⟨Mu.take_jobs_issued .., Mu.take_acc .., Mu.take_scratch .., Mu.findRange_take ..⟩
  case drain =>
    intro hready x c a b d₁ bm bn
    have hrec : x.boundRecord m = (b.1, b.2.1, b.2.2) := rfl
    have hreads : m.ReadsTo b.2.2 := m.boundRecord_readsTo _ x.baddr
    refine ⟨fun hm => ?_, fun hm hn => ?_, fun f hm hn hfoot => ?_, fun hm hn hfoot => ?_⟩
    · exact State.answers_lift hruns rfl (Device.drain_overM hready rfl hrec rfl hm)
    · exact State.answers_lift hruns rfl (Device.drain_overN hready rfl hrec rfl rfl hm hn)
    · exact State.answers_lift hruns rfl (Device.drain_outside hready rfl hrec rfl rfl hm hn hfoot)
    · have ha : accEffective x.accBase x.accEn x.accCnt x.accStride (d₁.cntVal u.val) = a :=
        congrArg _ (Device.cntVal_readsTo hreads)
      rw [← hreads.ranges]
      refine ⟨fun e he hstate => ?_, fun e he hstate => ?_, fun hnone => ?_⟩
      · exact State.answers_lift hruns rfl
          ((Device.drain_inRange hready rfl hrec rfl rfl hm hn hfoot ha hreads.pc he).trans (if_pos hstate))
      · exact State.answers_lift hruns rfl
          ((Device.drain_inRange hready rfl hrec rfl rfl hm hn hfoot ha hreads.pc he).trans (if_neg hstate))
      · exact State.answers_lift hruns rfl (Device.drain_noRange hready rfl hrec rfl rfl hm hn hfoot ha hnone)
  case fence =>
    intro hready hjobs hranges
    exact State.answers_lift hruns rfl (Device.fence_passes hready hjobs hranges)
  case loop =>
    intro hready
    exact State.answers_lift hruns rfl (Device.muLoop_ready hready)
  case vec =>
    intro hready hidle w t
    have hstarts := Device.vec_starts hready hidle rfl
    exact ⟨fun hwait => State.answers_lift hruns rfl (hstarts.trans (if_neg (by simpa using hwait))),
      fun hwait => State.answers_lift hruns rfl (hstarts.trans (if_pos hwait))⟩
  case endOp =>
    intro hready hjobs hdrains hidle
    exact State.answers_lift hruns rfl (Device.muEnd_ends hready hjobs hdrains hidle)
  case nop =>
    intro hready
    exact State.answers_lift hruns rfl (if_pos hready)
  case drainComplete =>
    intro j rest hkind hunit hdrains hbegun hread hword e hentry
    exact State.answers_lift hruns rfl (Device.drainComplete_frees hkind hunit hdrains hbegun hread hword hentry)

end Sys2Proof.Machine
end

section
/-! SUPPORT and PROOFS. clip(x): `Fl.compare` orders the values that are no NaN as the extended reals, so that the two
comparisons of the output stage follow from one another where the bounds are crossed. -/

namespace Sys2Proof.Machine

/-! ### The order of the float values (R164) -/

/-- The extended real that a value stands for; a NaN stands for none, and reads 0. -/
noncomputable def Fl.value : Fl → EReal
  | .nan => 0
  | .inf s => if s then ⊥ else ⊤
  | .fin s m e => (((if s then -1 else 1) * m * 2 ^ e : ℝ) : EReal)

/-- A magnitude shifted to exponent `k` stands for the same number. -/
theorem scaledInt_mul_zpow {e k : Int} (s : Bool) (m : Nat) (h : k ≤ e) :
    (scaledInt s m e k : ℝ) * 2 ^ k = (if s then -1 else 1) * m * 2 ^ e := by
  have hpow : (2 : ℝ) ^ (e - k).toNat * 2 ^ k = 2 ^ e := by
    rw [← zpow_natCast, ← zpow_add₀ two_ne_zero, Int.toNat_of_nonneg (by omega), Int.sub_add_cancel]
  cases s <;> simp [scaledInt, shiftUp, mul_assoc, hpow]

/-- One value is below another where their comparison says so; a NaN is below nothing and above nothing. -/
def Fl.Below (a b : Fl) : Prop := ∃ c, a.compare b = some c ∧ c < 0

theorem Fl.fin_below_fin {s t : Bool} {m n : Nat} {e f : Int} :
    (Fl.fin s m e).Below (.fin t n f) ↔ (Fl.fin s m e).value < (Fl.fin t n f).value := by
  have hpos : (0 : ℝ) < 2 ^ min e f := by positivity
  simp only [Fl.Below, Fl.compare, Fl.value, Option.some.injEq, exists_eq_left', Int.sign_neg_iff, sub_neg,
    EReal.coe_lt_coe_iff]
  rw [← scaledInt_mul_zpow s m (min_le_left e f), ← scaledInt_mul_zpow t n (min_le_right e f),
    mul_lt_mul_iff_left₀ hpos, Int.cast_lt]

/-- Values that are no NaN are below one another as the numbers that they stand for. -/
theorem Fl.below_iff {a b : Fl} (ha : a.isNan = false) (hb : b.isNan = false) : a.Below b ↔ a.value < b.value := by
  match a, b with
  | .inf s, .inf t => cases s <;> cases t <;> simp [Fl.Below, Fl.compare, Fl.value]
  | .inf s, .fin .. => cases s <;> simp [Fl.Below, Fl.compare, Fl.value]
  | .fin .., .inf t => cases t <;> simp [Fl.Below, Fl.compare, Fl.value]
  | .fin .., .fin .. => exact Fl.fin_below_fin

theorem Fl.not_nan_below {a b : Fl} (ha : a.isNan = true) : ¬a.Below b := by
  cases a <;> simp_all [Fl.Below, Fl.compare, Fl.isNan]

theorem Fl.not_below_nan {a b : Fl} (hb : b.isNan = true) : ¬a.Below b := by
  cases b <;> cases a <;> simp_all [Fl.Below, Fl.compare, Fl.isNan]

/-- A value that is no NaN and not below one bound is above every bound that is below that one. -/
theorem Fl.Below.of_not_below {lo hi x : Fl} (hbounds : hi.Below lo) (hx : x.isNan = false) (hlo : ¬x.Below lo) :
    hi.Below x := by
  have hnan (y : Fl) (h : y.isNan = true → False) : y.isNan = false := Bool.eq_false_iff.2 h
  have hhiNan := hnan hi fun h => Fl.not_nan_below h hbounds
  have hloNan := hnan lo fun h => Fl.not_below_nan h hbounds
  rw [Fl.below_iff hhiNan hloNan] at hbounds
  rw [Fl.below_iff hx hloNan] at hlo
  rw [Fl.below_iff hhiNan hx]
  exact hbounds.trans_le (not_lt.1 hlo)

/-! ### clip(x) (R164) -/

open Classical in
/-- The output stage compares with CLIP_LO first, and then with CLIP_HI. -/
theorem clipF32_eq (lo hi x : Word) :
    clipF32 lo hi x =
      let y := if (fl32 x).Below (fl32 lo) then lo else x
      if (fl32 hi).Below (fl32 y) then hi else y := by
  unfold clipF32
  extract_lets below y y'
  have hbelow (a b : Word) : below a b = true ↔ (fl32 a).Below (fl32 b) := by
    unfold below Fl.Below
    cases (fl32 a).compare (fl32 b) <;> simp
  have hy : y = y' := if_congr (hbelow x lo) rfl rfl
  rw [hy]
  exact if_congr (hbelow hi y') rfl rfl

section
variable {lo hi x : Word}

theorem clipF32_low (hhi : ¬(fl32 hi).Below (fl32 lo)) (hlo : (fl32 x).Below (fl32 lo)) : clipF32 lo hi x = lo := by
  simp [clipF32_eq, hlo, hhi]

theorem clipF32_high (hlo : ¬(fl32 x).Below (fl32 lo)) (hhi : (fl32 hi).Below (fl32 x)) : clipF32 lo hi x = hi := by
  simp [clipF32_eq, hlo, hhi]

theorem clipF32_inside (hlo : ¬(fl32 x).Below (fl32 lo)) (hhi : ¬(fl32 hi).Below (fl32 x)) : clipF32 lo hi x = x := by
  simp [clipF32_eq, hlo, hhi]

theorem clipF32_nan (hx : (fl32 x).isNan = true) : clipF32 lo hi x = x :=
  clipF32_inside (Fl.not_nan_below hx) (Fl.not_below_nan hx)

/-- With the bounds crossed, what is not below CLIP_LO is above CLIP_HI. -/
theorem clipF32_crossed (hx : (fl32 x).isNan = false) (hcross : (fl32 hi).Below (fl32 lo)) : clipF32 lo hi x = hi := by
  by_cases hlo : (fl32 x).Below (fl32 lo)
  · simp [clipF32_eq, hlo, hcross]
  · exact clipF32_high hlo (hcross.of_not_below hx hlo)

end

@[simp] theorem Flags.none_or (f : Flags) : Flags.none.or f = f := by simp [Flags.or, Flags.none]

/-- With clipping alone, an element is the clipped word packed. -/
theorem OutCfg.element_clip {c : OutCfg} (v : OutVectors) (w : Word) (i j : Nat) (hscale : c.scaleEn = false)
    (hbias : c.biasEn = false) (hlut : c.lutEn = false) (hclip : c.clipEn = true) :
    c.element v true w i j = c.pack (clipF32 c.clipLo c.clipHi w) := by
  simp [OutCfg.element, hscale, hbias, hlut, hclip]

/-- Settles O51: one lemma on clip(x) for each clause; where the bounds are crossed, it is the order of the values that
are no NaN that makes every x CLIP_HI. -/
theorem clipFollowsItsBounds : Obligations.ClipFollowsItsBounds := by
  unfold Obligations.ClipFollowsItsBounds
  refine ⟨fun lo hi x => ⟨clipF32_nan, clipF32_crossed, clipF32_low, clipF32_high, clipF32_inside, Fl.not_below_nan,
    Fl.not_nan_below⟩, by decide, fun c v w i j hscale hbias hlut hclip => ?_⟩
  rw [OutCfg.element_clip v w i j hscale hbias hlut hclip]
  exact ⟨rfl, rfl⟩

end Sys2Proof.Machine
end

section
/-! SUPPORT and PROOFS. The retirement of an MMA: what one writeback changes, and that the writebacks of a tile, whose
words are distinct, do not disturb one another. -/

namespace Sys2Proof.Machine

/-! ### One writeback (R129, R141, R155) -/

/-- The accumulator word of an element of a job (R129). -/
def MmaJob.place (j : MmaJob) (row col : Nat) : Nat := j.base + row * j.n + col

/-- What the array writes to an element over the word `old` (R155). -/
def MmaJob.result (j : MmaJob) (p : Product) (row col : Nat) (old : Word) : Word :=
  (p.run row col (if j.overwrite then p.t.startValue else old)).1

/-- In-bound columns lie in rows that do not overlap, so that no two elements share a word. -/
theorem MmaJob.place_injective {j : MmaJob} {row col row' col' : Nat} (hcol : col < j.n) (hcol' : col' < j.n)
    (h : j.place row col = j.place row' col') : row = row' ∧ col = col' := by
  have hsum : j.n * row + col = j.n * row' + col' := by
    unfold MmaJob.place at h
    rw [Nat.mul_comm j.n, Nat.mul_comm j.n]
    omega
  have hrow := congrArg (· / j.n) hsum
  have hrest := congrArg (· % j.n) hsum
  simp only [Nat.mul_add_div (Nat.zero_lt_of_lt hcol), Nat.mul_add_mod, Nat.div_eq_of_lt, Nat.mod_eq_of_lt, hcol, hcol',
    Nat.add_zero] at hrow hrest
  exact ⟨hrow, hrest⟩

/-- What the writebacks of the array leave as it is in an MU. -/
def Mu.besideArray (m : Mu) : List MmaJob × Word × Mem × Option Nat := (m.jobs, m.tiles, m.scratch, m.arrayUpset)

/-- `e` is `d` but for what writebacks of the array in the MU at `u` change: accumulator words, their residues, the range
table, and what is reported. -/
structure Device.WritesBack (u : Nat) (d e : Device) : Prop where
  own : (e.mu u).besideArray = (d.mu u).besideArray
  others : ∀ v, v ≠ u → e.mu v = d.mu v
  hbm : e.hbm = d.hbm

section
variable {d e f : Device} {u : Nat}

theorem Device.WritesBack.refl (u : Nat) (d : Device) : d.WritesBack u d := ⟨rfl, fun _ _ => rfl, rfl⟩

theorem Device.WritesBack.trans (h : d.WritesBack u e) (h' : e.WritesBack u f) : d.WritesBack u f :=
  ⟨h'.own.trans h.own, fun v hv => (h'.others v hv).trans (h.others v hv), h'.hbm.trans h.hbm⟩

theorem Device.WritesBack.arrayUpset (h : d.WritesBack u e) : (e.mu u).arrayUpset = (d.mu u).arrayUpset :=
  congrArg (·.2.2.2) h.own

/-- A change of the MU at `u` alone, whatever is reported. -/
theorem Device.writesBack_of_mus {g : Mu → Mu} (hmus : e.mus = (d.modMu u g).mus) (hhbm : e.hbm = d.hbm)
    (hown : (g (d.mu u)).besideArray = (d.mu u).besideArray) : d.WritesBack u e := by
  have hmu (v : Nat) : e.mu v = (d.modMu u g).mu v := congrArg (·.getD v .reset) hmus
  exact ⟨by rw [hmu, Device.modMu_mu, hown], fun v hv => (hmu v).trans (d.modMu_mu_ne u g hv), hhbm⟩

end

/-- The MU in which a residue comparison of the range at `base` has failed. -/
def Mu.residueFailed (m : Mu) (base : Nat) : Mu :=
  { (m.modRange base fun e => { e with poison := true }) with
    residueErr := satInc m.residueErr, flags := m.flags ||| 0x10 }

/-- The MU in which an element of the range at `base` has been written: word `w` holds `v` and residue `r`, and its flags
have gone to the entry. -/
def Mu.putElem (m : Mu) (base w : Nat) (v : Word) (r : Nat) (f : Flags) : Mu :=
  { (m.modRange base (·.flag f)) with acc := m.acc.put w v, residue := m.residue.put w r }

/-- What a failed comparison reports touches no MU. -/
theorem Device.residueFail_mus (d : Device) (u base instr word : Nat) :
    (d.residueFail u base instr word).mus = (d.modMu u (·.residueFailed base)).mus := rfl

/-- A failed comparison is counted and marked, and leaves the accumulator as it is (R142). -/
theorem Device.residueFail_spec (d : Device) (u base instr word : Nat) :
    d.WritesBack u (d.residueFail u base instr word) ∧
      ((d.residueFail u base instr word).mu u).acc = (d.mu u).acc := by
  refine ⟨Device.writesBack_of_mus (d.residueFail_mus ..) rfl rfl, ?_⟩
  rw [Device.mu, Device.residueFail_mus]
  exact (congrArg Mu.acc (d.modMu_mu u (·.residueFailed base))).trans rfl

/-- With no upset, a writeback puts the result of R155, and then compares. -/
theorem Device.writeElem_spec {d : Device} {u : Nat} (j : MmaJob) (p : Product) (row col : Nat)
    (hupset : (d.mu u).arrayUpset = none) :
    d.WritesBack u (d.writeElem u j p row col) ∧
      ((d.writeElem u j p row col).mu u).acc =
        (d.mu u).acc.put (j.place row col) (j.result p row col ((d.mu u).acc.getD (j.place row col) 0)) := by
  have harray (w : Nat) (v : Word) : d.arrayValue u w v = (v, false, d) := by simp [Device.arrayValue, hupset]
  unfold Device.writeElem
  simp only [harray]
  generalize hput : d.modMu u _ = e
  have hwrites : d.WritesBack u e := hput ▸ Device.writesBack_of_mus rfl rfl rfl
  have hacc : (e.mu u).acc =
      (d.mu u).acc.put (j.place row col) (j.result p row col ((d.mu u).acc.getD (j.place row col) 0)) :=
    hput ▸ congrArg Mu.acc (d.modMu_mu u _)
  obtain ⟨hfails, hfailsAcc⟩ := e.residueFail_spec u j.base j.instr (j.place row col)
  rw [← hacc]
  cases j.mismatch _ _ _ _ _ _ _ _ with
  | false => exact ⟨hwrites, rfl⟩
  | true => exact ⟨hwrites.trans hfails, hfailsAcc⟩

/-! ### The writebacks of a tile (R129) -/

/-- The elements of a job within its bounds. -/
def MmaJob.elems (j : MmaJob) : List (Nat × Nat) := List.range j.bm ×ˢ List.range j.bn

theorem MmaJob.mem_elems {j : MmaJob} {x : Nat × Nat} : x ∈ j.elems ↔ x.1 < j.bm ∧ x.2 < j.bn := by
  obtain ⟨row, col⟩ := x
  simp [MmaJob.elems]

theorem MmaJob.elems_nodup (j : MmaJob) : j.elems.Nodup := List.Nodup.product List.nodup_range List.nodup_range

/-- The device in which the elements `l` of a job have been written back. -/
def Device.writeElems (d : Device) (u : Nat) (j : MmaJob) (p : Product) (l : List (Nat × Nat)) : Device :=
  l.foldl (fun d x => d.writeElem u j p x.1 x.2) d

theorem Device.writeElems_elems (d : Device) (u : Nat) (j : MmaJob) (p : Product) :
    d.writeElems u j p j.elems =
      (List.range j.bm).foldl (fun d r => (List.range j.bn).foldl (fun d c => d.writeElem u j p r c) d) d := by
  simp [Device.writeElems, MmaJob.elems, SProd.sprod, List.product, List.foldl_flatMap, List.foldl_map]

/-- Elements whose words are distinct: each is written over the word that was there, and no other word changes. -/
theorem Device.writeElems_spec {u : Nat} {j : MmaJob} (p : Product) {l : List (Nat × Nat)} {d : Device}
    (hupset : (d.mu u).arrayUpset = none) (hdistinct : l.Pairwise fun x y => j.place x.1 x.2 ≠ j.place y.1 y.2) :
    d.WritesBack u (d.writeElems u j p l) ∧
      (∀ x ∈ l, ((d.writeElems u j p l).mu u).acc.getD (j.place x.1 x.2) 0 =
        j.result p x.1 x.2 ((d.mu u).acc.getD (j.place x.1 x.2) 0)) ∧
      ∀ w, (∀ x ∈ l, w ≠ j.place x.1 x.2) →
        ((d.writeElems u j p l).mu u).acc.getD w 0 = (d.mu u).acc.getD w 0 := by
  induction l generalizing d with
  | nil => exact ⟨.refl u d, nofun, fun _ _ => rfl⟩
  | cons y l ih =>
    obtain ⟨hy, hl⟩ := List.pairwise_cons.1 hdistinct
    obtain ⟨hfirst, hacc⟩ := Device.writeElem_spec (u := u) j p y.1 y.2 hupset
    obtain ⟨hkeeps, hputs, hframe⟩ := ih (hfirst.arrayUpset.trans hupset) hl
    rw [hacc] at hputs hframe
    refine ⟨hfirst.trans hkeeps, fun x hx => ?_, fun w hw => ?_⟩
    · rcases List.mem_cons.1 hx with rfl | hx
      · exact (hframe _ hy).trans (Tab.getD_put_self ..)
      · exact (hputs x hx).trans (by rw [Tab.getD_put_ne _ _ _ (hy x hx).symm])
    · obtain ⟨hwy, hwl⟩ := List.forall_mem_cons.1 hw
      exact (hframe w hwl).trans (Tab.getD_put_ne _ _ _ hwy)

/-- Within its N, no two elements of a job share a word. -/
theorem MmaJob.elems_distinct {j : MmaJob} (hn : j.bn ≤ j.n) :
    j.elems.Pairwise fun x y => j.place x.1 x.2 ≠ j.place y.1 y.2 := by
  refine j.elems_nodup.imp_of_mem fun {x y} hx hy hne hplace => hne ?_
  obtain ⟨hrow, hcol⟩ := MmaJob.place_injective ((MmaJob.mem_elems.1 hx).2.trans_le hn)
    ((MmaJob.mem_elems.1 hy).2.trans_le hn) hplace
  exact Prod.ext hrow hcol

/-! ### MMA_RETIRE (R112) -/

/-- The MU in which the oldest job has left the array, `rest` being what stays. -/
def Mu.retire (m : Mu) (j : MmaJob) (rest : List MmaJob) : Mu :=
  { (m.modRange j.base fun e =>
      if e.state = .accumulating ∧ !(rest.any fun k => k.base == j.base) then { e with state := .resident } else e) with
    jobs := rest, tiles := satInc m.tiles }

theorem Device.mmaRetire_ready {d : Device} {u : Nat} {j : MmaJob} {rest : List MmaJob} (hkind : siteKind u = .mu)
    (hruns : d.unitRuns u = true) (hjobs : (d.mu u).jobs = j :: rest) (hready : j.ready = true) :
    d.mmaRetire u =
      ((d.writeElems u j (j.product (tileAt (d.section u) j.instr)) j.elems).modMu u (·.retire j rest)).progress
        (siteRegion u) := by
  have hcapture : d.muCapture u 0 = d := by simp [Device.muCapture, hjobs, hready]
  rw [Device.writeElems_elems]
  simp only [Device.mmaRetire, hkind, hruns, hcapture, hjobs, hready]
  rfl

/-- Settles O50: the job's elements have words of their own, so each writeback reads the word that was there before the
retirement and none undoes another; what retires the job then leaves the accumulator as it is. -/
theorem retireWritesTile : Obligations.RetireWritesTile := by
  unfold Obligations.RetireWritesTile
  intro s d u j rest hruns hkind hunit hjobs hready hupset hn t
  obtain ⟨⟨hown, hothers, hhbm⟩, hputs, hframe⟩ :=
    Device.writeElems_spec (j.product t) hupset (MmaJob.elems_distinct hn)
  obtain ⟨-, htiles, hscratch, -⟩ := by simpa only [Mu.besideArray, Prod.mk.injEq] using hown
  refine ⟨_, State.answers_lift hruns rfl (Device.mmaRetire_ready hkind hunit hjobs hready), ?_⟩
  generalize d.writeElems u.val j (j.product t) j.elems = e at *
  have hmu : ((e.modMu u.val (·.retire j rest)).progress (siteRegion u.val)).mu u.val = (e.mu u.val).retire j rest :=
    e.modMu_mu u.val (·.retire j rest)
  simp only [hmu]
  refine ⟨rfl, congrArg satInc htiles, fun row col hrow hcol => hputs (row, col) (MmaJob.mem_elems.2 ⟨hrow, hcol⟩),
    fun w hw => hframe w fun x hx => ?_, hscratch,
    fun v hv => (e.modMu_mu_ne u.val (·.retire j rest) hv).trans (hothers v hv), hhbm⟩
  obtain ⟨hrow, hcol⟩ := MmaJob.mem_elems.1 hx
  exact hw x.1 x.2 hrow hcol

end Sys2Proof.Machine
end

section
/-! SUPPORT and PROOFS. The scale units of an SFU: what decides whether its issue stage goes on, that the operations of a
scale slot keep it, and what each row of the scale units does. -/

namespace Sys2Proof.Machine

/-! ### Slots that hold the issue stage (R206) -/

theorem Tab.getD_eq_or_mem {α : Type} (t : Tab α) (i : Nat) (x : α) : t.getD i x = x ∨ (i, t.getD i x) ∈ t := by
  induction t with
  | nil => exact .inl rfl
  | cons p t ih =>
    obtain ⟨k, b⟩ := p
    simp only [Tab.getD]
    split
    · next h => exact .inr (h ▸ List.mem_cons_self)
    · exact ih.imp id (List.mem_cons_of_mem _)

/-- An SCLOSE waits at the slot. -/
def Slot.holds (t : Slot) : Bool := t.closing.isSome || t.waitMsg

/-- Some slot of a table holds the issue stage. -/
def slotsHold (t : Tab Slot) : Bool := t.any fun p => p.2.holds

theorem Sfu.closing_eq (m : Sfu) : m.closing = slotsHold m.slots := rfl

theorem slotsHold_getD {t : Tab Slot} (h : slotsHold t = false) (k : Nat) : (t.getD k .reset).holds = false := by
  rcases t.getD_eq_or_mem k .reset with hk | hk
  · rw [hk]; rfl
  · simpa using List.any_eq_false.1 h _ hk

/-- With no slot waiting before, the issue stage is held after a change of a slot where that slot then waits. -/
theorem slotsHold_upd {t : Tab Slot} {f : Slot → Slot} {k : Nat} (h : slotsHold t = false) :
    slotsHold (t.upd k .reset f) = (f (t.getD k .reset)).holds := by
  cases hf : (f (t.getD k .reset)).holds with
  | false =>
    refine List.any_eq_false.2 fun p hp => ?_
    rcases Tab.mem_put hp with rfl | hp
    · simpa using hf
    · exact List.any_eq_false.1 h p hp
  | true =>
    by_contra hidle
    have := slotsHold_getD (Bool.eq_false_iff.2 hidle) k
    rw [Tab.getD_upd_self, hf] at this
    cases this

/-! ### What decides whether an SFU issues (R103, R206) -/

/-- Whether the SFU at `u` runs its program, and its slots. -/
def Device.sfuRun (d : Device) (u : Nat) : Bool × Tab Slot := (d.unitRuns u && (d.sfu u).state == 1, (d.sfu u).slots)

section
variable {d e : Device} {u : Nat}

theorem Device.vecRuns_sfu (hkind : siteKind u = .sfu) :
    d.vecRuns u = ((d.sfuRun u).1 && !slotsHold (d.sfuRun u).2) := by
  simp [Device.vecRuns, hkind, Device.sfuRun, Sfu.closing_eq, Bool.and_assoc]

/-- While the engine runs, no SCLOSE waits at any slot. -/
theorem Device.slot_idle (hkind : siteKind u = .sfu) (hruns : d.vecRuns u = true) (k : Nat) :
    ((d.sfu u).slot k).holds = false := by
  rw [Device.vecRuns_sfu hkind, Bool.and_eq_true, Bool.not_eq_true'] at hruns
  exact slotsHold_getD hruns.2 k

theorem Device.vecRuns_same (hkind : siteKind u = .sfu) (hruns : d.vecRuns u = true) (h : e.sfuRun u = d.sfuRun u) :
    e.vecRuns u = true := by
  rwa [Device.vecRuns_sfu hkind, h, ← Device.vecRuns_sfu hkind]

/-- After a change of one slot the SFU is held, or goes on, as that slot says. -/
theorem Device.closing_upd (hkind : siteKind u = .sfu) (hruns : d.vecRuns u = true) {k : Nat} {f : Slot → Slot}
    (h : e.sfuRun u = ((d.sfuRun u).1, (d.sfuRun u).2.upd k .reset f)) :
    (e.sfu u).closing = (f ((d.sfu u).slot k)).holds ∧ e.vecRuns u = !(f ((d.sfu u).slot k)).holds := by
  rw [Device.vecRuns_sfu hkind, Bool.and_eq_true, Bool.not_eq_true'] at hruns
  have hclosing : slotsHold (e.sfuRun u).2 = (f ((d.sfu u).slot k)).holds := by
    rw [h]
    exact slotsHold_upd hruns.2
  refine ⟨hclosing, ?_⟩
  rw [Device.vecRuns_sfu hkind, hclosing, h, hruns.1, Bool.true_and]

theorem Device.modPilot_unitRuns {f : Pilot → Pilot} (r : Nat)
    (hf : ∀ p, (f p).state = p.state ∧ (f p).idleUntilStrike = p.idleUntilStrike) :
    (d.modPilot r f).unitRuns u = d.unitRuns u := by
  have hpilot (q : Nat) : ((d.modPilot r f).pilot q).state = (d.pilot q).state ∧
      ((d.modPilot r f).pilot q).idleUntilStrike = (d.pilot q).idleUntilStrike := by
    by_cases hq : q = r
    · rw [hq, Device.modPilot_pilot]
      exact hf _
    · rw [Device.modPilot_pilot_ne d r f hq]
      exact ⟨rfl, rfl⟩
  have hstarted (q : Nat) : (d.modPilot r f).started q = d.started q := by
    simp only [Device.started, Device.live, hpilot]
    rfl
  simp only [Device.unitRuns, hstarted]
  rfl

theorem Device.modPilot_sfuRun {f : Pilot → Pilot} (r : Nat)
    (hf : ∀ p, (f p).state = p.state ∧ (f p).idleUntilStrike = p.idleUntilStrike) :
    (d.modPilot r f).sfuRun u = d.sfuRun u := by
  rw [Device.sfuRun, Device.modPilot_unitRuns r hf]
  rfl

theorem Device.modSfu_sfuRun {f : Sfu → Sfu} (hf : ∀ m, (f m).state = m.state ∧ (f m).slots = m.slots) :
    (d.modSfu u f).sfuRun u = d.sfuRun u := by
  rw [Device.sfuRun, Device.modSfu_sfu, (hf _).1, (hf _).2]
  rfl

@[simp] theorem Device.modSlot_sfuRun (d : Device) (u k : Nat) (f : Slot → Slot) :
    (d.modSlot u k f).sfuRun u = ((d.sfuRun u).1, (d.sfuRun u).2.upd k .reset f) := by
  rw [Device.sfuRun, Device.modSlot, Device.modSfu_sfu]
  rfl

@[simp] theorem Device.modTick_sfuRun (d : Device) (u : Nat) (f : Tick → Tick) :
    (d.modTick f).sfuRun u = d.sfuRun u := rfl

@[simp] theorem Device.progress_sfuRun (d : Device) (r u : Nat) : (d.progress r).sfuRun u = d.sfuRun u :=
  Device.modPilot_sfuRun r fun _ => ⟨rfl, rfl⟩

/-- An event is the pilot's and nothing of its unit's. -/
@[simp] theorem Device.raiseFree_sfuRun (d : Device) (r code u : Nat) : (d.raiseFree r code).sfuRun u = d.sfuRun u := by
  have hraise (p : Pilot) (v : EventRec) :
      (p.raise v).state = p.state ∧ (p.raise v).idleUntilStrike = p.idleUntilStrike := by
    unfold Pilot.raise
    dsimp only
    split <;> exact ⟨rfl, rfl⟩
  rw [Device.raiseFree, Device.drawWord]
  exact Device.modPilot_sfuRun r fun p => hraise p _

@[simp] theorem Device.sendSummary_sfuRun (d : Device) (u idx op ty : Nat) (v : Word) (poison : Bool) :
    (d.sendSummary u idx op ty v poison).sfuRun u = d.sfuRun u := by
  rw [Device.sendSummary, Device.modPilot_sfuRun, Device.modSfu_sfuRun]
  · exact fun _ => ⟨rfl, rfl⟩
  · exact fun _ => ⟨rfl, rfl⟩

end

/-! ### Sends and results change no program and no slot (R71, R182) -/

@[simp] theorem Switch.setBuf_active (s : Switch) (k : BufKey) (b : Buf) : (s.setBuf k b).active = s.active := by
  unfold Switch.setBuf
  split_ifs <;> rfl

theorem drainOutAux_active (issued : Bool) (n : Nat) (s : Switch) (out : List (Net × Item)) :
    (drainOutAux issued n s out).1.active = s.active := by
  induction n generalizing s out with
  | zero => cases out <;> rfl
  | succ n ih =>
    cases out with
    | nil => rfl
    | cons p out =>
      simp only [drainOutAux]
      split
      · rw [ih]
        split <;> simp
      · exact ih s _

theorem Device.modSwitch_section {d : Device} {u : Nat} {f : Switch → Switch}
    (hf : (f (d.switch u)).active = (d.switch u).active) (v : Nat) : (d.modSwitch u f).section v = d.section v := by
  by_cases hv : v = u
  · rw [hv, Device.section, Device.modSwitch_switch, hf, Device.section]
  · rw [Device.section, Device.modSwitch_switch_ne d u f hv, Device.section]

section
variable {u : Nat} (hkind : siteKind u = .sfu)
include hkind

theorem Device.modUnit_sfuRun (d : Device) (f : Unit → Unit) : (d.modUnit u f).sfuRun u = d.sfuRun u := by
  simp only [Device.modUnit, hkind]
  exact Device.modSfu_sfuRun fun _ => ⟨rfl, rfl⟩

theorem Device.drainOut_sfuRun (d : Device) : (d.drainOut u).sfuRun u = d.sfuRun u := by
  unfold Device.drainOut
  dsimp only
  split
  · rfl
  · rw [Device.modUnit_sfuRun hkind, Device.sfuRun, Device.unitRuns, Device.modSwitch_section (drainOutAux_active ..)]
    rfl

theorem Device.sendWords_sfuRun (net : Net) (vc : Nat) (last : Bool) (ws : List (Nat × Bool)) (d : Device) :
    (d.sendWords u net vc last ws).sfuRun u = d.sfuRun u := by
  induction ws generalizing d with
  | nil => rfl
  | cons w ws ih =>
    rw [Device.sendWords, ih, Device.unitSend, Device.drainOut_sfuRun hkind, Device.modUnit_sfuRun hkind]

theorem Device.sendReport_sfuRun (d : Device) (r : SlotRec) (p : PassStats) :
    (d.sendReport u r p).sfuRun u = d.sfuRun u :=
  Device.sendWords_sfuRun hkind ..

theorem Device.sendScale_sfuRun (d : Device) (r : SlotRec) (kind : Nat) (v : Word) :
    (d.sendScale u r kind v).sfuRun u = d.sfuRun u := by
  unfold Device.sendScale
  split
  · rfl
  · exact Device.sendWords_sfuRun hkind ..

theorem Device.modEng_sfuRun (d : Device) (f : Engine → Engine) : (d.modEng u f).sfuRun u = d.sfuRun u := by
  simp only [Device.modEng, hkind]
  exact Device.modSfu_sfuRun fun _ => ⟨rfl, rfl⟩

theorem Device.vecFlags_sfuRun (d : Device) (f : Flags) (poison : Bool) :
    (d.vecFlags u f poison).sfuRun u = d.sfuRun u := by
  simp only [Device.vecFlags, hkind]
  exact Device.modSfu_sfuRun fun _ => ⟨rfl, rfl⟩

theorem Device.lanesInto_sfuRun (d : Device) (r : Nat) (poison : Bool) (f : Nat → Word × Flags) :
    (d.lanesInto u r poison f).sfuRun u = d.sfuRun u := by
  rw [Device.lanesInto, Device.vecFlags_sfuRun hkind, Device.modEng_sfuRun hkind]

theorem Device.scalarInto_sfuRun (d : Device) (r : Nat) (w : Word) (f : Flags) (poison : Bool) :
    (d.scalarInto u r w f poison).sfuRun u = d.sfuRun u := by
  rw [Device.scalarInto, Device.vecFlags_sfuRun hkind, Device.modEng_sfuRun hkind]

end

/-! ### The evaluation of a pass (R176) -/

theorem Slot.evaluate_waitMsg (s : Slot) (r : SlotRec) (p : PassStats) : (s.evaluate r p).1.waitMsg = s.waitMsg := by
  have hpend (t : Slot) (v : Word) : (t.pend r v).waitMsg = t.waitMsg := by
    unfold Slot.pend
    split <;> rfl
  unfold Slot.evaluate
  dsimp only
  split
  · split
    · exact hpend ..
    · exact hpend ..
  · exact hpend ..
  · exact hpend ..

/-- Of what decides whether the SFU issues, the evaluation of a pass changes its slot alone, at which no SCLOSE then waits
for reports. -/
theorem Device.closePass_sfuRun {u : Nat} (hkind : siteKind u = .sfu) (d : Device) (k : Nat) (r : SlotRec)
    (summary : Nat) :
    ∃ t : Slot, t.holds = ((d.sfu u).slot k).waitMsg ∧
      (d.closePass u k r summary).sfuRun u = ((d.sfuRun u).1, (d.sfuRun u).2.upd k .reset fun _ => t) := by
  unfold Device.closePass
  extract_lets slot p out reg
  refine ⟨{ (slot.evaluate r p).1 with stats := .reset, reports := slot.reports.drop r.members, closedInTick := true,
                                       closing := none, waitClk := 0 }, slot.evaluate_waitMsg r p, ?_⟩
  simp only [apply_ite fun e : Device => e.sfuRun u, Device.sendSummary_sfuRun, Device.sendScale_sfuRun hkind,
    Device.raiseFree_sfuRun, Device.modTick_sfuRun, Device.modSfu_sfuRun, Device.modSlot_sfuRun, ite_self, and_self,
    implies_true]

/-! ### An instruction of an SFU that issues (R188, R192) -/

section
variable {d : Device} {u opc : Nat} {i : VIns}

theorem Device.vecAt.runs (hat : d.vecAt u opc i) : d.vecRuns u = true := by
  obtain ⟨hruns, -⟩ := hat
  exact hruns

theorem Device.vecAt.sound (hat : d.vecAt u opc i) : (d.eng u).upset = false := by
  obtain ⟨-, -, -, hsound, -⟩ := hat
  exact hsound

end

section
variable {d : Device} {u opc : Nat} {i : VIns} {act : VIns → Device → Option Device} {t : Device}
  (hkind : siteKind u = .sfu) (hat : d.vecAt u opc i) (hact : act i d = some t)
include hkind hat hact

/-- Where its effect leaves the unit running, the program goes on behind it. -/
theorem Device.vecIssue_steps (hruns : t.vecRuns u = true) : d.vecIssue u opc act = d.vecStep u opc t := by
  obtain ⟨hvec, hpump, hhazard, -, hins, hopc⟩ := hat
  have hidle : (t.sfu u).closing = false := by
    rw [Device.vecRuns_sfu hkind, Bool.and_eq_true, Bool.not_eq_true'] at hruns
    exact hruns.2
  simp [Device.vecIssue, Device.vecStep, hvec, hpump, hins, hhazard, hopc, hact, hkind, hidle, hruns]

/-- Where its effect holds the issue stage, the boundary is still to come (R206). -/
theorem Device.vecIssue_waits (hholds : (t.sfu u).closing = true) :
    d.vecIssue u opc act =
      (t.modEng u fun e => { e with pc := (d.eng u).pc + if twoWords opc then 2 else 1 }).progress (siteRegion u) := by
  obtain ⟨hvec, hpump, hhazard, -, hins, hopc⟩ := hat
  simp [Device.vecIssue, hvec, hpump, hins, hhazard, hopc, hact, hkind, hholds]

end

/-! ### Results (R182, R198) -/

section
variable {d : Device} {u : Nat} (hsound : (d.eng u).upset = false) (block r : Nat)
include hsound

theorem Device.writeV_sound (ws : List (Word × Flags)) (poison : Bool) :
    d.writeV u block r ws poison =
      (d.modEng u (·.putV r (ws.map (·.1)) poison)).vecFlags u (ws.foldl (fun f w => f.or w.2) Flags.none) poison := by
  simp [Device.writeV, Device.takeUpset, hsound]

theorem Device.writeV_lanes (f : Nat → Word × Flags) (poison : Bool) :
    d.writeV u block r ((d.eng u).active.map f) poison = d.lanesInto u r poison f :=
  Device.writeV_sound hsound ..

theorem Device.writeS_sound (w : Word) (f : Flags) (poison : Bool) :
    d.writeS u block r [w] f poison = d.scalarInto u r w f poison := by
  simp [Device.writeS, Device.takeUpset, hsound, Device.scalarInto, Engine.putSs]

end

/-! ### VQNT and SSCALE (R175, R205) -/

/-- A slot that has counted one more vector: its elements are `xs`, and `rs` is what they became. -/
def Slot.counted (s : Slot) (xs : List Word) (rs : List (Word × Flags × Bool × Bool)) : Slot :=
  { s with stats := { n := s.stats.n + xs.length, m := xs.foldl maxFinite s.stats.m,
                      c := s.stats.c + (rs.filter (·.2.2.1)).length,
                      z := s.stats.z + (rs.filter (·.2.2.2)).length } }

section
variable {d : Device} {u : Nat} {i : VIns} {r : SlotRec} (hkind : siteKind u = .sfu)
include hkind

theorem Device.vqnt_converts (hat : d.vecAt u 0x16 i) (hslot : slotRec (d.section u) i.x = some r)
    (hvl : (d.eng u).vl ≠ 0) :
    let e := d.eng u
    let slot := (d.sfu u).slot i.x
    let xs := e.active.map (e.lane i.a)
    d.vqnt u = d.vecStep u 0x16
      ((d.lanesInto u i.d (e.vreg i.a).poison fun k =>
        ((slot.convert r.fmt (e.lane i.a k)).1, (slot.convert r.fmt (e.lane i.a k)).2.1)).modSlot u i.x
          (·.counted xs (xs.map (slot.convert r.fmt)))) := by
  intro e slot xs
  refine Device.vecIssue_steps hkind hat ?_ ?_
  · have hlanes : (xs.map (slot.convert r.fmt)).map (fun x => (x.1, x.2.1)) =
        e.active.map fun k => ((slot.convert r.fmt (e.lane i.a k)).1, (slot.convert r.fmt (e.lane i.a k)).2.1) := by
      rw [List.map_map, List.map_map]
      rfl
    simp only [hslot, if_neg hvl]
    rw [hlanes, Device.writeV_lanes hat.sound]
    rfl
  · have hidle := Device.slot_idle hkind hat.runs i.x
    refine (Device.closing_upd hkind hat.runs (f := (·.counted xs (xs.map (slot.convert r.fmt)))) ?_).2.trans
      (congrArg not hidle)
    rw [Device.modSlot_sfuRun, Device.lanesInto_sfuRun hkind]

/-- With a slot not in use, or with VL 0, VQNT does nothing. -/
theorem Device.vqnt_nothing (hat : d.vecAt u 0x16 i) (h : slotRec (d.section u) i.x = none ∨ (d.eng u).vl = 0) :
    d.vqnt u = d.vecStep u 0x16 d := by
  refine Device.vecIssue_steps hkind hat ?_ hat.runs
  rcases h with h | h
  · simp only [h]
  · cases hslot : slotRec (d.section u) i.x <;> simp [h]

theorem Device.sscale_reads (hat : d.vecAt u 0x18 i) :
    d.sscale u = d.vecStep u 0x18 (d.scalarInto u i.d ((d.sfu u).slot (i.x % 16)).scale .none false) := by
  refine Device.vecIssue_steps hkind hat ?_ (Device.vecRuns_same hkind hat.runs (Device.scalarInto_sfuRun hkind ..))
  exact congrArg some (Device.writeS_sound hat.sound ..)

/-! ### SCLOSE (R176, R206) -/

theorem Device.sclose_unused (hat : d.vecAt u 0x17 i) (h : slotRec (d.section u) (i.x % 16) = none) :
    d.sclose u = d.vecStep u 0x17 d := by
  refine Device.vecIssue_steps hkind hat ?_ hat.runs
  simp only [h]

/-- The device in which the member at slot `k` has sent its report; `wait` says whether it waits for a scale message. -/
def Device.memberCloses (d : Device) (u k : Nat) (r : SlotRec) (wait : Bool) : Device :=
  (d.sendReport u r ((d.sfu u).slot k).stats).modSlot u k fun t =>
    { t with stats := .reset, closedInTick := true, waitMsg := wait, waitClk := 0 }

theorem Device.memberCloses_holds (hruns : d.vecRuns u = true) (k : Nat) (r : SlotRec) (wait : Bool) :
    ((d.memberCloses u k r wait).sfu u).closing = wait ∧ (d.memberCloses u k r wait).vecRuns u = !wait := by
  have hrun : (d.memberCloses u k r wait).sfuRun u = ((d.sfuRun u).1, (d.sfuRun u).2.upd k .reset fun t =>
      { t with stats := .reset, closedInTick := true, waitMsg := wait, waitClk := 0 }) := by
    rw [Device.memberCloses, Device.modSlot_sfuRun, Device.sendReport_sfuRun hkind]
  have hholds := Device.closing_upd hkind hruns hrun
  rwa [Slot.holds, (Bool.or_eq_false_iff.1 (Device.slot_idle hkind hruns k)).1, Bool.false_or] at hholds

section
variable (hat : d.vecAt u 0x17 i) (hslot : slotRec (d.section u) (i.x % 16) = some r)
include hat hslot

/-- A leader that has every report evaluates its pass at once. -/
theorem Device.sclose_closes (hleader : r.leader = true)
    (hreports : r.members ≤ ((d.sfu u).slot (i.x % 16)).reports.length) :
    d.sclose u = d.vecStep u 0x17 (d.closePass u (i.x % 16) r i.b) := by
  refine Device.vecIssue_steps hkind hat ?_ ?_
  · simp only [hslot, hleader, hreports, if_true]
  · obtain ⟨t, hholds, hrun⟩ := Device.closePass_sfuRun hkind d (i.x % 16) r i.b
    have hidle := Device.slot_idle hkind hat.runs (i.x % 16)
    rw [(Device.closing_upd hkind hat.runs hrun).2, hholds, (Bool.or_eq_false_iff.1 hidle).2, Bool.not_false]

/-- A leader that lacks a report waits. -/
theorem Device.sclose_awaitsReports (hleader : r.leader = true)
    (hreports : ((d.sfu u).slot (i.x % 16)).reports.length < r.members) :
    d.sclose u =
      ((d.modSlot u (i.x % 16) fun t => { t with closing := some i.b, waitClk := 0 }).modEng u fun n =>
        { n with pc := (d.eng u).pc + 1 }).progress (siteRegion u) := by
  refine (Device.vecIssue_waits hkind hat
    (t := d.modSlot u (i.x % 16) fun t => { t with closing := some i.b, waitClk := 0 }) ?_ ?_).trans rfl
  · simp only [hslot, hleader, if_true, if_neg (Nat.not_le.2 hreports)]
  · exact (Device.closing_upd hkind hat.runs (Device.modSlot_sfuRun ..)).1

/-- A member sends its report and goes on. -/
theorem Device.sclose_reports (hleader : r.leader = false) (hwait : i.x.testBit 4 = false) :
    d.sclose u = d.vecStep u 0x17 (d.memberCloses u (i.x % 16) r (i.x.testBit 4)) := by
  refine Device.vecIssue_steps hkind hat ?_ ?_
  · simp only [hslot, hleader, Bool.false_eq_true, if_false]
    rfl
  · rw [(Device.memberCloses_holds hkind hat.runs ..).2, hwait, Bool.not_false]

/-- With WAIT set, it waits for a scale message. -/
theorem Device.sclose_awaitsScale (hleader : r.leader = false) (hwait : i.x.testBit 4 = true) :
    d.sclose u =
      ((d.memberCloses u (i.x % 16) r (i.x.testBit 4)).modEng u fun n => { n with pc := (d.eng u).pc + 1 }).progress
        (siteRegion u) := by
  refine (Device.vecIssue_waits hkind hat (t := d.memberCloses u (i.x % 16) r (i.x.testBit 4)) ?_ ?_).trans rfl
  · simp only [hslot, hleader, Bool.false_eq_true, if_false]
    rfl
  · rw [(Device.memberCloses_holds hkind hat.runs ..).1, hwait]

end

end

/-! ### VBQ (R171, R172, R207) -/

section
variable {d : Device} {u : Nat} {i : VIns} (hkind : siteKind u = .sfu) (hat : d.vecAt u 0x19 i)
include hkind hat

theorem Device.vbq_nothing (hvl : (d.eng u).vl = 0) : d.vbq u = d.vecStep u 0x19 d := by
  refine Device.vecIssue_steps hkind hat ?_ hat.runs
  simp only [hvl, if_true]

theorem Device.vbq_writes (hvl : (d.eng u).vl ≠ 0) :
    let e := d.eng u
    let q := if i.x = 0 then 127 else 7
    let xs := (List.range 64).map fun k => if k < e.vl.toNat then e.lane i.a k else 0
    let sc := blockScale (fl32 (xs.foldl maxFinite 0)) q 254 1
    let p := (e.vreg i.a).poison
    let rs := xs.map (blockElem q sc)
    d.vbq u = d.vecStep u 0x19
      ((((d.modEng u (·.putV i.d (rs.map (·.1)) p)).vecFlags u (rs.foldl (fun f w => f.or w.2) Flags.none) p).modEng u
        (·.putS i.b (BitVec.ofNat 32 sc) p)).vecFlags u .none p) := by
  intro e q xs sc p rs
  refine Device.vecIssue_steps hkind hat ?_ (Device.vecRuns_same hkind hat.runs ?_)
  · simp only [if_neg hvl]
    rw [Device.writeV_sound hat.sound]
  · simp only [Device.vecFlags_sfuRun hkind, Device.modEng_sfuRun hkind]

end

/-! ### Reports and scale messages (R176, R206) -/

/-- The device in which the report of four words has reached slot `k`; `rest` is the unit without them. -/
def Device.takeReport (d : Device) (u k : Nat) (rest : Unit) (m n c z : Word) : Device :=
  (d.modUnit u fun _ => rest).modSlot u k fun t =>
    { t with reports := t.reports ++ [{ m := m, n := n.toNat, c := c.toNat, z := z.toNat }] }

/-- A slot that has taken a scale message of code `c` and scale `v`. -/
def Slot.takeScale (t : Slot) (c v : Word) : Slot :=
  { (if c &&& 3 = 1 then t.activate v else if c &&& 3 = 0 then { t with pending := v } else t) with waitMsg := false }

section
variable {d : Device} {u k : Nat} {r : SlotRec} {rest : Unit} (hkind : siteKind u = .sfu)
include hkind

theorem Device.takeReport_slot (m n c z : Word) :
    ((d.takeReport u k rest m n c z).sfu u).slot k =
      { (d.sfu u).slot k with
        reports := ((d.sfu u).slot k).reports ++ [{ m := m, n := n.toNat, c := c.toNat, z := z.toNat }] } := by
  have hslots : ((d.modUnit u fun _ => rest).sfu u).slots = (d.sfu u).slots :=
    congrArg Prod.snd (Device.modUnit_sfuRun hkind d fun _ => rest)
  rw [Device.takeReport, Device.modSlot, Device.modSfu_sfu, Sfu.slot, Tab.getD_upd_self, hslots]
  rfl

variable (hunit : d.unitRuns u = true) (hslot : slotRec (d.section u) k = some r)
include hunit hslot

section
variable {m n c z : Word} (hstate : (d.sfu u).state = 1) (hleader : r.leader = true)
  (hwords : (d.unit u).takeWords r.vc 4 = some ([m, n, c, z], rest))
include hstate hleader hwords

/-- A report that comes to its slot: a close that has now every report is evaluated, and the issue stage goes on. -/
theorem Device.scaleReport_takes {t : Device}
    (ht : (d.takeReport u k rest m n c z).progress (siteRegion u) = t) :
    d.scaleReport u k = ((d.sfu u).slot k).closing.elim t fun b =>
      if r.members ≤ ((d.sfu u).slot k).reports.length + 1 then (t.closePass u k r b).passClose u else t := by
  have hslot' : (t.sfu u).slot k = ((d.takeReport u k rest m n c z).sfu u).slot k := ht ▸ rfl
  rw [Device.takeReport_slot hkind] at hslot'
  have hclosing : ((t.sfu u).slot k).closing = ((d.sfu u).slot k).closing := by rw [hslot']
  have hlength : ((t.sfu u).slot k).reports.length = ((d.sfu u).slot k).reports.length + 1 := by
    rw [hslot', List.length_append, List.length_singleton]
  rw [← hclosing, ← hlength, ← ht]
  simp only [Device.scaleReport, hkind, hunit, hstate, hslot, hleader, hwords, bne_self_eq_false, Bool.not_true,
    Bool.or_self, Bool.false_eq_true, if_false, Device.takeReport]
  split
  next b hcloses =>
    rw [hcloses]
    rfl
  next hnone => rw [hnone, Option.elim_none]

/-- A report that no close waits for, or that is not the last that it waits for, is kept. -/
theorem Device.scaleReport_keeps
    (hwaits : ((d.sfu u).slot k).closing = none ∨ ((d.sfu u).slot k).reports.length + 1 < r.members) :
    d.scaleReport u k = (d.takeReport u k rest m n c z).progress (siteRegion u) := by
  rw [Device.scaleReport_takes hkind hunit hslot hstate hleader hwords rfl]
  rcases hwaits with hnone | hmore
  · rw [hnone, Option.elim_none]
  · simp only [if_neg (Nat.not_le.2 hmore)]
    cases ((d.sfu u).slot k).closing <;> rfl

/-- The last report lets the pass be evaluated, and the issue stage goes on. -/
theorem Device.scaleReport_closes {b : Nat} (hcloses : ((d.sfu u).slot k).closing = some b)
    (hlast : r.members ≤ ((d.sfu u).slot k).reports.length + 1) :
    d.scaleReport u k =
      (((d.takeReport u k rest m n c z).progress (siteRegion u)).closePass u k r b).passClose u := by
  rw [Device.scaleReport_takes hkind hunit hslot hstate hleader hwords rfl, hcloses]
  exact if_pos hlast

end

/-- A member takes a scale message; a close that waits for it is passed. -/
theorem Device.scaleMessage_takes {c v w : Word} (hleader : r.leader = false)
    (hwords : (d.unit u).takeWords r.vc 3 = some ([c, v, w], rest)) :
    let t := (d.modUnit u fun _ => rest).modSlot u k (·.takeScale c v)
    d.scaleMessage u k = (if ((d.sfu u).slot k).waitMsg then t.passClose u else t).progress (siteRegion u) := by
  simp only [Device.scaleMessage, hkind, hunit, hslot, hleader, hwords]
  rfl

end

/-- Settles O55: each row by its lemma. The engine goes on behind an instruction whose effect keeps what the SFU runs by;
of the slots, only one that a close leaves waiting holds it. -/
theorem scaleUnitsAct : Obligations.ScaleUnitsAct := by
  unfold Obligations.ScaleUnitsAct
  intro s d u i hruns hkind e gives sec
  refine ⟨?vqnt, ?awaitsReports, ?vqntUnused, ?scloseUnused, ?vqntShort, ?closes, ?member, ?sscale, ?vbq, ?reportKept,
    ?reportLast, ?message⟩
  case vqnt =>
    intro r hslot hvl slot xs rs hat
    exact State.answers_lift hruns rfl (Device.vqnt_converts hkind hat hslot hvl)
  case awaitsReports =>
    exact fun r hslot hleader hreports hat =>
      State.answers_lift hruns rfl (Device.sclose_awaitsReports hkind hat hslot hleader hreports)
  case vqntUnused =>
    exact fun hslot hat => State.answers_lift hruns rfl (Device.vqnt_nothing hkind hat (.inl hslot))
  case scloseUnused =>
    exact fun hslot hat => State.answers_lift hruns rfl (Device.sclose_unused hkind hat hslot)
  case vqntShort =>
    exact fun hvl hat => State.answers_lift hruns rfl (Device.vqnt_nothing hkind hat (.inr hvl))
  case closes =>
    exact fun r hslot hleader hreports hat =>
      State.answers_lift hruns rfl (Device.sclose_closes hkind hat hslot hleader hreports)
  case member =>
    intro r hslot hleader t
    exact ⟨fun hwait hat => State.answers_lift hruns rfl (Device.sclose_reports hkind hat hslot hleader hwait),
      fun hwait hat => State.answers_lift hruns rfl (Device.sclose_awaitsScale hkind hat hslot hleader hwait)⟩
  case sscale =>
    exact fun hat => State.answers_lift hruns rfl (Device.sscale_reads hkind hat)
  case vbq =>
    intro q xs sc p rs hat
    by_cases hvl : e.vl = 0
    · rw [if_pos hvl]
      exact State.answers_lift hruns rfl (Device.vbq_nothing hkind hat hvl)
    · rw [if_neg hvl]
      exact State.answers_lift hruns rfl (Device.vbq_writes hkind hat hvl)
  case reportKept =>
    exact fun k r m n c z rest hunit hstate hslot hleader hwords hwaits =>
      State.answers_lift hruns rfl (Device.scaleReport_keeps hkind hunit hslot hstate hleader hwords hwaits)
  case reportLast =>
    exact fun k r b m n c z rest hunit hstate hslot hleader hwords hcloses hlast =>
      State.answers_lift hruns rfl (Device.scaleReport_closes hkind hunit hslot hstate hleader hwords hcloses hlast)
  case message =>
    intro k r c v w rest hunit hslot hleader hwords t
    have htakes := Device.scaleMessage_takes hkind hunit hslot hleader hwords
    exact ⟨fun hwaits => State.answers_lift hruns rfl (htakes.trans (by rw [hwaits]; rfl)),
      fun hwaits => State.answers_lift hruns rfl (htakes.trans (by rw [hwaits]; rfl))⟩

end Sys2Proof.Machine
end

section
/-! SUPPORT and PROOFS. The vector engines of MUs and SFUs alike: what decides whether an engine issues and that the
parts of an instruction's effect keep it, what an instruction that issues comes to, and the lane instructions. -/

namespace Sys2Proof.Machine

/-! ### What decides whether a vector engine issues (R103, R187, R206) -/

/-- Whether the unit at `u` runs, its state and whether its engine runs if it is an MU, its state and slots if it is an
SFU. -/
def Device.issuePart (d : Device) (u : Nat) : Bool × (BitVec 3 × Bool) × BitVec 3 × Tab Slot :=
  (d.unitRuns u, ((d.mu u).state, (d.mu u).engine.running), (d.sfu u).state, (d.sfu u).slots)

theorem Device.vecRuns_congr {d t : Device} {u : Nat} (h : t.issuePart u = d.issuePart u) :
    t.vecRuns u = d.vecRuns u := by
  simp only [Device.issuePart, Prod.mk.injEq] at h
  obtain ⟨hunit, ⟨hmu, hrunning⟩, hsfu, hslots⟩ := h
  simp only [Device.vecRuns, Sfu.closing_eq, hunit, hmu, hrunning, hsfu, hslots]

/-- No SCLOSE waits at an SFU whose engine runs. -/
theorem Device.closing_of_vecRuns {d : Device} {u : Nat} (hruns : d.vecRuns u = true) :
    (siteKind u == .sfu && (d.sfu u).closing) = false := by
  cases hkind : siteKind u with
  | sfu =>
    rw [Device.vecRuns_sfu hkind, Bool.and_eq_true, Bool.not_eq_true'] at hruns
    exact hruns.2
  | mu => rfl
  | su => rfl
  | iou => rfl

theorem Device.siteKind_of_vecRuns {d : Device} {u : Nat} (hruns : d.vecRuns u = true) :
    siteKind u = .mu ∨ siteKind u = .sfu := by
  cases hkind : siteKind u with
  | mu => exact .inl rfl
  | sfu => exact .inr rfl
  | su => simp [Device.vecRuns, hkind] at hruns
  | iou => simp [Device.vecRuns, hkind] at hruns

/-! ### What the named changes of the device make of it -/

theorem Device.modPilot_issuePart {d : Device} {u : Nat} {f : Pilot → Pilot} (r : Nat)
    (hf : ∀ p, (f p).state = p.state ∧ (f p).idleUntilStrike = p.idleUntilStrike) :
    (d.modPilot r f).issuePart u = d.issuePart u := by
  rw [Device.issuePart, Device.modPilot_unitRuns r hf]
  rfl

theorem Device.modSwitch_issuePart {d : Device} {u : Nat} {f : Switch → Switch}
    (hf : (f (d.switch u)).active = (d.switch u).active) : (d.modSwitch u f).issuePart u = d.issuePart u := by
  rw [Device.issuePart, Device.unitRuns, Device.modSwitch_section hf]
  rfl

theorem Device.modMu_issuePart {d : Device} {u : Nat} {f : Mu → Mu} (hstate : (f (d.mu u)).state = (d.mu u).state)
    (hrunning : (f (d.mu u)).engine.running = (d.mu u).engine.running) :
    (d.modMu u f).issuePart u = d.issuePart u := by
  rw [Device.issuePart, Device.modMu_mu, hstate, hrunning]
  rfl

theorem Device.modSfu_issuePart {d : Device} {u : Nat} {f : Sfu → Sfu} (hstate : (f (d.sfu u)).state = (d.sfu u).state)
    (hslots : (f (d.sfu u)).slots = (d.sfu u).slots) : (d.modSfu u f).issuePart u = d.issuePart u := by
  rw [Device.issuePart, Device.modSfu_sfu, hstate, hslots]
  rfl

section
variable (d : Device) (u : Nat)

@[simp] theorem Device.modUnit_issuePart (f : Unit → Unit) : (d.modUnit u f).issuePart u = d.issuePart u := by
  unfold Device.modUnit
  split
  · exact Device.modMu_issuePart rfl rfl
  · exact Device.modSfu_issuePart rfl rfl
  · rfl
  · rfl

theorem Device.modEng_issuePart {f : Engine → Engine} (hf : ∀ e, (f e).running = e.running) :
    (d.modEng u f).issuePart u = d.issuePart u := by
  unfold Device.modEng
  split
  · exact Device.modMu_issuePart rfl (hf _)
  · exact Device.modSfu_issuePart rfl rfl

@[simp] theorem Device.progress_issuePart (r : Nat) : (d.progress r).issuePart u = d.issuePart u :=
  Device.modPilot_issuePart r fun _ => ⟨rfl, rfl⟩

/-- An event is the pilot's and nothing of its unit's. -/
@[simp] theorem Device.raiseOnceFree_issuePart (r code : Nat) :
    (d.raiseOnceFree r code).issuePart u = d.issuePart u := by
  have hraise (p : Pilot) (v : EventRec) :
      (p.raise v).state = p.state ∧ (p.raise v).idleUntilStrike = p.idleUntilStrike := by
    unfold Pilot.raise
    dsimp only
    split <;> exact ⟨rfl, rfl⟩
  rw [Device.raiseOnceFree, Device.drawWord]
  refine Device.modPilot_issuePart r fun p => ?_
  split
  · exact ⟨rfl, rfl⟩
  · exact hraise p _

@[simp] theorem Device.vecFlags_issuePart (f : Flags) (poison : Bool) :
    (d.vecFlags u f poison).issuePart u = d.issuePart u := by
  unfold Device.vecFlags
  dsimp only
  split
  · exact Device.modMu_issuePart rfl rfl
  · exact Device.modSfu_issuePart rfl rfl

@[simp] theorem Device.poisonRegs_issuePart (n : Nat) : (d.poisonRegs u n).issuePart u = d.issuePart u := by
  unfold Device.poisonRegs
  split
  · rfl
  · rw [Device.raiseOnceFree_issuePart]
    exact Device.modSfu_issuePart rfl rfl

/-! ### Results (R182, R198) -/

@[simp] theorem Device.putV_issuePart (r : Nat) (ws : List Word) (poison : Bool) :
    (d.modEng u (·.putV r ws poison)).issuePart u = d.issuePart u :=
  d.modEng_issuePart u fun _ => rfl

@[simp] theorem Device.lanesInto_issuePart (r : Nat) (poison : Bool) (f : Nat → Word × Flags) :
    (d.lanesInto u r poison f).issuePart u = d.issuePart u := by
  rw [Device.lanesInto, Device.vecFlags_issuePart, Device.putV_issuePart]

end

/-! ### An instruction that issues (R186 to R189) -/

section
variable {d t : Device} {u opc : Nat} {i : VIns} {act : VIns → Device → Option Device} (hat : d.vecAt u opc i)
include hat

/-- Where the engine runs on, the program goes on behind the instruction. -/
theorem Device.vecIssue_goesOn (hact : act i d = some t) (hkeeps : t.issuePart u = d.issuePart u) :
    d.vecIssue u opc act = d.vecStep u opc t := by
  have hruns : t.vecRuns u = true := (Device.vecRuns_congr hkeeps).trans hat.runs
  have hopen := Device.closing_of_vecRuns hruns
  obtain ⟨hvec, hpump, hhazard, -, hins, hopc⟩ := hat
  simp only [Device.vecIssue, Device.vecStep, hvec, hpump, hins, hhazard, hopc, hact, hopen, hruns, Bool.not_true,
    Bool.false_eq_true, ne_eq, not_true_eq_false, or_self, if_false, if_true]

/-- With a result in lanes of D, or none where VL is 0. -/
theorem Device.vecIssue_lanes {block : Nat} {poison : Bool} {f : Nat → Word × Flags}
    (hact : act i d =
      if (d.eng u).vl = 0 then some d else some (d.writeV u block i.d ((d.eng u).active.map f) poison)) :
    d.vecIssue u opc act = d.vecStep u opc (if (d.eng u).vl = 0 then d else d.lanesInto u i.d poison f) := by
  rw [Device.writeV_lanes hat.sound] at hact
  split_ifs at hact ⊢
  · exact Device.vecIssue_goesOn hat hact rfl
  · exact Device.vecIssue_goesOn hat hact (d.lanesInto_issuePart u ..)

/-! ### Lane instructions (R192, R198, R199, R204, R207) -/

theorem Device.laneOp_lanes {block : Nat} {srcs : VIns → List Nat} {f : VIns → (Nat → Word) → Word × Flags} :
    d.laneOp u opc block srcs f = d.vecStep u opc
      (if (d.eng u).vl = 0 then d
       else d.lanesInto u i.d ((srcs i).any fun r => ((d.eng u).vreg r).poison) fun k => f i ((d.eng u).lane · k)) :=
  Device.vecIssue_lanes hat rfl

end

/-! ### Lane instructions by their sources: the poison of each written out (R185) -/

section
variable {d : Device} {u opc block : Nat} {i : VIns} {f : VIns → (Nat → Word) → Word × Flags} (hat : d.vecAt u opc i)
include hat

theorem Device.laneOp_srcA :
    d.laneOp u opc block srcA f = d.vecStep u opc
      (if (d.eng u).vl = 0 then d
       else d.lanesInto u i.d ((d.eng u).vreg i.a).poison fun k => f i ((d.eng u).lane · k)) := by
  simp only [Device.laneOp_lanes hat, srcA, List.any_cons, List.any_nil, Bool.or_false]

theorem Device.laneOp_srcAB :
    d.laneOp u opc block srcAB f = d.vecStep u opc
      (if (d.eng u).vl = 0 then d
       else d.lanesInto u i.d (((d.eng u).vreg i.a).poison || ((d.eng u).vreg i.b).poison)
         fun k => f i ((d.eng u).lane · k)) := by
  simp only [Device.laneOp_lanes hat, srcAB, List.any_cons, List.any_nil, Bool.or_false]

theorem Device.laneOp_srcABD :
    d.laneOp u opc block srcABD f = d.vecStep u opc
      (if (d.eng u).vl = 0 then d
       else d.lanesInto u i.d
         (((d.eng u).vreg i.a).poison || (((d.eng u).vreg i.b).poison || ((d.eng u).vreg i.d).poison))
         fun k => f i ((d.eng u).lane · k)) := by
  simp only [Device.laneOp_lanes hat, srcABD, List.any_cons, List.any_nil, Bool.or_false]

end

/-! ### VBX (R207) -/

section
variable {d : Device} {u : Nat} {i : VIns} (hat : d.vecAt u 0x1A i)
include hat

theorem Device.vbx_scales (hlow : 1 ≤ ((d.eng u).sval i.b).toNat) (hhigh : ((d.eng u).sval i.b).toNat ≤ 254) :
    let e := d.eng u
    d.vbx u = d.vecStep u 0x1A
      (if e.vl = 0 then d
       else d.lanesInto u i.d ((e.vreg i.a).poison || (e.sreg i.b).poison) fun k =>
         toF32 (Fl.ofInt (e.lane i.a k).toInt ((e.sval i.b).toNat - 127))) := by
  have hsound : ¬(((d.eng u).sval i.b).toNat = 0 ∨ 254 < ((d.eng u).sval i.b).toNat) := by omega
  exact Device.vecIssue_lanes hat (block := 1) (by simp only [if_neg hsound])

/-- A reserved scale byte gives lanes of 0 and a poisoned register. -/
theorem Device.vbx_reserved (hbad : ((d.eng u).sval i.b).toNat = 0 ∨ 254 < ((d.eng u).sval i.b).toNat) :
    d.vbx u = d.vecStep u 0x1A
      (if (d.eng u).vl = 0 then d else (d.lanesInto u i.d true fun _ => (0, .none)).poisonRegs u 1) := by
  split_ifs with hvl
  · exact Device.vecIssue_goesOn hat (if_pos hvl) rfl
  · refine Device.vecIssue_goesOn hat ?_ (by rw [Device.poisonRegs_issuePart, Device.lanesInto_issuePart])
    simp only [if_neg hvl, if_pos hbad]
    rw [Device.writeV_lanes hat.sound]

end

/-- Settles O52: each row by the lemma of its sources; VIOTA, VBCAST and VBX have none of those three lists. -/
theorem laneInstructions : Obligations.LaneInstructions := by
  unfold Obligations.LaneInstructions
  intro s d u i hruns e pA pAB pABD a b gives
  have fromA {c opc block f g} (hexec : exec c s = s.lift fun d => d.laneOp u.val opc block srcA f)
      (hlane : (fun k => f i (e.lane · k)) = g) : gives c opc pA g :=
    fun hat => State.answers_lift hruns hexec (hlane ▸ Device.laneOp_srcA hat)
  have fromAB {c opc block f g} (hexec : exec c s = s.lift fun d => d.laneOp u.val opc block srcAB f)
      (hlane : (fun k => f i (e.lane · k)) = g) : gives c opc pAB g :=
    fun hat => State.answers_lift hruns hexec (hlane ▸ Device.laneOp_srcAB hat)
  have fromABD {c opc block f g} (hexec : exec c s = s.lift fun d => d.laneOp u.val opc block srcABD f)
      (hlane : (fun k => f i (e.lane · k)) = g) : gives c opc pABD g :=
    fun hat => State.answers_lift hruns hexec (hlane ▸ Device.laneOp_srcABD hat)
  refine ⟨fromAB rfl rfl, fromAB rfl rfl, fromAB rfl rfl, fromABD rfl rfl, fromAB rfl rfl, fromAB rfl rfl, fromA rfl rfl,
    fromA rfl rfl, fromAB rfl rfl, fromABD rfl rfl, fromA rfl rfl, fromA rfl rfl, fromA rfl rfl, fromA rfl rfl, ?viota,
    ?vbcast, fromA rfl rfl, ?vbx, ?vbxReserved⟩
  case viota => exact fun hat => State.answers_lift hruns rfl (Device.vecIssue_lanes hat rfl)
  case vbcast => exact fun hat => State.answers_lift hruns rfl (Device.vecIssue_lanes hat rfl)
  case vbx => exact fun hlow hhigh hat => State.answers_lift hruns rfl (Device.vbx_scales hat hlow hhigh)
  case vbxReserved => exact fun hbad hat => State.answers_lift hruns rfl (Device.vbx_reserved hat hbad)

end Sys2Proof.Machine
end

section
/-! SUPPORT and PROOFS. The registers of a vector engine: what a write of lanes gives each lane and each register, and
what a lane result leaves of the rest of the device. -/

namespace Sys2Proof.Machine

/-! ### Lanes of a register (R183) -/

theorem getD_putLanes (t : Tab Word) (i : Nat) (ws : List Word) (k : Nat) :
    (putLanes t i ws).getD k 0 = if i ≤ k ∧ k < i + ws.length then ws.getD (k - i) 0 else t.getD k 0 := by
  induction ws generalizing t i with
  | nil => simp [putLanes, Nat.not_lt.2]
  | cons w ws ih =>
    rw [putLanes, ih, List.length_cons]
    rcases lt_trichotomy k i with hk | rfl | hk
    · rw [if_neg (by omega), if_neg (by omega), Tab.getD_put_ne _ _ _ hk.ne]
    · rw [if_neg (by omega), if_pos (by omega), Tab.getD_put_self, Nat.sub_self, List.getD_cons_zero]
    · have hsucc : k - i = (k - (i + 1)) + 1 := by omega
      have hrange : (i + 1 ≤ k ∧ k < i + 1 + ws.length) ↔ (i ≤ k ∧ k < i + (ws.length + 1)) := by omega
      simp only [hrange, hsucc, List.getD_cons_succ, Tab.getD_put_ne _ _ _ hk.ne']

section
variable (e : Engine) (r : Nat) (ws : List Word) (poison : Bool)

theorem Engine.putV_vreg :
    (e.putV r ws poison).vreg r = { lanes := putLanes (e.vreg r).lanes 0 ws, poison := poison } := by
  simp only [Engine.vreg, Engine.putV, Tab.getD_upd_self]

theorem Engine.putV_vreg_ne {q : Nat} (h : q ≠ r) : (e.putV r ws poison).vreg q = e.vreg q := by
  simp only [Engine.vreg, Engine.putV, Tab.getD_upd_ne _ _ _ _ h]

theorem Engine.putV_lane (k : Nat) :
    (e.putV r ws poison).lane r k = if k < ws.length then ws.getD k 0 else e.lane r k := by
  rw [Engine.lane, Engine.putV_vreg, getD_putLanes]
  simp only [Nat.zero_le, true_and, Nat.zero_add, Nat.sub_zero, Engine.lane]

end

/-! ### The engine in a changed device -/

section
variable (d : Device) (u : Nat)

@[simp] theorem Device.modEng_eng (f : Engine → Engine) : (d.modEng u f).eng u = f (d.eng u) := by
  cases hkind : siteKind u <;> simp only [Device.eng, Device.modEng, hkind, Device.modMu_mu, Device.modSfu_sfu]

theorem Device.modMu_eng_ne (f : Mu → Mu) {v : Nat} (h : v ≠ u) : (d.modMu u f).eng v = d.eng v := by
  rw [Device.eng, Device.modMu_mu_ne d u f h]
  rfl

theorem Device.modSfu_eng_ne (f : Sfu → Sfu) {v : Nat} (h : v ≠ u) : (d.modSfu u f).eng v = d.eng v := by
  rw [Device.eng, Device.modSfu_sfu_ne d u f h]
  rfl

theorem Device.modEng_eng_ne (f : Engine → Engine) {v : Nat} (h : v ≠ u) : (d.modEng u f).eng v = d.eng v := by
  unfold Device.modEng
  split
  · exact d.modMu_eng_ne u _ h
  · exact d.modSfu_eng_ne u _ h

theorem Device.modMu_eng {f : Mu → Mu} (hf : (f (d.mu u)).engine = (d.mu u).engine) :
    (d.modMu u f).eng u = d.eng u := by
  rw [Device.eng, Device.modMu_mu, hf]
  rfl

theorem Device.modSfu_eng {f : Sfu → Sfu} (hf : (f (d.sfu u)).engine = (d.sfu u).engine) :
    (d.modSfu u f).eng u = d.eng u := by
  rw [Device.eng, Device.modSfu_sfu, hf]
  rfl

end

/-! ### What a change of an engine or of its flags leaves (R184, R198) -/

/-- The rest of the device for a vector engine: memory beside it, switches and pilots, and the scratchpad or SRAM of its
own site. -/
def Device.besideEngine (d : Device) (u : Nat) : Mem × Mem × Mem × Tab Switch × Tab Pilot :=
  ((d.mu u).scratch, (d.sfu u).sram, d.hbm, d.switches, d.pilots)

section
variable (d : Device) (u : Nat)

theorem Device.modEng_besideEngine (f : Engine → Engine) : (d.modEng u f).besideEngine u = d.besideEngine u := by
  unfold Device.modEng
  split
  · rw [Device.besideEngine, Device.modMu_mu]
    rfl
  · rw [Device.besideEngine, Device.modSfu_sfu]
    rfl

section
variable (f : Flags) (poison : Bool)

theorem Device.vecFlags_besideEngine : (d.vecFlags u f poison).besideEngine u = d.besideEngine u := by
  unfold Device.vecFlags
  dsimp only
  split
  · rw [Device.besideEngine, Device.modMu_mu]
    rfl
  · rw [Device.besideEngine, Device.modSfu_sfu]
    rfl

@[simp] theorem Device.vecFlags_eng (v : Nat) : (d.vecFlags u f poison).eng v = d.eng v := by
  unfold Device.vecFlags
  dsimp only
  by_cases hv : v = u
  · subst hv
    split
    · exact d.modMu_eng v rfl
    · exact d.modSfu_eng v rfl
  · split
    · exact d.modMu_eng_ne u _ hv
    · exact d.modSfu_eng_ne u _ hv

end

/-! ### A lane result (R183, R185) -/

variable (r : Nat) (poison : Bool) (f : Nat → Word × Flags)

theorem Device.lanesInto_eng :
    (d.lanesInto u r poison f).eng u =
      (d.eng u).putV r ((d.eng u).active.map fun k => (f k).1) poison := by
  rw [Device.lanesInto, Device.vecFlags_eng, Device.modEng_eng, List.map_map]
  rfl

theorem Device.lanesInto_eng_ne {v : Nat} (h : v ≠ u) : (d.lanesInto u r poison f).eng v = d.eng v := by
  rw [Device.lanesInto, Device.vecFlags_eng, Device.modEng_eng_ne d u _ h]

theorem Device.lanesInto_besideEngine : (d.lanesInto u r poison f).besideEngine u = d.besideEngine u := by
  rw [Device.lanesInto, Device.vecFlags_besideEngine, Device.modEng_besideEngine]

theorem Device.lanesInto_lane (k : Nat) :
    ((d.lanesInto u r poison f).eng u).lane r k =
      if k < (d.eng u).vl.toNat then (f k).1 else (d.eng u).lane r k := by
  rw [Device.lanesInto_eng, Engine.putV_lane, Engine.active, List.length_map, List.length_range]
  split_ifs with hk
  · rw [List.getD_eq_getElem _ _ (by simpa using hk), List.getElem_map, List.getElem_range]
  · rfl

end

/-- Settles O53: a lane result is one write of D and a change of flags; each clause reads one part of that. -/
theorem lanesBeyondVlStay : Obligations.LanesBeyondVlStay := by
  unfold Obligations.LanesBeyondVlStay
  intro d u r p f _ t
  have heng : t.eng u = (d.eng u).putV r ((d.eng u).active.map fun k => (f k).1) p := d.lanesInto_eng u r p f
  have hbeside : t.besideEngine u = d.besideEngine u := d.lanesInto_besideEngine u r p f
  simp only [Device.besideEngine, Prod.mk.injEq] at hbeside
  refine ⟨fun k hk => ?below, fun k hk => ?beyond, ?poison, fun q hq => ?registers, ?scalars, ?vl,
    fun v hv => d.lanesInto_eng_ne u r p f hv, hbeside⟩
  case below => exact (d.lanesInto_lane u r p f k).trans (if_pos hk)
  case beyond => exact (d.lanesInto_lane u r p f k).trans (if_neg (Nat.not_lt.2 hk))
  case poison => rw [heng, Engine.putV_vreg]
  case registers => rw [heng, Engine.putV_vreg_ne _ _ _ _ hq]
  case scalars => rw [heng]; rfl
  case vl => rw [heng]; rfl

end Sys2Proof.Machine
end

section
/-! SUPPORT and PROOFS. The scalar, memory and network instructions of a vector engine: the memories, the networks and
the receive port keep what decides whether the engine issues, an access that is not free waits, one beyond the memory
stops the region, and what each instruction comes to. -/

namespace Sys2Proof.Machine

/-! ### Scalar results (R182, R198) -/

@[simp] theorem Engine.putSs_running (e : Engine) (r : Nat) (ws : List (Word × Bool)) :
    (e.putSs r ws).running = e.running := by
  induction ws generalizing e r with
  | nil => rfl
  | cons w ws ih => exact ih ..

section
variable (d : Device) (u : Nat)

@[simp] theorem Device.putSs_issuePart (r : Nat) (ws : List (Word × Bool)) :
    (d.modEng u (·.putSs r ws)).issuePart u = d.issuePart u :=
  d.modEng_issuePart u fun e => e.putSs_running r ws

@[simp] theorem Device.scalarInto_issuePart (r : Nat) (w : Word) (f : Flags) (poison : Bool) :
    (d.scalarInto u r w f poison).issuePart u = d.issuePart u := by
  rw [Device.scalarInto, Device.vecFlags_issuePart]
  exact d.modEng_issuePart u fun _ => rfl

@[simp] theorem Device.scalarsInto_issuePart (r : Nat) (ws : List Word) (f : Flags) (poison : Bool) :
    (d.scalarsInto u r ws f poison).issuePart u = d.issuePart u := by
  rw [Device.scalarsInto, Device.vecFlags_issuePart, Device.putSs_issuePart]

theorem Device.writeS_scalars {d : Device} {u : Nat} (hsound : (d.eng u).upset = false) (block r : Nat) (ws : List Word)
    (f : Flags) (poison : Bool) : d.writeS u block r ws f poison = d.scalarsInto u r ws f poison := by
  simp [Device.writeS, Device.takeUpset, hsound, Device.scalarsInto]

/-! ### The memory of an engine (R107, R188, R197) -/

theorem Mu.readRow_runs (m : Mu) (row : Nat) :
    (m.readRow row).2.2.state = m.state ∧ (m.readRow row).2.2.engine = m.engine := by
  unfold Mu.readRow
  rcases m.rowNow row with ⟨bs, mark⟩
  rcases mark with _ | (_ | _ | _) <;> exact ⟨rfl, rfl⟩

theorem Mu.readRows_runs (m : Mu) (rows : List Nat) :
    (m.readRows rows).2.2.state = m.state ∧ (m.readRows rows).2.2.engine = m.engine := by
  induction rows generalizing m with
  | nil => exact ⟨rfl, rfl⟩
  | cons row rows ih =>
    obtain ⟨hstate, hengine⟩ := m.readRow_runs row
    rw [← hstate, ← hengine]
    exact ih _

theorem Sfu.readRow_runs (m : Sfu) (row : Nat) :
    (m.readRow row).2.2.state = m.state ∧ (m.readRow row).2.2.slots = m.slots := by
  unfold Sfu.readRow
  rcases m.rowNow row with ⟨bs, mark⟩
  rcases mark with _ | (_ | _ | _) <;> exact ⟨rfl, rfl⟩

theorem Sfu.readRows_runs (m : Sfu) (rows : List Nat) :
    (m.readRows rows).2.2.state = m.state ∧ (m.readRows rows).2.2.slots = m.slots := by
  induction rows generalizing m with
  | nil => exact ⟨rfl, rfl⟩
  | cons row rows ih =>
    obtain ⟨hstate, hslots⟩ := m.readRow_runs row
    rw [← hstate, ← hslots]
    exact ih _

@[simp] theorem Device.vecRead_issuePart (row n : Nat) : (d.vecRead u row n).2.2.issuePart u = d.issuePart u := by
  unfold Device.vecRead
  dsimp only
  split
  · obtain ⟨hstate, hengine⟩ := (d.mu u).readRows_runs ((List.range n).map (row + ·))
    exact Device.modMu_issuePart hstate (congrArg Engine.running hengine)
  · obtain ⟨hstate, hslots⟩ := (d.sfu u).readRows_runs ((List.range n).map (row + ·))
    exact Device.modSfu_issuePart hstate hslots

@[simp] theorem Device.vecWrite_issuePart (row : Nat) (bs : List Byte) (poison : Bool) :
    (d.vecWrite u row bs poison).issuePart u = d.issuePart u := by
  unfold Device.vecWrite
  refine foldl_keeps (Device.issuePart · u) (fun e k => ?_) _ d
  dsimp only
  split
  · exact Device.modMu_issuePart rfl rfl
  · exact Device.modSfu_issuePart rfl rfl

/-! ### The networks and the summary bus (R71, R195, R208) -/

@[simp] theorem Device.drainOut_issuePart : (d.drainOut u).issuePart u = d.issuePart u := by
  unfold Device.drainOut
  dsimp only
  split
  · rfl
  · rw [Device.modUnit_issuePart, Device.modSwitch_issuePart (drainOutAux_active ..)]

@[simp] theorem Device.sendWords_issuePart (net : Net) (vc : Nat) (last : Bool) (ws : List (Nat × Bool)) :
    (d.sendWords u net vc last ws).issuePart u = d.issuePart u := by
  induction ws generalizing d with
  | nil => rfl
  | cons w ws ih => rw [Device.sendWords, ih, Device.unitSend, Device.drainOut_issuePart, Device.modUnit_issuePart]

@[simp] theorem Device.sendSummary_issuePart (idx op ty : Nat) (v : Word) (poison : Bool) :
    (d.sendSummary u idx op ty v poison).issuePart u = d.issuePart u := by
  rw [Device.sendSummary, Device.modPilot_issuePart]
  · exact Device.modSfu_issuePart rfl rfl
  · exact fun _ => ⟨rfl, rfl⟩

/-- What a unit has sent enters its switch; its engine and its program stay. -/
theorem Device.drainOut_eng : (d.drainOut u).eng u = d.eng u := by
  have hunit (e : Device) (f : Unit → Unit) : (e.modUnit u f).eng u = e.eng u := by
    unfold Device.modUnit
    split
    · exact e.modMu_eng u rfl
    · exact e.modSfu_eng u rfl
    · rfl
    · rfl
  unfold Device.drainOut
  dsimp only
  split
  · rfl
  · rw [hunit]
    rfl

theorem Device.drainOut_vins : (d.drainOut u).vins u = d.vins u := by
  have hsection : (d.drainOut u).section u = d.section u := by
    unfold Device.drainOut
    dsimp only
    split
    · rfl
    · rw [Device.modUnit_section, Device.modSwitch_section (drainOutAux_active ..)]
  rw [Device.vins, Device.vecProgram, Device.drainOut_eng, hsection]
  rfl

/-! ### The receive port (R185, R195) -/

theorem Device.recvDone_issuePart (j : RecvJob) : (d.recvDone u j).issuePart u = d.issuePart u := by
  unfold Device.recvDone
  dsimp only
  split
  · rw [Device.poisonRegs_issuePart, Device.vecFlags_issuePart]
    exact d.modEng_issuePart u fun _ => rfl
  · rw [Device.poisonRegs_issuePart, Device.vecFlags_issuePart]
    exact d.modEng_issuePart u fun e => e.putSs_running ..

@[simp] theorem Device.recvPump_issuePart (n : Nat) : (d.recvPump u n).issuePart u = d.issuePart u := by
  induction n generalizing d with
  | zero => rfl
  | succ n ih =>
    rw [Device.recvPump]
    split
    · rfl
    · split
      · exact d.recvDone_issuePart u _
      · dsimp only
        split
        · rfl
        · rw [ih, Device.progress_issuePart, Device.modEng_issuePart, Device.modUnit_issuePart]
          exact fun _ => rfl

end

/-! ### Faults and waits (R107, R188, R209) -/

/-- The stop of a region changes no unit. -/
theorem Device.haltJob_units (d : Device) (r cause : Nat) :
    (d.haltJob r cause).mus = d.mus ∧ (d.haltJob r cause).sfus = d.sfus := by
  by_cases hactive : d.comb.state = .active
  · obtain ⟨c, p, hhalt, -⟩ := Device.haltJob_eq r cause hactive
    rw [hhalt]
    exact ⟨rfl, rfl⟩
  · obtain ⟨ps, w, hstop⟩ := d.stopAll_eq cause
    rw [Device.haltJob, hstop, if_neg hactive]
    exact ⟨rfl, rfl⟩

theorem Device.unitFault_units (d : Device) (u event reason lo hi : Nat) :
    (d.unitFault u event reason lo hi).mus = d.mus ∧ (d.unitFault u event reason lo hi).sfus = d.sfus := by
  unfold Device.unitFault Device.stopRegion
  dsimp only
  split
  · exact ⟨rfl, rfl⟩
  · exact Device.haltJob_units ..

/-- A fault leaves an engine that does not run, and no SCLOSE that waits. -/
theorem Device.vecFault_stops {d : Device} {u : Nat} (reason last : Nat) (hruns : d.vecRuns u = true) :
    (d.vecFault u reason last).vecRuns u = false ∧
      (siteKind u == .sfu && ((d.vecFault u reason last).sfu u).closing) = false := by
  rcases Device.siteKind_of_vecRuns hruns with hkind | hkind
  · have hstate : ((d.vecFault u reason last).mu u).state = 3 := by
      simp only [Device.vecFault, hkind, Device.muFault]
      rw [Device.mu, (Device.unitFault_units ..).1]
      exact congrArg Mu.state (d.modMu_mu u _)
    refine ⟨?_, by rw [hkind]; rfl⟩
    simp [Device.vecRuns, hkind, hstate]
  · have hsfu : (d.vecFault u reason last).sfu u =
        { d.sfu u with state := 3, faultCode := 2, faultReason := BitVec.ofNat 4 reason,
                       faultInstr := BitVec.ofNat 16 (d.sfu u).engine.pc, faultValue := BitVec.ofNat 32 last } := by
      simp only [Device.vecFault, hkind]
      rw [Device.sfu, (Device.unitFault_units ..).2]
      exact d.modSfu_sfu u _
    refine ⟨by simp [Device.vecRuns, hkind, hsfu], ?_⟩
    rw [hsfu]
    exact Device.closing_of_vecRuns hruns

section
variable {d : Device} {u opc : Nat} {i : VIns} {act : VIns → Device → Option Device} (hat : d.vecAt u opc i)
include hat

/-- An instruction that only sets registers of the engine. -/
theorem Device.vecIssue_modEng {f : Engine → Engine} (hact : act i d = some (d.modEng u f))
    (hf : ∀ e, (f e).running = e.running) : d.vecIssue u opc act = d.vecStep u opc (d.modEng u f) :=
  Device.vecIssue_goesOn hat hact (d.modEng_issuePart u hf)

theorem Device.vecIssue_retries (hact : act i d = none) : d.vecIssue u opc act = d.vecRetry u opc := by
  obtain ⟨hvec, hpump, hhazard, -, hins, hopc⟩ := hat
  simp [Device.vecIssue, hvec, hpump, hins, hhazard, hopc, hact]

theorem Device.vecIssue_faults {reason last : Nat} (hact : act i d = some (d.vecFault u reason last)) :
    d.vecIssue u opc act = d.vecFault u reason last := by
  obtain ⟨hstops, hopen⟩ := Device.vecFault_stops reason last hat.runs
  obtain ⟨hvec, hpump, hhazard, -, hins, hopc⟩ := hat
  simp [Device.vecIssue, hvec, hpump, hins, hhazard, hopc, hact, hopen, hstops]

end

end Sys2Proof.Machine
end

section
/-! SUPPORT and PROOFS. What each scalar, reduction, memory, network and control instruction of a vector engine comes to,
in the order of the instruction table; then the statement on them. -/

namespace Sys2Proof.Machine

/-! ### Scalar results and reductions (R200 to R203) -/

section
variable {d : Device} {u : Nat} {i : VIns}

theorem Device.vext_extracts (hat : d.vecAt u 0x11 i) :
    d.vext u = d.vecStep u 0x11 (d.scalarInto u i.d ((d.eng u).lane i.a i.x) .none ((d.eng u).vreg i.a).poison) :=
  Device.vecIssue_goesOn hat (congrArg some (Device.writeS_sound hat.sound ..)) (d.scalarInto_issuePart u ..)

/-- The device in which a reduction has written its scalars: none where it accumulates over no lanes. -/
def Device.reduced (d : Device) (u : Nat) (i : VIns) : Device :=
  let e := d.eng u
  let r := reduceLanes e i
  let src := e.vl != 0 && ((e.vreg i.a).poison || (decide (5 ≤ i.x % 16) && i.x.testBit 4 && (e.vreg i.b).poison))
  let held := i.x.testBit 5 && (List.range r.1.length).any fun k => (e.sreg (i.d + k)).poison
  if i.x.testBit 5 ∧ e.vl = 0 then d else d.scalarsInto u i.d r.1 r.2 (src || held)

theorem Device.reduced_issuePart (d : Device) (u : Nat) (i : VIns) : (d.reduced u i).issuePart u = d.issuePart u := by
  unfold Device.reduced
  dsimp only
  split
  · rfl
  · exact d.scalarsInto_issuePart u ..

/-- A ranking reduction without an index register moves the index base on by VL (R202). -/
theorem Device.vred_reduces (hat : d.vecAt u 0x13 i) :
    d.vred u = d.vecStep u 0x13
      (if decide (5 ≤ i.x % 16) && !i.x.testBit 4 then
         (d.reduced u i).modEng u fun e => { e with idx := e.idx + e.vl.setWidth 32 }
       else d.reduced u i) := by
  refine Device.vecIssue_goesOn hat ?_ ?_
  · simp only [Device.writeS_scalars hat.sound, Bool.and_eq_true, beq_iff_eq]
    rfl
  · split
    · rw [Device.modEng_issuePart, Device.reduced_issuePart]
      exact fun _ => rfl
    · exact d.reduced_issuePart u i

/-- SUM and SUMSQ of the lanes alone (R201). -/
theorem reduceLanes_sum {e : Engine} (hop : i.x % 16 < 2) (hacc : i.x.testBit 5 = false) :
    reduceLanes e i = ([(sumLanes i.ty (i.x % 16 == 1) (e.active.map (e.lane i.a))).1],
      (sumLanes i.ty (i.x % 16 == 1) (e.active.map (e.lane i.a))).2) := by
  obtain h | h : i.x % 16 = 0 ∨ i.x % 16 = 1 := by omega
  · simp [reduceLanes, h, hacc]
  · simp [reduceLanes, h, hacc]

theorem Device.sarg_ranks (hat : d.vecAt u 0x14 i) :
    let e := d.eng u
    let best := bestPairs (i.x == 0) i.ty 1 [(e.sval i.a, e.sval (i.a + 1)), (e.sval i.d, e.sval (i.d + 1))]
    let p := [i.a, i.a + 1, i.d, i.d + 1].any fun r => (e.sreg r).poison
    d.sarg u = d.vecStep u 0x14 (d.scalarsInto u i.d (pairWords best) .none p) := by
  intro e best p
  exact Device.vecIssue_goesOn hat (congrArg some (Device.writeS_scalars hat.sound ..)) (d.scalarsInto_issuePart u ..)

/-- What SOP makes of two scalars. -/
def VIns.scalarOp (i : VIns) (a b : Word) : Word × Flags :=
  if i.x = 0 then addTy i.ty a b else if i.x = 1 then subTy i.ty a b else if i.x = 2 then mulTy i.ty a b
  else if i.x = 3 then (extreme true i.ty a b, .none) else (extreme false i.ty a b, .none)

theorem Device.sop_combines (hat : d.vecAt u 0x15 i) :
    let e := d.eng u
    let r := i.scalarOp (e.sval i.a) (e.sval i.b)
    d.sop u = d.vecStep u 0x15 (d.scalarInto u i.d r.1 r.2 ((e.sreg i.a).poison || (e.sreg i.b).poison)) := by
  intro e r
  refine Device.vecIssue_goesOn hat ?_ (d.scalarInto_issuePart u ..)
  rw [← Device.writeS_sound hat.sound 1]
  simp only [r, e, VIns.scalarOp]
  rcases i.x with _ | _ | _ | _ | n <;> simp

end

/-! ### Loads and stores (R107, R188, R193, R195, R197, R209) -/

section
variable {d : Device} {u : Nat} {i : VIns}

section
variable {n : Nat} (hat : d.vecAt u 0x20 i) (hsize : elemBytesOf (mfmtBits (bitsNat i.w1 31 28)) (d.eng u).vl.toNat = n)
include hat hsize

theorem Device.vld_overruns {last : Nat} (hbeyond : vecBeyond u (d.vecRow u i) n = some last) :
    d.vld u = d.vecFault u 1 last :=
  Device.vecIssue_faults hat (by simp only [hsize, hbeyond])

variable (hwithin : vecBeyond u (d.vecRow u i) n = none)
include hwithin

theorem Device.vld_nothing (hn : n = 0) : d.vld u = d.vecStep u 0x20 d :=
  Device.vecIssue_goesOn hat (by simp only [hsize, hwithin, if_pos hn]) rfl

variable (hn : n ≠ 0)
include hn

theorem Device.vld_waits (hbusy : d.vecMayRead u (d.vecRow u i) (ceilDiv n 64) = false) :
    d.vld u = d.vecRetry u 0x20 :=
  Device.vecIssue_retries hat (by simp only [hsize, hwithin, if_neg hn, hbusy, Bool.not_false, if_true])

theorem Device.vld_loads {bs : List Byte} {bad : Bool} {d' : Device}
    (hfree : d.vecMayRead u (d.vecRow u i) (ceilDiv n 64) = true)
    (hread : d.vecRead u (d.vecRow u i) (ceilDiv n 64) = (bs, bad, d')) :
    d.vld u = d.vecStep u 0x20
      (((d'.modEng u (·.putV i.d ((d.eng u).active.map fun k =>
        widen (bitsNat i.w1 31 28) (i.w1.testBit 27) (elemAt bs (mfmtBits (bitsNat i.w1 31 28)) k)) bad)).vecFlags u .none
          bad).poisonRegs u (natOfBool bad)) := by
  refine Device.vecIssue_goesOn hat ?_ ?_
  · simp only [hsize, hwithin, if_neg hn, hfree, hread, Bool.not_true, Bool.false_eq_true, if_false]
  · have hkeeps := d.vecRead_issuePart u (d.vecRow u i) (ceilDiv n 64)
    rw [hread] at hkeeps
    simp only [Device.poisonRegs_issuePart, Device.vecFlags_issuePart, Device.putV_issuePart, hkeeps]

end

section
variable (hat : d.vecAt u 0x21 i)
include hat

theorem Device.vst_overruns {last : Nat}
    (hbeyond : vecBeyond u (d.vecRow u i) ((d.eng u).packed i).1.length = some last) :
    d.vst u = d.vecFault u 2 last :=
  Device.vecIssue_faults hat (by simp only [hbeyond])

variable (hwithin : vecBeyond u (d.vecRow u i) ((d.eng u).packed i).1.length = none)
include hwithin

theorem Device.vst_waits
    (hbusy : d.vecMayWrite u (d.vecRow u i) (ceilDiv ((d.eng u).packed i).1.length 64) = false) :
    d.vst u = d.vecRetry u 0x21 :=
  Device.vecIssue_retries hat (by simp only [hwithin, hbusy, Bool.not_false, if_true])

theorem Device.vst_stores
    (hfree : d.vecMayWrite u (d.vecRow u i) (ceilDiv ((d.eng u).packed i).1.length 64) = true) :
    d.vst u = d.vecStep u 0x21
      ((d.vecWrite u (d.vecRow u i) ((d.eng u).packed i).1 ((d.eng u).vreg i.a).poison).vecFlags u
        ((d.eng u).packed i).2 false) := by
  refine Device.vecIssue_goesOn hat ?_ ?_
  · simp only [hwithin, hfree, Bool.not_true, Bool.false_eq_true, if_false]
  · simp only [Device.vecFlags_issuePart, Device.vecWrite_issuePart]

end

section
variable (hat : d.vecAt u 0x22 i)
include hat

theorem Device.sld_overruns {last : Nat} (hbeyond : vecBeyond u (d.vecRow u i) (4 * i.count) = some last) :
    d.sld u = d.vecFault u 1 last :=
  Device.vecIssue_faults hat (by simp only [hbeyond])

variable (hwithin : vecBeyond u (d.vecRow u i) (4 * i.count) = none)
include hwithin

theorem Device.sld_waits (hbusy : d.vecMayRead u (d.vecRow u i) 1 = false) : d.sld u = d.vecRetry u 0x22 :=
  Device.vecIssue_retries hat (by simp only [hwithin, hbusy, Bool.not_false, if_true])

theorem Device.sld_loads {bs : List Byte} {bad : Bool} {d' : Device} (hfree : d.vecMayRead u (d.vecRow u i) 1 = true)
    (hread : d.vecRead u (d.vecRow u i) 1 = (bs, bad, d')) :
    d.sld u = d.vecStep u 0x22
      (((d'.modEng u (·.putSs i.d ((List.range i.count).map fun k =>
        (BitVec.ofNat 32 (fieldAt bs (4 * k) 4), bad)))).vecFlags u .none bad).poisonRegs u
          (if bad then i.count else 0)) := by
  refine Device.vecIssue_goesOn hat ?_ ?_
  · simp only [hwithin, hfree, hread, Bool.not_true, Bool.false_eq_true, if_false]
  · have hkeeps := d.vecRead_issuePart u (d.vecRow u i) 1
    rw [hread] at hkeeps
    simp only [Device.poisonRegs_issuePart, Device.vecFlags_issuePart, Device.putSs_issuePart, hkeeps]

end

section
variable (hat : d.vecAt u 0x23 i)
include hat

theorem Device.sst_overruns {last : Nat} (hbeyond : vecBeyond u (d.vecRow u i) (4 * i.count) = some last) :
    d.sst u = d.vecFault u 2 last :=
  Device.vecIssue_faults hat (by simp only [hbeyond])

variable (hwithin : vecBeyond u (d.vecRow u i) (4 * i.count) = none)
include hwithin

theorem Device.sst_waits (hbusy : d.vecMayWrite u (d.vecRow u i) 1 = false) : d.sst u = d.vecRetry u 0x23 :=
  Device.vecIssue_retries hat (by simp only [hwithin, hbusy, Bool.not_false, if_true])

theorem Device.sst_stores (hfree : d.vecMayWrite u (d.vecRow u i) 1 = true) :
    let regs := (List.range i.count).map (i.a + ·)
    d.sst u = d.vecStep u 0x23
      (d.vecWrite u (d.vecRow u i) (regs.flatMap fun r => leBytes 4 ((d.eng u).sval r).toNat)
        (regs.any fun r => ((d.eng u).sreg r).poison)) := by
  intro regs
  refine Device.vecIssue_goesOn hat ?_ (d.vecWrite_issuePart u ..)
  simp only [hwithin, hfree, Bool.not_true, Bool.false_eq_true, if_false]
  rfl

end

end

/-! ### Networks (R187, R194, R195) -/

section
variable {d : Device} {u : Nat} {i : VIns}

/-- The device in which an engine has taken the receive port for `n` words on a channel, and those that have come. -/
def Device.receives (d : Device) (u : Nat) (net : Net) (vc n : Nat) : Device :=
  (d.modEng u fun e =>
    { e with recv := some { instr := e.pc, net := net, vc := vc, left := n, got := [], vl := e.vl.toNat } }).recvPump u
      (n + 1)

theorem Device.receives_issuePart (d : Device) (u : Nat) (net : Net) (vc n : Nat) :
    (d.receives u net vc n).issuePart u = d.issuePart u := by
  rw [Device.receives, Device.recvPump_issuePart, Device.modEng_issuePart]
  exact fun _ => rfl

section
variable {n : Nat} (hat : d.vecAt u 0x24 i) (hfree : (d.eng u).recv = none)
  (hsize : ceilDiv (elemBytesOf (mfmtBits (bitsNat i.w1 31 28)) (d.eng u).vl.toNat) 64 = n)
include hat hfree hsize

theorem Device.vrecv_receives (hn : n ≠ 0) :
    d.vrecv u = d.vecStep u 0x24 (d.receives u .vector (bitsNat i.w1 26 24) n) := by
  refine Device.vecIssue_goesOn hat ?_ (d.receives_issuePart u ..)
  simp only [hfree, hsize, Option.isSome_none, Bool.false_eq_true, if_false, if_neg hn]
  rfl

theorem Device.vrecv_nothing (hn : n = 0) : d.vrecv u = d.vecStep u 0x24 d :=
  Device.vecIssue_goesOn hat (by simp only [hfree, hsize, Option.isSome_none, Bool.false_eq_true, if_false, if_pos hn])
    rfl

end

theorem Device.srecv_receives (hat : d.vecAt u 0x26 i) (hfree : (d.eng u).recv = none) :
    d.srecv u = d.vecStep u 0x26 (d.receives u .scalar (bitsNat i.w1 26 24) i.count) := by
  refine Device.vecIssue_goesOn hat ?_ (d.receives_issuePart u ..)
  simp only [hfree, Option.isSome_none, Bool.false_eq_true, if_false]
  rfl

theorem Device.vsend_sends (hat : d.vecAt u 0x25 i) (hsent : ((d.drainOut u).unit u).out = []) :
    d.vsend u = d.vecStep u 0x25
      (((d.drainOut u).sendWords u .vector (bitsNat i.w1 26 24) (i.w1.testBit 23)
        ((chunks 64 (((d.eng u).packed i).1.length + 1) ((d.eng u).packed i).1).map fun c =>
          (le c, ((d.eng u).vreg i.a).poison))).vecFlags u ((d.eng u).packed i).2 false) := by
  refine Device.vecIssue_goesOn hat ?_ ?_
  · simp only [hsent, List.isEmpty_nil, Bool.not_true, Bool.false_eq_true, if_false, Device.drainOut_eng]
  · simp only [Device.vecFlags_issuePart, Device.sendWords_issuePart, Device.drainOut_issuePart]

theorem Device.ssend_sends (hat : d.vecAt u 0x27 i) (hsent : ((d.drainOut u).unit u).out = []) :
    d.ssend u = d.vecStep u 0x27
      ((d.drainOut u).sendWords u .scalar (bitsNat i.w1 26 24) (i.w1.testBit 23)
        ((List.range i.count).map fun k => (((d.eng u).sval (i.a + k)).toNat, ((d.eng u).sreg (i.a + k)).poison))) := by
  refine Device.vecIssue_goesOn hat ?_ ?_
  · simp only [hsent, List.isEmpty_nil, Bool.not_true, Bool.false_eq_true, if_false, Device.drainOut_eng]
  · simp only [Device.sendWords_issuePart, Device.drainOut_issuePart]

end

/-! ### Control (R184, R189, R190, R192) -/

section
variable {d : Device} {u : Nat} {i : VIns}

theorem Device.vloop_passes (hat : d.vecAt u 0x29 i) :
    let pc := (d.eng u).pc
    let r := d.loopPass u (if siteKind u = .mu then 2 else 1) (bitsNat i.w1 31 29) (bitsNat i.w1 28 26)
      (bitsNat i.w1 25 18) (pc + 2)
    d.vloop u = (r.2.vecGoto u (if r.1 then bitsNat i.w1 17 6 else pc + 2)).progress (siteRegion u) := by
  obtain ⟨hvec, hpump, -, -, hins, hopc⟩ := hat
  simp only [Device.vloop, hvec, hpump, hins, hopc, Bool.not_true, Bool.false_eq_true, if_false, ne_eq,
    not_true_eq_false]
  cases siteKind u <;> rfl

/-- The device in which the vector program of the MU at `u` has ended. -/
def Device.vecEnded (d : Device) (u : Nat) : Device :=
  (d.drainOut u).modMu u fun m => { m with engine := { m.engine with running := false }, vecWait := false }

theorem Device.vend_mu (hkind : siteKind u = .mu) (hat : d.vecAt u 0x3F i) :
    d.vend u = (if ((d.drainOut u).mu u).vecWait then (d.vecEnded u).muGoto u ((d.drainOut u).mu u).pc
      else d.vecEnded u).progress (siteRegion u) := by
  obtain ⟨hvec, hpump, -, -, hins, hopc⟩ := hat
  simp only [Device.vend, hvec, hpump, Device.drainOut_vins, hins, hopc, hkind, Bool.not_true, Bool.false_eq_true,
    if_false, ne_eq, not_true_eq_false]
  rfl

/-- An SFU ends once no receive is in progress and what it sent has left. -/
theorem Device.vend_sfu (hkind : siteKind u = .sfu) (hat : d.vecAt u 0x3F i) (hrecv : (d.eng u).recv = none)
    (hsent : ((d.drainOut u).unit u).out = []) :
    d.vend u = ((d.drainOut u).modSfu u fun m => { m with state := 2 }).progress (siteRegion u) := by
  obtain ⟨hvec, hpump, -, -, hins, hopc⟩ := hat
  simp only [Device.vend, hvec, hpump, Device.drainOut_vins, hins, hopc, hkind, Device.drainOut_eng, hrecv, hsent,
    Option.isSome_none, List.isEmpty_nil, Bool.not_true, Bool.or_self, Bool.false_eq_true, if_false, ne_eq,
    not_true_eq_false]

end

/-- Settles O54: each row by its lemma. The program goes on behind an instruction whose effect keeps what the engine issues
by; an access that is not free is tried again, and one beyond the memory stops the region. -/
theorem scalarMemoryAndNetwork : Obligations.ScalarMemoryAndNetwork := by
  unfold Obligations.ScalarMemoryAndNetwork
  intro s d u i hruns e gives m row
  refine ⟨?vext, ?vred, reduceLanes_sum, ?sarg, ?sop, ?vsum, ?sli, ?setvl, ?setidx, ?vnop, ?vld, ?vstWaits, ?vst,
    ?vstFaults, ?scalarsWait, ?sld, ?scalarsFault, ?sst, ?vrecv, ?vsend, ?srecv, ?ssend, ?vloop, ?vend⟩
  case vext => exact fun hat => State.answers_lift hruns rfl (Device.vext_extracts hat)
  case vred => exact fun hat => State.answers_lift hruns rfl (Device.vred_reduces hat)
  case sarg => exact fun hat => State.answers_lift hruns rfl (Device.sarg_ranks hat)
  case sop => exact fun hat => State.answers_lift hruns rfl (Device.sop_combines hat)
  case vsum =>
    exact fun hat => State.answers_lift hruns rfl (Device.vecIssue_goesOn hat rfl (d.sendSummary_issuePart u.val ..))
  case sli => exact fun hat => State.answers_lift hruns rfl (Device.vecIssue_modEng hat rfl fun _ => rfl)
  case setvl => exact fun hat => State.answers_lift hruns rfl (Device.vecIssue_modEng hat rfl fun _ => rfl)
  case setidx => exact fun hat => State.answers_lift hruns rfl (Device.vecIssue_modEng hat rfl fun _ => rfl)
  case vnop =>
    exact fun hat => State.answers_lift (f := fun d => d.vecIssue u.val 0x3E fun _ d => some d) hruns rfl
      (Device.vecIssue_goesOn hat rfl rfl)
  case vld =>
    intro n
    exact ⟨fun hn hwithin hbusy hat => State.answers_lift hruns rfl (Device.vld_waits hat rfl hwithin hn hbusy),
      fun bs bad d' hn hwithin hfree hread hat =>
        State.answers_lift hruns rfl (Device.vld_loads hat rfl hwithin hn hfree hread),
      fun hn hwithin hat => State.answers_lift hruns rfl (Device.vld_nothing hat rfl hwithin hn),
      fun last hbeyond hat => State.answers_lift hruns rfl (Device.vld_overruns hat rfl hbeyond)⟩
  case vstWaits => exact fun hwithin hbusy hat => State.answers_lift hruns rfl (Device.vst_waits hat hwithin hbusy)
  case vst => exact fun hwithin hfree hat => State.answers_lift hruns rfl (Device.vst_stores hat hwithin hfree)
  case vstFaults => exact fun last hbeyond hat => State.answers_lift hruns rfl (Device.vst_overruns hat hbeyond)
  case scalarsWait =>
    exact fun hwithin =>
      ⟨fun hbusy hat => State.answers_lift hruns rfl (Device.sld_waits hat hwithin hbusy),
        fun hbusy hat => State.answers_lift hruns rfl (Device.sst_waits hat hwithin hbusy)⟩
  case sld =>
    exact fun bs bad d' hwithin hfree hread hat =>
      State.answers_lift hruns rfl (Device.sld_loads hat hwithin hfree hread)
  case scalarsFault =>
    exact fun last hbeyond =>
      ⟨fun hat => State.answers_lift hruns rfl (Device.sld_overruns hat hbeyond),
        fun hat => State.answers_lift hruns rfl (Device.sst_overruns hat hbeyond)⟩
  case sst => exact fun hwithin hfree hat => State.answers_lift hruns rfl (Device.sst_stores hat hwithin hfree)
  case vrecv =>
    exact ⟨fun hn hfree hat => State.answers_lift hruns rfl (Device.vrecv_receives hat hfree rfl hn),
      fun hn hfree hat => State.answers_lift hruns rfl (Device.vrecv_nothing hat hfree rfl hn)⟩
  case vsend => exact fun hsent hat => State.answers_lift hruns rfl (Device.vsend_sends hat hsent)
  case srecv => exact fun hfree hat => State.answers_lift hruns rfl (Device.srecv_receives hat hfree)
  case ssend => exact fun hsent hat => State.answers_lift hruns rfl (Device.ssend_sends hat hsent)
  case vloop => exact fun hat => State.answers_lift hruns rfl (Device.vloop_passes hat)
  case vend =>
    intro hat t ended
    refine ⟨fun hkind hwait => ?_, fun hkind hwait => ?_,
      fun hkind hrecv hsent => State.answers_lift hruns rfl (Device.vend_sfu hkind hat hrecv hsent)⟩
    · exact State.answers_lift hruns rfl ((Device.vend_mu hkind hat).trans (by rw [hwait]; rfl))
    · exact State.answers_lift hruns rfl ((Device.vend_mu hkind hat).trans (by rw [hwait]; rfl))

end Sys2Proof.Machine
end

section
/-! SUPPORT and PROOFS. The control instructions of a pilot, the ends of its waits, the summaries that reach it and the
three checks that stop its region; then the limit of a backward branch. -/

namespace Sys2Proof.Machine

/-! ### Changes of pilots -/

theorem Device.modPilot_congr {d : Device} {r : Nat} {f g : Pilot → Pilot} (h : f (d.pilot r) = g (d.pilot r)) :
    d.modPilot r f = d.modPilot r g := by
  unfold Device.modPilot Tab.upd
  rw [show f (d.pilots.getD r .reset) = g (d.pilots.getD r .reset) from h]

/-- A loop that takes each index below `n` once, and at index `i` changes the part `get · i` by `g i` and no other part,
changes by its own `g` each part below `n`. -/
theorem foldl_range_get_ix {α β : Type} (get : α → Nat → β) (act : α → Nat → α) (g : Nat → β → β)
    (same : ∀ a i, get (act a i) i = g i (get a i)) (other : ∀ a i j, j ≠ i → get (act a i) j = get a j)
    (n : Nat) (a : α) (j : Nat) :
    get ((List.range n).foldl act a) j = if j < n then g j (get a j) else get a j := by
  have h := foldl_range_get (fun a i => if i = j then some (get a j) else none) act (Option.map (g j))
    (fun a i => by
      by_cases hi : i = j
      · simp [hi, same]
      · simp [hi])
    (fun a i k hk => by
      by_cases hkj : k = j
      · simp [hkj, other a i j (hkj ▸ hk)]
      · simp [hkj]) n a j
  by_cases hj : j < n
  · simpa [hj] using h
  · simpa [hj] using h

/-! ### What an event leaves of its pilot (R231) -/

/-- An event changes the pilot's bookkeeping of events only. -/
theorem Pilot.raise_eq (p : Pilot) (e : EventRec) :
    ∃ raised lost es, p.raise e = { p with evRaised := raised, evLost := lost, events := es } := by
  unfold Pilot.raise
  dsimp only
  split <;> exact ⟨_, _, _, rfl⟩

theorem Device.raiseFree_pilot (d : Device) (r code : Nat) : ∃ e, (d.raiseFree r code).pilot r = (d.pilot r).raise e :=
  ⟨_, Device.modPilot_pilot { d with free := d.free + 1 } r _⟩

/-! ### The fetch (R215) -/

/-- A row of the control program answers what its issue makes of the device. -/
theorem State.answers_issue {s : State} {d d' : Device} {c : Instr} {r opc : Nat} {act : Nat → Device → Device}
    (h : s.runs d) (he : exec c s = s.lift fun d => d.pilotIssue r opc act) (hd : d.pilotIssue r opc act = d') :
    s.answers c d' := State.answers_lift h he hd

/-- A fetch that meets an uncorrectable row stops the region whatever the instruction. -/
theorem Device.pilotIssue_uncorrectable {d : Device} {r : Nat} {k : RowMark} (opc : Nat) (act : Nat → Device → Device)
    (hready : d.pilotReady r = true) (hmark : d.progMark r (d.pilot r).pc.toNat = some k) (hk : k ≠ .correctable) :
    d.pilotIssue r opc act = d.storeFail r := by
  cases k with
  | correctable => exact absurd rfl hk
  | uncorrectable => simp [Device.pilotIssue, hready, hmark]
  | poison => simp [Device.pilotIssue, hready, hmark]

/-- A correctable row is counted and its instruction issues. -/
theorem Device.pilotIssue_correctable {d : Device} {r opc : Nat} (act : Nat → Device → Device)
    (hready : d.pilotReady r = true) (hmark : d.progMark r (d.pilot r).pc.toNat = some .correctable)
    (hopc : bitsNat (progWord (d.programIn r (d.combOf r)) (d.pilot r).pc.toNat) 63 58 = opc) :
    d.pilotIssue r opc act =
      act (progWord (d.programIn r (d.combOf r)) (d.pilot r).pc.toNat)
        (d.modPilot r fun p => { p with storeCorr := satInc p.storeCorr }) := by
  simp [Device.pilotIssue, hready, hmark, hopc]

/-! ### SETSH (R222) -/

/-- A shape register is written and the program goes on. -/
def Device.shapeSet (d : Device) (r w : Nat) (v : Word) : Device :=
  d.modPilot r fun p => (p.setShape (bitsNat w 57 52) v).next

section
variable {d : Device} {r w : Nat} (hat : d.pilotAt r 1 w)
include hat

theorem Device.setsh_immediate (hsrc : bitsNat w 51 50 = 0) :
    d.setsh r = d.shapeSet r w (BitVec.ofNat 32 (bitsNat w 31 0)) := by
  simp [Device.setsh, Device.pilotIssue_at _ hat, hsrc, Device.shapeSet, Device.pilotStep]

theorem Device.setsh_value (hsrc : bitsNat w 51 50 = 1)
    (hpoison : ((d.pilot r).sum (bitsNat w 49 45)).poison = false) :
    d.setsh r = d.shapeSet r w ((d.pilot r).sum (bitsNat w 49 45)).val := by
  simp [Device.setsh, Device.pilotIssue_at _ hat, hsrc, hpoison, Device.shapeSet, Device.pilotStep]

theorem Device.setsh_poisoned (hsrc : bitsNat w 51 50 = 1)
    (hpoison : ((d.pilot r).sum (bitsNat w 49 45)).poison = true) :
    d.setsh r = (d.raiseFree r 0x0B).shapeSet r w 0 := by
  simp [Device.setsh, Device.pilotIssue_at _ hat, hsrc, hpoison, Device.shapeSet, Device.pilotStep]

theorem Device.setsh_count (hsrc : 1 < bitsNat w 51 50) :
    d.setsh r = d.shapeSet r w (((d.pilot r).sum (bitsNat w 49 45)).count.setWidth 32) := by
  have hne : bitsNat w 51 50 ≠ 1 := by omega
  have hpos : bitsNat w 51 50 ≠ 0 := by omega
  simp [Device.setsh, Device.pilotIssue_at _ hat, hne, hpos, Device.shapeSet, Device.pilotStep]

end

/-! ### LOOPP (R223) -/

/-- The `n`-th pass of a loop of `bound` passes ends: back to the target, or on with the count cleared. -/
def Device.looped (d : Device) (r w n bound : Nat) : Device :=
  if n < max 1 bound then
    d.modPilot r fun p => { p with cnt := p.cnt.put (bitsNat w 57 56) (BitVec.ofNat 32 n) }.jump (bitsNat w 41 33)
  else d.modPilot r fun p => { p with cnt := p.cnt.put (bitsNat w 57 56) 0 }.next

section
variable {d : Device} {r w : Nat} (hat : d.pilotAt r 6 w)
include hat

theorem Device.loopp_immediate (hreg : w.testBit 55 = false) :
    d.loopp r = d.looped r w (((d.pilot r).cnt.getD (bitsNat w 57 56) 0).toNat + 1) (bitsNat w 31 0) := by
  simp [Device.loopp, Device.pilotIssue_at _ hat, hreg, Device.looped, Device.pilotStep]

theorem Device.loopp_unlimited (hreg : w.testBit 55 = true) (hmax : d.shapeMax r (bitsNat w 54 49) = none) :
    d.loopp r = d.looped r w (((d.pilot r).cnt.getD (bitsNat w 57 56) 0).toNat + 1)
      ((d.pilot r).shape.getD (bitsNat w 54 49) 0).toNat := by
  simp [Device.loopp, Device.pilotIssue_at _ hat, hreg, hmax, Device.looped, Device.pilotStep]

theorem Device.loopp_within {m : Nat} (hreg : w.testBit 55 = true)
    (hmax : d.shapeMax r (bitsNat w 54 49) = some m) (hle : ((d.pilot r).shape.getD (bitsNat w 54 49) 0).toNat ≤ m) :
    d.loopp r = d.looped r w (((d.pilot r).cnt.getD (bitsNat w 57 56) 0).toNat + 1)
      ((d.pilot r).shape.getD (bitsNat w 54 49) 0).toNat := by
  simp only [Device.loopp, Device.pilotIssue_at _ hat, hreg, hmax, if_true, decide_eq_true_eq,
    if_neg (Nat.not_lt.2 hle), Nat.min_eq_left hle]
  rfl

theorem Device.loopp_clamped {m : Nat} (hreg : w.testBit 55 = true)
    (hmax : d.shapeMax r (bitsNat w 54 49) = some m) (hlt : m < ((d.pilot r).shape.getD (bitsNat w 54 49) 0).toNat) :
    d.loopp r =
      (d.raiseFree r 0x0C).looped r w (((d.pilot r).cnt.getD (bitsNat w 57 56) 0).toNat + 1) m := by
  simp only [Device.loopp, Device.pilotIssue_at _ hat, hreg, hmax, if_true, decide_eq_true_eq, if_pos hlt,
    Nat.min_eq_right hlt.le]
  rfl

end

/-! ### BR (R226, R227) -/

/-- The condition of the branch `w` can be read: it tests nothing, or a register that is not poisoned. -/
def Pilot.brReads (p : Pilot) (w : Nat) : Prop := bitsNat w 57 55 = 0 ∨ (p.sum (bitsNat w 54 50)).poison = false

/-- The condition of the branch `w` on the register it tests. -/
def Pilot.brTests (p : Pilot) (w : Nat) : Bool :=
  brHolds (bitsNat w 57 55) (p.sum (bitsNat w 54 50)).ty.toNat (p.sum (bitsNat w 54 50)).val
    (BitVec.ofNat 32 (bitsNat w 31 0))

/-- How often the branch at PC has been taken in this run of the comb. -/
def Pilot.brTaken (p : Pilot) : Nat := p.taken.getD p.pc.toNat 0

section
variable {d : Device} {r w : Nat} (hat : d.pilotAt r 5 w)
include hat

theorem Device.br_poisoned (hcond : bitsNat w 57 55 ≠ 0)
    (hpoison : ((d.pilot r).sum (bitsNat w 54 50)).poison = true) :
    d.br r = (d.raiseFree r 0x0B).modPilot r fun p => p.next := by
  simp [Device.br, Device.pilotIssue_at _ hat, hcond, hpoison, Device.pilotStep]

/-- A branch whose condition can be read raises nothing. -/
theorem Device.br_reads (hreads : (d.pilot r).brReads w) :
    d.br r =
      if (d.pilot r).brTests w = true ∧
          (¬bitsNat w 41 33 ≤ (d.pilot r).pc.toNat ∨ (d.pilot r).brTaken < bitsNat w 49 42) then
        d.modPilot r fun p =>
          { p with taken := if bitsNat w 41 33 ≤ (d.pilot r).pc.toNat then
              p.taken.put (d.pilot r).pc.toNat ((d.pilot r).brTaken + 1) else p.taken }.jump (bitsNat w 41 33)
      else d.modPilot r fun p => p.next := by
  have hsound : (bitsNat w 57 55 != 0 && ((d.pilot r).sum (bitsNat w 54 50)).poison) = false := by
    rcases hreads with hnone | hpoison
    · simp [hnone]
    · simp [hpoison]
  simp only [Device.br, Device.pilotIssue_at _ hat, hsound, Bool.false_eq_true, if_false, Bool.not_false, Bool.true_and,
    Bool.not_eq_true', decide_eq_false_iff_not, decide_eq_true_eq]
  rfl

theorem Device.br_forward (hreads : (d.pilot r).brReads w) (hholds : (d.pilot r).brTests w = true)
    (hahead : (d.pilot r).pc.toNat < bitsNat w 41 33) :
    d.br r = d.modPilot r fun p => p.jump (bitsNat w 41 33) := by
  simp only [Device.br_reads hat hreads, if_pos (And.intro hholds (Or.inl (Nat.not_le.2 hahead))),
    if_neg (Nat.not_le.2 hahead)]

theorem Device.br_backward (hreads : (d.pilot r).brReads w) (hholds : (d.pilot r).brTests w = true)
    (hback : bitsNat w 41 33 ≤ (d.pilot r).pc.toNat) (hlimit : (d.pilot r).brTaken < bitsNat w 49 42) :
    d.br r = d.modPilot r fun q =>
      { q with taken := q.taken.put (d.pilot r).pc.toNat ((d.pilot r).brTaken + 1) }.jump (bitsNat w 41 33) := by
  simp only [Device.br_reads hat hreads, if_pos (And.intro hholds (Or.inr hlimit)), if_pos hback]

theorem Device.br_falls (hreads : (d.pilot r).brReads w)
    (hfalls : (d.pilot r).brTests w = false ∨
      (bitsNat w 41 33 ≤ (d.pilot r).pc.toNat ∧ bitsNat w 49 42 ≤ (d.pilot r).brTaken)) :
    d.br r = d.modPilot r fun p => p.next := by
  rw [Device.br_reads hat hreads, if_neg]
  rintro ⟨hholds, hgoes⟩
  rcases hfalls with hfails | ⟨hback, hlimit⟩
  · exact Bool.false_ne_true (hfails.symm.trans hholds)
  · exact hgoes.elim (absurd hback) (Nat.not_lt.2 hlimit)

/-- A backward branch is taken below its LIMIT and counted, or the program goes on with the counts as they are. -/
theorem Device.br_backward_cases (hback : bitsNat w 41 33 ≤ (d.pilot r).pc.toNat) :
    ((d.pilot r).brTaken < bitsNat w 49 42 ∧ ((d.br r).pilot r).pc = BitVec.ofNat 9 (bitsNat w 41 33) ∧
        ((d.br r).pilot r).taken = (d.pilot r).taken.put (d.pilot r).pc.toNat ((d.pilot r).brTaken + 1)) ∨
      (¬((d.pilot r).brTaken < bitsNat w 49 42 ∧ (d.pilot r).brReads w ∧ (d.pilot r).brTests w = true) ∧
        ((d.br r).pilot r).pc = BitVec.ofNat 9 ((d.pilot r).pc.toNat + 1) ∧
        ((d.br r).pilot r).taken = (d.pilot r).taken) := by
  by_cases hreads : (d.pilot r).brReads w
  · by_cases htaken : (d.pilot r).brTests w = true ∧ (d.pilot r).brTaken < bitsNat w 49 42
    · obtain ⟨hholds, hlimit⟩ := htaken
      rw [Device.br_backward hat hreads hholds hback hlimit, Device.modPilot_pilot]
      exact .inl ⟨hlimit, rfl, rfl⟩
    · have hfalls : (d.pilot r).brTests w = false ∨ bitsNat w 49 42 ≤ (d.pilot r).brTaken := by
        rw [not_and_or, Nat.not_lt, Bool.not_eq_true] at htaken
        exact htaken
      rw [Device.br_falls hat hreads (hfalls.imp_right fun hlimit => ⟨hback, hlimit⟩), Device.modPilot_pilot]
      exact .inr ⟨fun ⟨hlimit, _, hholds⟩ => htaken ⟨hholds, hlimit⟩, rfl, rfl⟩
  · have hbad := hreads
    rw [Pilot.brReads, not_or, Bool.not_eq_false] at hbad
    obtain ⟨e, he⟩ := d.raiseFree_pilot r 0x0B
    obtain ⟨_, _, _, hraise⟩ := (d.pilot r).raise_eq e
    rw [Device.br_poisoned hat hbad.1 hbad.2, Device.modPilot_pilot, he, hraise]
    exact .inr ⟨fun h => hreads h.2.1, rfl, rfl⟩

end

/-! ### PUB and CLRS (R220) -/

/-- The summary that PUB `w` of region `r` sends to pilot `q`. -/
def Device.pubMsg (d : Device) (r w q : Nat) : SummaryMsg :=
  { pub := true, src := r, sent := d.now, due := d.pubDue r q, idx := bitsNat w 57 53, op := 0,
    ty := ((d.pilot r).sum (bitsNat w 57 53)).ty, val := ((d.pilot r).sum (bitsNat w 57 53)).val,
    poison := ((d.pilot r).sum (bitsNat w 57 53)).poison, epoch := (d.pilot r).comb }

/-- PUB `w` has sent to every pilot of its MASK. -/
def Device.published (d : Device) (r w : Nat) : Device :=
  (List.range 8).foldl (fun e q =>
    if (bitsNat w 52 45).testBit q then e.modPilot q fun t => { t with sumBus := t.sumBus ++ [d.pubMsg r w q] }
    else e) d

theorem Device.published_pilot (d : Device) (r w q : Nat) :
    (d.published r w).pilot q =
      if q < 8 ∧ (bitsNat w 52 45).testBit q then
        { d.pilot q with sumBus := (d.pilot q).sumBus ++ [d.pubMsg r w q] } else d.pilot q := by
  rw [Device.published, foldl_range_get_ix Device.pilot _
    (fun q t => if (bitsNat w 52 45).testBit q then { t with sumBus := t.sumBus ++ [d.pubMsg r w q] } else t)
    (fun e i => by split <;> simp) (fun e i j hj => by split <;> simp [Device.modPilot_pilot_ne, hj]), ite_and]

/-- PUB changes pilots only. -/
theorem Device.published_frame (d : Device) (r w : Nat) : { d.published r w with pilots := d.pilots } = d :=
  foldl_keeps (fun e : Device => { e with pilots := d.pilots }) (fun e q => by split <;> rfl) _ d

theorem Device.pub_sends {d : Device} {r w : Nat} (hat : d.pilotAt r 9 w) :
    d.pub r = (d.published r w).modPilot r (·.next) :=
  Device.pilotIssue_at _ hat

/-- The summary registers that CLRS `w` leaves: what has arrived in this clk is applied after the clear. -/
theorem Device.clrs_clears {d : Device} {r w : Nat} (hat : d.pilotAt r 0xA w) :
    d.clrs r = d.modPilot r fun p =>
      { p with sums := ((d.pilot r).clearSums (bitsNat w 57 53) (bitsNat w 52 48)).sums }.next :=
  (Device.pilotIssue_at _ hat).trans (Device.modPilot_congr rfl)

/-! ### The ends of waits (R218, R282) -/

section
variable {d : Device} {r : Nat} (hlive : d.live r = true) {x : PilotWait}
include hlive

theorem Device.waitfEnd_ends {die f : Nat} {sense : Bool} (hwait : (d.pilot r).wait = some x)
    (hwhat : x.what = .flag die f sense) (hflag : x.seen = true ∨ d.flagVal die f = sense) :
    d.waitfEnd r = d.endWait r := by
  simp only [Device.waitfEnd, hwait, hwhat, hlive, hflag, and_self, if_true]

theorem Device.waitsEnd_ends {k n : Nat} (hwait : (d.pilot r).wait = some x) (hwhat : x.what = .summary k n)
    (hcount : n ≤ ((d.pilot r).sum k).count.toNat) : d.waitsEnd r = d.endWait r := by
  simp only [Device.waitsEnd, hwait, hwhat, hlive, hcount, and_self, if_true]

theorem Device.waitcEnd_ends (hlast : (d.pilot r).waitc = 1) :
    d.waitcEnd r = d.modPilot r fun p => { p with waitc := 0 }.next := if_pos ⟨hlive, hlast⟩

/-! ### Summaries (R60, R220, R221) -/

section
variable {m : SummaryMsg} {rest : List SummaryMsg}
  (hfirst : firstSummary (clkUnits (d.pwrRegion r).freq.toNat) (d.pilot r).sumBus = some (m, rest))
include hfirst

theorem Device.summaryArrival_first :
    d.summaryArrival r = (d.modPilot r fun p => { p with sumBus := rest }).takeSummary r m := by
  simp only [Device.summaryArrival, hlive, Bool.not_true, Bool.false_eq_true, if_false, hfirst]

/-- A summary of the comb that the region runs reaches its register. -/
theorem Device.summaryArrival_takes (hepoch : m.epoch = (d.pilot r).comb) :
    d.summaryArrival r = (d.modPilot r fun p => { p with sumBus := rest }).modPilot r fun p =>
      { p with sums := p.sums.upd m.idx .reset (·.combine m), arrived := p.arrived ++ [m] } := by
  rw [Device.summaryArrival_first hlive hfirst]
  exact if_pos (by rw [Device.modPilot_pilot]; exact hepoch)

/-- One of another comb is discarded as stale. -/
theorem Device.summaryArrival_discards (hepoch : m.epoch ≠ (d.pilot r).comb) :
    d.summaryArrival r = (d.modPilot r fun p => { p with sumBus := rest }).staleReport r := by
  rw [Device.summaryArrival_first hlive hfirst]
  exact if_neg (by rw [Device.modPilot_pilot]; exact hepoch)

end

/-! ### The checks that stop a region (R103, R234, R294) -/

theorem Device.lockstep_stops (g : BitVec 8) :
    d.lockstep r g =
      let t := (d.backToClk r).modPilot r fun q => { q with lockGroups := g, lockClk := (d.pilot r).clkWord }
      ((t.record 7 2 (t.atRegion r)
        (leBytes 1 g.toNat ++ leBytes 3 0 ++ leBytes 4 (d.pilot r).clkWord.toNat)).raiseFree r 0x22).stopRegion r 0xFF
          0xFF 3 := if_neg (by simp [hlive])

theorem Device.stallWatchdog_stops (hstall : 2 ^ (d.pilot r).stallLog2.toNat ≤ (d.pilot r).stall) :
    d.stallWatchdog r = ((d.logEnter r 5 (d.stallSnapshot r)).raiseFree r 0x20).stopRegion r 0xFF 0xFF 1 :=
  if_neg (by simp [hlive, hstall])

section
variable {y : TimedWait} (hwaits : (d.regionWaits r).find? (fun w => decide (2 ^ d.waitLog2 r ≤ w.clk)) = some y)
include hwaits

/-- A wait of the pilot stops the region at no site. -/
theorem Device.waitWatchdog_pilot (hsite : y.site = none) :
    d.waitWatchdog r = ((d.logEnter r 6 (d.waitRecord r y)).raiseFree r 0x21).stopRegion r 0xFF 0xFF 2 := by
  simp only [Device.waitWatchdog, hlive, Bool.not_true, Bool.false_eq_true, if_false, hwaits, hsite]

/-- A wait of a unit stops it at the unit's site. -/
theorem Device.waitWatchdog_site {u : Nat} (hsite : y.site = some u) :
    d.waitWatchdog r = ((d.logEnter r 6 (d.waitRecord r y)).raiseFree r 0x21).stopRegion r (siteX u) (siteY u) 2 := by
  simp only [Device.waitWatchdog, hlive, Bool.not_true, Bool.false_eq_true, if_false, hwaits, hsite]

end

end

/-- Lockstep takes the pilot back to the begin of its clk, but for its events. -/
theorem Device.backToClk_pilot {d : Device} {r : Nat} {p : Pilot} (h : d.clkPilots.find r = some p) :
    ∃ es, (d.backToClk r).pilot r = { p with events := es } := by
  simp only [Device.backToClk, h, Device.modPilot_pilot]
  exact ⟨_, rfl⟩

/-- Settles O42: each instruction by what it issues, each other row by the lemma of its premises. -/
theorem pilotInstructions : Obligations.PilotInstructions := by
  unfold Obligations.PilotInstructions
  constructor
  · intro s d r w hruns p
    refine ⟨?setsh, ?waitf, ?setf, ?waits, ?br, ?loopp, ?token, ?event, ?pub, ?clrs, ?waitc, ?swap, ?nop, ?bad,
      ?corrected⟩
    case setsh =>
      intro hat src x set
      exact ⟨fun hsrc => State.answers_lift hruns rfl (Device.setsh_immediate hat hsrc),
        fun hsrc hpoison => State.answers_lift hruns rfl (Device.setsh_value hat hsrc hpoison),
        fun hsrc hpoison => State.answers_lift hruns rfl (Device.setsh_poisoned hat hsrc hpoison),
        fun hsrc => State.answers_lift hruns rfl (Device.setsh_count hat hsrc)⟩
    case waitf => exact fun hat => State.answers_issue hruns rfl (Device.pilotIssue_at _ hat)
    case setf => exact fun hat => State.answers_issue hruns rfl (Device.pilotIssue_at _ hat)
    case waits => exact fun hat => State.answers_issue hruns rfl (Device.pilotIssue_at _ hat)
    case br =>
      intro hat x holds n
      exact ⟨fun hcond hpoison => State.answers_lift hruns rfl (Device.br_poisoned hat hcond hpoison),
        fun hreads hholds hahead => State.answers_lift hruns rfl (Device.br_forward hat hreads hholds hahead),
        fun hreads hholds hback hlimit =>
          State.answers_lift hruns rfl (Device.br_backward hat hreads hholds hback hlimit),
        fun hreads hfalls => State.answers_lift hruns rfl (Device.br_falls hat hreads hfalls)⟩
    case loopp =>
      intro hat n go v
      exact ⟨fun hreg => State.answers_lift hruns rfl (Device.loopp_immediate hat hreg),
        fun hreg hmax => State.answers_lift hruns rfl (Device.loopp_unlimited hat hreg hmax),
        fun m hreg hmax hle => State.answers_lift hruns rfl (Device.loopp_within hat hreg hmax hle),
        fun m hreg hmax hlt => State.answers_lift hruns rfl (Device.loopp_clamped hat hreg hmax hlt)⟩
    case token => exact fun hat => State.answers_issue hruns rfl (Device.pilotIssue_at _ hat)
    case event => exact fun hat => State.answers_issue hruns rfl (Device.pilotIssue_at _ hat)
    case pub =>
      intro hat m got
      have hgot (q : Nat) : (d.published r.val w).pilot q = got q := d.published_pilot r.val w q
      refine ⟨_, State.answers_lift hruns rfl (Device.pub_sends hat), ?_, fun q hq => ?_, d.published_frame r.val w⟩
      · rw [Device.modPilot_pilot, hgot]
      · rw [Device.modPilot_pilot_ne _ _ _ hq, hgot]
    case clrs => exact fun hat => State.answers_lift hruns rfl (Device.clrs_clears hat)
    case waitc => exact fun hat => State.answers_issue hruns rfl (Device.pilotIssue_at _ hat)
    case swap => exact fun hat => State.answers_issue hruns rfl (Device.pilotIssue_at _ hat)
    case nop => exact fun hat => State.answers_issue hruns rfl (Device.pilotIssue_at _ hat)
    case bad =>
      intro c k hc hready hmark hk
      have hfails (opc : Nat) (act : Nat → Device → Device) := Device.pilotIssue_uncorrectable opc act hready hmark hk
      simp only [List.mem_cons, List.not_mem_nil, or_false] at hc
      rcases hc with rfl | rfl | rfl | rfl | rfl | rfl | rfl | rfl | rfl | rfl | rfl | rfl | rfl <;>
        exact State.answers_issue hruns rfl (hfails _ _)
    case corrected =>
      exact fun hready hmark hopc => State.answers_issue hruns rfl (Device.pilotIssue_correctable _ hready hmark hopc)
  · intro s d r hruns hlive p
    refine ⟨?waitfEnd, ?waitsEnd, ?waitcEnd, ?arrival, ?lockstep, fun p₀ => Device.backToClk_pilot, ?stall, ?wait⟩
    case waitfEnd =>
      exact fun x die f sense hwait hwhat hflag =>
        State.answers_lift hruns rfl (Device.waitfEnd_ends hlive hwait hwhat hflag)
    case waitsEnd =>
      exact fun x k n hwait hwhat hcount =>
        State.answers_lift hruns rfl (Device.waitsEnd_ends hlive hwait hwhat hcount)
    case waitcEnd => exact fun hlast => State.answers_lift hruns rfl (Device.waitcEnd_ends hlive hlast)
    case arrival =>
      intro m rest hfirst
      refine ⟨fun hepoch => ⟨_, State.answers_lift hruns rfl (Device.summaryArrival_takes hlive hfirst hepoch), ?_,
        fun q hq => ?_, rfl⟩,
        fun hepoch => State.answers_lift hruns rfl (Device.summaryArrival_discards hlive hfirst hepoch)⟩
      · rw [Device.modPilot_pilot, Device.modPilot_pilot]
      · rw [Device.modPilot_pilot_ne _ _ _ hq, Device.modPilot_pilot_ne _ _ _ hq]
    case lockstep => exact fun g => State.answers_lift hruns rfl (Device.lockstep_stops hlive g)
    case stall => exact fun hstall => State.answers_lift hruns rfl (Device.stallWatchdog_stops hlive hstall)
    case wait =>
      exact fun x hwaits =>
        ⟨fun hsite => State.answers_lift hruns rfl (Device.waitWatchdog_pilot hlive hwaits hsite),
          fun u hsite => State.answers_lift hruns rfl (Device.waitWatchdog_site hlive hwaits hsite)⟩

/-- Settles O43: a backward branch is counted where it is taken, and falls through with its counts as they are. -/
theorem backwardBranchLimit : Obligations.BackwardBranchLimit := by
  unfold Obligations.BackwardBranchLimit
  refine ⟨fun s d r w hruns hat hback => ?_, fun _ _ _ _ _ => rfl⟩
  intro p i n x
  refine ⟨d.br r.val, State.answers_lift hruns rfl rfl, ?_⟩
  rcases Device.br_backward_cases hat hback with ⟨hlimit, hpc, htaken⟩ | ⟨hnot, hpc, htaken⟩
  · rw [hpc, htaken]
    exact ⟨fun _ _ _ => ⟨rfl, Tab.getD_put_self ..⟩, fun hge => absurd hlimit (Nat.not_lt.2 hge),
      fun j hj => Tab.getD_put_ne _ _ _ hj⟩
  · rw [hpc, htaken]
    exact ⟨fun hlimit hreads hholds => absurd ⟨hlimit, hreads, hholds⟩ hnot, fun _ => ⟨rfl, rfl⟩, fun _ _ => rfl⟩

end Sys2Proof.Machine
end

section
/-! SUPPORT and PROOFS. The commands of the power and health families: which checks each passes, and what it then
does. -/

namespace Sys2Proof.Machine

/-! ### LEEWAY_SET and PWR_STATE (R411, R412, R417) -/

/-- The greatest index below `n` that satisfies a test; 0 if none does. -/
def lastBelow (p : Nat → Bool) (n : Nat) : Nat := (List.range n).foldl (fun best s => if p s then s else best) 0

theorem lastBelow_succ (p : Nat → Bool) (n : Nat) : lastBelow p (n + 1) = if p n then n else lastBelow p n := by
  rw [lastBelow, List.range_succ, List.foldl_append]
  rfl

theorem lastBelow_greatest {p : Nat → Bool} (hzero : p 0 = true) (n : Nat) :
    p (lastBelow p (n + 1)) = true ∧ lastBelow p (n + 1) < n + 1 ∧
      ∀ k, lastBelow p (n + 1) < k → k < n + 1 → p k = false := by
  induction n with
  | zero =>
    rw [lastBelow_succ, if_pos hzero]
    exact ⟨hzero, by omega, fun k hlt hle => by omega⟩
  | succ n ih =>
    rw [lastBelow_succ]
    obtain ⟨hfits, hbelow, hlast⟩ := ih
    by_cases hp : p (n + 1) = true
    · rw [if_pos hp]
      exact ⟨hp, by omega, fun k hlt hle => by omega⟩
    · rw [if_neg hp]
      refine ⟨hfits, by omega, fun k hlt hle => ?_⟩
      rcases Nat.lt_or_eq_of_le (Nat.le_of_lt_succ hle) with hk | rfl
      · exact hlast k hlt hk
      · exact Bool.not_eq_true _ ▸ hp

/-- The target that LEEWAY_SET leaves: the deepest state up to the present one that the new leeway allows. -/
def targetFor (t leeway : Nat) : Nat :=
  if wakeFits t leeway then t else lastBelow (wakeFits · leeway) t

theorem targetFor_fits {t leeway : Nat} (h : wakeFits t leeway = true) : targetFor t leeway = t := if_pos h

theorem targetFor_lowers {t leeway : Nat} (h : wakeFits t leeway = false) :
    wakeFits (targetFor t leeway) leeway = true ∧ targetFor t leeway < t ∧
      ∀ k, targetFor t leeway < k → k < t → wakeFits k leeway = false := by
  cases t with
  | zero => exact absurd h (by simp [wakeFits])
  | succ n =>
    rw [targetFor, if_neg (by simp [h])]
    exact lastBelow_greatest (p := (wakeFits · leeway)) rfl n

section
variable {d : Device} {id : CmdId} {ps : List Byte}

theorem Device.leewaySet_lowers (hready : d.ready id 0x0601 ps) :
    d.leewaySet id =
      (((d.acted id).modPwr fun p =>
        { p with leeway := BitVec.ofNat 32 (fieldAt ps 0 4),
                 target := BitVec.ofNat 3 (targetFor d.pwr.target.toNat (fieldAt ps 0 4)) }).settle).complete id
        Status.ok := Device.runCmd_ready _ hready

/-- A PWR_STATE that waits completes once no wake is in progress. -/
theorem Device.settle_completes (hcmd : d.toState.parkSets.pwr.stateCmd = some id)
    (hawake : d.toState.parkSets.pwr.wakeTo = none) :
    d.settle = (d.toState.parkSets.modPwr fun p => { p with stateCmd := none }).complete id Status.ok := by
  simp only [Device.settle, hcmd, hawake]

theorem Device.settle_waits
    (h : d.toState.parkSets.pwr.stateCmd = none ∨ d.toState.parkSets.pwr.wakeTo.isSome = true) :
    d.settle = d.toState.parkSets := by
  rcases h with hcmd | hwake
  · simp only [Device.settle, hcmd]
  · obtain ⟨t, ht⟩ := Option.isSome_iff_exists.1 hwake
    cases hcmd : d.toState.parkSets.pwr.stateCmd <;> simp only [Device.settle, hcmd, ht]

theorem Device.pwrStateCmd_targets (hready : d.ready id 0x0602 ps) (hreserved : fieldAt ps 1 3 = 0)
    (hstate : fieldAt ps 0 1 ≤ 3) (hfits : wakeFits (fieldAt ps 0 1) d.pwr.leeway.toNat = true)
    (hdeep : fieldAt ps 0 1 = 3 → d.tick.life = .off) :
    d.pwrStateCmd id =
      ((d.acted id).modPwr fun p =>
        { p with target := BitVec.ofNat 3 (fieldAt ps 0 1), stateCmd := some id }).settle := by
  have htick : ¬(fieldAt ps 0 1 = 3 ∧ d.tick.life ≠ .off) := fun ⟨h, hlife⟩ => hlife (hdeep h)
  simp only [Device.pwrStateCmd, Device.runCmd_ready _ hready, Device.acted_pwr, Device.acted_tick, hreserved,
    Nat.not_lt.2 hstate, hfits, htick, ne_eq, not_true_eq_false, Bool.not_true, Bool.false_eq_true, if_false]

/-! ### PWR_REGION (R418, R430, R447, R493) -/

/-- The device in which PWR_REGION has stored the ceiling of its region. -/
def Device.ceilingSet (d : Device) (ps : List Byte) : Device :=
  d.modPwrRegion (fieldAt ps 0 1) fun g => { g with ceiling := BitVec.ofNat 4 (fieldAt ps 1 1) }

theorem Device.pwrRegionCmd_sets (hready : d.ready id 0x0603 ps) (hreserved : fieldAt ps 2 2 = 0)
    (hregion : fieldAt ps 0 1 ≤ 7) (hcode : fieldAt ps 1 1 ≤ 4) (htrip : d.hlt.trip = false)
    (hclock : d.clockLost = false) (hheld : (d.pwrRegion (fieldAt ps 0 1)).heldOff = false)
    (hcombs : ∀ k ∈ d.combs, k.code (fieldAt ps 0 1) ≤ fieldAt ps 1 1) :
    d.pwrRegionCmd id =
      let set := (d.acted id).ceilingSet ps
      if fieldAt ps 1 1 = 0 then (set.placeRegion set.pwr.state.toNat (fieldAt ps 0 1)).complete id Status.ok
      else if (d.pwrRegion (fieldAt ps 0 1)).ceiling = 0 then
        set.modPwrRegion (fieldAt ps 0 1) fun g => { g with startCmd := some id }
      else set.complete id Status.ok := by
  have hrange : ¬(7 < fieldAt ps 0 1 ∨ 4 < fieldAt ps 1 1) := by omega
  have hstate : ¬((d.acted id).hlt.trip = true ∨ (d.acted id).clockLost = true ∨
      ((d.acted id).pwrRegion (fieldAt ps 0 1)).heldOff = true) := by
    simp only [show (d.acted id).clockLost = d.clockLost from rfl, Device.acted_hlt,
      show (d.acted id).pwrRegion (fieldAt ps 0 1) = d.pwrRegion (fieldAt ps 0 1) from rfl, htrip, hclock, hheld,
      Bool.false_eq_true, or_self, not_false_eq_true]
  have hallowed : ¬((d.acted id).combs.any fun k => decide (fieldAt ps 1 1 < k.code (fieldAt ps 0 1))) = true := by
    rw [List.any_eq_true]
    rintro ⟨k, hk, hlt⟩
    exact Nat.not_lt.2 (hcombs k hk) (of_decide_eq_true hlt)
  rw [Device.pwrRegionCmd, Device.runCmd_ready _ hready]
  simp only [hreserved, hrange, hstate, hallowed, ne_eq, not_true_eq_false, if_false]
  rfl

/-! ### PWR_STATUS and PWR_LIMIT (R427, R438, R494) -/

theorem Device.pwrLimit_sets (hready : d.ready id 0x0605 ps) (hlow : 1000 ≤ fieldAt ps 0 4)
    (hhigh : fieldAt ps 0 4 ≤ 2000) :
    d.pwrLimit id =
      (((d.acted id).modPwr fun p => { p with limit := BitVec.ofNat 16 (fieldAt ps 0 4) }).evalEmergencies).complete id
        Status.ok :=
  (Device.runCmd_ready _ hready).trans (if_neg (by omega))

/-! ### HLT_READ (R425) -/

section
variable (hready : d.ready id 0x0701 ps) (hreserved : fieldAt ps 1 3 = 0)
include hready hreserved

theorem Device.hltRead_temperatures (hkind : fieldAt ps 0 1 = 0) :
    d.hltRead id =
      (d.acted id).complete id Status.ok ((List.range 264).flatMap (fun i => leBytes 2 (d.sensorWord i)) ++
        (List.range 8).flatMap fun k => leBytes 2 (16 * (d.stack k).temp.toNat)) := by
  simp only [Device.hltRead, Device.runCmd_ready _ hready, hreserved, hkind, ne_eq, not_true_eq_false, if_false]
  rfl

theorem Device.hltRead_voltages (hkind : fieldAt ps 0 1 = 1) :
    d.hltRead id =
      ((List.range 8).foldl (fun d r => d.modPwrRegion r fun g => { g with lowest := 0xFFFF }) (d.acted id)).complete id
        Status.ok ((List.range 8).flatMap d.voltReadout ++ leBytes 4 d.pwr.powerDeci.toNat) := by
  simp only [Device.hltRead, Device.runCmd_ready _ hready, hreserved, hkind, ne_eq, not_true_eq_false, if_false]
  rfl

theorem Device.hltRead_oscillators (hkind : fieldAt ps 0 1 = 2) :
    d.hltRead id =
      (d.acted id).complete id Status.ok ((List.range 8).flatMap fun r =>
        leBytes 4 (d.pwrRegion r).oscillator.toNat ++ leBytes 4 (d.sec.fuses.oscillators.getD r 0).toNat) := by
  simp only [Device.hltRead, Device.runCmd_ready _ hready, hreserved, hkind, ne_eq, not_true_eq_false, if_false]
  rfl

end

/-! ### HLT_THRESH (R426) -/

theorem Device.hltThresh_waits (hready : d.ready id 0x0705 ps)
    (hsound : threshOk (fieldAt ps 0 2) (fieldAt ps 2 2) (fieldAt ps 4 2) (fieldAt ps 6 2) (fieldAt ps 8 2)
      (fieldAt ps 10 2) (fieldAt ps 12 2) = true) (hreserved : fieldAt ps 14 2 = 0) :
    d.hltThresh id =
      ((d.acted id).modHlt fun h => { h with threshNext := some (Thresholds.ofBytes ps) }).complete id Status.ok := by
  simp [Device.hltThresh, Device.runCmd_ready _ hready, hsound, hreserved]

/-! ### DEVCARD_LOAD (R437, R460) -/

/-- The device in which a card is stored with its hash. -/
def Device.cardStored (d : Device) (ps : List Byte) : Device :=
  (d.modHlt fun h => { h with card := some ps }).modSec fun x => { x with cardHash := sha256 ps }

section
variable (hready : d.ready id 0x0702 ps) (hlife : d.tick.life = .off) (htrip : d.hlt.trip = false)
include hready hlife htrip

/-- A card that is accepted moves the setpoints of the running regions at once. -/
theorem Device.devcardLoad_accepts (hcard : cardOk d.sec.fuses.serial ps = true) :
    d.devcardLoad id =
      ((List.range 8).foldl (fun d r =>
        if (d.pwrRegion r).freq = 0 then d else d.setFreq r (d.pwrRegion r).freq.toNat)
        ((d.acted id).cardStored ps)).complete id Status.ok := by
  have hoff (c : BitVec 4) : (c.toNat = 0) = (c = 0) := propext (BitVec.toNat_inj (y := 0))
  simp only [Device.devcardLoad, Device.runCmd_ready _ hready, Device.acted_tick, Device.acted_hlt, Device.acted_sec,
    hlife, htrip, hcard, ne_eq, not_true_eq_false, Bool.false_eq_true, or_self, Bool.not_true, if_false, hoff]
  rfl

theorem Device.devcardLoad_refuses (hcard : cardOk d.sec.fuses.serial ps = false) :
    d.devcardLoad id =
      ((d.acted id).modHlt fun h => { h with refused := satInc h.refused }).complete id Status.devcardFormat := by
  simp only [Device.devcardLoad, Device.runCmd_ready _ hready, Device.acted_tick, Device.acted_hlt, Device.acted_sec,
    hlife, htrip, hcard, ne_eq, not_true_eq_false, Bool.false_eq_true, or_self, Bool.not_false, if_true, if_false]

end

/-! ### INPUT_CLEAR (R433) -/

theorem Device.inputClear_clears (hready : d.ready id 0x0704 ps) (hreserved : fieldAt ps 1 3 = 0)
    (hmask : fieldAt ps 0 1 < 8)
    (hlevel : ∀ i, i < 3 → (fieldAt ps 0 1).testBit i = true → (d.input i).level = false) :
    d.inputClear id =
      ((List.range 3).foldl (fun d i =>
        if (fieldAt ps 0 1).testBit i then d.modInput i fun p => { p with stuck := false } else d)
        (d.acted id)).complete id Status.ok := by
  have hall : ¬((List.range 3).any fun i => (fieldAt ps 0 1).testBit i && ((d.acted id).input i).level) = true := by
    rw [List.any_eq_true]
    rintro ⟨i, hi, hset⟩
    rw [Bool.and_eq_true] at hset
    exact Bool.false_ne_true ((hlevel i (List.mem_range.1 hi) hset.1).symm.trans hset.2)
  simp only [Device.inputClear, Device.runCmd_ready _ hready, hreserved, Nat.not_le.2 hmask, hall, ne_eq,
    not_true_eq_false, Bool.false_eq_true, if_false]

/-! ### COUNTER_READ (R475) -/

theorem Device.counterRead_reads (hready : d.ready id 0x0A03 ps) (haddr : fieldAt ps 0 4 % 4 = 0)
    (hwhole : fieldAt ps 4 4 % 4 = 0) (hlow : 4 ≤ fieldAt ps 4 4) (hhigh : fieldAt ps 4 4 ≤ 4096)
    (hmapped : counterRangeOk (fieldAt ps 0 4) (fieldAt ps 4 4) = true) :
    d.counterRead id =
      ((d.acted id).counterRange (fieldAt ps 4 4 / 4) (fieldAt ps 0 4)).2.complete id Status.ok
        ((d.acted id).counterRange (fieldAt ps 4 4 / 4) (fieldAt ps 0 4)).1 := by
  have hsound : ¬(fieldAt ps 0 4 % 4 ≠ 0 ∨ fieldAt ps 4 4 % 4 ≠ 0 ∨ fieldAt ps 4 4 < 4 ∨ 4096 < fieldAt ps 4 4) := by
    omega
  simp only [Device.counterRead, Device.runCmd_ready _ hready, hsound, hmapped, Bool.not_true, Bool.false_eq_true,
    if_false]

/-! ### WATCHDOG_SET (R236, R293) -/

/-- What WATCHDOG_SET does for region `r`. -/
def Device.setLimits (mask st wt : Nat) (d : Device) (r : Nat) : Device :=
  if !mask.testBit r then d
  else
    let d := if st = 0 then d else d.modPilot r fun p => { p with stallNext := some (BitVec.ofNat 5 st) }
    if wt = 0 then d
    else d.modHome (r / 2) fun h =>
      if r % 2 = 0 then { h with waitNextW := some (BitVec.ofNat 6 wt) }
      else { h with waitNextE := some (BitVec.ofNat 6 wt) }

/-- The wait limit that region `r` takes at the next strike, west or east in its die's home. -/
def Device.waitNext (d : Device) (r : Nat) : Option (BitVec 6) :=
  if r % 2 = 0 then (d.home (r / 2)).waitNextW else (d.home (r / 2)).waitNextE

theorem Device.waitNext_west (d : Device) (k : Nat) : d.waitNext (2 * k) = (d.home k).waitNextW := by
  rw [Device.waitNext, if_pos (by omega), show 2 * k / 2 = k by omega]

theorem Device.waitNext_east (d : Device) (k : Nat) : d.waitNext (2 * k + 1) = (d.home k).waitNextE := by
  rw [Device.waitNext, if_neg (by omega), show (2 * k + 1) / 2 = k by omega]

theorem Device.watchdogSet_sets (hready : d.ready id 0x0703 ps) (hreserved : fieldAt ps 3 1 = 0)
    (hstall : fieldAt ps 1 1 = 0 ∨ 12 ≤ fieldAt ps 1 1 ∧ fieldAt ps 1 1 ≤ 26)
    (hwait : fieldAt ps 2 1 = 0 ∨ 12 ≤ fieldAt ps 2 1 ∧ fieldAt ps 2 1 ≤ 32) :
    d.watchdogSet id =
      ((List.range 8).foldl (Device.setLimits (fieldAt ps 0 1) (fieldAt ps 1 1) (fieldAt ps 2 1))
        (d.acted id)).complete id Status.ok :=
  (Device.runCmd_ready _ hready).trans (if_neg (by omega))

section
variable (mask st wt : Nat) (d : Device)

/-- The stall limit of a selected region, unless it is to stay. -/
def Device.setStall (r : Nat) : Device :=
  if mask.testBit r ∧ st ≠ 0 then d.modPilot r fun p => { p with stallNext := some (BitVec.ofNat 5 st) } else d

/-- The wait limit of a selected region, unless it is to stay. -/
def Device.setWait (r : Nat) : Device :=
  if mask.testBit r ∧ wt ≠ 0 then
    d.modHome (r / 2) fun h =>
      if r % 2 = 0 then { h with waitNextW := some (BitVec.ofNat 6 wt) }
      else { h with waitNextE := some (BitVec.ofNat 6 wt) }
  else d

theorem Device.setLimits_eq (r : Nat) :
    Device.setLimits mask st wt d r = (d.setStall mask st r).setWait mask wt r := by
  unfold Device.setLimits Device.setStall Device.setWait
  by_cases hbit : mask.testBit r = true <;> by_cases hst : st = 0 <;> simp [hbit, hst]

theorem Device.setWait_pilot (r q : Nat) : (d.setWait mask wt r).pilot q = d.pilot q := by
  unfold Device.setWait
  split <;> rfl

theorem Device.setStall_waitNext (r q : Nat) : (d.setStall mask st r).waitNext q = d.waitNext q := by
  unfold Device.setStall
  split <;> rfl

theorem Device.setLimits_stallNext (r : Nat) :
    ((Device.setLimits mask st wt d r).pilot r).stallNext =
      if mask.testBit r ∧ st ≠ 0 then some (BitVec.ofNat 5 st) else (d.pilot r).stallNext := by
  rw [Device.setLimits_eq, Device.setWait_pilot, Device.setStall]
  split
  · rw [Device.modPilot_pilot]
  · rfl

theorem Device.setLimits_pilot_ne {r q : Nat} (hq : q ≠ r) : (Device.setLimits mask st wt d r).pilot q = d.pilot q := by
  rw [Device.setLimits_eq, Device.setWait_pilot, Device.setStall]
  split
  · exact d.modPilot_pilot_ne r _ hq
  · rfl

theorem Device.setLimits_waitNext (r : Nat) :
    (Device.setLimits mask st wt d r).waitNext r =
      if mask.testBit r ∧ wt ≠ 0 then some (BitVec.ofNat 6 wt) else d.waitNext r := by
  rw [Device.setLimits_eq, ← d.setStall_waitNext mask st r r, Device.setWait]
  split
  · rw [Device.waitNext, Device.modHome_home]
    split <;> rfl
  · rfl

/-- The two regions of a die take different limits of its home. -/
theorem Device.setLimits_waitNext_ne {r q : Nat} (hq : q ≠ r) :
    (Device.setLimits mask st wt d r).waitNext q = d.waitNext q := by
  rw [Device.setLimits_eq, ← d.setStall_waitNext mask st r q, Device.setWait]
  split
  · by_cases hdie : q / 2 = r / 2
    · rw [Device.waitNext, hdie, Device.modHome_home, Device.waitNext, hdie]
      by_cases heven : r % 2 = 0
      · rw [if_pos heven, if_neg (by omega), if_neg (by omega)]
      · rw [if_neg heven, if_pos (by omega), if_pos (by omega)]
    · rw [Device.waitNext, Device.modHome_home_ne _ _ _ hdie]
      rfl
  · rfl

/-- WATCHDOG_SET changes limits of pilots and homes only. -/
theorem Device.setLimits_frame (ps : Tab Pilot) (hs : Tab Home) (r : Nat) :
    { Device.setLimits mask st wt d r with pilots := ps, homes := hs } = { d with pilots := ps, homes := hs } := by
  unfold Device.setLimits
  dsimp only
  split_ifs <;> rfl

/-- The loop over the regions sets the limits of the selected ones. -/
theorem Device.foldl_setLimits {r : Nat} (hr : r < 8) :
    (((List.range 8).foldl (Device.setLimits mask st wt) d).pilot r).stallNext =
        (if mask.testBit r ∧ st ≠ 0 then some (BitVec.ofNat 5 st) else (d.pilot r).stallNext) ∧
      ((List.range 8).foldl (Device.setLimits mask st wt) d).waitNext r =
        if mask.testBit r ∧ wt ≠ 0 then some (BitVec.ofNat 6 wt) else d.waitNext r := by
  constructor
  · rw [foldl_range_get_ix (fun (e : Device) r => (e.pilot r).stallNext) _
      (fun r l => if mask.testBit r ∧ st ≠ 0 then some (BitVec.ofNat 5 st) else l)
      (fun e i => e.setLimits_stallNext mask st wt i)
      (fun e i j hj => congrArg Pilot.stallNext (e.setLimits_pilot_ne mask st wt hj)), if_pos hr]
  · rw [foldl_range_get_ix Device.waitNext _
      (fun r l => if mask.testBit r ∧ wt ≠ 0 then some (BitVec.ofNat 6 wt) else l)
      (fun e i => e.setLimits_waitNext mask st wt i) (fun e i j hj => e.setLimits_waitNext_ne mask st wt hj), if_pos hr]

end
end

/-- Settles O33: each command by the lemma of its family, on the parameters that its checks let through. -/
theorem powerAndHealthCommands : Obligations.PowerAndHealthCommands := by
  unfold Obligations.PowerAndHealthCommands
  intro s d id ps hruns
  refine ⟨?leeway, ?settle, ?state, ?region, ?status, ?limit, ?temperatures, ?oscillators, ?voltages, ?card, ?watchdog,
    ?input, ?thresh, ?counters⟩
  case leeway =>
    exact fun hready => ⟨_, targetFor_fits, targetFor_lowers,
      State.answers_lift hruns rfl (Device.leewaySet_lowers hready)⟩
  case settle => exact fun x => ⟨fun id' => Device.settle_completes, Device.settle_waits⟩
  case state =>
    exact fun hready hreserved hstate hfits hdeep =>
      State.answers_lift hruns rfl (Device.pwrStateCmd_targets hready hreserved hstate hfits hdeep)
  case region =>
    exact fun hready hreserved hregion hcode htrip hclock hheld hcombs =>
      State.answers_lift hruns rfl
        (Device.pwrRegionCmd_sets hready hreserved hregion hcode htrip hclock hheld hcombs)
  case status => exact fun hready => State.answers_lift hruns rfl (Device.runCmd_ready _ hready)
  case limit => exact fun hready hlow hhigh => State.answers_lift hruns rfl (Device.pwrLimit_sets hready hlow hhigh)
  case temperatures =>
    exact fun hready hreserved hkind =>
      State.answers_lift hruns rfl (Device.hltRead_temperatures hready hreserved hkind)
  case oscillators =>
    exact fun hready hreserved hkind =>
      State.answers_lift hruns rfl (Device.hltRead_oscillators hready hreserved hkind)
  case voltages =>
    exact fun hready hreserved hkind => State.answers_lift hruns rfl (Device.hltRead_voltages hready hreserved hkind)
  case card =>
    exact fun hready hlife htrip =>
      ⟨fun hcard => State.answers_lift hruns rfl (Device.devcardLoad_accepts hready hlife htrip hcard),
        fun hcard => State.answers_lift hruns rfl (Device.devcardLoad_refuses hready hlife htrip hcard)⟩
  case watchdog =>
    intro st wt hready hreserved hstall hwait
    have hlimits (r : Nat) (hr : r < 8) := Device.foldl_setLimits (fieldAt ps 0 1) st wt (d.acted id) hr
    refine ⟨_, State.answers_lift hruns rfl (Device.watchdogSet_sets hready hreserved hstall hwait),
      fun r hr => (hlimits r hr).1, fun k hk => ⟨?west, ?east⟩, ?frame⟩
    case west =>
      have hwest := (hlimits (2 * k) (by omega)).2
      rw [Device.waitNext_west, Device.waitNext_west] at hwest
      exact hwest
    case east =>
      have heast := (hlimits (2 * k + 1) (by omega)).2
      rw [Device.waitNext_east, Device.waitNext_east] at heast
      exact heast
    case frame =>
      exact foldl_keeps (fun e : Device => { e with pilots := d.pilots, homes := d.homes })
        (fun e r => Device.setLimits_frame _ _ _ e _ _ r) _ _
  case input =>
    exact fun hready hreserved hmask hlevel =>
      State.answers_lift hruns rfl (Device.inputClear_clears hready hreserved hmask hlevel)
  case thresh =>
    exact fun hready hsound hreserved =>
      State.answers_lift hruns rfl (Device.hltThresh_waits hready hsound hreserved)
  case counters =>
    exact fun hready haddr hwhole hlow hhigh hmapped =>
      State.answers_lift hruns rfl (Device.counterRead_reads hready haddr hwhole hlow hhigh hmapped)

end Sys2Proof.Machine
end

section
/-! SUPPORT and PROOFS. The events that the hub receives, and the report of a halted job. -/

namespace Sys2Proof.Machine

/-! ### EVENT_RECEIVE (R231, R404, R406) -/

section
variable {d : Device} {e : EventRec} {rest : List EventRec}

/-- The hub takes the oldest event of a region's pilot. -/
theorem Device.eventReceive_pilot {r : Nat} (hr : r < 8) (hevents : (d.pilot r).events = e :: rest) :
    d.eventReceive r = (d.modPilot r fun p => { p with events := rest }).hubReceive r e := by
  simp only [Device.eventReceive, if_pos hr, hevents]

/-- Source 8 stands for those that reach the hub directly. -/
theorem Device.eventReceive_hub (hevents : d.hubEvents = e :: rest) :
    d.eventReceive 8 = { d with hubEvents := rest }.hubReceive hubSource e := by
  simp only [Device.eventReceive, Nat.lt_irrefl, if_false, hevents]

end

/-! ### HALT_REPORT (R64) -/

theorem Device.haltReport_posts {d : Device} (hhalting : d.comb.halting = true)
    (hreported : d.comb.haltReported = false) (hstopped : ∀ r, r < 8 → (d.pilot r).state = 6) :
    d.haltReport =
      (d.modComb fun c => { c with halting := false, haltReported := true }).postReport 0x8405 d.comb.combAtHalt.toNat
        d.comb.haltTime := by
  have hall : ((List.range 8).all fun r => (d.pilot r).state == 6) = true := by
    rw [List.all_eq_true]
    exact fun r hr => beq_iff_eq.2 (hstopped r (List.mem_range.1 hr))
  exact if_pos ⟨hhalting, by rw [hreported]; rfl, hall⟩

/-- Settles O21: the source gives the event, the hub's receipt what becomes of it; the report is owed once. -/
theorem eventsAndHaltReport : Obligations.EventsAndHaltReport := by
  unfold Obligations.EventsAndHaltReport
  constructor
  · intro s d e rest hruns selected received routed
    exact ⟨fun r hevents => State.answers_lift hruns rfl (Device.eventReceive_pilot r.isLt hevents),
      fun hevents => State.answers_lift hruns rfl (Device.eventReceive_hub hevents)⟩
  · exact fun s d hruns hhalting hreported hstopped =>
      State.answers_lift hruns rfl (Device.haltReport_posts hhalting hreported hstopped)

end Sys2Proof.Machine
end

section
/-! SUPPORT and PROOFS. The scrubbers: what a scrub read finds, when a bank in use holds it, and what a row
without a mark, a corrected one and one that cannot be corrected leave. -/

namespace Sys2Proof.Machine

/-! ### Marks of a store (R238) -/

/-- An index below every index of a table finds nothing. -/
theorem Tab.find_below {α : Type} {t : Tab α} {lo i : Nat} (h : Tab.rises lo t = true) (hi : i < lo) :
    Tab.find t i = none := by
  induction t generalizing lo with
  | nil => rfl
  | cons p t ih =>
    obtain ⟨j, a⟩ := p
    simp only [Tab.rises, Bool.and_eq_true, decide_eq_true_eq] at h
    obtain ⟨hj, ht⟩ := h
    rw [Tab.find, if_neg (by omega)]
    exact ih ht (by omega)

theorem Tab.find_del {α : Type} {t : Tab α} {lo : Nat} (i j : Nat) (h : Tab.rises lo t = true) :
    Tab.find (Tab.del t i) j = if j = i then none else Tab.find t j := by
  induction t generalizing lo with
  | nil => simp [Tab.del, Tab.find]
  | cons p t ih =>
    obtain ⟨k, a⟩ := p
    simp only [Tab.rises, Bool.and_eq_true, decide_eq_true_eq] at h
    obtain ⟨-, ht⟩ := h
    by_cases hi : i = k
    · subst hi
      rw [Tab.del, if_pos rfl, Tab.find]
      by_cases hj : j = i
      · rw [if_pos hj, hj, Tab.find_below ht (by omega)]
      · rw [if_neg hj, if_neg hj]
    · rw [Tab.del, if_neg hi, Tab.find, ih ht, Tab.find]
      by_cases hj : j = k
      · rw [if_pos hj, if_neg (by omega), if_pos hj]
      · rw [if_neg hj, if_neg hj]

theorem Mem.mark_setMark_none {m : Mem} (row r : Nat) (h : m.wf = true) :
    (m.setMark row none).mark r = if r = row then none else m.mark r := by
  obtain ⟨-, -, hmarks⟩ := m.wf_iff.1 h
  exact Tab.find_del row r hmarks

/-! ### What a scrub read finds (R273, R274) -/

theorem scrubFind_clean {m : Mem} {row : Nat} (h : m.mark row = none) : scrubFind m row = (none, false) := by
  rw [scrubFind, h]

theorem scrubFind_correctable {m : Mem} {row : Nat} (h : m.mark row = some .correctable) :
    scrubFind m row = (some row, false) := by
  rw [scrubFind, h]

theorem scrubFind_uncorrectable {m : Mem} {row : Nat} (h : m.mark row = some .uncorrectable) :
    scrubFind m row = (none, true) := by
  rw [scrubFind, h]

theorem scrubPut_correctable {m : Mem} {row : Nat} (h : m.mark row = some .correctable) :
    scrubPut m row = some (m.setMark row none) := by
  rw [scrubPut, h]

/-! ### Ring SRAM and the logbook (R273, R274) -/

section
variable {d : Device}

theorem Device.scrubRing_correctable (hidle : d.ringBack = none) (hmark : d.ring.mark d.ringScrub = some .correctable) :
    d.scrubRing = { d with ringBack := some d.ringScrub, ringScrub := (d.ringScrub + 1) % 131072 } := by
  simp only [Device.scrubRing, hidle, scrubFind_correctable hmark, Option.isSome_none, Bool.false_eq_true, if_false]

theorem Device.scrubRing_uncorrectable (hidle : d.ringBack = none)
    (hmark : d.ring.mark d.ringScrub = some .uncorrectable) :
    d.scrubRing = { d with ringScrub := (d.ringScrub + 1) % 131072 }.scrubRecord .hub 3 d.ringScrub := by
  simp only [Device.scrubRing, scrubFind_uncorrectable hmark, hidle, Option.isSome_none, Bool.false_eq_true, if_false,
    if_true]

theorem Device.backRing_corrects {row : Nat} (hback : d.ringBack = some row)
    (hmark : d.ring.mark row = some .correctable) :
    d.backRing = { d with ringBack := none, ring := d.ring.setMark row none } := by
  simp only [Device.backRing, hback, scrubPut_correctable hmark, Option.getD_some]

theorem Device.scrubLog_clean (hidle : d.log.scrubBack = none) (hmark : d.log.mem.mark d.log.scrubRow = none) :
    d.scrubLog = d.modLog fun l => { l with scrubRow := (d.log.scrubRow + 1) % 262144 } := by
  simp only [Device.scrubLog, Device.modLog, hidle, scrubFind_clean hmark, Option.isSome_none, Bool.false_eq_true,
    if_false]

end

/-! ### The scrubber of a unit (R240, R273 to R275) -/

theorem Device.modMu_congr {d : Device} {u : Nat} {f g : Mu → Mu} (h : f (d.mu u) = g (d.mu u)) :
    d.modMu u f = d.modMu u g := congrArg (fun m => { d with mus := d.mus.put u m }) h

theorem Device.modSfu_congr {d : Device} {u : Nat} {f g : Sfu → Sfu} (h : f (d.sfu u) = g (d.sfu u)) :
    d.modSfu u f = d.modSfu u g := congrArg (fun m => { d with sfus := d.sfus.put u m }) h

theorem Device.modSu_congr {d : Device} {u : Nat} {f g : Su → Su} (h : f (d.su u) = g (d.su u)) :
    d.modSu u f = d.modSu u g := congrArg (fun m => { d with sus := d.sus.put u m }) h

/-! The scrubber of a unit reads while the clock of its region runs. -/

section
variable {d : Device} {u : SiteIx} (hclock : d.clockRuns (siteRegion u.val) = true) (husable : d.usable u.val = true)
include hclock husable

theorem Device.scrubRead_mu (hkind : siteKind u.val = .mu) : d.scrubRead (.unit u) = d.scrubMu u.val := by
  simp only [Device.scrubRead, hclock, husable, hkind, Bool.not_true, Bool.false_eq_true, or_self, if_false]

theorem Device.scrubRead_sfu (hkind : siteKind u.val = .sfu) : d.scrubRead (.unit u) = d.scrubSfu u.val := by
  simp only [Device.scrubRead, hclock, husable, hkind, Bool.not_true, Bool.false_eq_true, or_self, if_false]

theorem Device.scrubRead_su (hkind : siteKind u.val = .su) : d.scrubRead (.unit u) = d.scrubSu u.val := by
  simp only [Device.scrubRead, hclock, husable, hkind, Bool.not_true, Bool.false_eq_true, or_self, if_false]

end

section
variable {d : Device} {u : Nat}

/-- A path that reads the bank holds the scrubber of an SU. -/
theorem Device.scrubSu_held
    (h : (d.su u).bankRead = some ((d.su u).scrubRow % 16) ∨ (d.su u).copyRead = some ((d.su u).scrubRow % 16)) :
    d.scrubSu u = d := if_pos (.inr h)

theorem Device.scrubSu_clean (hidle : (d.su u).scrubBack = none)
    (hread : (d.su u).bankRead ≠ some ((d.su u).scrubRow % 16))
    (hcopy : (d.su u).copyRead ≠ some ((d.su u).scrubRow % 16)) (hmark : (d.su u).sram.mark (d.su u).scrubRow = none)
    (hlast : (d.su u).scrubRow + 1 < 65536) :
    d.scrubSu u = d.modSu u fun x => { x with scrubRow := x.scrubRow + 1 } := by
  have hwrap : decide (scrubRows .su ≤ (d.su u).scrubRow + 1) = false := decide_eq_false (Nat.not_le.2 hlast)
  simp only [Device.scrubSu, hidle, hread, hcopy, scrubFind_clean hmark, hwrap, Option.isSome_none, Bool.false_eq_true,
    or_self, if_false]
  exact Device.modSu_congr (by rw [← hidle])

/-- Another reader of the bank holds the scrubber of an MU. -/
theorem Device.scrubMu_held (h : (d.mu u).readFree [(d.mu u).scrubRow] = false) : d.scrubMu u = d :=
  if_pos (by simp [h])

theorem Device.scrubMu_clean (hidle : (d.mu u).scrubBack = none) (hfree : (d.mu u).readFree [(d.mu u).scrubRow] = true)
    (hmark : (d.mu u).scratch.mark (d.mu u).scrubRow = none) :
    d.scrubMu u = d.modMu u fun x => { x with scrubRow := (x.scrubRow + 1) % 4096 } := by
  simp only [Device.scrubMu, hidle, hfree, scrubFind_clean hmark, Option.isSome_none, Bool.not_true, Bool.or_self,
    Bool.false_eq_true, if_false]
  exact Device.modMu_congr (by rw [← hidle]; rfl)

/-- A program that reads the bank holds the scrubber of an SFU. -/
theorem Device.scrubSfu_held (h : (d.sfu u).readers.contains (sfuBank (d.sfu u).scrubRow) = true) :
    d.scrubSfu u = d := if_pos (by rw [h, Bool.or_true])

theorem Device.scrubSfu_clean (hidle : (d.sfu u).scrubBack = none)
    (hfree : (d.sfu u).readers.contains (sfuBank (d.sfu u).scrubRow) = false)
    (hmark : (d.sfu u).sram.mark (d.sfu u).scrubRow = none) :
    d.scrubSfu u = d.modSfu u fun x => { x with scrubRow := (x.scrubRow + 1) % 1024 } := by
  simp only [Device.scrubSfu, hidle, hfree, scrubFind_clean hmark, Option.isSome_none, Bool.or_self,
    Bool.false_eq_true, if_false]
  exact Device.modSfu_congr (by rw [← hidle]; rfl)

end

/-! ### Configuration planes and their stores (R444, R445) -/

section
variable {d : Device} {u which : Nat}

theorem Device.scrubPlane_empty (h : (d.switch u).scrubAt which = none) : d.scrubPlane u which = d := by
  simp only [Device.scrubPlane, h]

variable {row next : Nat} (hat : (d.switch u).scrubAt which = some (row, next))
include hat

theorem Device.scrubPlane_clean (hmark : ((d.switch u).planeMarks which).find row = none) :
    d.scrubPlane u which = d.modSwitch u fun x => { x with scrubRows := x.scrubRows.put which next } := by
  simp only [Device.scrubPlane, hat, hmark]

/-- A row of an idle plane is corrected in place and counted. -/
theorem Device.scrubPlane_idleCorrected (hmark : ((d.switch u).planeMarks which).find row = some .correctable)
    (hidle : which % 2 = 1) :
    d.scrubPlane u which =
      ((d.modSwitch u fun x => { x with scrubRows := x.scrubRows.put which next }).modSwitch u
        (·.clearMark which row)).planeCorrected := by
  simp only [Device.scrubPlane, hat, hmark, if_pos hidle]

/-- A row of an active plane that cannot be corrected stops the region. -/
theorem Device.scrubPlane_activeBroken {k : RowMark} (hmark : ((d.switch u).planeMarks which).find row = some k)
    (hk : k ≠ .correctable) (hactive : which % 2 = 0) :
    d.scrubPlane u which =
      let t := (d.modSwitch u fun x => { x with scrubRows := x.scrubRows.put which next }).planeBroken
      ((t.planeRecord 2 (t.atSite u) which 2 0xFF row).raiseFree (siteRegion u) 0x2A).stopRegion (siteRegion u)
        (siteX u) (siteY u) 4 := by
  have hnot : ¬which % 2 = 1 := by omega
  cases k with
  | correctable => exact absurd rfl hk
  | poison => simp only [Device.scrubPlane, hat, hmark, if_neg hnot]
  | uncorrectable => simp only [Device.scrubPlane, hat, hmark, if_neg hnot]

end

theorem Device.storeSlot_storeScrub (d : Device) (f : Comb → Tab Nat) (r slot : Nat) :
    (d.modComb fun c => { c with storeScrub := f c }).storeSlot r slot = d.storeSlot r slot := rfl

/-- A clean row of a region's stores moves the scrubber on. -/
theorem Device.scrubStores_clean {d : Device} {r : Nat} {program : Bool}
    (hstore : decide (370080 ≤ d.comb.storeScrub.getD r 0) = program)
    (hmark : (if program then (d.storeSlot r (storePlace (d.comb.storeScrub.getD r 0)).1).progMarks
        else (d.storeSlot r (storePlace (d.comb.storeScrub.getD r 0)).1).unitMarks).find
          (storePlace (d.comb.storeScrub.getD r 0)).2 = none) :
    d.scrubStores r program =
      d.modComb fun c =>
        { c with storeScrub := c.storeScrub.put r ((d.comb.storeScrub.getD r 0 + 1) % 371120) } := by
  have hnamed : decide (storeImageRows + storeTableRows ≤ d.comb.storeScrub.getD r 0) = program := hstore
  simp only [Device.scrubStores, hnamed, bne_self_eq_false, Bool.false_eq_true, if_false, Device.storeSlot_storeScrub,
    hmark]
  rfl

/-- Settles O60: each store by what its scrubber finds at the row that is next. -/
theorem scrubbersAct : Obligations.ScrubbersAct := by
  unfold Obligations.ScrubbersAct
  intro s d hruns
  refine ⟨?ringCorrectable, ?ringUncorrectable, ?ringBack, ?su, ?muSfu, ?plane, ?emptyPlane, ?stores, ?log⟩
  case ringCorrectable =>
    exact fun hidle hmark => State.answers_lift hruns rfl (Device.scrubRing_correctable hidle hmark)
  case ringUncorrectable =>
    exact fun hidle hmark => State.answers_lift hruns rfl (Device.scrubRing_uncorrectable hidle hmark)
  case ringBack =>
    intro row hwf hback hmark
    refine ⟨_, State.answers_lift hruns rfl (Device.backRing_corrects hback hmark), rfl, ?_, fun r hr => ?_,
      fun a => rfl, rfl⟩
    · rw [Mem.mark_setMark_none row row hwf, if_pos rfl]
    · rw [Mem.mark_setMark_none row r hwf, if_neg hr]
  case su =>
    intro u hkind hclock husable hidle
    have hread : d.scrubRead (.unit u) = d.scrubSu u.val := Device.scrubRead_su hclock husable hkind
    exact ⟨fun hbusy => State.answers_lift hruns rfl (hread.trans (Device.scrubSu_held hbusy)),
      fun hpathA hpathB hmark hlast =>
        State.answers_lift hruns rfl (hread.trans (Device.scrubSu_clean hidle hpathA hpathB hmark hlast))⟩
  case muSfu =>
    intro u hclock husable
    constructor
    · intro hkind hidle
      have hread : d.scrubRead (.unit u) = d.scrubMu u.val := Device.scrubRead_mu hclock husable hkind
      exact ⟨fun hbusy => State.answers_lift hruns rfl (hread.trans (Device.scrubMu_held hbusy)),
        fun hfree hmark => State.answers_lift hruns rfl (hread.trans (Device.scrubMu_clean hidle hfree hmark))⟩
    · intro hkind hidle
      have hread : d.scrubRead (.unit u) = d.scrubSfu u.val := Device.scrubRead_sfu hclock husable hkind
      exact ⟨fun hbusy => State.answers_lift hruns rfl (hread.trans (Device.scrubSfu_held hbusy)),
        fun hfree hmark => State.answers_lift hruns rfl (hread.trans (Device.scrubSfu_clean hidle hfree hmark))⟩
  case plane =>
    intro u which row next hclock hat
    have hread : d.planeScrub (.plane u which) = d.scrubPlane u.val which.val := if_pos hclock
    exact ⟨fun hmark => State.answers_lift hruns rfl (hread.trans (Device.scrubPlane_clean hat hmark)),
      fun hmark hidle => State.answers_lift hruns rfl (hread.trans (Device.scrubPlane_idleCorrected hat hmark hidle)),
      fun k hmark hk hactive =>
        State.answers_lift hruns rfl (hread.trans (Device.scrubPlane_activeBroken hat hmark hk hactive))⟩
  case emptyPlane =>
    intro u which hempty
    refine State.answers_lift hruns rfl ?_
    show (if d.clockRuns (siteRegion u.val) then d.scrubPlane u.val which.val else d) = d
    rw [Device.scrubPlane_empty hempty, ite_self]
  case stores =>
    intro r p hclock
    exact ⟨fun hp hmark => State.answers_lift hruns rfl
        ((if_pos hclock).trans (Device.scrubStores_clean (decide_eq_false (Nat.not_le.2 hp)) hmark)),
      fun hp hmark => State.answers_lift hruns rfl
        ((if_pos hclock).trans (Device.scrubStores_clean (decide_eq_true hp) hmark))⟩
  case log => exact fun hidle hmark => State.answers_lift hruns rfl (Device.scrubLog_clean hidle hmark)

end Sys2Proof.Machine
end

section
/-! SUPPORT and PROOFS. Descriptors of a storage unit: what a change of one context leaves, what a stop leaves of the
SUs, and what the start and the completion of a descriptor do. -/

namespace Sys2Proof.Machine

/-! ### A change of one context (R241, R266) -/

@[simp] theorem Device.modCtx_ctx (d : Device) (u c : Nat) (f : Ctx → Ctx) : 
    (d.modCtx u c f).ctx u c = f (d.ctx u c) := by
  unfold Device.modCtx Device.ctx
  cases siteKind u <;> simp

theorem Device.modCtx_ctx_ne (d : Device) (u : Nat) {c k : Nat} (f : Ctx → Ctx) (h : k ≠ c) :
    (d.modCtx u c f).ctx u k = d.ctx u k := by
  unfold Device.modCtx Device.ctx
  cases siteKind u <;> simp [Tab.getD_upd_ne, h]

@[simp] theorem Device.modCtx_homes (d : Device) (u c : Nat) (f : Ctx → Ctx) : (d.modCtx u c f).homes = d.homes := by
  unfold Device.modCtx
  cases siteKind u <;> rfl

section
variable {u : Nat} (hkind : siteKind u = .su)
include hkind

theorem Device.modCtx_su (d : Device) (c : Nat) (f : Ctx → Ctx) :
    (d.modCtx u c f).su u = { d.su u with ctx := (d.su u).ctx.upd c .reset f } := by
  simp only [Device.modCtx, hkind, Device.modSu_su]

theorem Device.ctx_su (d : Device) (c : Nat) : d.ctx u c = (d.su u).ctx.getD c .reset := by
  simp only [Device.ctx, hkind]

end

/-! ### Faults and the SUs (R64, R235, R257) -/

theorem Device.haltJob_sus (d : Device) (region cause : Nat) : (d.haltJob region cause).sus = d.sus := by
  obtain ⟨ps, w, hstop⟩ := d.stopAll_eq cause
  unfold Device.haltJob
  rw [hstop]
  dsimp only
  split
  · obtain ⟨p, hp⟩ := Device.haltTick_eq _
    rw [hp]
    rfl
  · rfl

theorem Device.stopRegion_sus (d : Device) (r x y cause : Nat) : (d.stopRegion r x y cause).sus = d.sus := by
  unfold Device.stopRegion
  split
  · rfl
  · exact Device.haltJob_sus _ r 10

/-- The record, the event and the stop of a unit fault leave the SUs as they are. -/
theorem Device.unitFault_su (d : Device) (u event reason lo hi : Nat) :
    (d.unitFault u event reason lo hi).su u = d.su u := by
  rw [Device.unitFault, Device.su, Device.stopRegion_sus]
  rfl

/-- A stream fault of an SU: the context stops in it, and the unit's registers say why. -/
theorem Device.streamFault_su {u : Nat} (hkind : siteKind u = .su) (d : Device) (c code reason event : Nat)
    (value : Int) :
    (d.streamFault u c code reason event value).su u =
      { d.su u with
        ctx := (d.su u).ctx.upd c .reset fun x => { x with state := .faulted }
        state := 3, faultCode := BitVec.ofNat 4 code, faultReason := BitVec.ofNat 4 reason,
        faultCtx := BitVec.ofNat 3 c, faultDesc := BitVec.ofNat 16 (d.ctx u c).desc,
        faultValue := BitVec.ofNat 32 (faultWord value) } := by
  rw [Device.streamFault, Device.unitFault_su]
  simp only [hkind, Device.modSu_su, Device.modCtx_su hkind]

/-! ### The start of a descriptor (R248, R257) -/

/-- A context whose descriptor has started, with `total` elements to move. -/
def Ctx.begun (k : Ctx) (total : Nat) : Ctx :=
  { k with state := .running, total := total, moved := 0, elems := 0, await := none, seen := false, waitClk := 0,
           finish := false, lastSent := false, part := [], copyPipe := [], readAt := 0, land := none, credit := 0,
           reason := 0, group := none, asked := 0, half := [] }

section
variable {d : Device} {u c : Nat} (hcsrc : (d.ctx u c).d.csrc = false)
include hcsrc

/-- An extent that begins below the unit's space faults. -/
theorem Device.startDesc_below (houter : (d.ctx u c).d.outer ≠ 0)
    (hlow : ((d.ctx u c).d.extent (d.ctx u c).d.outer).1 < (spaceOf u).1) :
    d.startDesc u c =
      d.streamFault u c 2 (overrunReason (d.ctx u c).d.kind) 0x27 ((d.ctx u c).d.extent (d.ctx u c).d.outer).1 := by
  simp only [Device.startDesc, hcsrc, Bool.false_eq_true, if_false, Nat.lt_irrefl, houter, hlow, ne_eq,
    not_false_eq_true, true_or, and_self, if_true]

/-- An extent inside the unit's space lets the descriptor run. -/
theorem Device.startDesc_runs (hkind : (d.ctx u c).d.kind ≠ 3)
    (hlow : (spaceOf u).1 ≤ ((d.ctx u c).d.extent (d.ctx u c).d.outer).1)
    (hhigh : ((d.ctx u c).d.extent (d.ctx u c).d.outer).2 ≤ (spaceOf u).2) :
    d.startDesc u c = d.modCtx u c (·.begun ((d.ctx u c).d.elements (d.ctx u c).d.outer)) := by
  simp only [Device.startDesc, hcsrc, Bool.false_eq_true, if_false, Nat.lt_irrefl, Int.not_lt.2 hlow,
    Int.not_lt.2 hhigh, hkind, or_self, and_false, false_and]
  rfl

end

/-! ### The completion of a descriptor (R252) -/

theorem Device.flagReq_reqs (d : Device) (src die flag : Nat) (value : Bool) :
    ((d.flagReq src die flag value).home die).reqs =
      (d.home die).reqs ++
        [{ flag := flag, value := value, parityOk := true, src := src, cmd := none, tid := none }] := by
  rw [Device.flagReq, Device.modHome_home]

/-- A completed descriptor sets its flag, and its context goes on to the next one in the unit section. -/
theorem Device.completeDesc_next {d : Device} {u c die f k : Nat} (hc : c < 8)
    (hdone : (d.ctx u c).d.done = some (die, f)) (hnext : (d.ctx u c).d.next = some (false, k)) :
    d.completeDesc u c =
      ((d.flagReq u die f true).progress (siteRegion u)).modCtx u c fun n =>
        { n with state := .between, inSram := false, desc := k, await := none, seen := false, elems := 0,
                 finish := false, land := none, copyPipe := [], part := [] } := by
  simp only [Device.completeDesc, hdone, hnext, if_neg (Nat.not_le.2 hc), Bool.false_eq_true, if_false]

/-- Settles O57: the start by its extent, the completion by its two fields. -/
theorem descriptorStartsOrFaults : Obligations.DescriptorStartsOrFaults := by
  unfold Obligations.DescriptorStartsOrFaults
  intro d u c hkind x e
  refine ⟨fun hcsrc houter hlow => ?faults, fun hcsrc hk hlow hhigh => ?runs, fun die f k hc hdone hnext => ?completes⟩
  case faults =>
    rw [Device.startDesc_below hcsrc houter hlow, Device.ctx_su hkind, Device.streamFault_su hkind]
    exact ⟨by rw [Tab.getD_upd_self], rfl, rfl⟩
  case runs =>
    intro t
    have ht : t = d.modCtx u c (·.begun (x.elements x.outer)) := Device.startDesc_runs hcsrc hk hlow hhigh
    rw [ht, Device.modCtx_ctx, Device.modCtx_su hkind, Device.modCtx_homes]
    exact ⟨rfl, rfl, rfl, fun k hne => Device.modCtx_ctx_ne _ _ _ hne, rfl, rfl⟩
  case completes =>
    intro t
    have ht : t = _ := Device.completeDesc_next hc hdone hnext
    rw [ht, Device.modCtx_ctx, Device.home, Device.modCtx_homes]
    have hreqs := congrArg (List.map fun q => (q.flag, q.value)) (d.flagReq_reqs u die f true)
    rw [List.map_append] at hreqs
    exact ⟨hreqs, rfl, rfl⟩

end Sys2Proof.Machine
end

section
/-! SUPPORT and PROOFS. The rows of a stream: descriptors that are taken up, fetched and completed, the two paths of
an SU, the packing queues of an IOU and the release of a landing window. -/

namespace Sys2Proof.Machine

/-! ### The comb of a region stays while its units stream (R61) -/

section
variable (d : Device) (u r : Nat)

@[simp] theorem Device.modSu_combOf (f : Su → Su) : (d.modSu u f).combOf r = d.combOf r := rfl
@[simp] theorem Device.modIou_combOf (f : Iou → Iou) : (d.modIou u f).combOf r = d.combOf r := rfl
@[simp] theorem Device.modInQ_combOf (v : Nat) (f : PackQueue → PackQueue) :
    (d.modInQ u v f).combOf r = d.combOf r := rfl
@[simp] theorem Device.modSwitch_combOf (f : Switch → Switch) : (d.modSwitch u f).combOf r = d.combOf r := rfl
@[simp] theorem Device.record_combOf (cls sev : Nat) (w : RecPlace) (detail : List Byte) :
    (d.record cls sev w detail).combOf r = d.combOf r := rfl

@[simp] theorem Device.modCtx_combOf (c : Nat) (f : Ctx → Ctx) : (d.modCtx u c f).combOf r = d.combOf r := by
  unfold Device.modCtx
  split <;> rfl

@[simp] theorem Device.modUnit_combOf (f : Unit → Unit) : (d.modUnit u f).combOf r = d.combOf r := by
  simp only [Device.combOf, Device.modUnit_pilot]

theorem Device.modPilot_combOf (q : Nat) {f : Pilot → Pilot} (hf : ∀ p, (f p).comb = p.comb) :
    (d.modPilot q f).combOf r = d.combOf r := by
  by_cases h : r = q
  · rw [h, Device.combOf, Device.modPilot_pilot, hf, Device.combOf]
  · rw [Device.combOf, d.modPilot_pilot_ne q f h, Device.combOf]

theorem Pilot.raise_comb (p : Pilot) (e : EventRec) : (p.raise e).comb = p.comb := by
  unfold Pilot.raise
  dsimp only
  split <;> rfl

@[simp] theorem Device.raiseOnceFree_combOf (q code : Nat) : (d.raiseOnceFree q code).combOf r = d.combOf r := by
  refine Device.modPilot_combOf d.drawWord.2 r q fun p => ?_
  split
  · rfl
  · exact p.raise_comb _

@[simp] theorem Device.suPoison_combOf : (d.suPoison u).combOf r = d.combOf r := by
  rw [Device.suPoison, Device.raiseOnceFree_combOf, Device.modSu_combOf]

@[simp] theorem Device.bankConflict_combOf (bank : Nat) (write : Bool) :
    (d.bankConflict u bank write).combOf r = d.combOf r := by
  simp only [Device.bankConflict, Device.raiseOnceFree_combOf, Device.record_combOf, Device.modSu_combOf]

@[simp] theorem Device.undoCopyRead_combOf : (d.undoCopyRead u).combOf r = d.combOf r := by
  unfold Device.undoCopyRead
  split
  · rfl
  · dsimp only
    split_ifs <;> simp only [Device.modCtx_combOf, Device.modSu_combOf]

@[simp] theorem Device.unitSend_combOf (net : Net) (w : Item) : (d.unitSend u net w).combOf r = d.combOf r := by
  unfold Device.unitSend Device.drainOut
  dsimp only
  split <;> simp only [Device.modUnit_combOf, Device.modSwitch_combOf]

@[simp] theorem Device.checkPack_combOf (w : PackWord) : (d.checkPack u w).2.combOf r = d.combOf r := by
  unfold Device.checkPack
  split
  · rfl
  · simp only [Device.raiseOnceFree_combOf, Device.modIou_combOf]

@[simp] theorem Device.gridSend_combOf (v : Nat) (w : PackWord) : (d.gridSend u v w).combOf r = d.combOf r := by
  unfold Device.gridSend
  dsimp only
  split
  · exact Device.unitSend_combOf ..
  · exact List.foldlRecOn _ _ (motive := fun t : Device => t.combOf r = d.combOf r) (Device.modUnit_combOf ..)
      fun t ht i _ => (Device.modSwitch_combOf ..).trans ht

end

@[simp] theorem Device.modSu_section (d : Device) (u v : Nat) (f : Su → Su) :
    (d.modSu u f).section v = d.section v := rfl

/-! ### Descriptors (R241, R248, R252, R257) -/

/-- NEXT names a descriptor in SRAM, or one that the unit section has (R257). -/
def nextOk (n : Nat) (next : Option (Bool × Nat)) : Bool := next.all fun p => p.1 || decide (p.2 < n)

theorem any_eq_not_nextOk (n : Nat) (next : Option (Bool × Nat)) :
    (next.any fun p => !p.1 && decide (n ≤ p.2)) = !nextOk n next := by
  cases next with
  | none => rfl
  | some p =>
    rw [nextOk, Option.any_some, Option.all_some, Bool.not_or, ← decide_not, decide_eq_decide.2 Nat.not_lt]

section
variable {d : Device} {u c : Nat} (hstreams : d.streams u = true)
include hstreams

theorem Device.descriptorStart_takesUp (hstarted : d.started (siteRegion u) = true)
    (hstate : (d.ctx u c).state = .between) : d.descriptorStart u c = d.takeUp u c := by
  simp only [Device.descriptorStart, hstreams, hstarted, hstate, beq_self_eq_true, Bool.and_self, if_true]

section
variable {k : Nat}
  (hfind : ((d.ctxKeys u c).find? fun k => (d.ctx u k).state == .waiting && (d.ctx u k).seen) = some k)
include hfind

/-- The wait that ends writes its flag to the opposite of SENSE. -/
theorem Device.descriptorWaitEnd_clears {die f : Nat} {sense : Bool}
    (hwait : (d.ctx u k).d.wait = some (die, f, sense)) (hclr : (d.ctx u k).d.waitClr = true) :
    d.descriptorWaitEnd u c = (d.flagReq u die f !sense).startDesc u k := by
  simp only [Device.descriptorWaitEnd, hstreams, hfind, hwait, hclr, Bool.not_true, Bool.false_eq_true, if_false,
    if_true]

theorem Device.descriptorWaitEnd_starts (hclr : (d.ctx u k).d.waitClr = false) :
    d.descriptorWaitEnd u c = d.startDesc u k := by
  simp only [Device.descriptorWaitEnd, hstreams, hfind, hclr, Bool.not_true, Bool.false_eq_true, if_false]
  cases (d.ctx u k).d.wait <;> rfl

end

/-- The descriptor that completes is the first of which everything has gone. -/
theorem Device.descriptorComplete_first {k : Nat}
    (hfind : ((d.ctxKeys u c).find? fun k =>
      (d.ctx u k).state == .running && ((d.ctx u k).d.kind == 4 || (d.ctx u k).moved == (d.ctx u k).total) &&
        d.settled u k) = some k) :
    d.descriptorComplete u c = d.completeDesc u k := by
  simp only [Device.descriptorComplete, hstreams, hfind, Bool.not_true, Bool.false_eq_true, if_false]

section
variable (hkind : siteKind u = .su) (hstate : (d.ctx u c).state = .fetching) (hcopy : (d.su u).copyRead = none)
include hkind hstate hcopy

theorem Device.descriptorFetch_conflict (hbank : (d.su u).bankRead = some ((d.ctx u c).desc % 16)) :
    d.descriptorFetch u c = d.bankConflict u ((d.ctx u c).desc % 16) false := by
  simp only [Device.descriptorFetch, hstreams, hkind, hstate, hcopy, hbank, bne_self_eq_false, Option.isSome_none,
    Bool.not_true, Bool.or_self, Bool.false_eq_true, if_false, if_true]

/-- A descriptor that path B reads is checked: its row, its fields, and its NEXT. -/
theorem Device.descriptorFetch_reads {bs : List Byte} {bad : Bool} {s' : Su}
    (hbank : (d.su u).bankRead ≠ some ((d.ctx u c).desc % 16))
    (hread : (d.su u).read (d.ctx u c).desc = (bs, bad, s')) :
    d.descriptorFetch u c =
      let t := d.modSu u fun _ => { s' with copyRead := some ((d.ctx u c).desc % 16), copyReader := some c }
      if bad then t.streamFault u c 5 2 0x43 (d.ctx u c).desc
      else if descBad bs true then t.streamFault u c 5 1 0x43 (d.ctx u c).desc
      else if nextOk (secNdesc (d.section u)) (Desc.parse bs).next = false then
        t.streamFault u c 5 3 0x43 (d.ctx u c).desc
      else t.modCtx u c fun k => { k with state := .between, bytes := bs } := by
  simp only [Device.descriptorFetch, hstreams, hkind, hstate, hcopy, hbank, hread, bne_self_eq_false,
    Option.isSome_none, Bool.not_true, Bool.or_self, Bool.false_eq_true, if_false, Device.modSu_section,
    any_eq_not_nextOk, Bool.not_eq_true']

end

end

/-! ### The paths of an SU (R239 to R244) -/

/-- Path A has the bank of `row`: an access of path B to it in this clk moves one clk later (R244). -/
def Device.takeBank (d : Device) (u row : Nat) : Device :=
  if (d.su u).copyRead = some (row % 16) then (d.bankConflict u (row % 16) false).undoCopyRead u else d

theorem Device.takeBank_def (d : Device) (u row : Nat) :
    (if (d.su u).copyRead = some (row % 16) then (d.bankConflict u (row % 16) false).undoCopyRead u else d) =
      d.takeBank u row := rfl

theorem Device.takeBank_combOf (d : Device) (u row r : Nat) : (d.takeBank u row).combOf r = d.combOf r := by
  unfold Device.takeBank
  split
  · rw [Device.undoCopyRead_combOf, Device.bankConflict_combOf]
  · rfl

section
variable {d : Device} {u c : Nat}

/-- The lowest READ context that may reads its row, and the word goes to the grid. -/
theorem Device.suRead_reads {bs : List Byte} {bad : Bool} {s' : Su}
    (hfind : (List.range 8).find? (d.canRead u) = some c) (hbank : (d.su u).bankRead = none)
    (hread : ((d.takeBank u (((d.ctx u c).d.addr (d.ctx u c).moved).toNat / 64)).su u).read
      (((d.ctx u c).d.addr (d.ctx u c).moved).toNat / 64) = (bs, bad, s')) :
    d.suRead u c =
      let k := d.ctx u c
      let row := (k.d.addr k.moved).toNat / 64
      let got := (d.takeBank u row).modSu u fun _ => { s' with bankRead := some (row % 16) }
      let sent := (if bad then got.suPoison u else got).unitSend u .vector
        (Item.make .vector (le bs) (d.combOf (siteRegion u)) k.d.vc
          (k.moved + 1 == k.total || (k.d.lastRun && k.d.runEnd k.moved) || k.finish) bad)
      (sent.modCtx u c fun k =>
        { k with moved := k.moved + 1, elems := satInc k.elems, total := if k.finish then k.moved + 1 else k.total,
                 lastSent := (sent.unit u).run.getD (d.ctx u c).d.vc 0 == 0 }).progress (siteRegion u) := by
  simp only [Device.suRead, hfind, hbank, ne_eq, not_true_eq_false, Option.isSome_none, Bool.false_eq_true, or_self,
    if_false, Device.takeBank_def, hread]
  cases bad <;>
    simp only [Bool.false_eq_true, if_false, if_true, Device.suPoison_combOf, Device.modSu_combOf,
      Device.takeBank_combOf]

end

section
variable {d : Device} {u c : Nat} (hstreams : d.streams u = true) (hkind : siteKind u = .su)
include hstreams hkind

theorem Device.streamRead_su : d.streamRead u c = d.suRead u c := by
  simp only [Device.streamRead, hstreams, hkind, Bool.not_true, Bool.false_eq_true, if_false, if_true]

section
variable {w : Item} {ws : List Item} (hbank : (d.su u).bankWrite = none)
  (hfind : (List.range 8).find? (d.canWrite u) = some c)
  (hqueue : (d.unit u).queue ⟨.vector, 4, (d.ctx u c).d.vc⟩ = w :: ws)
include hbank hfind hqueue

/-- The lowest WRITE context with a head word writes it. -/
theorem Device.streamWrite_writes (hruns : (d.ctx u c).runs 2 = true) :
    d.streamWrite u c =
      ((d.pathAWrite u (((d.ctx u c).d.addr (d.ctx u c).moved).toNat / 64) w.bytes w.poison).popUnit u
        ⟨.vector, 4, (d.ctx u c).d.vc⟩).modCtx u c fun k =>
          { k with moved := k.moved + 1, elems := satInc k.elems,
                   total := if k.finish && w.last then k.moved + 1 else k.total } := by
  simp only [Device.streamWrite, hstreams, hkind, hbank, hfind, hqueue, hruns, bne_self_eq_false, Option.isSome_none,
    Bool.not_true, Bool.or_self, Bool.false_eq_true, if_false]

theorem Device.landingPacket_takes (hruns : (d.ctx u c).runs 4 = true) :
    d.landingPacket u c =
      ((d.landWord u c w).popUnit u ⟨.vector, 4, (d.ctx u c).d.vc⟩).pump := by
  simp only [Device.landingPacket, hstreams, hkind, hbank, hfind, hqueue, hruns, bne_self_eq_false, Option.isSome_none,
    Bool.not_true, Bool.or_self, Bool.false_eq_true, if_false]

end

theorem Device.streamCopy_steps (hruns : (d.ctx u c).runs 3 = true) :
    d.streamCopy u c = (if d.copyDue u c then d.copyWriteRow u c else d).copyReadRow u c := by
  simp only [Device.streamCopy, hstreams, hkind, hruns, bne_self_eq_false, Bool.not_true, Bool.or_self,
    Bool.false_eq_true, if_false]

end

/-! ### Elements that an IOU asks for (R242, R265) -/

/-- The context after one more of its elements has been asked for. -/
def Ctx.issued (k : Ctx) : Ctx :=
  { k with moved := k.moved + 1, elems := satInc k.elems, lastSent := { k with moved := k.moved + 1 }.sentLast }

section
variable {d : Device} {u c k : Nat} (hstreams : d.streams u = true) (hkind : siteKind u = .iou)
  (hfind : (d.ctxKeys u c).find? (fun k => (d.ctx u k).runs 1 && decide ((d.ctx u k).moved < (d.ctx u k).total)) =
    some k)
include hstreams hkind hfind

/-- What the context that is found reads comes over the IOU's own interface: a stack, the hub or a Vexlink port. -/
theorem Device.streamRead_hbm {j : Nat} (hduty : siteDuty u = some (.hbm j)) : d.streamRead u c = d.hbmIssue u k := by
  simp only [Device.streamRead, hstreams, hkind, hfind, hduty, Bool.not_true, Bool.false_eq_true, if_false,
    reduceCtorEq]

theorem Device.streamRead_hub (hduty : siteDuty u = some .hub) : d.streamRead u c = d.hubIssue u k := by
  simp only [Device.streamRead, hstreams, hkind, hfind, hduty, Bool.not_true, Bool.false_eq_true, if_false,
    reduceCtorEq]

theorem Device.streamRead_port {p : Nat} (hduty : siteDuty u = some (.port p)) :
    d.streamRead u c = (d.vxlIssue u k).pump := by
  simp only [Device.streamRead, hstreams, hkind, hfind, hduty, Bool.not_true, Bool.false_eq_true, if_false,
    reduceCtorEq]

end

theorem Device.moved_of_find {d : Device} {u c k : Nat}
    (hfind : (d.ctxKeys u c).find? (fun k => (d.ctx u k).runs 1 && decide ((d.ctx u k).moved < (d.ctx u k).total)) =
      some k) :
    (d.ctx u k).moved < (d.ctx u k).total := by
  have hk := List.find?_some hfind
  rw [Bool.and_eq_true] at hk
  exact of_decide_eq_true hk.2

section
variable {d : Device} {u c : Nat} (hmore : (d.ctx u c).moved < (d.ctx u c).total)
include hmore

/-- A read of a stack is issued while the queue towards the grid can hold what returns. -/
theorem Device.hbmIssue_issues {j : Nat} (hduty : siteDuty u = some (.hbm j))
    (hroom : ((d.iou u).inqueue (d.ctx u c).d.vc).size + d.readsOut u c < packCap) :
    d.hbmIssue u c =
      ((d.modStack j fun t =>
        { t with reads := t.reads ++
            [{ site := u, ctx := c, offset := ((d.ctx u c).d.addr (d.ctx u c).moved).toNat,
               bytes := (d.ctx u c).d.elemBytes, last := (d.ctx u c).elemLast }] }).modCtx u c Ctx.issued).progress
        (siteRegion u) := by
  simp only [Device.hbmIssue, hduty, Nat.not_le.2 hmore, Nat.not_le.2 hroom, or_self, if_false]
  rfl

/-- Ring SRAM gives its bytes at once. -/
theorem Device.hubIssue_takes (hroom : ((d.iou u).inqueue (d.ctx u c).d.vc).room ((d.ctx u c).d.esize != 0) = true) :
    d.hubIssue u c =
      let a := ((d.ctx u c).d.addr (d.ctx u c).moved).toNat
      ((d.packIn u c (d.ring.bytes a (d.ctx u c).d.elemBytes) (d.ctx u c).elemLast
        (d.ring.rangeBad a (d.ctx u c).d.elemBytes)).modCtx u c Ctx.issued).progress (siteRegion u) := by
  simp only [Device.hubIssue, Nat.not_le.2 hmore, hroom, Bool.not_true, Bool.false_eq_true, or_self, if_false]
  rfl

end

/-! ### Packing queues (R268 to R271) -/

section
variable {d : Device} {u v : Nat} (hstreams : d.streams u = true) (hkind : siteKind u = .iou)
include hstreams hkind

theorem Device.packingWrite_packs {c : Nat} {w : Item} {m : Unit} (hwriter : d.writerOf u v = some c)
    (hnext : (d.unit u).nextIn (if (d.ctx u c).d.esize = 0 then .vector else .scalar) v = some (w, m))
    (hroom : ((d.iou u).outq v).room ((d.ctx u c).d.esize != 0) = true) :
    d.packingWrite u v = ((d.modUnit u fun _ => m).packOne u v c w).progress (siteRegion u) := by
  have hnarrow : ((if (d.ctx u c).d.esize = 0 then Net.vector else .scalar) == .scalar) =
      ((d.ctx u c).d.esize != 0) := by
    by_cases h : (d.ctx u c).d.esize = 0 <;> simp [h]
  simp only [Device.packingWrite, hstreams, hkind, hwriter, hnext, hnarrow, hroom, bne_self_eq_false, Bool.not_true,
    Bool.or_self, Bool.false_eq_true, if_false]

section
variable {w : PackWord} {rest : List PackWord} (hclosed : ((d.iou u).outq v).closed = w :: rest)
include hclosed

/-- A closed word on its way out is checked and goes to what the IOU serves. -/
theorem Device.packingRead_hbm {j : Nat} (hduty : siteDuty u = some (.hbm j)) :
    d.packingRead u v false =
      let p := (d.modOutQ u v fun q => { q with closed := rest }).checkPack u w
      (p.2.hbmQueueWrite u p.1).progress (siteRegion u) := by
  simp only [Device.packingRead, hstreams, hkind, hclosed, hduty, bne_self_eq_false, Bool.not_true, Bool.or_self,
    Bool.false_eq_true, if_false]

theorem Device.packingRead_hub (hduty : siteDuty u = some .hub) :
    d.packingRead u v false =
      let p := (d.modOutQ u v fun q => { q with closed := rest }).checkPack u w
      (p.2.hubQueueWrite p.1).progress (siteRegion u) := by
  simp only [Device.packingRead, hstreams, hkind, hclosed, hduty, bne_self_eq_false, Bool.not_true, Bool.or_self,
    Bool.false_eq_true, if_false]

theorem Device.packingRead_port {j : Nat} (hduty : siteDuty u = some (.port j)) :
    d.packingRead u v false = (d.vxlQueueWrite u v w rest).pump.progress (siteRegion u) := by
  simp only [Device.packingRead, hstreams, hkind, hclosed, hduty, bne_self_eq_false, Bool.not_true, Bool.or_self,
    Bool.false_eq_true, if_false]

end

/-- The reads whose data have come go on into the queues once a word has left for the grid. -/
def Device.deliverAll (d : Device) (u : Nat) : Device :=
  ((d.iou u).ctx.map (·.1)).foldl (fun d c => d.deliverReads u c 64) d

theorem Device.packingRead_grid : d.packingRead u v true = (d.packToGrid u v).deliverAll u := by
  simp only [Device.packingRead, hstreams, hkind, bne_self_eq_false, Bool.not_true, Bool.or_self, Bool.false_eq_true,
    if_false, if_true]
  rfl

end

/-- The check can poison the word, and changes nothing else of it. -/
theorem Device.checkPack_word (d : Device) (u : Nat) (w : PackWord) :
    (d.checkPack u w).1.tag = w.tag ∧ (d.checkPack u w).1.count = w.count ∧ (d.checkPack u w).1.last = w.last := by
  unfold Device.checkPack
  split <;> exact ⟨rfl, rfl, rfl⟩

section
variable {d : Device} {u v : Nat} {w : PackWord} {rest : List PackWord}
  (hclosed : ((d.iou u).inqueue v).closed = w :: rest) (hdrain : (d.pilot (siteRegion u)).drain = false)
  (hroom : d.gridRoom u v = true)
include hclosed hdrain hroom

theorem Device.packToGrid_word (htag : w.tag = false) :
    d.packToGrid u v =
      let p := (d.modInQ u v fun q => { q with closed := rest }).checkPack u w
      (p.2.gridSend u v p.1).progress (siteRegion u) := by
  obtain ⟨hptag, -, -⟩ := (d.modInQ u v fun q => { q with closed := rest }).checkPack_word u w
  simp only [Device.packToGrid, hclosed, hdrain, hroom, htag, hptag, Bool.not_true, Bool.false_and, Bool.or_self,
    Bool.false_eq_true, if_false]

/-- A flushed word of a TAG descriptor is followed by its count. -/
theorem Device.packToGrid_tagged (htag : w.tag = true) (hcredit : d.credit u .scalar v = true) :
    d.packToGrid u v =
      let p := (d.modInQ u v fun q => { q with closed := rest }).checkPack u w
      ((p.2.gridSend u v p.1).unitSend u .scalar
        (Item.make .scalar w.count (d.combOf (siteRegion u)) v w.last)).progress (siteRegion u) := by
  obtain ⟨hptag, hpcount, hplast⟩ := (d.modInQ u v fun q => { q with closed := rest }).checkPack_word u w
  simp only [Device.packToGrid, hclosed, hdrain, hroom, htag, hcredit, hptag, hpcount, hplast, Bool.not_true,
    Bool.and_false, Bool.or_self, Bool.false_eq_true, if_false, if_true, Device.gridSend_combOf,
    Device.checkPack_combOf, Device.modInQ_combOf]

end

/-! ### Windows that are released (R260) -/

theorem Device.windowRelease_frees {d : Device} {u w : Nat} {k : WinAt} (hlive : d.live (siteRegion u) = true)
    (hfind : (d.windowsOf (siteDie u)).find? (fun k => k.iou == u && k.win == w) = some k)
    (hfilled : (d.window k).state = 2) (huses : (winRelease k.record).testBit 15 = true)
    (hset : d.flagVal (bitsNat (winRelease k.record) 13 12) (winRelease k.record % 4096) = true)
    (hfirst : ∀ q ∈ (d.home (bitsNat (winRelease k.record) 13 12)).reqs,
      ¬(q.src = u ∧ q.flag = winRelease k.record % 4096 ∧ q.value = false)) :
    d.windowRelease u w =
      ((d.flagReq u (bitsNat (winRelease k.record) 13 12) (winRelease k.record % 4096) false).freeWindow k).pump := by
  have hnone : ((d.home (bitsNat (winRelease k.record) 13 12)).reqs.any fun q =>
      q.src == u && q.flag == winRelease k.record % 4096 && !q.value) = false := by
    rw [List.any_eq_false]
    intro q hq hsame
    simp only [Bool.and_eq_true, beq_iff_eq, Bool.not_eq_true', and_assoc] at hsame
    exact hfirst q hq hsame
  simp only [Device.windowRelease, hfind, hlive, hfilled, huses, hset, hnone, bne_self_eq_false, Bool.not_true,
    Bool.or_self, Bool.false_eq_true, if_false]


/-! ### The completion of a descriptor at a Vexlink port (R252, R356, R362) -/

theorem exec_descriptorComplete {u : SiteIx} (hport : ∀ p, siteDuty u.val ≠ some (.port p)) (c : Fin 8) (s : State) :
    exec (.descriptorComplete u c) s = s.lift (Device.descriptorComplete u.val c.val) := by
  change execDescriptorComplete u c s = _
  unfold execDescriptorComplete
  congr 1
  funext d
  split
  · exact absurd ‹_› (hport _)
  · rfl

/-- What the descriptors of a Vexlink IOU still group leaves first. -/
theorem exec_descriptorComplete_port {u : SiteIx} {p : Nat} (hport : siteDuty u.val = some (.port p)) (c : Fin 8)
    (s : State) :
    exec (.descriptorComplete u c) s =
      s.lift fun d =>
        if d.streams u.val then
          (((d.ctxKeys u.val c.val).foldl (fun d k => d.closeDesc u.val k) d).pump).descriptorComplete u.val c.val
        else d := by
  change execDescriptorComplete u c s = _
  simp only [execDescriptorComplete, hport]

/-- Settles O56: each command by the lemma of its unit, on the context or word that it finds first. -/
theorem streamsMove : Obligations.StreamsMove := by
  unfold Obligations.StreamsMove
  refine ⟨?descriptors, ?streams, ?windows⟩
  case descriptors =>
    intro s d u c hruns hstreams
    refine ⟨?start, ?waitEnd, ?fetch, ?complete⟩
    case start =>
      exact fun hstarted hstate =>
        State.answers_lift hruns rfl (Device.descriptorStart_takesUp hstreams hstarted hstate)
    case waitEnd =>
      exact fun k hfind =>
        ⟨fun die f sense hwait hclr =>
          State.answers_lift hruns rfl (Device.descriptorWaitEnd_clears hstreams hfind hwait hclr),
        fun hclr => State.answers_lift hruns rfl (Device.descriptorWaitEnd_starts hstreams hfind hclr)⟩
    case fetch =>
      intro hkind hstate hcopy desc
      refine ⟨fun hbank => State.answers_lift hruns rfl
        (Device.descriptorFetch_conflict hstreams hkind hstate hcopy hbank), ?_⟩
      intro bs bad s' hbank hread t next
      have fetched {t' : Device} (ht : (if bad then _ else _) = t') : s.answers (.descriptorFetch u c) t' :=
        State.answers_lift hruns rfl
          ((Device.descriptorFetch_reads hstreams hkind hstate hcopy hbank hread).trans ht)
      exact ⟨fun hbad => fetched (if_pos hbad),
        fun hgood hform => fetched ((if_neg (by simp [hgood])).trans (if_pos hform)),
        fun hgood hform hnext => fetched ((if_neg (by simp [hgood])).trans
          ((if_neg (by simp [hform])).trans (if_pos hnext))),
        fun hgood hform hnext => fetched ((if_neg (by simp [hgood])).trans
          ((if_neg (by simp [hform])).trans (if_neg (ne_of_eq_of_ne hnext (by decide)))))⟩
    case complete =>
      intro ends
      constructor
      · intro k hport hfind
        exact State.answers_lift hruns (exec_descriptorComplete hport c s)
          (Device.descriptorComplete_first hstreams hfind)
      · intro p hport t k ht hfind
        exact State.answers_lift hruns (exec_descriptorComplete_port hport c s)
          ((if_pos hstreams).trans (Device.descriptorComplete_first ht hfind))
  case streams =>
    intro s d u hruns hstreams
    refine ⟨?suRead, ?iouRead, ?write, ?copy, ?packWrite, ?packOut, ?packIn⟩
    case suRead =>
      intro c hkind hfind hbank k row f bs bad s' hread last got sent
      exact State.answers_lift hruns rfl
        ((Device.streamRead_su hstreams hkind).trans (Device.suRead_reads hfind hbank hread))
    case iouRead =>
      intro c k hkind hfind x a moved
      have hmore := Device.moved_of_find hfind
      exact ⟨fun j hduty hroom => State.answers_lift hruns rfl
          ((Device.streamRead_hbm hstreams hkind hfind hduty).trans (Device.hbmIssue_issues hmore hduty hroom)),
        fun hduty hroom => State.answers_lift hruns rfl
          ((Device.streamRead_hub hstreams hkind hfind hduty).trans (Device.hubIssue_takes hmore hroom)),
        fun p hduty => State.answers_lift hruns rfl (Device.streamRead_port hstreams hkind hfind hduty)⟩
    case write =>
      intro c w ws hkind hbank hfind hqueue k q
      exact ⟨fun hwrite => State.answers_lift hruns rfl
          (Device.streamWrite_writes hstreams hkind hbank hfind hqueue hwrite),
        fun hland => State.answers_lift hruns rfl
          (Device.landingPacket_takes hstreams hkind hbank hfind hqueue hland)⟩
    case copy =>
      exact fun c hkind hcopy => State.answers_lift hruns rfl (Device.streamCopy_steps hstreams hkind hcopy)
    case packWrite =>
      exact fun v c w m hkind hwriter hnext hroom =>
        State.answers_lift hruns rfl (Device.packingWrite_packs hstreams hkind hwriter hnext hroom)
    case packOut =>
      intro v w rest hkind hclosed p
      exact ⟨fun j hduty => State.answers_lift hruns rfl (Device.packingRead_hbm hstreams hkind hclosed hduty),
        fun hduty => State.answers_lift hruns rfl (Device.packingRead_hub hstreams hkind hclosed hduty),
        fun j hduty => State.answers_lift hruns rfl (Device.packingRead_port hstreams hkind hclosed hduty)⟩
    case packIn =>
      intro v w rest hkind hclosed hdrain hroom p sent then_
      have delivered {t : Device} (ht : d.packToGrid u.val v.val = t) :
          s.answers (.packingRead u v true) (t.deliverAll u.val) :=
        State.answers_lift hruns rfl ((Device.packingRead_grid hstreams hkind).trans (by rw [ht]))
      exact ⟨fun htag => delivered (Device.packToGrid_word hclosed hdrain hroom htag),
        fun htag hcredit => delivered (Device.packToGrid_tagged hclosed hdrain hroom htag hcredit)⟩
  case windows =>
    intro s d u w k hruns hlive hfind die f hfilled huses hset hfirst
    exact State.answers_lift hruns rfl (Device.windowRelease_frees hlive hfind hfilled huses hset hfirst)


end Sys2Proof.Machine
end

section
/-! SUPPORT and PROOFS. Requests of another device: how a frame reaches what the receiver does with it, what the source
table decides, and what each admitted request does. -/

namespace Sys2Proof.Machine

/-! ### A port that takes a frame changes nothing that a request depends on (R338) -/

section
variable (d : Device) (p : Nat) (h : FrameHdr) (b : FrameBody)

theorem Device.heard_comb : (d.heard p h b).comb = d.comb := by
  obtain ⟨f, hf⟩ := d.heard_eq p h b
  rw [hf]
  rfl

theorem Device.heard_hbmRemote (off n : Nat) : (d.heard p h b).hbmRemote off n = d.hbmRemote off n := by
  obtain ⟨f, hf⟩ := d.heard_eq p h b
  rw [hf]
  rfl

theorem Device.heard_admission (tid : Word64) : (d.heard p h b).vxl.admission tid = d.vxl.admission tid := by
  obtain ⟨f, hf⟩ := d.heard_eq p h b
  rw [hf]
  rfl

theorem Device.heard_prunedFrom : (d.heard p h b).vxl.prunedFrom = d.vxl.prunedFrom := by
  obtain ⟨f, hf⟩ := d.heard_eq p h b
  rw [hf]
  rfl

theorem Device.heard_own (dest : BitVec 18) : (d.heard p h b).vxl.own dest = d.vxl.own dest := by
  obtain ⟨f, hf⟩ := d.heard_eq p h b
  rw [hf]
  rfl

theorem Device.heard_windowAt (die x y row n : Nat) :
    (d.heard p h b).windowAt die x y row n = d.windowAt die x y row n := by
  obtain ⟨f, hf⟩ := d.heard_eq p h b
  rw [hf]
  rfl

theorem Device.heard_iou (u : Nat) : (d.heard p h b).iou u = d.iou u := by
  obtain ⟨f, hf⟩ := d.heard_eq p h b
  rw [hf]
  rfl

end

/-- The source table is no part of the device's own number. -/
theorem Vxl.start_own (v : Vxl) (tid : Word64) (n : BitVec 18) : (v.start tid).own n = v.own n := by
  unfold Vxl.start
  dsimp only
  split <;> rfl

/-! ### From the command to the request (R338, R346) -/

/-- A link command hands its frame on; one that carries data does so if the protocol allows it. -/
theorem exec_linkFrame {c : Instr} {p : PortIx} {h : FrameHdr} {b : FrameBody} (hframe : linkFrame c = some (p, h, b))
    (hstrike : ∀ tick lead fb, b ≠ .strike tick lead fb) (s : State) :
    exec c s = s.lift (Device.frameIn p.val h b) ∨ exec c s = s.liftIf c (Device.frameIn p.val h b) := by
  unfold linkFrame at hframe
  split at hframe <;> cases hframe
  case h_1 => exact absurd rfl (hstrike _ _ _)
  case h_13 | h_14 | h_15 => exact .inr rfl
  all_goals exact .inl rfl

section
variable {s : State} {d : Device} {c : Instr} {p : PortIx} {h : FrameHdr} {b : FrameBody} (hruns : s.runs d)
  (hhere : d.forHere h.dest) (hframe : linkFrame c = some (p, h, b)) (hwf : c.wellFormed = true)
  (hhears : d.hears p.val h b)
include hruns hhere hframe hwf hhears

/-- A frame for this device alone that passes the link layer is received. -/
theorem State.answers_receive (hstrike : ∀ tick lead fb, b ≠ .strike tick lead fb) {t : Device}
    (ht : (d.heard p.val h b).receive p.val
      { flit := 0, time := d.now, hops := h.hops, dest := h.dest, src := h.src, lseq := 0, body := b } = t) :
    s.answers c t.pump := by
  have hin : d.frameIn p.val h b = t.pump := by rw [Device.frameIn_here hhears hhere, ht]
  rcases exec_linkFrame hframe hstrike s with he | he
  · exact State.answers_lift hruns he hin
  · exact State.answers_liftIf hruns he hwf hin

end

/-- The frame body asks for something that the source table numbers, and is of no pruned transfer (R354, R361). -/
def Device.asks (d : Device) (src : BitVec 18) (b : FrameBody) (tid : Word64) : Prop :=
  (∃ t, b = .write t ∧ t.tid = tid ∧ (t.xfer = 0 ∨ d.vxl.prunedFrom.contains (src, t.xfer) = false)) ∨
    (∃ chart v, b = .flag tid chart v) ∨ (∃ chart rows, b = .creditReq tid chart rows) ∨
      ∃ die ring rows, b = .placeReq tid die ring rows

theorem Device.asks.not_strike {d : Device} {src : BitVec 18} {b : FrameBody} {tid : Word64} (h : d.asks src b tid)
    (tick lead : Word) (fb : Bool) : b ≠ .strike tick lead fb := by
  rcases h with ⟨t, rfl, -⟩ | ⟨chart, v, rfl⟩ | ⟨chart, rows, rfl⟩ | ⟨die, ring, rows, rfl⟩ <;> nofun

/-- Such a request meets the source table first. -/
theorem Device.receive_asks {d : Device} {f : Frame} {tid : Word64} (p : Nat) (h : d.asks f.src f.body tid) :
    d.receive p f = d.admitFrame p f tid := by
  rcases h with ⟨t, hb, rfl, hpruned⟩ | ⟨chart, v, hb⟩ | ⟨chart, rows, hb⟩ | ⟨die, ring, rows, hb⟩
  · have hkeeps : ¬(t.xfer ≠ 0 ∧ d.vxl.prunedFrom.contains (f.src, t.xfer) = true) := by
      rintro ⟨hx, hin⟩
      rcases hpruned with h0 | hout
      · exact hx h0
      · exact Bool.false_ne_true (hout.symm.trans hin)
    simp only [Device.receive, hb, if_neg hkeeps]
  · simp only [Device.receive, hb]
  · simp only [Device.receive, hb]
  · simp only [Device.receive, hb]

section
variable {s : State} {d : Device} {c : Instr} {p : PortIx} {h : FrameHdr} {b : FrameBody} {tid : Word64}
  (hruns : s.runs d) (hhere : d.forHere h.dest) (hframe : linkFrame c = some (p, h, b)) (hwf : c.wellFormed = true)
  (hhears : d.hears p.val h b) (hasks : d.asks h.src b tid)
include hruns hhere hframe hwf hhears hasks

theorem State.answers_admit {t : Device}
    (ht : (d.heard p.val h b).admitFrame p.val
      { flit := 0, time := d.now, hops := h.hops, dest := h.dest, src := h.src, lseq := 0, body := b } tid = t) :
    s.answers c t.pump := by
  have hasks' : (d.heard p.val h b).asks h.src b tid := by
    rw [Device.asks, Device.heard_prunedFrom]
    exact hasks
  exact State.answers_receive hruns hhere hframe hwf hhears hasks.not_strike
    ((Device.receive_asks p.val hasks').trans ht)

/-- A request with a fresh number is carried out. -/
theorem State.answers_fresh (hfresh : d.vxl.admission tid = .fresh) {t : Device}
    (ht : ((d.heard p.val h b).modVxl (·.start tid)).carry p.val
      { flit := 0, time := d.now, hops := h.hops, dest := h.dest, src := h.src, lseq := 0, body := b } = t) :
    s.answers c t.pump := by
  refine State.answers_admit hruns hhere hframe hwf hhears hasks ?_
  simp only [Device.admitFrame, Device.heard_admission, hfresh, ht]

end

/-! ### What an admitted request does (R260, R344, R352, R355, R356, R363) -/

section
variable {d : Device} {f : Frame} {t : Txn} {tid chart : Word64}

/-- A write into HBM that is there is written and acknowledged. -/
theorem Device.carryWrite_hbm (p : Nat) (hspace : chartSpace t.address = 0)
    (hthere : d.hbmRemote (chartOffset t.address) t.data.length = .ok false) :
    d.carryWrite p f t = (d.hbmWrite .remote (chartOffset t.address) (txnBytes t)).ackTo f t.tid := by
  simp only [Device.carryWrite, hspace, hthere]

theorem Device.carryWrite_refused (p : Nat) {e : Nat} (hspace : chartSpace t.address = 0)
    (hgone : d.hbmRemote (chartOffset t.address) t.data.length = .error e) :
    d.carryWrite p f t = d.nakTo f t.tid e := by
  simp only [Device.carryWrite, hspace, hgone]

theorem Device.jobHalted_false (h : d.comb.state ≠ .halted) : d.jobHalted = false := beq_false_of_ne h

/-- A flag write is issued at its home. -/
theorem Device.carryFlag_issues (p : Nat) (v : Bool) (hspace : chartSpace chart = 2) (hjob : d.comb.state ≠ .halted)
    (halign : chartOffset chart % 8 = 0) (hrange : chartOffset chart < 131072) :
    d.carryFlag p f tid chart v =
      d.flagReq (7001 + p) (chartOffset chart / 8 / 4096) (chartOffset chart / 8 % 4096) v
        (tid := some (f.src, tid)) := by
  have hkind : bitsNat (chartOffset chart) 43 40 ≠ 1 := by
    simp only [bitsNat]
    omega
  have hin : ¬(chartOffset chart % 8 ≠ 0 ∨ 4 * 4096 * 8 < chartOffset chart + 8 * [v].length) := by
    simp only [List.length_singleton]
    omega
  simp only [Device.carryFlag, hspace, Device.jobHalted_false hjob, ne_eq, not_true_eq_false,
    Bool.false_eq_true, if_false]
  refine (if_neg hkind).trans ((if_neg hin).trans ?_)
  rfl

section
variable {rows die x y row : Nat} {w : WinAt} (hspace : chartSpace chart = 1) (hjob : d.comb.state ≠ .halted)
  (hplace : scratchPlace chart = some (die, x, y, row)) (hwin : d.windowAt die x y row rows = some w)
include hspace hjob hplace hwin

theorem Device.carryCredit_granted (hfree : (d.window w).state = 0) :
    d.carryCredit f tid chart rows =
      ((d.modWindow w fun k =>
        { k with state := 1, grantee := f.src, multi := !d.vxl.own f.dest, xfer := 0 }).modVxl (·.finish tid)).post
          f.src (.grant tid false) := by
  simp only [Device.carryCredit, hspace, Device.jobHalted_false hjob, hplace, hwin, hfree, ne_eq, not_true_eq_false,
    Bool.false_eq_true, if_false, if_true]

theorem Device.carryCredit_queued (hused : (d.window w).state ≠ 0)
    (hroom : ((d.iou w.iou).windows.map fun k => k.2.queue.length).sum < 16) :
    d.carryCredit f tid chart rows =
      (d.modWindow w fun k => { k with queue := k.queue ++ [(f.src, tid, !d.vxl.own f.dest)] }).post f.src
        (.grant tid true) := by
  simp only [Device.carryCredit, hspace, Device.jobHalted_false hjob, hplace, hwin, hused, Nat.not_le.2 hroom, ne_eq,
    not_true_eq_false, Bool.false_eq_true, if_false]

theorem Device.carryCredit_busy (hused : (d.window w).state ≠ 0)
    (hfull : 16 ≤ ((d.iou w.iou).windows.map fun k => k.2.queue.length).sum) :
    d.carryCredit f tid chart rows = d.nakTo f tid Nak.busy := by
  simp only [Device.carryCredit, hspace, Device.jobHalted_false hjob, hplace, hwin, hused, hfull, ne_eq,
    not_true_eq_false, Bool.false_eq_true, if_false, if_true]

end

theorem Device.carryPlace_waits (die g rows : Nat) (hjob : d.comb.state ≠ .halted) :
    d.carryPlace f tid die g rows =
      d.modHome die fun h =>
        { h with requests := h.requests ++
            [{ fromDie := 0, device := f.src, tid := some tid, endpoint := 0, ring := g, rows := rows }] } := by
  simp only [Device.carryPlace, Device.jobHalted_false hjob, Bool.false_eq_true, if_false]

/-! ### Reads (R344, R352) -/

theorem Device.carryRead_hbm {n : Nat} (hspace : chartSpace chart = 0) (hlow : 1 ≤ n) (hhigh : n ≤ 4032)
    (hthere : d.hbmRemote (chartOffset chart) n = .ok false) :
    d.carryRead f tid chart n =
      (d.hbmRead .remote (chartOffset chart) n).2.post f.src (.readData
        { tid := tid, address := chart, op := 3, xfer := 0,
          poison := poison64 ((d.hbmRead .remote (chartOffset chart) n).1.map (·.2)),
          data := (d.hbmRead .remote (chartOffset chart) n).1.map (·.1) }) := by
  have hlen : ¬(n < 1 ∨ 4032 < n) := by omega
  simp only [Device.carryRead, hspace, hthere, if_neg hlen]

theorem Device.carryRead_registers {n : Nat} (hspace : chartSpace chart = 2)
    (hkind : bitsNat (chartOffset chart) 43 32 = 2 ^ 8) (halign : chartOffset chart % 2 ^ 32 % 4 = 0)
    (hwhole : n % 4 = 0) (hlow : 4 ≤ n) (hhigh : n ≤ 256)
    (hmapped : counterRangeOk (chartOffset chart % 2 ^ 32) n = true) :
    d.carryRead f tid chart n =
      (d.counterRange (n / 4) (chartOffset chart % 2 ^ 32)).2.post f.src (.regData
        { tid := tid, address := chart, op := 4, xfer := 0,
          poison := poison64 ((d.counterRange (n / 4) (chartOffset chart % 2 ^ 32)).1.map fun _ => false),
          data := (d.counterRange (n / 4) (chartOffset chart % 2 ^ 32)).1 }) := by
  have hsound : ¬(bitsNat (chartOffset chart) 43 32 ≠ 2 ^ 8 ∨ chartOffset chart % 2 ^ 32 % 4 ≠ 0 ∨ n % 4 ≠ 0 ∨ n < 4 ∨
      256 < n ∨ (!counterRangeOk (chartOffset chart % 2 ^ 32) n) = true) := by
    simp only [hkind, halign, hwhole, hmapped, Bool.not_true, Bool.false_eq_true, or_false, ne_eq, not_true_eq_false,
      false_or]
    omega
  have hbytes (l : List Byte) : (l.map fun b => (b, false)).map (·.1) = l := by
    rw [List.map_map]
    exact List.map_id l
  have hclean (l : List Byte) : (l.map fun b => (b, false)).map (·.2) = l.map fun _ => false := by
    rw [List.map_map]
    rfl
  simp only [Device.carryRead, hspace, if_neg hsound, hbytes, hclean]

end

/-- Settles O39: a request with a fresh number by what it asks for, another by what the source table says. -/
theorem requestsAreCarriedOut : Obligations.RequestsAreCarriedOut := by
  unfold Obligations.RequestsAreCarriedOut
  refine ⟨?carried, ?admission⟩
  case carried =>
    intro s d p h hruns hhere
    refine ⟨?write, ?flag, ?read, ?registers, ?credit, ?place, ?withdraw, ?prune⟩
    case write =>
      intro t hwf hhears hpruned hfresh hspace a
      have hasks : d.asks h.src (.write t) t.tid := .inl ⟨t, rfl, rfl, hpruned⟩
      have hhbm : a.hbmRemote (chartOffset t.address) t.data.length =
          d.hbmRemote (chartOffset t.address) t.data.length := d.heard_hbmRemote ..
      exact ⟨fun hthere => State.answers_fresh hruns hhere rfl hwf hhears hasks hfresh
          (Device.carryWrite_hbm p.val hspace (hhbm.trans hthere)),
        fun e hgone => State.answers_fresh hruns hhere rfl hwf hhears hasks hfresh
          (Device.carryWrite_refused p.val hspace (hhbm.trans hgone))⟩
    case flag =>
      intro tid chart v hhears hfresh hspace hjob halign hrange
      have hjob' : (d.heard p.val h (.flag tid chart v)).comb.state ≠ .halted := by rwa [Device.heard_comb]
      exact State.answers_fresh hruns hhere rfl rfl hhears (.inr (.inl ⟨chart, v, rfl⟩)) hfresh
        (Device.carryFlag_issues p.val v hspace hjob' halign hrange)
    case read =>
      intro tid chart len hhears hspace hlow hhigh hthere
      exact State.answers_receive hruns hhere rfl rfl hhears nofun
        (Device.carryRead_hbm hspace hlow hhigh ((d.heard_hbmRemote ..).trans hthere))
    case registers =>
      intro tid chart len hhears hspace hkind halign hwhole hlow hhigh hmapped
      exact State.answers_receive hruns hhere rfl rfl hhears nofun
        (Device.carryRead_registers hspace hkind halign hwhole hlow hhigh hmapped)
    case credit =>
      intro tid chart rows die x y row w hhears hfresh hjob hspace hplace hwin a waiting
      have hasks : d.asks h.src (.creditReq tid chart rows) tid := .inr (.inr (.inl ⟨chart, rows, rfl⟩))
      have hjob' : a.comb.state ≠ .halted := (congrArg Comb.state (d.heard_comb ..)).trans_ne hjob
      have hwin' : a.windowAt die x y row rows.toNat = some w := (d.heard_windowAt ..).trans hwin
      have hiou : a.iou w.iou = d.iou w.iou := d.heard_iou ..
      have hstate : (a.window w).state = (d.window w).state := by rw [Device.window, hiou, Device.window]
      have hwaiting : ((a.iou w.iou).windows.map fun k => k.2.queue.length).sum = waiting := by rw [hiou]
      have hown : a.vxl.own h.dest = d.vxl.own h.dest := (Vxl.start_own ..).trans (d.heard_own ..)
      have carried {t : Device}
          (ht : a.carryCredit
            { flit := 0, time := d.now, hops := h.hops, dest := h.dest, src := h.src, lseq := 0,
              body := .creditReq tid chart rows } tid chart rows.toNat = t) :
          s.answers (.creditReq p h tid chart rows) t.pump :=
        State.answers_fresh hruns hhere rfl rfl hhears hasks hfresh ht
      rw [← hown]
      exact ⟨fun hfree => carried (Device.carryCredit_granted hspace hjob' hplace hwin' (hstate.trans hfree)),
        fun hused hroom => carried (Device.carryCredit_queued hspace hjob' hplace hwin' (hstate.trans_ne hused)
          (hwaiting.trans_lt hroom)),
        fun hused hfull => carried (Device.carryCredit_busy hspace hjob' hplace hwin' (hstate.trans_ne hused)
          (hfull.trans_eq hwaiting.symm))⟩
    case place =>
      intro tid die ring rows hhears hfresh hjob
      have hjob' : (d.heard p.val h (.placeReq tid die.val ring.val rows)).comb.state ≠ .halted := by
        rwa [Device.heard_comb]
      exact State.answers_fresh hruns hhere rfl rfl hhears (.inr (.inr (.inr ⟨die.val, ring.val, rows, rfl⟩)))
        hfresh (Device.carryPlace_waits die.val ring.val rows.toNat hjob')
    case withdraw => exact fun tid hhears => State.answers_receive hruns hhere rfl rfl hhears nofun rfl
    case prune => exact fun x hhears => State.answers_receive hruns hhere rfl rfl hhears nofun rfl
  case admission =>
    intro s d c p h b tid hruns hframe hwf hhears hhere hasks a f
    have decided {t : Device} (ht : a.admitFrame p.val f tid = t) : s.answers c t.pump :=
      State.answers_admit hruns hhere hframe hwf hhears hasks ht
    have hheard (k : Admit) (hk : d.vxl.admission tid = k) : a.vxl.admission tid = k :=
      (d.heard_admission ..).trans hk
    exact ⟨fun hk => decided (by simp only [Device.admitFrame, hheard _ hk]),
      fun hk => decided (by simp only [Device.admitFrame, hheard _ hk]),
      fun hk => decided (by simp only [Device.admitFrame, hheard _ hk]; rfl),
      fun hk => decided (by simp only [Device.admitFrame, hheard _ hk]; rfl)⟩

end Sys2Proof.Machine
end

section
/-! SUPPORT and PROOFS. One clk of a waggle home: what it holds of a flag after a write, what a home without groups and
counters makes of a batch of requests, and what a barrier group leaves that is evaluated. -/

namespace Sys2Proof.Machine

/-! ### The flags that a home holds (R279, R280) -/

theorem mem_insertNat (f g : Nat) (l : List Nat) : g ∈ insertNat f l ↔ g = f ∨ g ∈ l := by
  induction l with
  | nil => simp [insertNat]
  | cons a l ih =>
    unfold insertNat
    split_ifs with hlt heq
    · simp
    · simp [heq]
    · rw [List.mem_cons, ih, List.mem_cons, or_left_comm]

theorem Home.hasFlag_iff (h : Home) (f : Nat) : h.hasFlag f = true ↔ f ∈ h.flags := List.contains_iff_mem

theorem Home.hasFlag_filter (h : Home) (p : Nat → Bool) (f : Nat) :
    { h with flags := h.flags.filter p }.hasFlag f = (h.hasFlag f && p f) := by
  rw [Bool.eq_iff_iff, Bool.and_eq_true, Home.hasFlag_iff, Home.hasFlag_iff, List.mem_filter]

theorem Home.hasFlag_putFlag (h : Home) (f g : Nat) (v : Bool) :
    (h.putFlag f v).hasFlag g = if g = f then v else h.hasFlag g := by
  rw [Bool.eq_iff_iff, Home.hasFlag_iff]
  cases v
  case false => by_cases hg : g = f <;> simp [Home.putFlag, Home.hasFlag_iff, hg]
  case true => by_cases hg : g = f <;> simp [Home.putFlag, Home.hasFlag_iff, mem_insertNat, hg]

@[simp] theorem Home.putFlag_bar (h : Home) (f : Nat) (v : Bool) (g : Nat) : (h.putFlag f v).bar g = h.bar g := rfl
@[simp] theorem Home.putFlag_counter (h : Home) (f : Nat) (v : Bool) (c : Nat) :
    (h.putFlag f v).counter c = h.counter c := rfl

/-- The home after the same change of the flag of every request. -/
def Home.putAll (h : Home) (v : Bool) (qs : List FlagReq) : Home := qs.foldl (fun h q => h.putFlag q.flag v) h

theorem Home.foldl_putFlag (h : Home) (v : Bool) (qs : List FlagReq) :
    qs.foldl (fun h q => h.putFlag q.flag v) h = h.putAll v qs := rfl

theorem Home.hasFlag_putAll (h : Home) (v : Bool) (qs : List FlagReq) (f : Nat) :
    (h.putAll v qs).hasFlag f = if ∃ q ∈ qs, q.flag = f then v else h.hasFlag f := by
  induction qs generalizing h with
  | nil => simp [Home.putAll]
  | cons q qs ih =>
    have hstep : h.putAll v (q :: qs) = (h.putFlag q.flag v).putAll v qs := rfl
    rw [hstep, ih, Home.hasFlag_putFlag]
    by_cases hq : f = q.flag
    · simp [hq]
    · simp [hq, Ne.symm hq]

/-- Writes of flags change nothing else of the home. -/
theorem Home.putAll_eq (h : Home) (v : Bool) (qs : List FlagReq) : ∃ fs, h.putAll v qs = { h with flags := fs } :=
  List.foldlRecOn qs _ (motive := fun e : Home => ∃ fs, e = { h with flags := fs }) ⟨h.flags, rfl⟩
    fun e ⟨_, he⟩ q _ => ⟨(e.putFlag q.flag v).flags, by rw [he]; rfl⟩

@[simp] theorem Home.putAll_bar (h : Home) (v : Bool) (qs : List FlagReq) (g : Nat) :
    (h.putAll v qs).bar g = h.bar g := by
  obtain ⟨fs, he⟩ := h.putAll_eq v qs
  rw [he]; rfl

@[simp] theorem Home.putAll_counter (h : Home) (v : Bool) (qs : List FlagReq) (c : Nat) :
    (h.putAll v qs).counter c = h.counter c := by
  obtain ⟨fs, he⟩ := h.putAll_eq v qs
  rw [he]; rfl

/-! ### Flags that no group and no counter watches (R286, R290) -/

theorem Barrier.arrives_disabled {b : Barrier} (h : b.en = false) (f : Nat) : b.arrives f = false := by
  simp [Barrier.arrives, h]

theorem Home.groupOf_eq_none {h : Home} {f : Nat} (hbars : ∀ g, (h.bar g).arrives f = false) : h.groupOf f = none :=
  List.find?_eq_none.2 fun g _ => ne_true_of_eq_false (hbars g)

theorem Home.countersOf_disabled {h : Home} (hcnts : ∀ c, (h.counter c).en = false) (f : Nat) : h.countersOf f = [] :=
  List.filter_eq_nil_iff.2 fun c _ => by simp [hcnts c]

/-- A flag that the home sets and that nothing watches changes at once. -/
theorem Home.selfSet_unwatched {h : Home} {f : Nat} (die : Nat) (v : Bool) (hcnts : h.countersOf f = [])
    (hbars : h.groupOf f = none) : h.selfSet die f v = h.putFlag f v := by simp [Home.selfSet, hcnts, hbars]

theorem Home.applySet_unwatched {h : Home} {f : Nat} (die : Nat) (counts : List Nat) (hcnts : h.countersOf f = [])
    (hbars : h.groupOf f = none) : h.applySet die f counts = (h.putFlag f true, counts, []) := by
  simp [Home.applySet, hcnts, hbars]

/-! ### A home without groups and counters (R280) -/

theorem Home.evalGroup_disabled {h : Home} {g : Nat} (die : Nat) (hen : (h.bar g).en = false) :
    h.evalGroup die g = h := by simp [Home.evalGroup, hen]

theorem Home.evalCounters_disabled {h : Home} (die : Nat) (counts : List Nat) (hcnts : ∀ c, (h.counter c).en = false)
    (cs : List Nat) : h.evalCounters die counts cs = (h, []) := by
  induction cs with
  | nil => rfl
  | cons c cs ih => simp [Home.evalCounters, Home.evalCounter, hcnts c, ih]

theorem Home.applySets_unwatched {h : Home} (die : Nat) (counts : List Nat) (hbars : ∀ g, (h.bar g).en = false)
    (hcnts : ∀ c, (h.counter c).en = false) (qs : List FlagReq) :
    h.applySets die counts qs = (h.putAll true qs, counts, []) := by
  induction qs generalizing h with
  | nil => rfl
  | cons q qs ih =>
    have hset := Home.applySet_unwatched die counts (Home.countersOf_disabled hcnts q.flag)
      (Home.groupOf_eq_none fun g => Barrier.arrives_disabled (hbars g) q.flag)
    have hrest : (h.putFlag q.flag true).applySets die counts qs = _ := ih hbars hcnts
    simp only [Home.applySets, hset, hrest, List.nil_append]
    rfl

theorem Home.evalGroups_disabled {h : Home} (die : Nat) (hbars : ∀ g, (h.bar g).en = false) (gs : List Nat) :
    gs.foldl (fun h g => h.evalGroup die g) h = h :=
  List.foldlRecOn gs _ (motive := (· = h)) rfl fun e he g _ => by
    rw [he, Home.evalGroup_disabled die (hbars g)]

/-- A home after the clears of a batch, then its sets. -/
def Home.writeFlags (h : Home) (batch : List FlagReq) : Home :=
  (h.putAll false (batch.filter fun q => !q.value)).putAll true (batch.filter (·.value))

/-- Without groups and counters a clk is the clears, then the sets, beside the count of collisions. -/
theorem Home.applyBatch_plain {h : Home} (die : Nat) (batch : List FlagReq) (hbars : ∀ g, (h.bar g).en = false)
    (hcnts : ∀ c, (h.counter c).en = false) :
    ∃ n, h.applyBatch die batch = ({ h with collide := n }.writeFlags batch, []) := by
  refine ⟨satAdd h.collide (collisions (batch.filter fun q => !q.value) (batch.filter (·.value))), ?_⟩
  generalize hn : satAdd h.collide (collisions (batch.filter fun q => !q.value) (batch.filter (·.value))) = n
  have hb (g : Nat) : ({ h with collide := n }.bar g).en = false := hbars g
  have hc (c : Nat) : ({ h with collide := n }.counter c).en = false := hcnts c
  simp only [Home.applyBatch, hn, Home.foldl_putFlag, Home.applySets_unwatched, Home.evalGroups_disabled,
    Home.evalCounters_disabled, Home.putAll_bar, Home.putAll_counter, hb, hc, implies_true, List.append_nil,
    Home.writeFlags]

/-- A flag holds 1 behind a batch where a set names it, or where it held 1 and no clear names it. -/
theorem Home.hasFlag_writeFlags (h : Home) (batch : List FlagReq) (f : Nat) :
    (h.writeFlags batch).hasFlag f = true ↔
      (∃ q ∈ batch, q.value = true ∧ q.flag = f) ∨
        (h.hasFlag f = true ∧ ¬∃ q ∈ batch, q.value = false ∧ q.flag = f) := by
  have hsets : (∃ q ∈ batch.filter (·.value), q.flag = f) ↔ ∃ q ∈ batch, q.value = true ∧ q.flag = f := by
    simp [and_assoc]
  have hclears : (∃ q ∈ batch.filter fun q => !q.value, q.flag = f) ↔
      ∃ q ∈ batch, q.value = false ∧ q.flag = f := by simp [and_assoc]
  rw [Home.writeFlags, Home.hasFlag_putAll, Home.hasFlag_putAll]
  simp only [hsets, hclears]
  split_ifs with hset hclear
  · simp only [hset, true_or]
  · simp only [hset, hclear, not_true_eq_false, and_false, or_false]
  · simp only [hset, hclear, not_false_eq_true, and_true, false_or]

theorem Home.writeFlags_eq (h : Home) (batch : List FlagReq) : ∃ fs, h.writeFlags batch = { h with flags := fs } := by
  obtain ⟨fs, hclears⟩ := h.putAll_eq false (batch.filter fun q => !q.value)
  obtain ⟨gs, hsets⟩ := (h.putAll false (batch.filter fun q => !q.value)).putAll_eq true (batch.filter (·.value))
  exact ⟨gs, by rw [Home.writeFlags, hsets, hclears]⟩

/-- Settles O28: the two writes of flags, of which the sets come last. -/
theorem homeClearsThenSets : Obligations.HomeClearsThenSets := by
  unfold Obligations.HomeClearsThenSets
  intro h die batch hbars hcnts
  obtain ⟨n, hbatch⟩ := Home.applyBatch_plain die batch hbars hcnts
  obtain ⟨fs, hframe⟩ := { h with collide := n }.writeFlags_eq batch
  rw [hbatch]
  refine ⟨fun f => Home.hasFlag_writeFlags { h with collide := n } batch f, ?_⟩
  rw [hframe]
  exact ⟨rfl, rfl, rfl, rfl, rfl, rfl⟩

/-! ### A barrier group in the evaluation step (R287) -/

/-- The home in which group `g` has taken its arrivals and counted the round. -/
def Home.roundTaken (h : Home) (g : Nat) : Home :=
  { h with flags := h.flags.filter fun f => !(h.bar g).arrives f,
           bars := h.bars.put g { h.bar g with rounds := satInc (h.bar g).rounds } }

theorem Home.roundTaken_bar_self (h : Home) (g : Nat) :
    (h.roundTaken g).bar g = { h.bar g with rounds := satInc (h.bar g).rounds } := Tab.getD_put_self ..

theorem Home.roundTaken_bar_ne (h : Home) {g k : Nat} (hk : k ≠ g) : (h.roundTaken g).bar k = h.bar k :=
  Tab.getD_put_ne _ _ _ hk

theorem Home.roundTaken_arrives (h : Home) (g k f : Nat) :
    ((h.roundTaken g).bar k).arrives f = (h.bar k).arrives f := by
  by_cases hk : k = g
  · rw [hk, Home.roundTaken_bar_self]; rfl
  · rw [Home.roundTaken_bar_ne h hk]

theorem Home.roundTaken_hasFlag (h : Home) (g f : Nat) :
    (h.roundTaken g).hasFlag f = (h.hasFlag f && !(h.bar g).arrives f) := h.hasFlag_filter _ f

/-- A group all of whose arrivals are set, with a release flag that nothing watches, turns that flag over. -/
theorem Home.evalGroup_releases {h : Home} {g : Nat} (die : Nat) (hen : (h.bar g).en = true)
    (harrived : ∀ k, k < (h.bar g).n.toNat → h.hasFlag ((h.bar g).base.toNat + k) = true)
    (hgroups : ∀ k, (h.bar k).arrives (h.bar g).release.toNat = false)
    (hcnts : h.countersOf (h.bar g).release.toNat = []) :
    h.evalGroup die g =
      (h.roundTaken g).putFlag (h.bar g).release.toNat !h.hasFlag (h.bar g).release.toNat := by
  have hall : ((List.range (h.bar g).n.toNat).all fun k => h.hasFlag ((h.bar g).base.toNat + k)) = true :=
    List.all_eq_true.2 fun k hk => harrived k (List.mem_range.1 hk)
  have hset : h.evalGroup die g =
      (h.roundTaken g).selfSet die (h.bar g).release.toNat !h.hasFlag (h.bar g).release.toNat :=
    if_pos (Bool.and_eq_true_iff.2 ⟨hen, hall⟩)
  rw [hset]
  exact Home.selfSet_unwatched die _ hcnts
    (Home.groupOf_eq_none fun k => (h.roundTaken_arrives g k _).trans (hgroups k))

theorem Home.evalGroup_waits {h : Home} {g k : Nat} (die : Nat) (hk : k < (h.bar g).n.toNat)
    (hclear : h.hasFlag ((h.bar g).base.toNat + k) = false) : h.evalGroup die g = h := by
  have hall : ((List.range (h.bar g).n.toNat).all fun k => h.hasFlag ((h.bar g).base.toNat + k)) = false :=
    List.all_eq_false.2 ⟨k, List.mem_range.2 hk, ne_true_of_eq_false hclear⟩
  simp only [Home.evalGroup, hall, Bool.and_false, Bool.false_eq_true, if_false]

/-- Settles O29: the release flag is none of the arrivals, so clearing these does not touch it. -/
theorem barrierReleases : Obligations.BarrierReleases := by
  unfold Obligations.BarrierReleases
  intro h die g hen
  refine ⟨?releases, fun ⟨k, hk, hclear⟩ => Home.evalGroup_waits die hk hclear⟩
  case releases =>
    intro harrived hown hothers hcnts
    have hgroups (k : Nat) : (h.bar k).arrives (h.bar g).release.toNat = false := by
      by_cases hk : k = g
      · rw [hk, hown]
      · exact hothers k hk
    rw [Home.evalGroup_releases die hen harrived hgroups hcnts]
    refine ⟨fun f hf => ?arrivals, ?release, fun f hf hne => ?others, ?round, fun k hk => ?groups⟩
    case arrivals =>
      have hne : f ≠ (h.bar g).release.toNat := fun he => by rw [he, hown] at hf; cases hf
      rw [Home.hasFlag_putFlag, if_neg hne, Home.roundTaken_hasFlag, hf, Bool.not_true, Bool.and_false]
    case release => rw [Home.hasFlag_putFlag, if_pos rfl]
    case others => rw [Home.hasFlag_putFlag, if_neg hne, Home.roundTaken_hasFlag, hf, Bool.not_false, Bool.and_true]
    case round => rw [Home.putFlag_bar, Home.roundTaken_bar_self]
    case groups => rw [Home.putFlag_bar, Home.roundTaken_bar_ne h hk]

end Sys2Proof.Machine
end

section
/-! SUPPORT and PROOFS. The commands of flags, barriers and counters, one clk of a home that applies a single request,
and the stop of a home. -/

namespace Sys2Proof.Machine

/-! ### What a command in progress leaves of the homes -/

@[simp] theorem Device.acted_home (d : Device) (id : CmdId) (k : Nat) : (d.acted id).home k = d.home k := rfl

@[simp] theorem Device.complete_homes (d : Device) (id : CmdId) (status : Nat) (payload : List Byte) (detail : Word) :
    (d.complete id status payload detail).homes = d.homes := by
  obtain ⟨h, he⟩ := d.complete_eq id status payload detail
  rw [he]

@[simp] theorem Device.complete_home (d : Device) (id : CmdId) (status : Nat) (payload : List Byte) (detail : Word)
    (k : Nat) : (d.complete id status payload detail).home k = d.home k := by
  rw [Device.home, Device.complete_homes, Device.home]

/-- A command that completes is marked so. -/
theorem Device.complete_findCmd {d : Device} {id : CmdId} {c : Cmd} (status : Nat) (payload : List Byte) (detail : Word)
    (hcmd : d.findCmd id = some c) (hopen : c.posted = false) :
    (d.complete id status payload detail).findCmd id = some { c with posted := true } := by
  rw [Device.complete_open status payload detail hcmd hopen]
  have hid : c.id = id := Device.findCmd_id hcmd
  exact Device.findCmd_modCmd hcmd hid

/-! ### FLAG_WRITE (R285) -/

section
variable {d : Device} {id : CmdId} {ps : List Byte} (hready : d.ready id 0x0501 ps) (hdie : fieldAt ps 0 1 ≤ 3)
  (hvalue : fieldAt ps 1 1 ≤ 1) (hflag : fieldAt ps 2 2 ≤ 4095)
include hready hdie hvalue hflag

theorem Device.flagWrite_sends (hactive : d.comb.state = .active) :
    d.flagWrite id =
      (d.acted id).flagReq 7000 (fieldAt ps 0 1) (fieldAt ps 2 2) (decide (fieldAt ps 1 1 = 1)) (cmd := some id) := by
  have hsound : ¬(3 < fieldAt ps 0 1 ∨ 1 < fieldAt ps 1 1 ∨ 4095 < fieldAt ps 2 2) := by omega
  simp only [Device.flagWrite, Device.runCmd_ready _ hready, if_neg hsound, Device.acted_comb, hactive, ne_eq,
    not_true_eq_false, if_false]

theorem Device.flagWrite_refused (hactive : d.comb.state ≠ .active) :
    d.flagWrite id = (d.acted id).complete id Status.wagState := by
  have hsound : ¬(3 < fieldAt ps 0 1 ∨ 1 < fieldAt ps 1 1 ∨ 4095 < fieldAt ps 2 2) := by omega
  simp only [Device.flagWrite, Device.runCmd_ready _ hready, if_neg hsound, Device.acted_comb, ne_eq, hactive,
    not_false_eq_true, if_true]

end

/-! ### BARRIER_CONFIG and COUNTER_CONFIG (R286, R290) -/

theorem Device.configAllowed_iff (d : Device) :
    d.configAllowed = true ↔ d.comb.state = .active ∧ d.tick.life = .off := by
  rw [Device.configAllowed, Bool.and_eq_true, decide_eq_true_iff, decide_eq_true_iff]

@[simp] theorem Device.acted_configAllowed (d : Device) (id : CmdId) : (d.acted id).configAllowed = d.configAllowed :=
  rfl

section
variable {d : Device} {id : CmdId} {ps : List Byte} (hdie : fieldAt ps 0 1 ≤ 3) (hreserved : fieldAt ps 1 3 = 0)
include hdie hreserved

theorem Device.barrierConfig_refused (hready : d.ready id 0x0502 ps) (hrefused : d.configAllowed = false) :
    d.barrierConfig id = (d.acted id).complete id Status.wagState := by
  have hsound : ¬(fieldAt ps 1 3 ≠ 0 ∨ 3 < fieldAt ps 0 1) := by omega
  simp only [Device.barrierConfig, Device.runCmd_ready _ hready, if_neg hsound, Device.acted_configAllowed, hrefused,
    Bool.not_false, if_true]

theorem Device.counterConfig_refused (hready : d.ready id 0x0503 ps) (hrefused : d.configAllowed = false) :
    d.counterConfig id = (d.acted id).complete id Status.wagState := by
  have hsound : ¬(fieldAt ps 1 3 ≠ 0 ∨ 3 < fieldAt ps 0 1) := by omega
  simp only [Device.counterConfig, Device.runCmd_ready _ hready, if_neg hsound, Device.acted_configAllowed, hrefused,
    Bool.not_false, if_true]

/-- A sound group record is stored, and the flags that it names clear (R286). -/
theorem Device.barrierConfig_stores (hready : d.ready id 0x0502 ps) (hallowed : d.configAllowed = true)
    (hgroup : fieldAt ps 4 1 ≤ 63) (hn : fieldAt ps 5 1 ≤ 64) (hbase : fieldAt ps 6 2 ≤ 4095)
    (hlast : fieldAt ps 6 2 + fieldAt ps 5 1 ≤ 4096) (hrel : fieldAt ps 8 2 ≤ 4095)
    (hapart : fieldAt ps 8 2 < fieldAt ps 6 2 ∨ fieldAt ps 6 2 + fieldAt ps 5 1 ≤ fieldAt ps 8 2)
    (hmisuse : misuseOk (fieldAt ps 10 2) = true)
    (harrivals : ∀ k, k < fieldAt ps 5 1 →
      (d.home (fieldAt ps 0 1)).flagTaken (some (fieldAt ps 4 1)) none (fieldAt ps 6 2 + k) = false)
    (hrelFree : (d.home (fieldAt ps 0 1)).flagTaken (some (fieldAt ps 4 1)) none (fieldAt ps 8 2) = false) :
    d.barrierConfig id =
      ((d.acted id).modHome (fieldAt ps 0 1) fun h =>
        { h with bars := h.bars.put (fieldAt ps 4 1)
                   { en := decide (0 < fieldAt ps 5 1), n := BitVec.ofNat 7 (fieldAt ps 5 1),
                     base := BitVec.ofNat 12 (fieldAt ps 6 2), release := BitVec.ofNat 12 (fieldAt ps 8 2),
                     misuseFlag := BitVec.ofNat 16 (fieldAt ps 10 2), misuse := 0, rounds := 0 },
                 flags := h.flags.filter fun f =>
                   !(decide (fieldAt ps 6 2 ≤ f ∧ f < fieldAt ps 6 2 + fieldAt ps 5 1) ||
                     f == fieldAt ps 8 2) }).latchWaits.complete id Status.ok := by
  have hsound : ¬(fieldAt ps 1 3 ≠ 0 ∨ 3 < fieldAt ps 0 1) := by omega
  have htaken : ((List.range (fieldAt ps 5 1)).any fun k =>
      (d.home (fieldAt ps 0 1)).flagTaken (some (fieldAt ps 4 1)) none (fieldAt ps 6 2 + k)) = false :=
    List.any_eq_false.2 fun k hk => ne_true_of_eq_false (harrivals k (List.mem_range.1 hk))
  have hmeets : ¬(fieldAt ps 6 2 ≤ fieldAt ps 8 2 ∧ fieldAt ps 8 2 < fieldAt ps 6 2 + fieldAt ps 5 1) := by omega
  simp only [Device.barrierConfig, Device.runCmd_ready _ hready, if_neg hsound, Device.acted_configAllowed, hallowed,
    Device.acted_home, Nat.not_lt.2 hgroup, Nat.not_lt.2 hn, Nat.not_lt.2 hbase, Nat.not_lt.2 hrel, Nat.not_lt.2 hlast,
    hmisuse, hmeets, htaken, hrelFree, Bool.not_true, Bool.false_eq_true, or_self, if_false]

/-- A sound counter record is stored, and the flags that it names clear (R290). -/
theorem Device.counterConfig_stores (hready : d.ready id 0x0503 ps) (hallowed : d.configAllowed = true)
    (hcounter : fieldAt ps 4 1 ≤ 63) (hen : fieldAt ps 5 1 ≤ 1) (hsrc : fieldAt ps 6 2 ≤ 4095)
    (hclr : fieldAt ps 8 2 ≤ 4095) (hout : fieldAt ps 10 2 ≤ 4095) (hthresh : 1 ≤ fieldAt ps 12 2)
    (hmisuse : misuseOk (fieldAt ps 14 2) = true) (hsrcClr : fieldAt ps 6 2 ≠ fieldAt ps 8 2)
    (hsrcOut : fieldAt ps 6 2 ≠ fieldAt ps 10 2) (hclrOut : fieldAt ps 8 2 ≠ fieldAt ps 10 2)
    (hsrcFree : (d.home (fieldAt ps 0 1)).flagTaken none (some (fieldAt ps 4 1)) (fieldAt ps 6 2) = false)
    (hclrFree : (d.home (fieldAt ps 0 1)).flagTaken none (some (fieldAt ps 4 1)) (fieldAt ps 8 2) = false) :
    d.counterConfig id =
      ((d.acted id).modHome (fieldAt ps 0 1) fun h =>
        { h with cnts := h.cnts.put (fieldAt ps 4 1)
                   { en := decide (fieldAt ps 5 1 = 1), saturated := false, src := BitVec.ofNat 12 (fieldAt ps 6 2),
                     clr := BitVec.ofNat 12 (fieldAt ps 8 2), out := BitVec.ofNat 12 (fieldAt ps 10 2),
                     thresh := BitVec.ofNat 16 (fieldAt ps 12 2), count := 0,
                     misuseFlag := BitVec.ofNat 16 (fieldAt ps 14 2) },
                 flags := h.flags.filter fun f =>
                   !(f == fieldAt ps 6 2 || f == fieldAt ps 8 2 || f == fieldAt ps 10 2) }).latchWaits.complete id
        Status.ok := by
  have hsound : ¬(fieldAt ps 1 3 ≠ 0 ∨ 3 < fieldAt ps 0 1) := by omega
  simp only [Device.counterConfig, Device.runCmd_ready _ hready, if_neg hsound, Device.acted_configAllowed, hallowed,
    Device.acted_home, Nat.not_lt.2 hcounter, Nat.not_lt.2 hen, Nat.not_lt.2 hsrc, Nat.not_lt.2 hclr, Nat.not_lt.2 hout,
    Nat.ne_of_gt hthresh, hmisuse, hsrcClr, hsrcOut, hclrOut, hsrcFree, hclrFree, Bool.not_true, Bool.false_eq_true,
    or_self, if_false]

end

/-! ### One clk of a home on the device (R280, R282) -/

@[simp] theorem Device.latchWaits_homes (d : Device) : d.latchWaits.homes = d.homes := rfl
@[simp] theorem Device.latchWaits_host (d : Device) : d.latchWaits.host = d.host := rfl

@[simp] theorem Device.homeEvents_homes (d : Device) (die : Nat) (evs : List HomeEvent) :
    (d.homeEvents die evs).homes = d.homes := foldl_keeps Device.homes (fun _ _ => by rfl) evs d

@[simp] theorem Device.homeEvents_host (d : Device) (die : Nat) (evs : List HomeEvent) :
    (d.homeEvents die evs).host = d.host := foldl_keeps Device.host (fun _ _ => by rfl) evs d

/-- Of the homes, the changes of one clk reach only the one that applies them. -/
theorem Device.applyFlags_homes (d : Device) (die : Nat) (batch : List FlagReq) :
    (d.applyFlags die batch).homes = (d.modHome die fun _ => ((d.home die).applyBatch die batch).1).homes := by
  rw [Device.applyFlags, Device.latchWaits_homes, Device.homeEvents_homes]

theorem Device.applyFlags_home (d : Device) (die : Nat) (batch : List FlagReq) :
    (d.applyFlags die batch).home die = ((d.home die).applyBatch die batch).1 := by
  rw [Device.home, Device.applyFlags_homes]
  exact d.modHome_home die _

theorem Device.applyFlags_home_ne (d : Device) {die k : Nat} (batch : List FlagReq) (hk : k ≠ die) :
    (d.applyFlags die batch).home k = d.home k := by
  rw [Device.home, Device.applyFlags_homes]
  exact d.modHome_home_ne die _ hk

@[simp] theorem Device.applyFlags_host (d : Device) (die : Nat) (batch : List FlagReq) :
    (d.applyFlags die batch).host = d.host := by
  rw [Device.applyFlags, Device.latchWaits_host, Device.homeEvents_host]
  rfl

/-- The request that FLAG_WRITE sends. -/
def writeReq (id : CmdId) (f : Nat) (v : Bool) : FlagReq :=
  { flag := f, value := v, parityOk := true, src := 7000, cmd := some id, tid := none }

/-- The clk in which the request of a FLAG_WRITE is the only one: its change is applied, and the command completes. -/
theorem Device.homeClk_write {d : Device} {k f : Nat} {id : CmdId} {v : Bool}
    (hreqs : (d.home k).reqs = [writeReq id f v]) :
    d.homeClk k =
      ((d.modHome k fun h => { h with reqs := [] }).applyFlags k [writeReq id f v]).complete id Status.ok := by
  have hbatch : takeBatch [] [writeReq id f v] = ([writeReq id f v], []) := rfl
  have hgood : [writeReq id f v].filter (·.parityOk) = [writeReq id f v] := rfl
  have hbad : ([writeReq id f v].filter fun q => !q.parityOk) = [] := rfl
  have hdone (e : Device) : e.flagDone (writeReq id f v) = e.complete id Status.ok := rfl
  simp only [Device.homeClk, hreqs, hbatch, hgood, hbad, List.foldl_cons, List.foldl_nil, hdone]

/-- In a home without groups and counters that clk changes the flag that the command names and no other. -/
theorem Device.homeClk_write_spec {d : Device} {k f : Nat} {id : CmdId} {v : Bool} {c : Cmd}
    (hreqs : (d.home k).reqs = [writeReq id f v]) (hcmd : d.findCmd id = some c) (hopen : c.posted = false)
    (hbars : ∀ g, ((d.home k).bar g).en = false) (hcnts : ∀ n, ((d.home k).counter n).en = false) :
    (d.homeClk k).flagVal k f = v ∧ (∀ g, g ≠ f → (d.homeClk k).flagVal k g = d.flagVal k g) ∧
      ((d.homeClk k).home k).reqs = [] ∧ (d.homeClk k).findCmd id = some { c with posted := true } ∧
      ∀ j, j ≠ k → (d.homeClk k).home j = d.home j := by
  obtain ⟨hflags, -, -, -, -, hrest, -⟩ :=
    homeClearsThenSets { d.home k with reqs := [] } k [writeReq id f v] hbars hcnts
  have hhome : (d.homeClk k).home k = ({ d.home k with reqs := [] }.applyBatch k [writeReq id f v]).1 := by
    rw [Device.homeClk_write hreqs, Device.complete_home, Device.applyFlags_home, Device.modHome_home]
  have hval (g : Nat) : (d.homeClk k).flagVal k g = if f = g then v else d.flagVal k g := by
    rw [Bool.eq_iff_iff, Device.flagVal, hhome]
    refine (hflags g).trans ?_
    simp only [List.mem_singleton, exists_eq_left, writeReq]
    by_cases hg : f = g
    · simp [hg]
    · simp [hg, Home.hasFlag, Device.flagVal]
  refine ⟨(hval f).trans (if_pos rfl), fun g hg => (hval g).trans (if_neg hg.symm), by rw [hhome]; exact hrest, ?_,
    fun j hj => ?_⟩
  · rw [Device.homeClk_write hreqs]
    refine Device.complete_findCmd _ _ _ ?_ hopen
    rw [Device.findCmd, Device.applyFlags_host]
    exact hcmd
  · rw [Device.homeClk_write hreqs, Device.complete_home, Device.applyFlags_home_ne _ _ hj,
      Device.modHome_home_ne _ _ _ hj]

/-- A home that runs, and to which something is to happen, takes a clk. -/
theorem Device.flagChange_runs {d : Device} {k : Nat} (hruns : d.homeRuns k = true)
    (hdue : (d.home k).reqs ≠ [] ∨ (d.home k).restless = true) : d.flagChange k = d.homeClk k := by
  have hbusy : ((d.home k).reqs.isEmpty && !(d.home k).restless) = false := by
    rcases hdue with hreqs | hrestless
    · rw [List.isEmpty_eq_false_iff.2 hreqs, Bool.false_and]
    · rw [hrestless, Bool.not_true, Bool.and_false]
  simp only [Device.flagChange, hruns, hbusy, Bool.not_true, Bool.or_self, Bool.false_eq_true, if_false]

/-! ### The stop of a home (R295) -/

theorem Device.homeStop_stops {d : Device} {k : Nat} (hhalt : d.comb.state = .halted)
    (hon : (d.home k).halted = false) :
    d.homeStop k =
      (d.drainHome k (2 * (d.home k).reqs.length + 2)).modHome k fun h => { h with halted := true } := by
  simp only [Device.homeStop, hhalt, hon, ne_eq, not_true_eq_false, Bool.false_eq_true, or_self, if_false]

/-- A home at rest has nothing to drain. -/
theorem Device.drainHome_idle {d : Device} {k : Nat} (hreqs : (d.home k).reqs = [])
    (hrest : (d.home k).restless = false) (n : Nat) : d.drainHome k n = d := by
  cases n with
  | zero => rfl
  | succ n => simp only [Device.drainHome, hreqs, hrest, List.isEmpty_nil, Bool.not_false, Bool.and_self, if_true]

/-- Settles O27: each row by its conditions, the clk of the sent change by what a batch of one request does. -/
theorem flagCommandsAct : Obligations.FlagCommandsAct := by
  unfold Obligations.FlagCommandsAct
  intro s d id ps hruns
  refine ⟨?flagWrite, ?barrierConfig, ?counterConfig, ?refused, ?clk, ?applied, ?stop⟩
  case flagWrite =>
    intro hready hdie hvalue hflag
    exact ⟨fun hactive => State.answers_lift hruns rfl (Device.flagWrite_sends hready hdie hvalue hflag hactive),
      fun hactive => State.answers_lift hruns rfl (Device.flagWrite_refused hready hdie hvalue hflag hactive)⟩
  case barrierConfig =>
    intro die g n base rel hready hdie hreserved hactive hoff hgroup hn hbase hlast hrel hapart hmisuse harrivals
      hrelFree
    exact State.answers_lift hruns rfl (Device.barrierConfig_stores hdie hreserved hready
      (d.configAllowed_iff.2 ⟨hactive, hoff⟩) hgroup hn hbase hlast hrel hapart hmisuse harrivals hrelFree)
  case counterConfig =>
    intro die c src clr out hready hdie hreserved hactive hoff hcounter hen hsrc hclr hout hthresh hmisuse hsrcClr
      hsrcOut hclrOut hsrcFree hclrFree
    exact State.answers_lift hruns rfl (Device.counterConfig_stores hdie hreserved hready
      (d.configAllowed_iff.2 ⟨hactive, hoff⟩) hcounter hen hsrc hclr hout hthresh hmisuse hsrcClr hsrcOut hclrOut
      hsrcFree hclrFree)
  case refused =>
    intro hstates hdie hreserved
    have hrefused : d.configAllowed = false := Bool.eq_false_iff.2 fun hallowed => by
      obtain ⟨hactive, hoff⟩ := d.configAllowed_iff.1 hallowed
      exact hstates.elim (· hactive) (· hoff)
    exact ⟨fun hready => State.answers_lift hruns rfl (Device.barrierConfig_refused hdie hreserved hready hrefused),
      fun hready => State.answers_lift hruns rfl (Device.counterConfig_refused hdie hreserved hready hrefused)⟩
  case clk =>
    intro k hhome hdue
    exact State.answers_lift (f := fun d => (d.flagChange k.val).pump) hruns rfl
      (congrArg Device.pump (Device.flagChange_runs hhome hdue))
  case applied =>
    intro k c f v hhome hreqs hcmd hopen hbars hcnts
    have hdue : (d.home k.val).reqs ≠ [] := hreqs ▸ List.cons_ne_nil _ _
    exact ⟨_, State.answers_lift (f := fun d => (d.flagChange k.val).pump) hruns rfl
        (congrArg Device.pump (Device.flagChange_runs hhome (.inl hdue))),
      Device.homeClk_write_spec hreqs hcmd hopen hbars hcnts⟩
  case stop =>
    intro k hhalt hon
    exact ⟨State.answers_lift (f := fun d => (d.homeStop k.val).pump) hruns rfl
        (congrArg Device.pump (Device.homeStop_stops hhalt hon)),
      fun hreqs hrest n => Device.drainHome_idle hreqs hrest n⟩

end Sys2Proof.Machine
end

section
/-! SUPPORT and PROOFS. The rings of the message channels: what a placement can do to a ring, and that a placed message
lies whole in it. -/

namespace Sys2Proof.Machine

section
variable {g : MsgRing} {m : RingMsg}

/-! ### What a placement does (R302) -/

/-- The ring with message `m` placed from `row` on, behind what a wrap leaves. -/
def MsgRing.withMsg (g : MsgRing) (m : RingMsg) (row tail used : Nat) (wrap : List RingMsg) : MsgRing :=
  { g with tail := tail, used := used, msgs := g.msgs ++ wrap ++ [{ m with row := row }] }

/-- What a ring keeps of the rows that a wrap passes. -/
def MsgRing.marker (g : MsgRing) (m : RingMsg) : RingMsg :=
  { m with row := g.tail, rows := 0, wrap := true, deliverable := false, remote := none, fill := 0 }

theorem MsgRing.place_closed (hoff : g.state ≠ .on) : g.place m = (.closed, 0, none, g) := if_pos hoff

theorem MsgRing.place_size (hon : g.state = .on) (hbig : rgRows g.record < m.rows ∨ rgInboxRows g.record < m.rows) :
    g.place m = (.size, 0, none, g) := by
  rw [MsgRing.place, if_neg (not_not_intro hon), if_pos hbig]

/-- A message that a ring can hold is refused for now, or placed at the tail, or at row 0 behind a wrap; the rows that
it takes lie in the ring. -/
theorem MsgRing.place_cases (hhead : g.head < rgRows g.record) (htail : g.tail < rgRows g.record) (hon : g.state = .on)
    (hfits : ¬(rgRows g.record < m.rows ∨ rgInboxRows g.record < m.rows)) :
    g.place m = (.nak, 0, none, g) ∨
      (∃ tail, g.place m = (.ok, g.tail, none, g.withMsg m g.tail tail (g.used + m.rows) []) ∧
        g.tail + m.rows ≤ rgRows g.record) ∨
      (g.place m = (.ok, 0, some g.tail,
          g.withMsg m 0 m.rows (g.used + (rgRows g.record - g.tail) + m.rows) [g.marker m]) ∧
        m.rows ≤ g.head) := by
  rw [MsgRing.place, if_neg (not_not_intro hon), if_neg hfits]
  split_ifs with hfull hahead hroom hends hwrap hbetween
  · exact .inl rfl
  · exact .inr (.inl ⟨_, rfl, by omega⟩)
  · exact .inr (.inl ⟨_, rfl, by omega⟩)
  · exact .inr (.inr ⟨rfl, hwrap⟩)
  · exact .inl rfl
  · exact .inr (.inl ⟨_, rfl, by omega⟩)
  · exact .inl rfl

theorem MsgRing.withMsg_getLast? (row tail used : Nat) (wrap : List RingMsg) :
    (g.withMsg m row tail used wrap).msgs.getLast? = some { m with row := row } := List.getLast?_concat

end

/-- Settles O32: by the ways a placement can go. -/
theorem placementStaysInRing : Obligations.PlacementStaysInRing := by
  unfold Obligations.PlacementStaysInRing
  intro g m hhead htail
  by_cases hon : g.state = .on
  case neg => simp [MsgRing.place_closed hon, hon]
  by_cases hbig : rgRows g.record < m.rows ∨ rgInboxRows g.record < m.rows
  case pos => simp [MsgRing.place_size hon hbig, hon, hbig]
  rcases MsgRing.place_cases hhead htail hon hbig with hplace | ⟨tail, hplace, hroom⟩ | ⟨hplace, hroom⟩
  case inl => simp [hplace, hon, hbig]
  case inr.inl =>
    rw [hplace]
    exact ⟨fun _ => ⟨hroom, MsgRing.withMsg_getLast? .., .inl ⟨rfl, rfl, rfl⟩, fun _ _ hwrap => absurd rfl hwrap, rfl,
      rfl⟩,
      fun hfails => absurd rfl hfails, by simp [hbig], by simp [hon]⟩
  case inr.inr =>
    rw [hplace]
    have hlies : 0 + m.rows ≤ rgRows g.record := by omega
    exact ⟨fun _ => ⟨hlies, MsgRing.withMsg_getLast? .., .inr ⟨rfl, rfl, rfl⟩, fun _ _ _ => hroom, rfl, rfl⟩,
      fun hfails => absurd rfl hfails, by simp [hbig], by simp [hon]⟩

end Sys2Proof.Machine
end

section
/-! SUPPORT and PROOFS. The life cycles of endpoints and rings: each command by the state of the part that it names, and
the end of a stop. -/

namespace Sys2Proof.Machine

/-! ### What a command in progress leaves of the channels -/

@[simp] theorem Device.acted_ep (d : Device) (id : CmdId) (die e : Nat) : (d.acted id).ep die e = d.ep die e := rfl
@[simp] theorem Device.acted_ring_ (d : Device) (id : CmdId) (die g : Nat) : (d.acted id).ring_ die g = d.ring_ die g :=
  rfl
@[simp] theorem Device.acted_endpointRefused (d : Device) (id : CmdId) (die : Nat) (r : List Byte) :
    (d.acted id).endpointRefused die r = d.endpointRefused die r := rfl
@[simp] theorem Device.acted_ringRefused (d : Device) (id : CmdId) (die : Nat) (r : List Byte) :
    (d.acted id).ringRefused die r = d.ringRefused die r := rfl

/-! ### What the commands make of a part, by its state (R306, R394) -/

/-- CHAN_OPEN with the sound record `r`, once it has acted, for an endpoint in a state. -/
def Device.openEp (d : Device) (id : CmdId) (die e : Nat) (r : List Byte) : Life → Device
  | .off => (d.modEp die e (·.opened r)).complete id Status.ok
  | .stopping => (d.modEp die e fun x => { x with pendingOpen := some r }).complete id Status.acceptedPending
  | .starting | .on => d.complete id Status.wagBusy

/-- RING_CREATE with the sound record `r` for a ring in a state. -/
def Device.createRing (d : Device) (id : CmdId) (die g : Nat) (r : List Byte) : Life → Device
  | .off => (d.openMsgRing die g r).complete id Status.ok
  | .stopping => (d.modRing die g fun x => { x with pendingCreate := some r }).complete id Status.acceptedPending
  | .starting | .on => d.complete id Status.wagBusy

/-- CHAN_CLOSE for an endpoint in a state. -/
def Device.closeEp (d : Device) (id : CmdId) (die e : Nat) : Life → Device
  | .off => d.complete id Status.ok
  | .stopping => d.modEp die e fun x => { x with pendingOpen := none, closeCmd := some id }
  | .starting | .on => d.modEp die e fun x => { x with state := .stopping, closeCmd := some id }

/-- RING_DESTROY for a ring in a state. -/
def Device.destroyRing (d : Device) (id : CmdId) (die g : Nat) : Life → Device
  | .off => d.complete id Status.ok
  | .stopping => d.modRing die g fun x => { x with pendingCreate := none, destroyCmd := some id }
  | .starting | .on => d.modRing die g fun x => { x with state := .stopping, destroyCmd := some id }

/-- The four registers of a ring, as CHAN_STATUS lists them. -/
theorem MsgRing.registers_eq (g : MsgRing) :
    ((List.range 4).flatMap fun w => leBytes 4 (g.reg w)) =
      leBytes 4 (g.reg 0) ++ leBytes 4 (g.reg 1) ++ leBytes 4 (g.reg 2) ++ leBytes 4 (g.reg 3) := by
  simp [List.range_succ]

section
variable {d : Device} {id : CmdId} {ps : List Byte} (hdie : fieldAt ps 0 1 ≤ 3)
include hdie

section
variable (hactive : d.comb.state = .active)
include hactive

theorem Device.chanOpen_sound (hready : d.ready id 0x0506 ps) (hreserved : fieldAt ps 1 3 = 0)
    (hrecord : d.endpointRefused (fieldAt ps 0 1) (sliceAt ps 4 32) = none) :
    d.chanOpen id =
      (d.acted id).openEp id (fieldAt ps 0 1) (fieldAt (sliceAt ps 4 32) 0 1) (sliceAt ps 4 32)
        (d.ep (fieldAt ps 0 1) (fieldAt (sliceAt ps 4 32) 0 1)).state := by
  have hsound : ¬(3 < fieldAt ps 0 1 ∨ fieldAt ps 1 3 ≠ 0) := by omega
  simp only [Device.chanOpen, Device.runCmd_ready _ hready, if_neg hsound, Device.acted_comb, hactive,
    Device.acted_endpointRefused, hrecord, Device.acted_ep, ne_eq, not_true_eq_false, if_false]
  cases (d.ep (fieldAt ps 0 1) (fieldAt (sliceAt ps 4 32) 0 1)).state <;> rfl

theorem Device.ringCreate_sound (hready : d.ready id 0x0504 ps) (hreserved : fieldAt ps 1 3 = 0)
    (hrecord : d.ringRefused (fieldAt ps 0 1) (sliceAt ps 4 24) = none) :
    d.ringCreate id =
      (d.acted id).createRing id (fieldAt ps 0 1) (fieldAt (sliceAt ps 4 24) 0 1) (sliceAt ps 4 24)
        (d.ring_ (fieldAt ps 0 1) (fieldAt (sliceAt ps 4 24) 0 1)).state := by
  have hsound : ¬(3 < fieldAt ps 0 1 ∨ fieldAt ps 1 3 ≠ 0) := by omega
  simp only [Device.ringCreate, Device.runCmd_ready _ hready, if_neg hsound, Device.acted_comb, hactive,
    Device.acted_ringRefused, hrecord, Device.acted_ring_, ne_eq, not_true_eq_false, if_false]
  cases (d.ring_ (fieldAt ps 0 1) (fieldAt (sliceAt ps 4 24) 0 1)).state <;> rfl

theorem Device.chanClose_sound (hready : d.ready id 0x0507 ps) (hindex : fieldAt ps 1 1 ≤ 63)
    (hreserved : fieldAt ps 2 2 = 0) :
    d.chanClose id =
      (d.acted id).closeEp id (fieldAt ps 0 1) (fieldAt ps 1 1) (d.ep (fieldAt ps 0 1) (fieldAt ps 1 1)).state := by
  have hsound : ¬(3 < fieldAt ps 0 1 ∨ 63 < fieldAt ps 1 1 ∨ fieldAt ps 2 2 ≠ 0) := by omega
  simp only [Device.chanClose, Device.runCmd_ready _ hready, if_neg hsound, Device.acted_comb, hactive, Device.acted_ep,
    ne_eq, not_true_eq_false, if_false]
  cases (d.ep (fieldAt ps 0 1) (fieldAt ps 1 1)).state <;> rfl

theorem Device.ringDestroy_sound (hready : d.ready id 0x0505 ps) (hindex : fieldAt ps 1 1 ≤ 63)
    (hreserved : fieldAt ps 2 2 = 0) :
    d.ringDestroy id =
      (d.acted id).destroyRing id (fieldAt ps 0 1) (fieldAt ps 1 1)
        (d.ring_ (fieldAt ps 0 1) (fieldAt ps 1 1)).state := by
  have hsound : ¬(3 < fieldAt ps 0 1 ∨ 63 < fieldAt ps 1 1 ∨ fieldAt ps 2 2 ≠ 0) := by omega
  simp only [Device.ringDestroy, Device.runCmd_ready _ hready, if_neg hsound, Device.acted_comb, hactive,
    Device.acted_ring_, ne_eq, not_true_eq_false, if_false]
  cases (d.ring_ (fieldAt ps 0 1) (fieldAt ps 1 1)).state <;> rfl

end

/-! ### CHAN_STATUS (R295, R306) -/

theorem Device.chanStatus_replies (hready : d.ready id 0x0508 ps) (hkind : fieldAt ps 1 1 ≤ 1)
    (hindex : fieldAt ps 2 1 ≤ 63) (hreserved : fieldAt ps 3 1 = 0) (hjob : d.comb.state ≠ .halted)
    (hhome : (d.home (fieldAt ps 0 1)).halted = false) :
    d.chanStatus id =
      (d.acted id).complete id Status.ok
        (if fieldAt ps 1 1 = 0 then
          sliceAt (d.ep (fieldAt ps 0 1) (fieldAt ps 2 1)).record 0 32 ++
            leBytes 4 (d.ep (fieldAt ps 0 1) (fieldAt ps 2 1)).regState ++
            leBytes 4 (d.ep (fieldAt ps 0 1) (fieldAt ps 2 1)).seq.toNat
         else
          sliceAt (d.ring_ (fieldAt ps 0 1) (fieldAt ps 2 1)).record 0 24 ++
            (List.range 4).flatMap fun w => leBytes 4 ((d.ring_ (fieldAt ps 0 1) (fieldAt ps 2 1)).reg w)) := by
  have hsound : ¬(3 < fieldAt ps 0 1 ∨ 1 < fieldAt ps 1 1 ∨ 63 < fieldAt ps 2 1 ∨ fieldAt ps 3 1 ≠ 0) := by omega
  simp only [Device.chanStatus, Device.runCmd_ready _ hready, if_neg hsound, Device.acted_comb, hjob, Device.acted_home,
    hhome, Bool.false_eq_true, or_self, if_false, Device.acted_ep, Device.acted_ring_]
  split_ifs <;> rfl

end

/-! ### The end of a stop (R306) -/

/-- The endpoint `e` at OFF: a send that waits for its backoff is cancelled. -/
def Device.epOff (d : Device) (die e : Nat) : Device :=
  (if (d.ep die e).busy then d.endSend die e 3 else d).modEp die e fun x =>
    { x with state := .off, closeCmd := none, pendingOpen := none }

/-- The ring `g` at OFF: its messages are discarded. -/
def Device.ringEmptied (d : Device) (die g : Nat) : Device :=
  d.modRing die g fun x =>
    { x with state := .off, head := 0, tail := 0, used := 0, msgs := [], inboxFull := false, destroyCmd := none,
             pendingCreate := none }

section
variable {d : Device} {die k : Nat} {id : CmdId} {r : List Byte}

section
variable (hstate : (d.ep die k).state = .stopping)
  (hbusy : (d.ep die k).busy = true →
    (d.ep die k).due = true ∧ d.engineReaches (epSite die (d.ep die k).record) = true)
include hstate hbusy

/-- No attempt and no copy holds the stop of the endpoint. -/
theorem Device.endpoint_mayEnd :
    ¬((d.ep die k).state ≠ .stopping ∨ ((d.ep die k).busy ∧ !(d.ep die k).due) ∨
      ((d.ep die k).busy ∧ !d.engineReaches (epSite die (d.ep die k).record))) := by
  simp +contextual [hstate, hbusy]

variable (hcmd : (d.ep die k).closeCmd = some id)
include hcmd

theorem Device.endpointOff_closes (hpending : (d.ep die k).pendingOpen = none) :
    d.endpointOff die k = (d.epOff die k).complete id Status.ok := by
  simp only [Device.endpointOff, if_neg (Device.endpoint_mayEnd hstate hbusy), hcmd, hpending]
  rfl

theorem Device.endpointOff_opens (hpending : (d.ep die k).pendingOpen = some r) :
    d.endpointOff die k = ((d.epOff die k).complete id Status.ok).modEp die k (·.opened r) := by
  simp only [Device.endpointOff, if_neg (Device.endpoint_mayEnd hstate hbusy), hcmd, hpending]
  rfl

end

section
variable (hstate : (d.ring_ die k).state = .stopping) (hcopies : d.copiesInto die k = false)
  (hcmd : (d.ring_ die k).destroyCmd = some id)
include hstate hcopies hcmd

theorem Device.ringOff_destroys (hpending : (d.ring_ die k).pendingCreate = none) :
    d.ringOff die k = (d.ringEmptied die k).complete id Status.ok := by
  simp only [Device.ringOff, hstate, hcopies, hcmd, hpending, ne_eq, not_true_eq_false, Bool.false_eq_true, or_self,
    if_false]
  rfl

theorem Device.ringOff_creates (hpending : (d.ring_ die k).pendingCreate = some r) :
    d.ringOff die k = ((d.ringEmptied die k).complete id Status.ok).openMsgRing die k r := by
  simp only [Device.ringOff, hstate, hcopies, hcmd, hpending, ne_eq, not_true_eq_false, Bool.false_eq_true, or_self,
    if_false]
  rfl

end

end

/-- Settles O30: each command by the state of its part, each end of a stop by what waits for it. -/
theorem channelLifeCycle : Obligations.ChannelLifeCycle := by
  unfold Obligations.ChannelLifeCycle
  intro s d id ps hruns die
  refine ⟨?chanOpen, ?ringCreate, ?chanClose, ?ringDestroy, ?chanStatus, ?endpointOff, ?ringOff⟩
  case chanOpen =>
    intro hready hdie hreserved hactive hrecord r e
    have hopens (st : Life) (hst : (d.ep die e).state = st) :
        s.answers (.chanOpen id) ((d.acted id).openEp id die e r st) :=
      State.answers_lift hruns rfl (hst ▸ Device.chanOpen_sound hdie hactive hready hreserved hrecord)
    exact ⟨hopens .off, hopens .stopping, hopens .on⟩
  case ringCreate =>
    intro hready hdie hreserved hactive hrecord r g
    have hcreates (st : Life) (hst : (d.ring_ die g).state = st) :
        s.answers (.ringCreate id) ((d.acted id).createRing id die g r st) :=
      State.answers_lift hruns rfl (hst ▸ Device.ringCreate_sound hdie hactive hready hreserved hrecord)
    exact ⟨hcreates .off, hcreates .stopping, hcreates .on⟩
  case chanClose =>
    intro hready hdie hindex hreserved hactive e
    have hcloses (st : Life) (hst : (d.ep die e).state = st) :
        s.answers (.chanClose id) ((d.acted id).closeEp id die e st) :=
      State.answers_lift hruns rfl (hst ▸ Device.chanClose_sound hdie hactive hready hindex hreserved)
    exact ⟨hcloses .on, hcloses .stopping, hcloses .off⟩
  case ringDestroy =>
    intro hready hdie hindex hreserved hactive g
    have hdestroys (st : Life) (hst : (d.ring_ die g).state = st) :
        s.answers (.ringDestroy id) ((d.acted id).destroyRing id die g st) :=
      State.answers_lift hruns rfl (hst ▸ Device.ringDestroy_sound hdie hactive hready hindex hreserved)
    exact ⟨hdestroys .on, hdestroys .stopping, hdestroys .off⟩
  case chanStatus =>
    intro hready hdie hkind hindex hreserved hjob hhome x y
    refine State.answers_lift hruns rfl
      ((Device.chanStatus_replies hdie hready hkind hindex hreserved hjob hhome).trans ?_)
    simp only [MsgRing.registers_eq, List.append_assoc, x, y, die]
  case endpointOff =>
    intro k e x hstate hbusy off
    exact ⟨fun hcmd hpending => State.answers_lift hruns rfl (Device.endpointOff_closes hstate hbusy hcmd hpending),
      fun r hcmd hpending => State.answers_lift hruns rfl (Device.endpointOff_opens hstate hbusy hcmd hpending)⟩
  case ringOff =>
    intro k g x hstate hcopies off
    exact ⟨fun hcmd hpending => State.answers_lift hruns rfl (Device.ringOff_destroys hstate hcopies hcmd hpending),
      fun r hcmd hpending => State.answers_lift hruns rfl (Device.ringOff_creates hstate hcopies hcmd hpending)⟩

end Sys2Proof.Machine
end

section
/-! SUPPORT and PROOFS. The message engines: each row, once its conditions hold, acts as its function says. -/

namespace Sys2Proof.Machine

/-! ### Sends (R301) -/

section
variable {d t : Device} {die e : Nat} (hturn : d.sendTurn die e = true) (horigin : d.canOriginate (24 + die) = true)
include hturn horigin

section
variable (hready : d.sendReady die e = true)
include hready

theorem Device.chanSend_attempts (htake : d.takeUpSend die e = (true, t)) :
    d.chanSend die e = (t.attempt die e).pump := by
  simp only [Device.chanSend, hready, hturn, horigin, htake, Bool.not_true, Bool.or_self, Bool.false_eq_true, if_false,
    if_true]

theorem Device.chanSend_ends (htake : d.takeUpSend die e = (false, t)) : d.chanSend die e = t := by
  simp only [Device.chanSend, hready, hturn, horigin, htake, Bool.not_true, Bool.or_self, Bool.false_eq_true, if_false]

end

theorem Device.sendRetry_attempts (hon : (d.ep die e).state = .on) (hbusy : (d.ep die e).busy = true)
    (hdue : (d.ep die e).due = true) :
    d.sendRetry die e =
      (((d.engineAt die false e).modEp die e fun x => { x with due := false }).attempt die e).pump := by
  simp only [Device.sendRetry, hon, hbusy, hdue, hturn, horigin, ne_eq, not_true_eq_false, Bool.not_true,
    Bool.false_eq_true, or_self, if_false]

end

/-! ### Placements for others, and their results (R302, R304) -/

section
variable {d : Device} {die : Nat}

section
variable {q : PlaceReq} {rest : List PlaceReq} (hrequests : (d.home die).requests = q :: rest)
  (hfree : d.engineFree die = true) (hrelease : d.releaseDue die = none) (hreached : d.ringReached die q.ring = true)
include hrequests hfree hrelease hreached

/-- A request of another die's engine is answered in that die's home. -/
theorem Device.placementRequest_die (hdie : q.tid = none) :
    let d₀ := (d.modHome die fun h => { h with requests := rest }).engineAt die false q.endpoint
    let r := d₀.placeIn die q.ring
      ((d₀.ep q.fromDie q.endpoint).msg q.endpoint (d₀.outboxLen q.fromDie q.endpoint) none)
    d.placementRequest die =
      r.2.2.modHome q.fromDie fun h =>
        { h with replies := h.replies ++
            [{ endpoint := q.endpoint, die := die, ring := q.ring, result := r.1, row := r.2.1 }] } := by
  simp only [Device.placementRequest, hrequests, hfree, hrelease, hreached, hdie, Option.isSome_none, Bool.not_true,
    Bool.or_self, Bool.false_eq_true, if_false]

/-- The message that a request of another device reserves rows for. -/
def PlaceReq.remoteMsg (q : PlaceReq) : RingMsg :=
  { row := 0, rows := q.rows, endpoint := 0, len := 0, seq := 0, deliverable := false, wrap := false,
    remote := some q.device, fill := q.rows }

/-- A request of another device is answered over the link, and its result kept. -/
theorem Device.placementRequest_device {tid : Word64} (hdevice : q.tid = some tid) :
    let r := ((d.modHome die fun h => { h with requests := rest }).engineAt die false q.endpoint).placeIn die q.ring
      q.remoteMsg
    d.placementRequest die =
      (((r.2.2.modHome die fun h => { h with kept := ((tid, r.1, r.2.1) :: h.kept).take 64 }).modVxl
        (·.finish tid)).post q.device (.placeResp tid r.1 (BitVec.ofNat 16 r.2.1))).pump := by
  simp only [Device.placementRequest, hrequests, hfree, hrelease, hreached, hdevice, Option.isSome_none, Bool.not_true,
    Bool.or_self, Bool.false_eq_true, if_false, PlaceReq.remoteMsg]

end

theorem Device.placementReply_takes {p : PlaceReply} {rest : List PlaceReply}
    (hreplies : (d.home die).replies = p :: rest) (hfree : d.engineFree die = true)
    (hreached : d.engineReaches (epSite die (d.ep die p.endpoint).record) = true) :
    d.placementReply die =
      (d.modHome die fun h => { h with replies := rest }).placed die p.endpoint p.result p.die p.ring p.row := by
  simp only [Device.placementReply, hreplies, hfree, hreached, Bool.not_true, Bool.or_self, Bool.false_eq_true,
    if_false]

/-! ### Copies (R304) -/

theorem Device.messageCopyDone_delivers {c : CopyJob} {rest : List CopyJob} {rows : List (List Byte × Bool)}
    {t : Device} (hcopies : (d.home die).copies = c :: rest) (hon : d.engineOn die = true)
    (hring : d.engineReaches (rgSite c.die (d.ring_ c.die c.ring).record) = true)
    (hep : d.engineReaches (epSite die (d.ep die c.endpoint).record) = true)
    (hrows : d.messageRows die c.endpoint = (rows, t)) :
    d.messageCopyDone die =
      ((((((rows.zip (List.range rows.length)).foldl
          (fun e p => e.engineWrite (rgSite c.die (d.ring_ c.die c.ring).record)
            (rgBase (d.ring_ c.die c.ring).record + c.row + p.2) p.1.1 p.1.2) t).modHome die
          fun h => { h with copies := rest }).modRing c.die c.ring fun g =>
            g.modMsg c.row fun m => { m with deliverable := true, fill := 0 }).endSend die c.endpoint 1).tryDeliver
        c.die c.ring) := by
  simp only [Device.messageCopyDone, hcopies, hon, hring, hep, hrows, Bool.not_true, Bool.or_self, Bool.false_eq_true,
    if_false]

/-! ### Releases (R303) -/

section
variable {g : Nat} (hfree : d.engineFree die = true) (hdue : d.releaseDue die = some g)
include hfree hdue

theorem Device.ringRelease_passes (hfull : (d.ring_ die g).inboxFull = true) :
    d.ringRelease die g =
      (((d.engineAt die true g).engineFlag die (rgRelease (d.ring_ die g).record) false).modRing die g
        (·.release)).tryDeliver die g := by
  simp only [Device.ringRelease, hfree, hdue, hfull, bne_self_eq_false, Bool.not_true, Bool.or_self, Bool.false_eq_true,
    if_false]

theorem Device.ringRelease_misused (hempty : (d.ring_ die g).inboxFull = false) :
    d.ringRelease die g =
      (((d.engineAt die true g).engineFlag die (rgRelease (d.ring_ die g).record) false).modHome die fun h =>
        { h with misRing := satInc h.misRing }).raiseOnce (2 * die) 0x48 (BitVec.ofNat 32 g) := by
  simp only [Device.ringRelease, hfree, hdue, hempty, bne_self_eq_false, Bool.not_true, Bool.not_false, Bool.or_self,
    Bool.false_eq_true, if_false, if_true]

end

/-! ### A remote message that stays unwritten (R363) -/

/-- The head of a message, written with poison. -/
theorem Device.placementTimeout_poisons {g : Nat} {m : RingMsg}
    (hmsg : (d.ring_ die g).msgs.find? (fun m => !m.wrap && m.remote.isSome && !m.deliverable) = some m)
    (hon : d.engineOn die = true) (hreached : d.engineReaches (rgSite die (d.ring_ die g).record) = true) :
    let u := rgSite die (d.ring_ die g).record
    let row := rgBase (d.ring_ die g).record + m.row
    d.placementTimeout die g =
      (((d.engineWrite u row ((d.su u).sram.bytes (64 * row) 64) true).modRing die g fun r =>
        r.modMsg m.row fun m => { m with deliverable := true, remote := none, fill := 0 }).tryDeliver die g) := by
  simp only [Device.placementTimeout, hmsg, hon, hreached, Bool.not_true, Bool.or_self, Bool.false_eq_true, if_false]

end

/-- Settles O31: one lemma per row. -/
theorem messageEngineActs : Obligations.MessageEngineActs := by
  unfold Obligations.MessageEngineActs
  intro s d k hruns
  refine ⟨?attempts, ?ends, ?retries, ?forDie, ?forDevice, ?reply, ?copied, ?released, ?misused, ?timeout⟩
  case attempts =>
    exact fun e t hready hturn horigin htake =>
      State.answers_lift hruns rfl (Device.chanSend_attempts hturn horigin hready htake)
  case ends =>
    exact fun e t hready hturn horigin htake =>
      State.answers_lift hruns rfl (Device.chanSend_ends hturn horigin hready htake)
  case retries =>
    exact fun e hon hbusy hdue hturn horigin =>
      State.answers_lift hruns rfl (Device.sendRetry_attempts hturn horigin hon hbusy hdue)
  case forDie =>
    exact fun q rest hrequests hdie hfree hrelease hreached =>
      State.answers_lift hruns rfl (Device.placementRequest_die hrequests hfree hrelease hreached hdie)
  case forDevice =>
    exact fun q tid rest hrequests hdevice hfree hrelease hreached =>
      State.answers_lift hruns rfl (Device.placementRequest_device hrequests hfree hrelease hreached hdevice)
  case reply =>
    exact fun p rest hreplies hfree hreached =>
      State.answers_lift hruns rfl (Device.placementReply_takes hreplies hfree hreached)
  case copied =>
    exact fun c rest t hcopies hon hring hep rows hrows =>
      State.answers_lift hruns rfl (Device.messageCopyDone_delivers hcopies hon hring hep hrows)
  case released =>
    exact fun g hfree hdue hfull => State.answers_lift hruns rfl (Device.ringRelease_passes hfree hdue hfull)
  case misused =>
    exact fun g hfree hdue hempty => State.answers_lift hruns rfl (Device.ringRelease_misused hfree hdue hempty)
  case timeout =>
    exact fun g m hmsg hon hreached => State.answers_lift hruns rfl (Device.placementTimeout_poisons hmsg hon hreached)

end Sys2Proof.Machine
end

section
/-! SUPPORT and PROOFS. HBM: what a write leaves of the bytes and the marks of a store, what a controller's read and
write of a burst do with it, and what each of the controller's own steps leaves. -/

namespace Sys2Proof.Machine

/-! ### Marks and bytes after the write of a row (R238) -/

theorem Tab.find_put {α : Type} (t : Tab α) (i j : Nat) (a : α) :
    Tab.find (Tab.put t i a) j = if j = i then some a else Tab.find t j := by
  induction t with
  | nil => rfl
  | cons p t ih =>
    obtain ⟨k, b⟩ := p
    rw [Tab.put]
    split
    · rfl
    · split
      · next hk =>
        subst hk
        simp only [Tab.find]
        split <;> rfl
      · next hk =>
        rw [Tab.find, ih, Tab.find]
        by_cases hj : j = k
        · rw [if_pos hj, if_neg (by omega), if_pos hj]
        · rw [if_neg hj, if_neg hj]

/-- Setting or clearing the mark of a row leaves the other marks. -/
theorem Mem.mark_setMark {m : Mem} (row r : Nat) (k : Option RowMark) (h : m.wf = true) :
    (m.setMark row k).mark r = if r = row then k else m.mark r := by
  cases k with
  | none => exact Mem.mark_setMark_none row r h
  | some k => exact Tab.find_put m.marks row r k

@[simp] theorem Mem.putBytes_marks (m : Mem) (a : Nat) (bs : List Byte) : (m.putBytes a bs).marks = m.marks := by
  induction bs generalizing m a with
  | nil => rfl
  | cons b bs ih => exact ih (m.putByte a b) (a + 1)

theorem Mem.mark_writeRow {m : Mem} (row off r : Nat) (bs : List Byte) (poison : Bool) (h : m.wf = true) :
    (m.writeRow row off bs poison).mark r =
      if r = row then
        if poison || (!(off == 0 && bs.length == 64) && m.rowBad row) then some .poison else none
      else m.mark r := by
  rw [Mem.writeRow, Mem.mark_setMark row r _ (Mem.wf_putBytes _ _ h), Mem.mark, Mem.putBytes_marks, ← Mem.mark]

/-- A row reads as poisoned after a poisoned write, and after a write of a part if it did before. -/
theorem Mem.rowBad_writeRow {m : Mem} (row off : Nat) (bs : List Byte) (poison : Bool) (h : m.wf = true) :
    (m.writeRow row off bs poison).rowBad row = (poison || (!(off == 0 && bs.length == 64) && m.rowBad row)) := by
  rw [Mem.rowBad, Mem.mark_writeRow row off row bs poison h, if_pos rfl]
  cases poison || (!(off == 0 && bs.length == 64) && m.rowBad row) <;> rfl

theorem Mem.bytes_writeRow_whole {m : Mem} (row : Nat) {bs : List Byte} (poison : Bool) (h : m.wf = true)
    (hlen : bs.length = 64) : (m.writeRow row 0 bs poison).bytes (64 * row) 64 = bs := by
  refine List.ext_getElem (by simp [Mem.bytes, hlen]) fun i hi hi' => ?_
  have hin : 64 * row ≤ 64 * row + i ∧ 64 * row + i < 64 * row + bs.length := by omega
  calc ((m.writeRow row 0 bs poison).bytes (64 * row) 64)[i]
      _ = (m.putBytes (64 * row) bs).byte (64 * row + i) := by simp [Mem.bytes, Mem.writeRow, Mem.setMark, Mem.byte]
      _ = bs[i] := by
        rw [Mem.byte_putBytes _ _ _ h, if_pos hin, Nat.add_sub_cancel_left, List.getD_eq_getElem _ _ hi']

theorem Mem.bytes_writeRow_ne {m : Mem} {row b off : Nat} {bs : List Byte} (poison : Bool) (h : m.wf = true)
    (hfit : off + bs.length ≤ 64) (hb : b ≠ row) :
    (m.writeRow row off bs poison).bytes (64 * b) 64 = m.bytes (64 * b) 64 :=
  List.map_congr_left fun i hi => by
    have hi : i < 64 := List.mem_range.1 hi
    exact Mem.byte_writeRow_outside row off _ bs poison h (by omega)

/-! ### A burst is read and written (R319, R324, R325) -/

theorem Device.hbmCheck_bad (d : Device) (burst : Nat) (c : HbmClass) : (d.hbmCheck burst c).1 = d.hbm.rowBad burst := by
  rw [Device.hbmCheck, Mem.rowBad]
  cases d.hbm.mark burst with
  | none => rfl
  | some k => cases k <;> rfl

@[simp] theorem Device.hbmCheck_hbm (d : Device) (burst : Nat) (c : HbmClass) : (d.hbmCheck burst c).2.hbm = d.hbm := by
  rw [Device.hbmCheck]
  cases d.hbm.mark burst with
  | none => rfl
  | some k => cases k <;> rfl

theorem Device.hbmReadBurst_bytes (d : Device) (burst : Nat) (c : HbmClass) :
    (d.hbmReadBurst burst c).1 = d.hbm.bytes (64 * burst) 64 :=
  congrArg (·.bytes (64 * burst) 64) (Device.hbmCheck_hbm _ burst c)

theorem Device.hbmReadBurst_bad (d : Device) (burst : Nat) (c : HbmClass) :
    (d.hbmReadBurst burst c).2.1 = d.hbm.rowBad burst := Device.hbmCheck_bad _ burst c

/-- A whole burst takes one slot and changes nothing else outside the store. -/
theorem Device.hbmWriteBurst_whole (d : Device) (burst : Nat) {bs : List Byte} (poison : Bool) (c : HbmClass)
    (hlen : bs.length = 64) :
    d.hbmWriteBurst (64 * burst) bs poison c =
      { d.modStack (stackOf (64 * burst)) (·.countSlots c 1) with hbm := d.hbm.writeRow burst 0 bs poison } := by
  rw [Device.hbmWriteBurst, if_pos hlen, Nat.mul_div_cancel_left burst (by decide)]

/-- A write inside one burst, whole or not, reaches the store as the write of a row. -/
theorem Device.hbmWriteBurst_hbm (d : Device) (a : Nat) {bs : List Byte} (poison : Bool) (c : HbmClass)
    (hfit : a % 64 + bs.length ≤ 64) :
    (d.hbmWriteBurst a bs poison c).hbm = d.hbm.writeRow (a / 64) (a % 64) bs poison := by
  rw [Device.hbmWriteBurst]
  split
  · next hlen => rw [show a % 64 = 0 by omega]
  · dsimp only [Device.modStack_hbm]
    cases d.hbm.mark (a / 64) with
    | none => rfl
    | some k => cases k <;> rfl

/-- What a read of the burst finds after a write inside it. -/
theorem Device.hbmReadBurst_bad_hbmWriteBurst {d : Device} {burst off : Nat} {bs : List Byte} (poison : Bool)
    (c c' : HbmClass) (hwf : d.hbm.wf = true) (hfit : off + bs.length ≤ 64) (hsome : 0 < bs.length) :
    ((d.hbmWriteBurst (64 * burst + off) bs poison c).hbmReadBurst burst c').2.1 =
      (poison || (!(off == 0 && bs.length == 64) && d.hbm.rowBad burst)) := by
  have hburst : (64 * burst + off) / 64 = burst := by omega
  have hoff : (64 * burst + off) % 64 = off := by omega
  rw [Device.hbmReadBurst_bad, Device.hbmWriteBurst_hbm d _ poison c (by omega), hburst, hoff,
    Mem.rowBad_writeRow burst off bs poison hwf]

/-- Settles O59: the clauses on poison are one lemma on what a read finds after a write inside the burst. -/
theorem hbmReadsWhatWasWritten : Obligations.HbmReadsWhatWasWritten := by
  unfold Obligations.HbmReadsWhatWasWritten
  intro d burst bs poison c c' hwf hlen t
  have ht : t = { d.modStack (stackOf (64 * burst)) (·.countSlots c 1) with hbm := d.hbm.writeRow burst 0 bs poison } :=
    d.hbmWriteBurst_whole burst poison c hlen
  have hfound : (t.hbmReadBurst burst c').2.1 = poison := by
    have hbad : (t.hbmReadBurst burst c').2.1 = (poison || (!(0 == 0 && bs.length == 64) && d.hbm.rowBad burst)) :=
      Device.hbmReadBurst_bad_hbmWriteBurst (off := 0) poison c c' hwf (by omega) (by omega)
    simpa [hlen] using hbad
  refine ⟨?good, hfound.trans, ?others, ?ring, ?log, ?pilots, ?poisoned, ?staysPoisoned⟩
  case good =>
    refine fun hgood => ⟨?_, hfound.trans hgood⟩
    rw [Device.hbmReadBurst_bytes, ht]
    exact Mem.bytes_writeRow_whole burst poison hwf hlen
  case others =>
    intro b hb
    rw [ht]
    exact ⟨Mem.bytes_writeRow_ne poison hwf (by omega) hb,
      (Mem.mark_writeRow burst 0 b bs poison hwf).trans (if_neg hb)⟩
  case ring => rw [ht]; rfl
  case log => rw [ht]; rfl
  case pilots => rw [ht]; rfl
  case poisoned =>
    exact fun off part hfit hsome => Device.hbmReadBurst_bad_hbmWriteBurst true c c' hwf hfit hsome
  case staysPoisoned =>
    intro off part hfit hpart hsome hmark
    have hbad : d.hbm.rowBad burst = true := by rw [Mem.rowBad, hmark]
    rw [Device.hbmReadBurst_bad_hbmWriteBurst false c c' hwf hfit hsome, hbad]
    simp [hpart.ne]

end Sys2Proof.Machine
end

section
/-! SUPPORT and PROOFS. The steps of a stack's controller: which write it accepts next, and what each step does once its
conditions hold. -/

namespace Sys2Proof.Machine

/-! ### The write that is accepted next (R310, R321) -/

/-- The later writes of the cycle of a write to its burst. -/
def HbmWrite.rivals (w : HbmWrite) (ws : List HbmWrite) : List HbmWrite :=
  ws.filter fun v => v.time == w.time && v.offset / 64 == w.offset / 64

theorem HbmWrite.mem_rivals {w x : HbmWrite} {ws : List HbmWrite} :
    x ∈ w.rivals ws ↔ x ∈ ws ∧ x.time = w.time ∧ x.offset / 64 = w.offset / 64 := by
  simp [HbmWrite.rivals]

/-- The comparison keeps the earlier of two writes unless the later one is of a lower IOU. -/
theorem nextWrite_cons (w : HbmWrite) (ws : List HbmWrite) :
    nextWrite (w :: ws) = some ((w :: w.rivals ws).minOn (fun v => siteX v.site) (List.cons_ne_nil _ _)) := by
  have hstep : (fun b v : HbmWrite => if siteX v.site < siteX b.site then v else b) = minOn fun v => siteX v.site := by
    funext b v
    simp only [minOn, ← not_lt, ite_not]
  exact congrArg (fun f => some ((w.rivals ws).foldl f w)) hstep

/-- The accepted write waits, is of the oldest write's cycle, and is of the lowest IOU of that cycle's writes to its
burst. -/
theorem nextWrite_spec (w : HbmWrite) (ws : List HbmWrite) :
    ∃ v, nextWrite (w :: ws) = some v ∧ v ∈ w :: ws ∧ v.time = w.time ∧
      ∀ x ∈ ws, x.time = w.time → x.offset / 64 = w.offset / 64 → siteX v.site ≤ siteX x.site := by
  have hmem : (w :: w.rivals ws).minOn (fun v => siteX v.site) (List.cons_ne_nil _ _) ∈ w :: w.rivals ws :=
    List.minOn_mem
  have hlowest (x : HbmWrite) (hx : x ∈ w.rivals ws) :
      siteX ((w :: w.rivals ws).minOn (fun v => siteX v.site) (List.cons_ne_nil _ _)).site ≤ siteX x.site :=
    List.apply_minOn_le_of_mem (f := fun v : HbmWrite => siteX v.site) (List.mem_cons_of_mem w hx)
  refine ⟨_, nextWrite_cons w ws, ?waits, ?cycle, fun x hx htime hburst =>
    hlowest x (HbmWrite.mem_rivals.2 ⟨hx, htime, hburst⟩)⟩
  case waits => exact List.cons_subset_cons w (List.filter_subset_self ws) hmem
  case cycle =>
    rcases List.mem_cons.1 hmem with holdest | hrival
    · exact congrArg HbmWrite.time holdest
    · obtain ⟨-, htime, -⟩ := HbmWrite.mem_rivals.1 hrival
      exact htime

/-! ### Reads and writes of the controller (R320, R321) -/

section
variable {d : Device} {k : Nat}

theorem Device.modStack_congr {f g : Stack → Stack} (h : f (d.stack k) = g (d.stack k)) :
    d.modStack k f = d.modStack k g := congrArg (fun s => { d with hbmStacks := d.hbmStacks.put k s }) h

section
variable (hready : (d.stack k).state = 1)
include hready

theorem Device.hbmReadReturn_returns {h : HbmRead} {rest : List HbmRead}
    (htake : takeFirst (fun h : HbmRead => ((d.iou h.site).inqueue (d.ctx h.site h.ctx).d.vc).room (h.bytes != 64))
      (d.stack k).reads = some (h, rest)) :
    let r := (d.modStack k fun x => { x with reads := rest }).hbmReadBurst (h.offset / 64) .read
    d.hbmReadReturn k =
      (r.2.2.packIn h.site h.ctx ((r.1.drop (h.offset % 64)).take h.bytes) h.last r.2.1).progress (siteRegion h.site) := by
  simp only [Device.hbmReadReturn, hready, htake, ne_eq, not_true_eq_false, if_false]

theorem Device.hbmWriteAccept_stores {w : HbmWrite} (hnext : nextWrite (d.stack k).writes = some w) :
    d.hbmWriteAccept k =
      (((d.modStack k fun x => { x with writes := x.writes.erase w }).hbmWriteBurst w.offset w.bytes w.poison
        .write).sideLast (w.offset / 64)).progress (siteRegion w.site) := by
  simp only [Device.hbmWriteAccept, hnext, hready, ne_eq, not_true_eq_false, if_false]

/-! ### Patrol scrub and the inner count (R326) -/

/-- A burst without a mark is only passed, short of the stack's last one. -/
theorem Device.patrolScrub_clean (hmark : d.hbm.mark (k * stackBytes / 64 + (d.stack k).scrub.toNat) = none)
    (hmore : (d.stack k).scrub.toNat + 1 < stackBytes / 64) :
    d.patrolScrub k = d.modStack k fun x => { x with scrub := x.scrub + 1 } := by
  simp only [Device.patrolScrub, hready, hmark, ne_eq, not_true_eq_false, if_false]
  exact Device.modStack_congr (if_pos hmore)

theorem Device.innerCountRead_adds (n : Nat) :
    d.innerCountRead k n = d.modStack k fun x => { x with inner := satAdd x.inner n } := if_pos hready

/-! ### Self-refresh (R328) -/

theorem Device.selfRefreshEntry_enters (hdeep : d.pwr.state = 3) (hstays : d.pwr.wakeTo = none)
    (hreads : (d.stack k).reads = []) (hwrites : (d.stack k).writes = []) :
    d.selfRefreshEntry k = d.modStack k fun x => { x with state := 2 } :=
  if_pos ⟨hdeep, hstays, hready, hreads, hwrites⟩

end

theorem Device.selfRefreshExit_leaves (hrefresh : (d.stack k).state = 2)
    (hwakes : d.pwr.state ≠ 3 ∨ d.pwr.wakeTo ≠ none) (htrip : d.hlt.trip = false) :
    d.selfRefreshExit k = d.modStack k fun x => { x with state := 1 } :=
  if_pos ⟨hrefresh, hwakes, by rw [htrip]; rfl⟩

/-! ### Training (R329, R448, R452) -/

/-- A look-up in the part of a table whose indices satisfy a test. -/
theorem Tab.getD_filter {α : Type} (t : Tab α) (p : Nat → Prop) [DecidablePred p] (i : Nat) (x : α) :
    Tab.getD (List.filter (fun c => p c.1) t) i x = if p i then t.getD i x else x := by
  induction t with
  | nil => simp
  | cons c t ih =>
    obtain ⟨j, a⟩ := c
    by_cases hi : i = j
    · subst hi
      by_cases hp : p i <;> simp [Tab.getD, hp, ih]
    · by_cases hp : p j <;> simp [Tab.getD, hp, hi, ih]

/-- A store with the bytes of a stack zero and its marks gone. -/
def Mem.stackZeroed (m : Mem) (k : Nat) : Mem :=
  { cells := m.cells.filter fun c => stackOf c.1 ≠ k, marks := m.marks.filter fun c => stackOf (64 * c.1) ≠ k }

theorem Mem.stackZeroed_byte (m : Mem) (k a : Nat) :
    (m.stackZeroed k).byte a = if stackOf a ≠ k then m.byte a else 0 :=
  Tab.getD_filter m.cells (fun a => stackOf a ≠ k) a 0

section
variable (htrains : (d.stack k).state = 0) (hclock : d.seq.ref0 = true)
include htrains hclock

theorem Device.hbmTrain_fails : d.hbmTrain k false = d.modStack k fun x => { x with state := 3 } := by
  simp [Device.hbmTrain, htrains, hclock]

theorem Device.hbmTrain_succeeds :
    d.hbmTrain k true =
      { d with hbm := if (d.stack k).keep then d.hbm else d.hbm.stackZeroed k }.modStack k fun x =>
        { x with state := 1, scrubStart := d.now, keep := false } := by
  simp only [Device.hbmTrain, htrains, hclock, Mem.stackZeroed]
  cases (d.stack k).keep <;> rfl

end
end

/-- Settles O58: one lemma per step of the controller, and the choice of `nextWrite`. -/
theorem stackControllerActs : Obligations.StackControllerActs := by
  unfold Obligations.StackControllerActs
  intro s d k hruns
  refine ⟨?returns, ?stores, ?next, ?scrubs, ?counts, ?enters, ?leaves, ?trains⟩
  case returns =>
    exact fun h rest hready htake => State.answers_lift hruns rfl (Device.hbmReadReturn_returns hready htake)
  case stores =>
    exact fun w hready hnext => State.answers_lift hruns rfl (Device.hbmWriteAccept_stores hready hnext)
  case next => exact fun w ws _ => nextWrite_spec w ws
  case scrubs =>
    exact fun hready hmark hmore => State.answers_lift hruns rfl (Device.patrolScrub_clean hready hmark hmore)
  case counts => exact fun n hready => State.answers_lift hruns rfl (Device.innerCountRead_adds hready n.toNat)
  case enters =>
    exact fun hdeep hstays hready hreads hwrites =>
      State.answers_lift hruns rfl (Device.selfRefreshEntry_enters hready hdeep hstays hreads hwrites)
  case leaves =>
    exact fun hrefresh hwakes htrip =>
      State.answers_lift (f := fun e => ((e.selfRefreshExit k.val).unpark).pump) hruns rfl
        (congrArg (·.unpark.pump) (Device.selfRefreshExit_leaves hrefresh hwakes htrip))
  case trains =>
    intro htrains hclock
    refine ⟨State.answers_lift hruns rfl (Device.hbmTrain_fails htrains hclock), _,
      State.answers_lift hruns rfl (Device.hbmTrain_succeeds htrains hclock), ?state, ?own, ?others, rfl, rfl⟩
    case state => rw [Device.modStack_stack]
    case own =>
      intro a ha
      rw [Device.modStack_hbm]
      split
      · rfl
      · rw [Mem.stackZeroed_byte, if_neg (not_not.2 ha)]
    case others =>
      intro a ha
      rw [Device.modStack_hbm]
      split
      · rfl
      · rw [Mem.stackZeroed_byte, if_pos ha]

end Sys2Proof.Machine
end


section
/-! SUPPORT and PROOFS. The queue and the one shape of every meaning: a change of the device alone, which only the pins
and the sequencer make while the hub is off or in reset. -/

namespace Sys2Proof.Machine

/-! ### The shape of a meaning -/

/-- The pins and the sequencer act whatever the hub's state; every other command acts if it is admitted and the hub
runs (log 3, R497). -/
theorem exec_shape (c : Instr) : ∃ f : Device → Device,
    (∀ s, exec c s = s.liftIf c f) ∨ (onPins c = true ∧ c.wellFormed = true ∧ ∀ s, exec c s = s.liftAny f) := by
  cases c
  case resetNAssert | resetNDeassert | hubLeavesReset | pwrEnAssert | vddAonValid | diodeReady | pwrEnDeassert |
      railOffStep | railFault | pmbAlert | clockRecount =>
    exact ⟨_, .inr ⟨rfl, rfl, fun _ => rfl⟩⟩
  case railEnableCheck k ok =>
    exact ⟨fun d => d.modSeq fun q => q.enableCheck k.val ok d.now, .inr ⟨rfl, rfl, fun _ => rfl⟩⟩
  all_goals exact ⟨_, .inl fun _ => rfl⟩

theorem State.liftIf_next {s t : State} {c : Instr} {f : Device → Device} (h : s.liftIf c f = .next t) :
    t = { s with dev := if s.dev.up then f s.dev else s.dev } := by
  unfold State.liftIf at h
  split at h
  · exact (Host.Outcome.next.inj h).symm
  · nomatch h

/-- A meaning leaves the queue as it stands. -/
theorem exec_pending {c : Instr} {s t : State} (h : exec c s = .next t) : t.pending = s.pending := by
  obtain ⟨f, hf | ⟨-, -, hf⟩⟩ := exec_shape c
  · rw [State.liftIf_next ((hf s).symm.trans h)]
  · rw [← Host.Outcome.next.inj ((hf s).symm.trans h)]

/-! ### The queue, the idle step and the hub in reset -/

/-- Settles O1: by the definition of a step. -/
theorem stepRunsFrontCommand : Obligations.StepRunsFrontCommand := by
  unfold Obligations.StepRunsFrontCommand
  intro s c
  rfl

theorem Device.timeStep_down {d : Device} (h : d.up = false) : d.timeStep = { d with now := d.now + 5 } :=
  if_pos (show (!d.up) = true by simp [h])

/-- Settles O2: a step without a command is the idle step, and the idle step asks first whether the hub runs. -/
theorem idleStepPassesTime : Obligations.IdleStepPassesTime := by
  unfold Obligations.IdleStepPassesTime
  intro s hempty
  exact ⟨by simp [step, hempty], Device.timeStep_down⟩

/-- Settles O3: the step takes the front command off, and its meaning leaves the rest. -/
theorem queueIsFifo : Obligations.QueueIsFifo := by
  unfold Obligations.QueueIsFifo
  intro s t c cs hqueue hstep
  have hexec : exec c { s with pending := cs } = .next t := by simpa only [step, hqueue] using hstep
  exact exec_pending hexec

/-- Settles O4: by the shape of every meaning. -/
theorem everyAdmittedCommandCompletes : Obligations.EveryAdmittedCommandCompletes := by
  unfold Obligations.EveryAdmittedCommandCompletes
  intro s c
  obtain ⟨f, hf | ⟨-, hwf, hf⟩⟩ := exec_shape c
  · exact ⟨fun hwf => ⟨_, (hf s).trans (if_pos hwf)⟩, fun hbad => (hf s).trans (State.liftIf_bad f hbad)⟩
  · exact ⟨fun _ => ⟨_, hf s⟩, fun hbad => absurd hwf (by simp [hbad])⟩

/-- Settles O5: by the shape of every meaning. -/
theorem hubInResetTakesNoEffect : Obligations.HubInResetTakesNoEffect := by
  unfold Obligations.HubInResetTakesNoEffect
  intro s t c hdown hpins hexec
  obtain ⟨f, hf | ⟨hpin, -, -⟩⟩ := exec_shape c
  · rw [State.liftIf_next ((hf s).symm.trans hexec), hdown]
    rfl
  · exact absurd hpin (by simp [hpins])

end Sys2Proof.Machine
end

section
/-! SUPPORT. That every operation of the shared operations, the host port and the Device commands keeps the byte
stores of the hub in their canonical form. `h.f.g`, of a sound device `d`, is the proof that `(d.f ..).g ..` is sound.
-/

namespace Sys2Proof.Machine

variable {e d : Device} {r u q src code off : Nat} {id : CmdId} {payload : List Byte} {p : Packet} {c : Prop}
  {arg v : Word}

/-! ### Ways to combine -/

theorem Device.storesOk.ite {_ : Decidable c} {a b : Device} (ha : a.storesOk) (hb : b.storesOk) :
    (if c then a else b).storesOk := by
  split <;> assumption

theorem Device.storesOk.ite_snd {α : Type} {_ : Decidable c} {a b : α × Device} (ha : a.2.storesOk)
    (hb : b.2.storesOk) : (if c then a else b).2.storesOk := by
  split <;> assumption

theorem Device.storesOk.of_eq {α : Type} {p : α × Device} {a : α} (hp : p = (a, e)) (h : p.2.storesOk) :
    e.storesOk := by
  rwa [hp] at h

/-- A loop whose every turn keeps the stores. -/
theorem Device.storesOk.foldl {α : Type} {f : Device → α → Device} {l : List α} (h : d.storesOk)
    (hf : ∀ e a, e.storesOk → (f e a).storesOk) : (l.foldl f d).storesOk := by
  induction l generalizing d with
  | nil => exact h
  | cons a l ih => exact ih (hf d a h)

/-- A change of the parts beside the stores. -/
theorem Device.storesOk.same (h : d.storesOk) (hs : (e.ring, e.hbm, e.log) = (d.ring, d.hbm, d.log)) : e.storesOk :=
  by
  simp only [Prod.mk.injEq] at hs
  obtain ⟨hring, hhbm, hlog⟩ := hs
  rwa [Device.storesOk, hring, hhbm, hlog]

/-- A change of the scale units alone. -/
theorem Device.storesOk.withSfus {t : Tab Sfu} (h : d.storesOk) : { d with sfus := t }.storesOk := h

/-- A change of what the pilots were at the last clk. -/
theorem Device.storesOk.withClkPilots {t : Tab Pilot} (h : d.storesOk) : { d with clkPilots := t }.storesOk := h

theorem Device.storesOk.modLog {f : Logbook → Logbook} (h : d.storesOk)
    (hf : d.log.mem.wf = true → (f d.log).mem.wf = true) : (d.modLog f).storesOk :=
  ⟨h.1, h.2.1, hf h.2.2⟩

@[simp] theorem Logbook.enter_mem (l : Logbook) (e : LogItem) : (l.enter e).mem = l.mem := by
  unfold Logbook.enter
  split <;> rfl

/-- Whatever is answered keeps the stores. -/
def StoresKept (o : Option Device) : Prop := ∀ t, o = some t → t.storesOk

theorem StoresKept.none : StoresKept none := fun _ h => nomatch h

theorem Device.storesOk.kept (h : d.storesOk) : StoresKept (some d) := fun _ ht => Option.some.inj ht ▸ h

theorem StoresKept.ite {_ : Decidable c} {a b : Option Device} (ha : StoresKept a) (hb : StoresKept b) :
    StoresKept (if c then a else b) := by
  split <;> assumption

theorem StoresKept.getD {o : Option Device} (ho : StoresKept o) (h : d.storesOk) : (o.getD d).storesOk := by
  cases o with
  | none => exact h
  | some t => exact ho t rfl

/-! ### Parts of the device -/

theorem Device.storesOk.modPilot {f : Pilot → Pilot} (h : d.storesOk) : (d.modPilot r f).storesOk := h.same (by rfl)

theorem Device.storesOk.modSwitch {f : Switch → Switch} (h : d.storesOk) : (d.modSwitch u f).storesOk :=
  h.same (by rfl)

theorem Device.storesOk.modMu {f : Mu → Mu} (h : d.storesOk) : (d.modMu u f).storesOk := h.same (by rfl)

theorem Device.storesOk.modSfu {f : Sfu → Sfu} (h : d.storesOk) : (d.modSfu u f).storesOk := h.same (by rfl)

theorem Device.storesOk.modSu {f : Su → Su} (h : d.storesOk) : (d.modSu u f).storesOk := h.same (by rfl)

theorem Device.storesOk.modIou {f : Iou → Iou} (h : d.storesOk) : (d.modIou u f).storesOk := h.same (by rfl)

theorem Device.storesOk.modHome {k : Nat} {f : Home → Home} (h : d.storesOk) : (d.modHome k f).storesOk :=
  h.same (by rfl)

theorem Device.storesOk.modStack {k : Nat} {f : Stack → Stack} (h : d.storesOk) : (d.modStack k f).storesOk :=
  h.same (by rfl)

theorem Device.storesOk.modHost {f : HostPort → HostPort} (h : d.storesOk) : (d.modHost f).storesOk := h.same (by rfl)

theorem Device.storesOk.modTick {f : Tick → Tick} (h : d.storesOk) : (d.modTick f).storesOk := h.same (by rfl)

theorem Device.storesOk.modComb {f : Comb → Comb} (h : d.storesOk) : (d.modComb f).storesOk := h.same (by rfl)

theorem Device.storesOk.modVxl {f : Vxl → Vxl} (h : d.storesOk) : (d.modVxl f).storesOk := h.same (by rfl)

theorem Device.storesOk.modPwr {f : Power → Power} (h : d.storesOk) : (d.modPwr f).storesOk := h.same (by rfl)

theorem Device.storesOk.modHlt {f : Health → Health} (h : d.storesOk) : (d.modHlt f).storesOk := h.same (by rfl)

theorem Device.storesOk.modSec {f : Security → Security} (h : d.storesOk) : (d.modSec f).storesOk := h.same (by rfl)

theorem Device.storesOk.modSeq {f : Sequencer → Sequencer} (h : d.storesOk) : (d.modSeq f).storesOk := h.same (by rfl)

theorem Device.storesOk.modPwrRegion {f : PwrRegion → PwrRegion} (h : d.storesOk) : (d.modPwrRegion r f).storesOk :=
  h.modPwr

theorem Device.storesOk.modPort {p : Nat} {f : VxlPort → VxlPort} (h : d.storesOk) : (d.modPort p f).storesOk :=
  h.modVxl

theorem Device.storesOk.modCmdRing {f : CmdRing → CmdRing} (h : d.storesOk) : (d.modCmdRing q f).storesOk := h.modHost

theorem Device.storesOk.modCplRing {f : CplRing → CplRing} (h : d.storesOk) : (d.modCplRing q f).storesOk := h.modHost

theorem Device.storesOk.modUnit {f : Unit → Unit} (h : d.storesOk) : (d.modUnit u f).storesOk := by
  unfold Device.modUnit
  split
  · exact h.modMu
  · exact h.modSfu
  · exact h.modSu
  · exact h.modIou

theorem Device.storesOk.drawWord (h : d.storesOk) : d.drawWord.2.storesOk := h.same (by rfl)

/-! ### The logbook queue (R466, R467) -/

theorem Device.storesOk.logEnter {kind : Nat} (h : d.storesOk) : (d.logEnter src kind payload).storesOk :=
  h.modLog fun hw => by rwa [Logbook.enter_mem]

theorem Device.storesOk.record {cls sev : Nat} {w : RecPlace} {detail : List Byte} (h : d.storesOk) :
    (d.record cls sev w detail src).storesOk :=
  h.logEnter.modSec

/-! ### Events (R231, R232, R370, R431) -/

theorem Device.storesOk.raise (h : d.storesOk) : (d.raise r code arg).storesOk := h.modPilot

theorem Device.storesOk.raiseOnce (h : d.storesOk) : (d.raiseOnce r code arg).storesOk := h.modPilot

theorem Device.storesOk.raiseHub {region : Nat} (h : d.storesOk) : (d.raiseHub region code arg).storesOk :=
  h.same (by rfl)

/-! ### Host commands (R391 to R396) -/

theorem Device.storesOk.modCmd {f : Cmd → Cmd} (h : d.storesOk) : (d.modCmd id f).storesOk := h.modHost

theorem Device.storesOk.queuePacket {cpl : Nat} (h : d.storesOk) : (d.queuePacket cpl p).storesOk := h.modCplRing

theorem Device.storesOk.complete {status : Nat} {detail : Word} (h : d.storesOk) :
    (d.complete id status payload detail).storesOk := by
  unfold Device.complete
  split
  · exact h
  · exact h.ite h.modCmd.queuePacket

/-- The row of a host command keeps the stores if its body does. -/
theorem Device.storesOk.runCmd {op : Nat} {body : List Byte → Device → Device} (h : d.storesOk)
    (hbody : ∀ ps e, e.storesOk → (body ps e).storesOk) : (d.runCmd op id body).storesOk := by
  unfold Device.runCmd
  split
  · exact h
  · exact (hbody _ _ h.modCmd).ite h

/-! ### Flags (R280) -/

theorem Device.storesOk.flagReq {die flag : Nat} {value : Bool} {cmd : Option CmdId}
    {tid : Option (BitVec 18 × Word64)} (h : d.storesOk) : (d.flagReq src die flag value cmd tid).storesOk :=
  h.modHome

/-! ### The stop of a region and the halt of the job (R64, R235) -/

theorem Device.storesOk.stopAll {c : Nat} (h : d.storesOk) : (d.stopAll c).storesOk :=
  h.foldl fun _ _ h => h.modPilot.modPwrRegion

theorem Device.storesOk.haltTick (h : d.storesOk) : d.haltTick.storesOk := h.modTick.foldl fun _ _ h => h.complete

theorem Device.storesOk.haltJob {region cause : Nat} (h : d.storesOk) : (d.haltJob region cause).storesOk :=
  h.stopAll.modComb.haltTick.ite h.stopAll

theorem Device.storesOk.stopRegion {x y cause : Nat} (h : d.storesOk) : (d.stopRegion r x y cause).storesOk :=
  h.ite h.modPilot.haltJob

theorem Device.storesOk.sendHost {m : HostMsg} (h : d.storesOk) : (d.sendHost m).storesOk := h.modHost

/-! ### Errors of the window and of doorbells (R378, R383) -/

theorem Device.storesOk.windowError (h : d.storesOk) : d.windowError.storesOk := h.modHost

theorem Device.storesOk.doorbellError (h : d.storesOk) : d.doorbellError.storesOk := h.modHost

/-! ### Registers (R410) -/

theorem Device.storesOk.hostRegLatch (h : d.storesOk) : (d.hostRegLatch off).storesOk := h.modHost.ite h

theorem Device.storesOk.ringDoorbell (h : d.storesOk) : (d.ringDoorbell q v).storesOk :=
  h.modCmdRing.ite h.doorbellError

theorem Device.storesOk.writeCplHead (h : d.storesOk) : (d.writeCplHead q v).storesOk :=
  h.modCplRing.ite h.doorbellError

theorem Device.storesOk.writeCtrl (h : d.storesOk) : (d.writeCtrl q v).storesOk :=
  h.ite ((h.modCmdRing.modCmdRing.ite h.modCmdRing.doorbellError).ite h.modCmdRing)

theorem Device.storesOk.writeHostReg (h : d.storesOk) : (d.writeHostReg off v).storesOk :=
  h.modHost.ite (h.modHost.ite (h.modHost.ite (h.ringDoorbell.ite (h.writeCtrl.ite (h.writeCplHead.ite h)))))

/-! ### The window (R375 to R379) -/

theorem Device.storesOk.writeRing {bs : List Byte} {poison : Bool} (h : d.storesOk) :
    (d.writeRing off bs poison).storesOk :=
  .ite h ⟨Mem.wf_write _ _ _ h.1, h.2⟩

theorem Device.storesOk.hwr {bs : List Byte} (h : d.storesOk) : (d.hwr off bs).storesOk :=
  h.writeRing.ite (h.writeHostReg.ite h.windowError)

theorem Device.storesOk.hrd {len tag : Nat} (h : d.storesOk) : (d.hrd off len tag).storesOk :=
  ((h.modHost.ite h).sendHost).ite (h.hostRegLatch.sendHost.ite h.windowError.sendHost)

theorem Device.storesOk.dwrRange {n a : Nat} {bs : List (Byte × Bool)} (h : d.storesOk) :
    (d.dwrRange n a bs).storesOk := by
  induction n generalizing d a bs with
  | zero => exact h
  | succ n ih =>
    unfold Device.dwrRange
    exact h.ite (ih h.sendHost)

theorem Device.storesOk.dwr {a : Nat} {bs : List (Byte × Bool)} (h : d.storesOk) : (d.dwr a bs).storesOk := h.dwrRange

/-! ### The link (R372 to R374) -/

theorem Device.storesOk.sendNotify (h : d.storesOk) : (d.sendNotify q).storesOk :=
  h.ite (h.modCplRing.ite h.sendHost.modCplRing)

theorem Device.storesOk.ucieTrain {m : Nat} {full : Bool} {rate partner : Nat} (h : d.storesOk) :
    (d.ucieTrain m full rate partner).storesOk :=
  h.modHost.ite (h.modHost.foldl fun _ _ h => h.sendNotify.ite h)

/-! ### Writing packets (R384 to R388) -/

theorem Device.storesOk.putEntry (h : d.storesOk) : (d.putEntry q p).storesOk := h.writeRing

theorem Device.storesOk.writePacket (h : d.storesOk) : (d.writePacket q p).storesOk :=
  ((h.ite h.putEntry.modCplRing).putEntry).modCplRing

theorem Device.storesOk.notify (h : d.storesOk) : (d.notify q).storesOk := h.modHost.sendNotify.ite h.modHost

theorem Device.storesOk.postUnsolicited {opcode : Nat} {report : Bool} (h : d.storesOk) :
    (d.postUnsolicited q opcode payload report).storesOk :=
  h.writePacket.modCplRing.notify.ite h.modCplRing.modHost

/-! ### Taking packets (R390, R396) -/

theorem Device.storesOk.refusePacket {p : Header} {status : Nat} (h : d.storesOk) :
    (d.refusePacket q p status).storesOk :=
  h.queuePacket

theorem Device.storesOk.holdRing (h : d.storesOk) : (d.holdRing q).storesOk := h.modCmdRing

theorem Device.storesOk.sortPacket {p : Header} {ps : List Byte} (h : d.storesOk) :
    (d.sortPacket q p ps).storesOk := by
  unfold Device.sortPacket
  dsimp only
  split
  · exact h.modCmd
  · split
    · exact h.queuePacket
    · exact h.refusePacket.ite (h.refusePacket.ite h.modCmdRing.modHost)

theorem Device.storesOk.visit (h : d.storesOk) : StoresKept (d.visit q) := by
  unfold Device.visit
  exact .ite .none (.ite h.modCmdRing.kept (.ite h.refusePacket.holdRing.kept (.ite .none
    (.ite h.refusePacket.holdRing.kept h.modCmdRing.sortPacket.kept))))

theorem Device.storesOk.packetTake (h : d.storesOk) : (d.packetTake q).storesOk := by
  unfold Device.packetTake
  split
  · exact h
  · split
    next hv => exact (h.visit _ hv).modHost
    next => exact h

/-! ### Completions (R384 to R386, R395, R396) -/

theorem Device.storesOk.endCommand (h : d.storesOk) : (d.endCommand q p).storesOk := h.modHost.modHost.modCplRing

theorem Device.storesOk.completionWrite (h : d.storesOk) : (d.completionWrite q).storesOk := by
  unfold Device.completionWrite
  extract_lets r
  split
  · exact h
  · extract_lets d₁ d₂ d₃
    have h₁ : d₁.storesOk := h.modCplRing.writePacket
    have h₂ : d₂.storesOk := h₁.endCommand.ite h₁
    have h₃ : d₃.storesOk := h₂.modHost.ite h₂
    exact h.ite (h₃.notify.ite h₃)

theorem Device.storesOk.notifyIntervalEnd (h : d.storesOk) : (d.notifyIntervalEnd q).storesOk :=
  h.ite (h.modCplRing.sendNotify.ite h.modCplRing)

/-! ### HELLO (R398, R401) -/

theorem Device.storesOk.hello (h : d.storesOk) : (d.hello id).storesOk := by
  unfold Device.hello
  refine .runCmd h fun _ _ h => ?_
  split
  · exact h.complete
  · split
    · exact h.complete
    · exact h.complete.ite h.modHost.complete

/-! ### STATUS (R401) -/

theorem Device.storesOk.statusCmd (h : d.storesOk) : (d.statusCmd id).storesOk := h.runCmd fun _ _ h => h.complete

/-! ### The factory map (R32) -/

theorem Device.storesOk.factoryMap (h : d.storesOk) : (d.factoryMap id).storesOk := h.runCmd fun _ _ h => h.complete

/-! ### ROM_READ (R402) -/

theorem Device.storesOk.romRead (h : d.storesOk) : (d.romRead id).storesOk := by
  unfold Device.romRead
  refine .runCmd h fun _ _ h => ?_
  dsimp only
  split
  · exact h.complete
  · split
    · exact h.complete
    · exact h.complete.ite h.complete

/-! ### Host rings (R407, R408) -/

theorem Device.storesOk.openRing {cpl : Bool} {p : RingParams} (h : d.storesOk) : (d.openRing cpl q p).storesOk :=
  h.modCplRing.modHost.ite h.modCmdRing

theorem Device.storesOk.hringCreate (h : d.storesOk) : (d.hringCreate id).storesOk := by
  unfold Device.hringCreate
  refine .runCmd h fun _ _ h => ?_
  dsimp only
  split
  · exact h.complete
  · split
    · exact h.complete
    · split
      · exact h.openRing.complete
      · exact (h.modCplRing.ite h.modCmdRing).complete
      · exact h.complete

theorem Device.storesOk.hringDestroy (h : d.storesOk) : (d.hringDestroy id).storesOk := by
  unfold Device.hringDestroy
  refine .runCmd h fun _ _ h => ?_
  dsimp only
  split
  · exact h.complete
  · split
    · exact h.complete
    · split
      · split
        · exact h.complete
        · exact h.modCmdRing
        · exact h.modCmdRing
      · split
        · exact h.complete
        · exact h.modCplRing
        · exact h.complete.ite h.modCplRing

theorem Device.storesOk.hringOff {cpl : Bool} (h : d.storesOk) : (d.hringOff cpl q).storesOk := by
  unfold Device.hringOff
  dsimp only
  split
  · refine h.ite ?_
    have hr : (match (d.cplRing q).destroyCmd with
        | some id => (d.modCplRing q fun r => { r with life := .off, destroyCmd := none, pending := none }).complete
          id Status.ok
        | none => d.modCplRing q fun r => { r with life := .off, destroyCmd := none, pending := none }).storesOk := by
      split
      · exact h.modCplRing.complete
      · exact h.modCplRing
    split
    · exact hr.openRing
    · exact hr
  · refine h.ite ?_
    have hr : (match (d.cmdRing q).destroyCmd with
        | some id => (d.modCmdRing q fun r => { r with life := .off, destroyCmd := none, pending := none }).complete
          id Status.ok
        | none => d.modCmdRing q fun r => { r with life := .off, destroyCmd := none, pending := none }).storesOk := by
      split
      · exact h.modCmdRing.complete
      · exact h.modCmdRing
    split
    · exact hr.openRing
    · exact hr

/-! ### EVENT_ROUTE and DEV_RESET (R403, R404) -/

theorem Device.storesOk.eventRoute (h : d.storesOk) : (d.eventRoute id).storesOk :=
  h.runCmd fun _ _ h => h.complete.ite (h.complete.ite h.modHost.complete)

theorem Device.storesOk.devReset (h : d.storesOk) : (d.devReset id).storesOk :=
  h.runCmd fun _ _ h => h.complete.ite h.complete

end Sys2Proof.Machine
end

section
/-! SUPPORT. That every operation of HBM, the switch fabric, the waggle homes and the watchdogs keeps the byte stores
of the hub in their canonical form. -/

namespace Sys2Proof.Machine

variable {d : Device} {burst k code a n r u v out port die : Nat} {id : CmdId} {c : HbmClass} {w : Item} {net : Net}
  {e : Route}

theorem Device.storesOk.hbmUncorr (h : d.storesOk) : (d.hbmUncorr burst c).storesOk := h.modStack.record

theorem Device.storesOk.hbmEvent (h : d.storesOk) : (d.hbmEvent k code).storesOk := h.drawWord.raiseOnce

theorem Device.storesOk.hbmCheck (h : d.storesOk) : (d.hbmCheck burst c).2.storesOk := by
  unfold Device.hbmCheck
  split
  · exact h
  · exact h.modStack
  · exact h.hbmUncorr.hbmEvent
  · exact h.modStack.hbmEvent

theorem Device.storesOk.hbmReadBurst (h : d.storesOk) : (d.hbmReadBurst burst c).2.2.storesOk := h.modStack.hbmCheck

theorem Device.storesOk.withHbm {m : Mem} (h : d.storesOk) (hm : m.wf = true) : Device.storesOk { d with hbm := m } :=
  ⟨h.1, hm, h.2.2⟩

theorem Device.storesOk.hbmWriteBurst {bs : List Byte} {poison : Bool} (h : d.storesOk) :
    (d.hbmWriteBurst a bs poison c).storesOk := by
  unfold Device.hbmWriteBurst
  dsimp only
  split
  · exact Device.storesOk.withHbm (d := d.modStack _ _) h (Mem.wf_writeRow _ _ _ _ h.2.1)
  · have hs := h.modStack (k := stackOf a) (f := (·.countSlots c 2))
    split
    · exact Device.storesOk.withHbm hs.modStack (Mem.wf_writeRow _ _ _ _ hs.2.1)
    · have hu := (hs.hbmUncorr (burst := a / 64) (c := c)).hbmEvent (k := stackOf a) (code := 0x50)
      exact hu.withHbm (Mem.wf_writeRow _ _ _ _ hu.2.1)
    · exact hs.withHbm (Mem.wf_writeRow _ _ _ _ hs.2.1)

theorem Device.storesOk.hbmSideBurst {bs : List Byte} {poison : Bool} (h : d.storesOk) :
    (d.hbmSideBurst a bs poison c).storesOk :=
  h.hbmWriteBurst.modStack

theorem Device.storesOk.hbmReadRange {fuel : Nat} (h : d.storesOk) : (d.hbmReadRange c fuel a n).2.storesOk := by
  induction fuel generalizing d a n with
  | zero => exact h
  | succ fuel ih =>
    unfold Device.hbmReadRange
    exact .ite_snd h (ih h.hbmReadBurst)

theorem Device.storesOk.hbmWriteRange {bs : List (Byte × Bool)} (h : d.storesOk) :
    (d.hbmWriteRange c n a bs).storesOk := by
  induction n generalizing d a bs with
  | zero => exact h
  | succ n ih =>
    unfold Device.hbmWriteRange
    exact h.ite (ih h.hbmSideBurst)

theorem Device.storesOk.hbmRead (h : d.storesOk) : (d.hbmRead c a n).2.storesOk := h.hbmReadRange

theorem Device.storesOk.hbmWrite {bs : List (Byte × Bool)} (h : d.storesOk) : (d.hbmWrite c a bs).storesOk :=
  h.hbmWriteRange

/-! ### The controller's own steps -/

theorem Device.storesOk.patrolScrub (h : d.storesOk) : (d.patrolScrub k).storesOk := by
  unfold Device.patrolScrub
  dsimp only
  split
  · exact h
  · refine .modStack ?_
    split
    · exact h.withHbm (Mem.wf_setMark _ none h.2.1)
    · exact h.hbmUncorr
    · exact h

theorem Device.storesOk.innerCountRead (h : d.storesOk) : (d.innerCountRead k n).storesOk := h.modStack.ite h

theorem Device.storesOk.selfRefreshEntry (h : d.storesOk) : (d.selfRefreshEntry k).storesOk := h.modStack.ite h

theorem Device.storesOk.selfRefreshExit (h : d.storesOk) : (d.selfRefreshExit k).storesOk := h.modStack.ite h

theorem Tab.rises_filter {α : Type} {t : Tab α} {lo : Nat} (p : Nat × α → Bool) (h : Tab.rises lo t = true) :
    Tab.rises lo (t.filter p) = true := by
  induction t generalizing lo with
  | nil => rfl
  | cons a t ih =>
    obtain ⟨j, x⟩ := a
    simp only [Tab.rises, Bool.and_eq_true, decide_eq_true_eq] at h
    rw [List.filter_cons]
    split
    · simp only [Tab.rises, Bool.and_eq_true, decide_eq_true_eq]
      exact ⟨h.1, ih h.2⟩
    · exact Tab.rises_mono (ih h.2) (by omega)

theorem Mem.wf_filter {m : Mem} (p : Nat × Byte → Bool) (q : Nat × RowMark → Bool) (h : m.wf = true) :
    Mem.wf { cells := m.cells.filter p, marks := m.marks.filter q } = true := by
  rw [Mem.wf_iff] at h ⊢
  obtain ⟨hcells, hzero, hmarks⟩ := h
  exact ⟨Tab.rises_filter p hcells, fun c hc => hzero c (List.mem_of_mem_filter hc), Tab.rises_filter q hmarks⟩

theorem Device.storesOk.hbmTrain {ok : Bool} (h : d.storesOk) : (d.hbmTrain k ok).storesOk := by
  unfold Device.hbmTrain
  exact h.ite (.ite (.ite h.modStack (h.withHbm (Mem.wf_filter _ _ h.2.1))) h.modStack)

/-! ### Progress and stale items -/

theorem Device.storesOk.progress (h : d.storesOk) : (d.progress r).storesOk := h.modPilot

theorem Device.storesOk.staleReport (h : d.storesOk) : (d.staleReport r).storesOk :=
  h.ite h.drawWord.modPilot.raiseOnce.modTick

theorem Device.storesOk.staleSwitch (h : d.storesOk) : (d.staleSwitch u).storesOk := h.modSwitch.staleReport

theorem Device.storesOk.staleUnit (h : d.storesOk) : (d.staleUnit u).storesOk := h.modUnit.staleReport

theorem Device.storesOk.raiseFree (h : d.storesOk) : (d.raiseFree r code).storesOk := h.drawWord.raise

theorem Device.storesOk.raiseOnceFree (h : d.storesOk) : (d.raiseOnceFree r code).storesOk := h.drawWord.raiseOnce

/-! ### Delivery -/

theorem Device.storesOk.noteBuf {k : BufKey} (h : d.storesOk) : (d.noteBuf v k w).storesOk := h.modSwitch.ite h

theorem Device.storesOk.noteQueue {k : BufKey} (h : d.storesOk) : (d.noteQueue v k w).storesOk := h.modUnit.ite h

theorem Device.storesOk.deliver {vc : Nat} (h : d.storesOk) : (d.deliver u net out vc w).storesOk := by
  unfold Device.deliver
  dsimp only
  split
  · exact h.modSwitch.noteBuf
  · exact h.noteBuf.same (by rfl)
  · exact h.noteBuf.same (by rfl)
  · exact h.modSwitch.ite h.modUnit.noteQueue
  · exact h.modUnit.noteQueue
  · exact h

theorem Device.storesOk.drainOut (h : d.storesOk) : (d.drainOut u).storesOk := h.ite h.modSwitch.modUnit

theorem Device.storesOk.unitSend (h : d.storesOk) : (d.unitSend u net w).storesOk := h.modUnit.drainOut

/-! ### One send (R72, R91 to R93, R98) -/

theorem Device.storesOk.sidebandFail {k : BufKey} (h : d.storesOk) : (d.sidebandFail u k).storesOk :=
  h.record.raiseFree.stopRegion

theorem Device.storesOk.checkHead {k : BufKey} (h : d.storesOk) : (d.checkHead u k).storesOk := by
  unfold Device.checkHead
  split
  · exact h
  · exact h.ite h.modSwitch.raiseFree

theorem Device.storesOk.gather (h : d.storesOk) : (d.gather u net e).1.storesOk := by
  unfold Device.gather
  dsimp only
  split
  · exact h.sidebandFail
  · have hc := Device.storesOk.foldl (l := e.keys net) h fun _ k h => h.checkHead (u := u) (k := k)
    split
    · exact hc
    · exact (hc.modSwitch.raiseFree.ite hc.modSwitch).drainOut.progress

theorem Device.storesOk.sendNow {lane : Nat} (h : d.storesOk) : (d.sendNow u net out lane e w).storesOk :=
  h.modSwitch.deliver.progress

theorem Device.storesOk.enterLine (h : d.storesOk) : (d.enterLine u e).storesOk := by
  unfold Device.enterLine
  dsimp only
  split
  · exact h
  · have hg := h.gather (u := u) (net := .vector) (e := e)
    split
    next heq => rw [heq] at hg; exact hg.modSwitch
    next heq => rw [heq] at hg; exact hg

theorem Device.storesOk.fillLines (h : d.storesOk) : (d.fillLines u net out).storesOk := by
  unfold Device.fillLines
  split
  · exact h.foldl fun _ _ h => h.enterLine
  · exact h

theorem Device.storesOk.wordSend {lane : Nat} (h : d.storesOk) : (d.wordSend u net out lane).storesOk := by
  unfold Device.wordSend
  have hf := h.fillLines (u := u) (net := net) (out := out)
  refine h.ite ?_
  dsimp only
  generalize d.fillLines u net out = t at hf
  cases t.routeNow u net out lane with
  | none => exact hf
  | some e =>
    have hg := hf.gather (u := u) (net := net) (e := e)
    refine hf.ite (.ite ?_ (hf.ite ?_))
    · split
      · exact hf.modSwitch.sendNow
      · exact hf
    · split
      next heq => rw [heq] at hg; exact hg.sendNow
      next heq => rw [heq] at hg; exact hg

/-! ### Crossings (R81 to R87) -/

theorem Device.storesOk.parityHit (h : d.storesOk) : (d.parityHit u).storesOk := h.modSwitch.raiseFree

theorem Device.storesOk.settleItem {c : Crossing} (h : d.storesOk) : (d.settleItem c).storesOk :=
  h.modSwitch.progress.ite (h.modSwitch.progress.ite h.staleSwitch)

theorem Device.storesOk.arrive {c : Crossing} (h : d.storesOk) : (d.arrive c).storesOk :=
  h.sidebandFail.ite (h.parityHit.settleItem.ite h.settleItem)

theorem Device.storesOk.releaseHold (h : d.storesOk) : (d.releaseHold u).storesOk :=
  h.ite ((h.foldl fun _ _ h => h.staleSwitch).modSwitch)

theorem Device.storesOk.releaseHolds (h : d.storesOk) : (d.releaseHolds r).storesOk :=
  h.foldl fun _ _ h => h.releaseHold

theorem Device.storesOk.seamArrival (h : d.storesOk) : (d.seamArrival u port net v).storesOk := by
  unfold Device.seamArrival
  split
  · exact h
  · split
    · exact h
    · exact (h.same (by rfl)).arrive

theorem Device.storesOk.bridgeFail (h : d.storesOk) : (d.bridgeFail u port).storesOk := by
  unfold Device.bridgeFail
  dsimp only
  split
  · exact h.record.raiseFree.modPilot.stopRegion
  · exact h

theorem Device.storesOk.bridgeArrival {ok : Bool} (h : d.storesOk) : (d.bridgeArrival u port net v ok).storesOk := by
  unfold Device.bridgeArrival
  split
  · exact h
  · split
    · exact h
    · exact (h.same (by rfl)).arrive.ite ((h.same (by rfl)).modIou.ite (h.same (by rfl)).bridgeFail)

/-! ### Effects on the rest of the device -/

theorem Device.storesOk.latchWaits (h : d.storesOk) : d.latchWaits.storesOk := h.same (by rfl)

theorem Device.storesOk.homeEvents {evs : List HomeEvent} (h : d.storesOk) : (d.homeEvents die evs).storesOk :=
  h.foldl fun _ _ h => h.raiseOnce

theorem Device.storesOk.applyFlags {batch : List FlagReq} (h : d.storesOk) : (d.applyFlags die batch).storesOk := by
  unfold Device.applyFlags
  split
  exact h.modHome.homeEvents.latchWaits

theorem Device.storesOk.engineFlag {f : Nat} {v : Bool} (h : d.storesOk) : (d.engineFlag die f v).storesOk :=
  h.applyFlags

theorem Device.storesOk.flagParity {q : FlagReq} (h : d.storesOk) : (d.flagParity die q).storesOk :=
  h.modHome.raise.record.drawWord.modPilot.stopRegion

/-! ### Commands (R285, R286, R290) -/

theorem Device.storesOk.flagWrite (h : d.storesOk) : (d.flagWrite id).storesOk :=
  h.runCmd fun _ _ h => h.complete.ite (h.complete.ite h.flagReq)

theorem Device.storesOk.barrierConfig (h : d.storesOk) : (d.barrierConfig id).storesOk :=
  h.runCmd fun _ _ h => h.complete.ite (h.complete.ite (h.complete.ite h.modHome.latchWaits.complete))

theorem Device.storesOk.counterConfig (h : d.storesOk) : (d.counterConfig id).storesOk :=
  h.runCmd fun _ _ h => h.complete.ite (h.complete.ite (h.complete.ite h.modHome.latchWaits.complete))

/-! ### Stall snapshot (R104, R470) -/

theorem Device.storesOk.stallWatchdog (h : d.storesOk) : (d.stallWatchdog r).storesOk :=
  h.ite h.logEnter.raiseFree.stopRegion

/-! ### Waits (R293, R294) -/

theorem Device.storesOk.waitWatchdog (h : d.storesOk) : (d.waitWatchdog r).storesOk := by
  unfold Device.waitWatchdog
  split
  · exact h
  · split
    · exact h
    · exact h.logEnter.raiseFree.stopRegion

end Sys2Proof.Machine
end

section
/-! SUPPORT. That every operation of the storage units, the multiplier units, the vector engines and the scale units
keeps the byte stores of the hub in their canonical form. -/

namespace Sys2Proof.Machine

variable {d : Device} {u c reason row k v i pc lane block n opc s : Nat} {poison : Bool} {j : DrainJob}
  {bs : List Byte} {w : PackWord} {r : SlotRec}

/-! ### Contexts of SUs and IOUs -/

theorem Device.storesOk.modCtx {f : Ctx → Ctx} (h : d.storesOk) : (d.modCtx u c f).storesOk := by
  unfold Device.modCtx
  split
  · exact h.modSu
  · exact h.modIou

/-! ### Faults (R257, R450) -/

theorem Device.storesOk.unitFault {event lo hi : Nat} (h : d.storesOk) :
    (d.unitFault u event reason lo hi).storesOk :=
  h.record.raiseFree.stopRegion

theorem Device.storesOk.streamFault {code event : Nat} {value : Int} (h : d.storesOk) :
    (d.streamFault u c code reason event value).storesOk := by
  unfold Device.streamFault
  dsimp only
  refine .unitFault ?_
  split
  · exact h.modCtx.modSu
  · exact h.modCtx.modIou

/-! ### Taking up and completing descriptors (R248, R252, R257) -/

theorem Device.storesOk.startDesc (h : d.storesOk) : (d.startDesc u c).storesOk :=
  h.streamFault.ite (h.streamFault.ite (h.streamFault.ite h.modCtx))

theorem Device.storesOk.takeUp (h : d.storesOk) : (d.takeUp u c).storesOk := by
  unfold Device.takeUp
  dsimp only
  split
  · exact h.modCtx.modCtx
  · exact h.modCtx.startDesc

theorem Device.storesOk.descriptorStart (h : d.storesOk) : (d.descriptorStart u c).storesOk := h.takeUp.ite h

theorem Device.storesOk.descriptorWaitEnd (h : d.storesOk) : (d.descriptorWaitEnd u c).storesOk := by
  unfold Device.descriptorWaitEnd
  split
  · exact h
  · split
    · exact h
    · dsimp only
      refine .startDesc ?_
      split
      · exact h.flagReq.ite h
      · exact h

theorem Device.storesOk.completeDesc (h : d.storesOk) : (d.completeDesc u c).storesOk := by
  unfold Device.completeDesc
  dsimp only
  split
  · refine .modIou ?_
    refine .progress ?_
    split
    · exact h.flagReq
    · exact h
  · split
    · refine .modCtx ?_
      refine .progress ?_
      split
      · exact h.flagReq
      · exact h
    · refine .modCtx ?_
      refine .progress ?_
      split
      · exact h.flagReq
      · exact h

/-! ### Rows of an SU (R238, R239, R243, R246) -/

theorem Device.storesOk.suPoison (h : d.storesOk) : (d.suPoison u).storesOk := h.modSu.raiseOnceFree

theorem Device.storesOk.bankConflict {bank : Nat} {write : Bool} (h : d.storesOk) :
    (d.bankConflict u bank write).storesOk :=
  h.modSu.record.raiseOnceFree

/-! ### Path A (R242) -/

theorem Device.storesOk.undoCopyRead (h : d.storesOk) : (d.undoCopyRead u).storesOk := by
  unfold Device.undoCopyRead
  split
  · exact h
  · exact h.modSu.modSu.modCtx.ite (h.modSu.modSu.modCtx.ite h.modSu)

theorem Device.storesOk.undoCopyWrite (h : d.storesOk) : (d.undoCopyWrite u).storesOk := by
  unfold Device.undoCopyWrite
  split
  · exact ((h.modSu.undoCopyRead.ite h.modSu).modCtx).ite h
  · exact h

theorem Device.storesOk.suRead (h : d.storesOk) : (d.suRead u c).storesOk :=
  h.ite (((((((h.bankConflict.undoCopyRead.ite h).modSu).suPoison).ite
    ((h.bankConflict.undoCopyRead.ite h).modSu)).unitSend).modCtx).progress)

theorem Device.storesOk.pathAWrite (h : d.storesOk) : (d.pathAWrite u row bs poison).storesOk :=
  (((h.bankConflict.undoCopyWrite.ite h).raiseOnceFree).ite (h.bankConflict.undoCopyWrite.ite h)).modSu

theorem Device.storesOk.popUnit {k : BufKey} (h : d.storesOk) : (d.popUnit u k).storesOk := h.modUnit.progress

theorem Device.storesOk.streamWrite (h : d.storesOk) : (d.streamWrite u c).storesOk := by
  unfold Device.streamWrite
  split
  · exact h
  · dsimp only
    split
    · exact h
    · exact h.pathAWrite.popUnit.modCtx

/-! ### Path B (R241, R242, R244) -/

theorem Device.storesOk.copyWriteRow (h : d.storesOk) : (d.copyWriteRow u c).storesOk := by
  unfold Device.copyWriteRow
  split
  · exact h
  · exact h.modSu.modCtx.ite (h.bankConflict.modCtx.ite h.modSu.modCtx.progress)

theorem Device.storesOk.copyReadRow (h : d.storesOk) : (d.copyReadRow u c).storesOk :=
  h.ite (h.bankConflict.modCtx.ite (((h.modSu.suPoison.ite h.modSu).modCtx).progress))

theorem Device.storesOk.streamCopy (h : d.storesOk) : (d.streamCopy u c).storesOk :=
  h.ite ((h.copyWriteRow.ite h).copyReadRow)

theorem Device.storesOk.descriptorFetch (h : d.storesOk) : (d.descriptorFetch u c).storesOk :=
  h.ite (h.bankConflict.ite (h.modSu.streamFault.ite (h.modSu.streamFault.ite
    (h.modSu.streamFault.ite h.modSu.modCtx))))

/-! ### Packing queues (R267 to R271) -/

theorem Device.storesOk.modOutQ {f : PackQueue → PackQueue} (h : d.storesOk) : (d.modOutQ u v f).storesOk := h.modIou

theorem Device.storesOk.modInQ {f : PackQueue → PackQueue} (h : d.storesOk) : (d.modInQ u v f).storesOk := h.modIou

theorem Device.storesOk.packOne {w : Item} (h : d.storesOk) : (d.packOne u v c w).storesOk :=
  h.modOutQ.modCtx.ite h.modOutQ.modCtx

theorem Device.storesOk.packingWrite (h : d.storesOk) : (d.packingWrite u v).storesOk := by
  unfold Device.packingWrite
  split
  · exact h
  · split
    · exact h
    · dsimp only
      split
      · exact h
      · exact h.ite h.modUnit.packOne.progress

theorem Device.storesOk.packIn {last : Bool} (h : d.storesOk) : (d.packIn u c bs last poison).storesOk := h.modInQ

theorem Device.storesOk.checkPack (h : d.storesOk) : (d.checkPack u w).2.storesOk :=
  (ite_snd h h.modIou.raiseOnceFree)

/-! ### Words of an IOU into the grid (R88, R250, R266) -/

theorem Device.storesOk.gridSend (h : d.storesOk) : (d.gridSend u v w).storesOk :=
  h.unitSend.ite (h.modUnit.foldl fun _ _ h => h.modSwitch)

theorem Device.storesOk.packToGrid (h : d.storesOk) : (d.packToGrid u v).storesOk := by
  unfold Device.packToGrid
  dsimp only
  split
  · exact h
  · exact h.ite ((h.modInQ.checkPack.gridSend.unitSend.ite h.modInQ.checkPack.gridSend).progress)

/-! ### HBM IOUs (R310, R315, R319, R320) -/

theorem Device.storesOk.hbmQueueWrite (h : d.storesOk) : (d.hbmQueueWrite u w).storesOk := h.ite h.modStack

theorem Device.storesOk.hbmIssue (h : d.storesOk) : (d.hbmIssue u c).storesOk := by
  unfold Device.hbmIssue
  dsimp only
  split
  · exact h.ite h.modStack.modCtx.progress
  · exact h

theorem Device.storesOk.hubIssue (h : d.storesOk) : (d.hubIssue u c).storesOk := h.ite h.packIn.modCtx.progress

theorem Device.storesOk.hbmReadReturn (h : d.storesOk) : (d.hbmReadReturn k).storesOk := by
  unfold Device.hbmReadReturn
  dsimp only
  split
  · exact h
  · split
    · exact h
    · exact h.modStack.hbmReadBurst.packIn.progress

theorem Device.storesOk.sideLast {burst : Nat} (h : d.storesOk) : (d.sideLast burst).storesOk :=
  h.foldl fun _ _ h => h.withHbm (Mem.wf_writeRow _ _ _ _ h.2.1)

theorem Device.storesOk.hbmWriteAccept (h : d.storesOk) : (d.hbmWriteAccept k).storesOk := by
  unfold Device.hbmWriteAccept
  dsimp only
  split
  · exact h
  · exact h.ite h.modStack.hbmWriteBurst.sideLast.progress

/-! ### Completion (R252, R255, R266, R356) -/

theorem Device.storesOk.descriptorComplete (h : d.storesOk) : (d.descriptorComplete u c).storesOk := by
  unfold Device.descriptorComplete
  split
  · exact h
  · split
    · exact h
    · exact h.completeDesc

/-! ### DONE tokens (R253) -/

theorem Device.storesOk.doneCtx (h : d.storesOk) : (d.doneCtx u c).storesOk := by
  unfold Device.doneCtx
  dsimp only
  split
  · exact h.completeDesc
  · split
    · split
      · exact h.modCtx
      · split
        · exact h.modCtx
        · split
          · split
            · exact h.modCtx.modStack
            · exact h
          · exact h.modCtx.modInQ.ite h.modCtx
    · exact h.modCtx
    · exact h.modCtx
    · exact h.completeDesc.ite h.modCtx
  · exact h

/-! ### Counters (R95, R114) -/

theorem Device.storesOk.leaveLoops (h : d.storesOk) : (d.leaveLoops u i).storesOk := by
  unfold Device.leaveLoops
  refine h.modUnit.foldl fun d a h => ?_
  split
  · exact h.modMu
  · exact h.modSfu
  · exact h

theorem Device.storesOk.raiseCnt {by_ : Nat} (h : d.storesOk) : (d.raiseCnt u i by_).storesOk :=
  h.modUnit.leaveLoops.ite h.modUnit

theorem Device.storesOk.boundAction (h : d.storesOk) : (d.boundAction u i).storesOk := h.modUnit

theorem Device.storesOk.loopPass {by_ cnt level also : Nat} (h : d.storesOk) :
    (d.loopPass u by_ cnt level also pc).2.storesOk := by
  unfold Device.loopPass
  extract_lets reached done which d₁ d₂
  have h₁ : d₁.storesOk := h.foldl fun _ _ h => h.raiseCnt
  exact .ite_snd (h₁.modUnit.ite h₁.modUnit.boundAction) (.ite_snd h₁ (h₁.ite h₁.modUnit))

/-! ### Tokens (R94 to R97) -/

theorem Device.storesOk.badToken (h : d.storesOk) : (d.badToken u).storesOk := h.modUnit.raiseFree

/-- A token's row keeps the stores if its act does. -/
theorem Device.storesOk.unitToken {ty : Nat} {act : Nat → Device → Device} (h : d.storesOk)
    (hact : ∀ n e, e.storesOk → (act n e).storesOk) : (d.unitToken u lane ty act).storesOk := by
  unfold Device.unitToken
  split
  · exact h
  · split
    · exact h
    · exact h.modUnit.badToken.progress.ite ((hact _ _ h.modUnit).progress.ite h)

theorem Device.storesOk.stepToken (h : d.storesOk) : (d.stepToken u lane).storesOk :=
  h.unitToken fun _ _ h => h.raiseCnt

theorem Device.storesOk.boundToken (h : d.storesOk) : (d.boundToken u lane).storesOk :=
  h.unitToken fun _ _ h => h.modUnit.ite h.badToken

theorem Device.storesOk.doneToken (h : d.storesOk) : (d.doneToken u lane).storesOk := by
  unfold Device.doneToken
  refine .unitToken h fun _ _ h => ?_
  dsimp only
  split
  · exact h.modUnit
  · exact h.modUnit
  · exact h.badToken.ite h.doneCtx
  · exact h.doneCtx

theorem Device.storesOk.branchToken (h : d.storesOk) : (d.branchToken u lane).storesOk := by
  unfold Device.branchToken
  refine .unitToken h fun _ _ h => ?_
  dsimp only
  split
  · exact h.badToken.ite h.modUnit
  · exact h.badToken.ite h.modUnit
  · exact h
  · exact h

theorem Device.storesOk.routeToken (h : d.storesOk) : (d.routeToken u lane).storesOk := by
  unfold Device.routeToken
  dsimp only
  split
  · exact h
  · split
    · split
      · exact h
      · exact h.modSwitch
    · split
      · exact h
      · exact h.modSwitch.progress

/-! ### The issue stage (R116, R143) -/

theorem Device.storesOk.muGoto (h : d.storesOk) : (d.muGoto u pc).storesOk := h.modMu

theorem Device.storesOk.muNext (h : d.storesOk) : (d.muNext u).storesOk := h.muGoto.progress

theorem Device.storesOk.muFault {instr : Nat} {f : MuFault} (h : d.storesOk) : (d.muFault u instr f).storesOk :=
  h.modMu.unitFault

/-! ### The range table (R132, R140) -/

theorem Device.storesOk.jobPoison (h : d.storesOk) : (d.jobPoison u k).storesOk := by
  unfold Device.jobPoison
  split
  · exact h
  · exact h.ite h.modMu.raiseOnceFree

/-! ### Operands (R112, R140) -/

theorem Device.storesOk.muCapture (h : d.storesOk) : (d.muCapture u k).storesOk := by
  unfold Device.muCapture
  split
  · exact h
  · exact h.ite (h.modMu.jobPoison.ite h.modMu)

theorem Device.storesOk.muLost (h : d.storesOk) : (d.muLost u).storesOk := h.modMu

theorem Device.storesOk.fillOne {isA : Bool} (h : d.storesOk) : (d.fillOne u k isA).storesOk := by
  unfold Device.fillOne
  split
  · exact h
  · dsimp only
    split
    · exact h.muLost.ite (h.modMu.progress.jobPoison.ite h.modMu.progress)
    · exact h

theorem Device.storesOk.muFill (h : d.storesOk) : (d.muFill u).storesOk := by
  unfold Device.muFill
  split
  · exact h
  · exact h.muCapture.fillOne.fillOne

/-! ### MMA and VMMA at issue (R126, R131, R132) -/

theorem Device.storesOk.tileIssue {t : Tile} (h : d.storesOk) : (d.tileIssue u t).storesOk := by
  unfold Device.tileIssue
  refine h.ite ?_
  dsimp only
  generalize (if (t.bsrcM == 2 || t.bsrcN == 2 || t.bsrcK == 2) = true then (d.mu u).readRow t.baddr
    else ([], false, d.mu u)) = b
  split
  · exact h.modMu.muFault
  · exact (h.modMu.modMu.jobPoison.ite h.modMu.modMu).muNext

theorem Device.storesOk.mma (h : d.storesOk) : (d.mma u).storesOk := h.tileIssue.ite h

theorem Device.storesOk.vmma (h : d.storesOk) : (d.vmma u).storesOk := h.tileIssue.ite h

/-! ### Retirement (R112, R129, R132, R141, R142) -/

theorem Device.storesOk.residueFail {base instr word : Nat} (h : d.storesOk) :
    (d.residueFail u base instr word).storesOk :=
  h.modMu.record.raiseFree

theorem Device.storesOk.arrayValue {w : Nat} {v : Word} (h : d.storesOk) : (d.arrayValue u w v).2.2.storesOk := by
  unfold Device.arrayValue
  split
  · exact h.drawWord.drawWord.modMu
  · exact h

theorem Device.storesOk.writeElem {j : MmaJob} {p : Product} {col : Nat} (h : d.storesOk) :
    (d.writeElem u j p row col).storesOk :=
  h.arrayValue.modMu.residueFail.ite h.arrayValue.modMu

theorem Device.storesOk.mmaRetire (h : d.storesOk) : (d.mmaRetire u).storesOk := by
  unfold Device.mmaRetire
  split
  · exact h
  · dsimp only
    split
    · exact h.muCapture
    · exact h.muCapture.ite (((h.muCapture.foldl fun _ _ h => h.foldl fun _ _ h => h.writeElem).modMu).progress)

/-! ### DRAIN and the output stage (R135 to R139, R162 to R169, R446) -/

theorem Device.storesOk.drain (h : d.storesOk) : (d.drain u).storesOk := by
  unfold Device.drain
  refine h.ite ?_
  dsimp only
  generalize (if ((drainAt (d.section u) (d.mu u).pc).bsrcM == 2 || (drainAt (d.section u) (d.mu u).pc).bsrcN == 2) =
    true
    then (d.mu u).readRow (drainAt (d.section u) (d.mu u).pc).baddr else ([], false, d.mu u)) = b
  refine .ite h.modMu.muFault (.ite h.modMu.muFault ?_)
  split
  · exact h.modMu.muFault
  · split
    · exact h.modMu.muFault
    · exact h.modMu.muFault.ite h.modMu.modMu.muNext

theorem Device.storesOk.datapath {index : Nat} (h : d.storesOk) : (d.datapath u block index).storesOk :=
  h.record.raiseOnce

theorem Device.storesOk.modDrain {f : DrainJob → DrainJob} (h : d.storesOk) : (d.modDrain u f).storesOk := h.modMu

theorem Device.storesOk.drainBegin (h : d.storesOk) : (d.drainBegin u j).storesOk :=
  h.muLost.ite (h.modMu.modDrain.datapath.ite h.modMu.modDrain)

theorem Device.storesOk.drainTake (h : d.storesOk) : (d.drainTake u j).storesOk :=
  (((h.foldl fun _ _ h => h.residueFail.ite h).modMu).modDrain).progress

theorem Device.storesOk.drainPut (h : d.storesOk) : (d.drainPut u j).storesOk := by
  unfold Device.drainPut
  split
  · exact h
  · exact (h.modDrain.unitSend.progress.ite h).ite (h.modMu.modDrain.progress.ite h.muLost)

theorem Device.storesOk.drainClk (h : d.storesOk) : (d.drainClk u).storesOk := by
  unfold Device.drainClk
  split
  · exact h
  · split
    · exact h.ite h.drainBegin
    · dsimp only
      split
      · exact ((h.drainTake.ite h).drainOut).drainPut
      · exact h.drainTake.ite h

theorem Device.storesOk.drainComplete (h : d.storesOk) : (d.drainComplete u).storesOk := by
  unfold Device.drainComplete
  split
  · exact h
  · split
    · exact h
    · exact h.ite h.modMu.progress

/-! ### FENCE, LOOP, VEC, END, NOP (R116 to R119, R134) -/

theorem Device.storesOk.fence (h : d.storesOk) : (d.fence u).storesOk := h.muNext.ite h

theorem Device.storesOk.muLoop (h : d.storesOk) : (d.muLoop u).storesOk := h.ite h.loopPass.muGoto.progress

theorem Device.storesOk.vec (h : d.storesOk) : (d.vec u).storesOk := h.ite (h.modMu.modMu.progress.ite h.modMu.muNext)

theorem Device.storesOk.muEnd (h : d.storesOk) : (d.muEnd u).storesOk := h.modMu.progress.ite h

theorem Device.storesOk.muNop (h : d.storesOk) : (d.muNop u).storesOk := h.muNext.ite h

/-! ### Registers (R182, R183) -/

theorem Device.storesOk.modEng {f : Engine → Engine} (h : d.storesOk) : (d.modEng u f).storesOk := by
  unfold Device.modEng
  split
  · exact h.modMu
  · exact h.modSfu

theorem Device.storesOk.vecFlags {f : Flags} (h : d.storesOk) : (d.vecFlags u f poison).storesOk := by
  unfold Device.vecFlags
  dsimp only
  split
  · exact h.modMu
  · exact h.modSfu

theorem Device.storesOk.poisonRegs (h : d.storesOk) : (d.poisonRegs u n).storesOk := h.ite h.modSfu.raiseOnceFree

theorem Device.storesOk.takeUpset (h : d.storesOk) : (d.takeUpset u block).2.storesOk := (ite_snd h.modEng.datapath h)

theorem Device.storesOk.writeV {r : Nat} {ws : List (Word × Flags)} (h : d.storesOk) :
    (d.writeV u block r ws poison).storesOk :=
  h.takeUpset.modEng.vecFlags

theorem Device.storesOk.writeS {r : Nat} {ws : List Word} {f : Flags} (h : d.storesOk) :
    (d.writeS u block r ws f poison).storesOk :=
  h.takeUpset.modEng.vecFlags

/-! ### Issue (R187, R189) -/

theorem Device.storesOk.recvDone {j : RecvJob} (h : d.storesOk) : (d.recvDone u j).storesOk :=
  h.modEng.vecFlags.poisonRegs.ite h.modEng.vecFlags.poisonRegs

theorem Device.storesOk.recvPump (h : d.storesOk) : (d.recvPump u n).storesOk := by
  induction n generalizing d with
  | zero => exact h
  | succ n ih =>
    unfold Device.recvPump
    split
    · exact h
    · split
      · exact h.recvDone
      · dsimp only
        split
        · exact h
        · exact ih h.modUnit.modEng.progress

theorem Device.storesOk.vecGoto (h : d.storesOk) : (d.vecGoto u pc).storesOk := by
  unfold Device.vecGoto
  split
  · exact h.modEng
  · exact h.modSfu

theorem Device.storesOk.vecRetry (h : d.storesOk) : (d.vecRetry u opc).storesOk := by
  unfold Device.vecRetry
  split
  · exact h.muLost.ite h
  · exact h

/-- An instruction of a vector engine keeps the stores if its effect does. -/
theorem Device.storesOk.vecIssue {act : VIns → Device → Option Device} (h : d.storesOk)
    (hact : ∀ i e, e.storesOk → StoresKept (act i e)) : (d.vecIssue u opc act).storesOk := by
  unfold Device.vecIssue
  dsimp only
  split
  · exact h
  · split
    · exact h.recvPump
    · split
      · exact h.recvPump.vecRetry
      next heq =>
        have ht := hact _ _ h.recvPump _ heq
        exact ht.modEng.progress.ite (ht.vecGoto.progress.ite ht)

/-! ### Lane instructions (R192, R198, R199, R204) -/

theorem Device.storesOk.laneOp {srcs : VIns → List Nat} {f : VIns → (Nat → Word) → Word × Flags}
    (h : d.storesOk) : (d.laneOp u opc block srcs f).storesOk :=
  h.vecIssue fun _ _ h => .ite h.kept h.writeV.kept

theorem Device.storesOk.viota (h : d.storesOk) : (d.viota u).storesOk :=
  h.vecIssue fun _ _ h => .ite h.kept h.writeV.kept

theorem Device.storesOk.vbcast (h : d.storesOk) : (d.vbcast u).storesOk :=
  h.vecIssue fun _ _ h => .ite h.kept h.writeV.kept

theorem Device.storesOk.vext (h : d.storesOk) : (d.vext u).storesOk := h.vecIssue fun _ _ h => h.writeS.kept

/-! ### Reductions (R200 to R203) -/

theorem Device.storesOk.vred (h : d.storesOk) : (d.vred u).storesOk :=
  h.vecIssue fun _ _ h => (((h.ite h.writeS).modEng).ite (h.ite h.writeS)).kept

theorem Device.storesOk.sarg (h : d.storesOk) : (d.sarg u).storesOk := h.vecIssue fun _ _ h => h.writeS.kept

theorem Device.storesOk.sop (h : d.storesOk) : (d.sop u).storesOk := h.vecIssue fun _ _ h => h.writeS.kept

/-! ### Memory (R193, R195, R197, R209) -/

theorem Device.storesOk.vecRead (h : d.storesOk) : (d.vecRead u row n).2.2.storesOk := by
  unfold Device.vecRead
  split
  · exact h.modMu
  · exact h.modSfu

theorem Device.storesOk.vecWrite (h : d.storesOk) : (d.vecWrite u row bs poison).storesOk := by
  unfold Device.vecWrite
  refine h.foldl fun d a h => ?_
  dsimp only
  split
  · exact h.modMu
  · exact h.modSfu

theorem Device.storesOk.vecFault {last : Nat} (h : d.storesOk) : (d.vecFault u reason last).storesOk := by
  unfold Device.vecFault
  split
  · exact h.muFault
  · exact h.modSfu.unitFault

theorem Device.storesOk.vld (h : d.storesOk) : (d.vld u).storesOk := by
  unfold Device.vld
  refine .vecIssue h fun _ _ h => ?_
  dsimp only
  split
  · exact h.vecFault.kept
  · exact .ite h.kept (.ite .none h.vecRead.modEng.vecFlags.poisonRegs.kept)

theorem Device.storesOk.vst (h : d.storesOk) : (d.vst u).storesOk := by
  unfold Device.vst
  refine .vecIssue h fun _ _ h => ?_
  dsimp only
  split
  · exact h.vecFault.kept
  · exact .ite .none h.vecWrite.vecFlags.kept

theorem Device.storesOk.sld (h : d.storesOk) : (d.sld u).storesOk := by
  unfold Device.sld
  refine .vecIssue h fun _ _ h => ?_
  dsimp only
  split
  · exact h.vecFault.kept
  · exact .ite .none h.vecRead.modEng.vecFlags.poisonRegs.kept

theorem Device.storesOk.sst (h : d.storesOk) : (d.sst u).storesOk := by
  unfold Device.sst
  refine .vecIssue h fun _ _ h => ?_
  dsimp only
  split
  · exact h.vecFault.kept
  · exact .ite .none h.vecWrite.kept

/-! ### Networks (R187, R194, R195) -/

theorem Device.storesOk.vrecv (h : d.storesOk) : (d.vrecv u).storesOk :=
  h.vecIssue fun _ _ h => .ite .none (.ite h.kept h.modEng.recvPump.kept)

theorem Device.storesOk.srecv (h : d.storesOk) : (d.srecv u).storesOk :=
  h.vecIssue fun _ _ h => .ite .none h.modEng.recvPump.kept

theorem Device.storesOk.sendWords {net : Net} {vc : Nat} {last : Bool} {ws : List (Nat × Bool)} (h : d.storesOk) :
    (d.sendWords u net vc last ws).storesOk := by
  induction ws generalizing d with
  | nil => exact h
  | cons w ws ih =>
    unfold Device.sendWords
    exact ih h.unitSend

theorem Device.storesOk.vsend (h : d.storesOk) : (d.vsend u).storesOk :=
  h.vecIssue fun _ _ h => .ite .none h.drainOut.sendWords.vecFlags.kept

theorem Device.storesOk.ssend (h : d.storesOk) : (d.ssend u).storesOk :=
  h.vecIssue fun _ _ h => .ite .none h.drainOut.sendWords.kept

/-! ### Control (R184, R189, R190, R192, R208) -/

theorem Device.storesOk.sli (h : d.storesOk) : (d.sli u).storesOk := h.vecIssue fun _ _ h => h.modEng.kept

theorem Device.storesOk.vloop (h : d.storesOk) : (d.vloop u).storesOk :=
  h.ite (h.recvPump.ite h.recvPump.loopPass.vecGoto.progress)

theorem Device.storesOk.setvl (h : d.storesOk) : (d.setvl u).storesOk := h.vecIssue fun _ _ h => h.modEng.kept

theorem Device.storesOk.setidx (h : d.storesOk) : (d.setidx u).storesOk := h.vecIssue fun _ _ h => h.modEng.kept

theorem Device.storesOk.vend (h : d.storesOk) : (d.vend u).storesOk := by
  unfold Device.vend
  split
  · exact h
  · dsimp only
    split
    · exact h.recvPump.drainOut
    · split
      · exact (h.recvPump.drainOut.modMu.muGoto.ite h.recvPump.drainOut.modMu).progress
      · exact h.recvPump.drainOut.ite h.recvPump.drainOut.modSfu.progress

theorem Device.storesOk.sendSummary {idx op ty : Nat} {v : Word} (h : d.storesOk) :
    (d.sendSummary u idx op ty v poison).storesOk :=
  h.modSfu.modPilot

theorem Device.storesOk.vsum (h : d.storesOk) : (d.vsum u).storesOk := h.vecIssue fun _ _ h => h.sendSummary.kept

/-! ### Slot records (R174) -/

theorem Device.storesOk.modSlot {f : Slot → Slot} (h : d.storesOk) : (d.modSlot u s f).storesOk := h.modSfu

/-! ### VQNT (R175, R205) -/

theorem Device.storesOk.vqnt (h : d.storesOk) : (d.vqnt u).storesOk := by
  unfold Device.vqnt
  refine .vecIssue h fun _ _ h => ?_
  split
  · exact h.kept
  · exact .ite h.kept h.writeV.modSlot.kept

/-! ### Closing a pass (R176, R206) -/

theorem Device.storesOk.sendScale {kind : Nat} {v : Word} (h : d.storesOk) : (d.sendScale u r kind v).storesOk :=
  h.ite h.sendWords

theorem Device.storesOk.closePass {summary : Nat} (h : d.storesOk) : (d.closePass u s r summary).storesOk := by
  unfold Device.closePass
  extract_lets slot p
  split
  extract_lets d₁ d₂ d₃ d₄
  have h₁ : d₁.storesOk := h.modSlot
  have h₂ : d₂.storesOk := h₁.modSfu.modTick.raiseFree.ite (h₁.modSfu.raiseFree.ite h₁)
  have h₃ : d₃.storesOk := h₂.sendScale.ite h₂
  have h₄ : d₄.storesOk := h₃.sendScale
  exact h₄.ite h₄.sendSummary

theorem Device.storesOk.sendReport {p : PassStats} (h : d.storesOk) : (d.sendReport u r p).storesOk := h.sendWords

theorem Device.storesOk.sclose (h : d.storesOk) : (d.sclose u).storesOk := by
  unfold Device.sclose
  refine .vecIssue h fun _ _ h => ?_
  dsimp only
  split
  · exact h.kept
  · exact .ite (.ite h.closePass.kept h.modSlot.kept) h.sendReport.modSlot.kept

theorem Device.storesOk.passClose (h : d.storesOk) : (d.passClose u).storesOk := h.ite h.vecGoto

theorem Device.storesOk.scaleReport (h : d.storesOk) : (d.scaleReport u s).storesOk := by
  unfold Device.scaleReport
  split
  · exact h
  · split
    · exact h
    · split
      · exact h
      · split
        · dsimp only
          split
          · exact h.modUnit.modSlot.progress.closePass.passClose.ite h.modUnit.modSlot.progress
          · exact h.modUnit.modSlot.progress
        · exact h

theorem Device.storesOk.scaleMessage (h : d.storesOk) : (d.scaleMessage u s).storesOk := by
  unfold Device.scaleMessage
  split
  · exact h
  · split
    · exact h
    · split
      · exact h
      · split
        · exact (h.modUnit.modSlot.passClose.ite h.modUnit.modSlot).progress
        · exact h

theorem Device.storesOk.sscale (h : d.storesOk) : (d.sscale u).storesOk := h.vecIssue fun _ _ h => h.writeS.kept

/-! ### KV blocks (R171, R172, R207) -/

theorem Device.storesOk.vbq (h : d.storesOk) : (d.vbq u).storesOk :=
  h.vecIssue fun _ _ h => .ite h.kept h.writeV.modEng.vecFlags.kept

theorem Device.storesOk.vbx (h : d.storesOk) : (d.vbx u).storesOk :=
  h.vecIssue fun _ _ h => .ite h.kept (.ite h.writeV.poisonRegs.kept h.writeV.kept)

end Sys2Proof.Machine
end

section
/-! SUPPORT. That every operation of the logbook, power and health, security, and the power sequencer keeps the byte
stores of the hub in their canonical form. -/

namespace Sys2Proof.Machine

variable {d : Device} {src r die k i : Nat} {id : CmdId} {m : PowerUp}

theorem Mem.wf_writeRing {m : Mem} {size p : Nat} {bs : List Byte} (h : m.wf = true) :
    (m.writeRing size p bs).wf = true := by
  unfold Mem.writeRing
  dsimp only
  split
  · exact Mem.wf_write _ _ _ h
  · exact Mem.wf_write _ _ _ (Mem.wf_write _ _ _ h)

theorem Logbook.wf_writeEntry {l : Logbook} {kind : Nat} {payload : List Byte} (h : l.mem.wf = true) :
    (l.writeEntry kind payload).mem.wf = true := by
  unfold Logbook.writeEntry
  dsimp only
  split <;> exact Mem.wf_writeRing h

theorem Device.storesOk.logEntryWrite (h : d.storesOk) : (d.logEntryWrite).storesOk := by
  unfold Device.logEntryWrite
  split
  · exact h
  next e rest _ =>
    have hw : (d.modLog fun l => { l with queue := rest }.writeEntry e.kind e.payload).storesOk :=
      h.modLog fun hm => Logbook.wf_writeEntry hm
    exact (hw.logEnter.modLog (by exact fun hm => hm)).ite hw

/-! ### Reading (R472, R473) -/

theorem Device.storesOk.logRead (h : d.storesOk) : (d.logRead id).storesOk := by
  unfold Device.logRead
  refine .runCmd h fun _ _ h => ?_
  dsimp only
  split
  · exact h.complete
  · exact h.complete.ite h.dwr.complete

theorem Device.storesOk.logStatus (h : d.storesOk) : (d.logStatus id).storesOk := h.runCmd fun _ _ h => h.complete

/-! ### Streaming (R474) -/

theorem Device.storesOk.logStream (h : d.storesOk) : (d.logStream id).storesOk := by
  unfold Device.logStream
  split
  · split
    · exact h
    · refine .runCmd h fun _ _ h => ?_
      dsimp only
      split
      · exact h.complete
      · split
        · split
          · exact h.complete
          · split
            · exact h.complete
            · split
              · exact h.complete
              · split
                · exact (h.modLog fun hm => hm).complete
                · exact (h.modLog fun hm => hm).complete
                · exact h.complete
        · split
          · exact h.complete
          · exact h.modLog fun hm => hm
          · exact h.modLog fun hm => hm
  · exact h

theorem Device.storesOk.endStream (h : d.storesOk) : (d.endStream).storesOk := by
  unfold Device.endStream
  have hl : (d.modLog fun l =>
      match l.streamPending with
      | some (b, n) => l.startStream b n
      | none => { l with stream := .off, streamCmd := none }).storesOk := by
    refine h.modLog fun hm => ?_
    split <;> exact hm
  dsimp only
  split
  · exact hl.complete
  · exact hl

theorem Device.storesOk.logStreamRow (h : d.storesOk) : d.logStreamRow.storesOk :=
  h.ite ((h.hbmWriteBurst.modLog fun hm => hm).ite ((((h.ite h.hbmWriteBurst).modLog fun hm => hm).endStream).ite h))

/-! ### Events at the hub (R231, R404, R406) -/

theorem Device.storesOk.hubReceive {e : EventRec} (h : d.storesOk) : (d.hubReceive src e).storesOk :=
  h.logEnter.modTick.postUnsolicited.ite h.logEnter.modTick

theorem Device.storesOk.eventReceive (h : d.storesOk) : (d.eventReceive src).storesOk := by
  unfold Device.eventReceive
  split
  · split
    · exact h
    · exact h.modPilot.hubReceive
  · split
    · exact h
    · exact (h.same (by rfl)).hubReceive

/-! ### The comb set's frequencies (R47, R419) -/

theorem Device.storesOk.markBelow (h : d.storesOk) : d.markBelow.storesOk := h.modTick.ite h

/-! ### Voltages (R420, R435, R436) -/

theorem Device.storesOk.setFreq {c : Nat} (h : d.storesOk) : (d.setFreq r c).storesOk := h.modPwrRegion

/-! ### Power states (R411 to R417) -/

theorem Device.storesOk.placeRegion {s : Nat} (h : d.storesOk) : (d.placeRegion s r).storesOk :=
  h.modPwrRegion.ite (h.modPwrRegion.ite (h.modPwrRegion.ite ((h.setFreq.ite h).modPwrRegion)))

theorem Device.storesOk.enterState {s : Nat} (h : d.storesOk) : (d.enterState s).storesOk :=
  h.modPwr.foldl fun _ _ h => h.placeRegion

theorem Device.storesOk.parkSets (h : d.storesOk) : d.parkSets.storesOk :=
  h.ite (h.foldl fun _ _ h => h.ite h.placeRegion)

theorem Device.storesOk.toState (h : d.storesOk) : d.toState.storesOk := by
  unfold Device.toState
  dsimp only
  split
  · exact h.modPwr.ite h
  · exact h.enterState.ite ((h.ite h.modPwr).ite h)

theorem Device.storesOk.settle (h : d.storesOk) : d.settle.storesOk := by
  unfold Device.settle
  dsimp only
  split
  · exact h.toState.parkSets.modPwr.complete
  · exact h.toState.parkSets

theorem Device.storesOk.wakeComplete (h : d.storesOk) : d.wakeComplete.storesOk := by
  unfold Device.wakeComplete
  split
  · exact h
  · exact h.enterState.settle

theorem Device.storesOk.ungate (h : d.storesOk) : d.ungate.storesOk := h.enterState.ite h

theorem Device.storesOk.gatingEnd (h : d.storesOk) : d.gatingEnd.storesOk := h.ite h.ungate

theorem Device.storesOk.leewaySet (h : d.storesOk) : (d.leewaySet id).storesOk :=
  h.runCmd fun _ _ h => h.modPwr.settle.complete

theorem Device.storesOk.pwrStateCmd (h : d.storesOk) : (d.pwrStateCmd id).storesOk :=
  h.runCmd fun _ _ h => h.complete.ite (h.complete.ite (h.complete.ite (h.complete.ite h.modPwr.settle)))

/-! ### Regions (R418, R419) -/

theorem Device.storesOk.pwrRegionCmd (h : d.storesOk) : (d.pwrRegionCmd id).storesOk := by
  refine h.runCmd fun _ _ h => h.complete.ite (h.complete.ite (h.complete.ite (h.complete.ite ?_)))
  exact h.modPwrRegion.placeRegion.complete.ite (h.modPwrRegion.modPwrRegion.ite h.modPwrRegion.complete)

theorem Device.storesOk.startRegionClock (h : d.storesOk) : (d.startRegionClock r).storesOk :=
  h.modPwrRegion.placeRegion

theorem Device.storesOk.strikeFreqs (h : d.storesOk) : (d.strikeFreqs).storesOk := by
  obtain ⟨_, _, _, he⟩ := d.strikeFreqs_eq
  rw [he]
  exact h

theorem Device.storesOk.idleFreqs (h : d.storesOk) : d.idleFreqs.storesOk := h.foldl fun _ _ h => h.ite h.setFreq

/-! ### The thermal emergency (R427 to R429) -/

theorem Device.storesOk.modEmerg {f : Emergency → Emergency} (h : d.storesOk) : (d.modEmerg die f).storesOk :=
  h.modPwr

theorem Device.storesOk.evalEmergency (h : d.storesOk) : (d.evalEmergency die).storesOk := h.modEmerg

theorem Device.storesOk.evalEmergencies (h : d.storesOk) : d.evalEmergencies.storesOk :=
  h.foldl fun _ _ h => h.evalEmergency

theorem Device.storesOk.emergencyStep (h : d.storesOk) : (d.emergencyStep die).storesOk := by
  unfold Device.emergencyStep
  exact h.ite (((h.ite h.modEmerg.modPwr.raiseHub).foldl fun e r h =>
    h.ite (.same (d := e.setFreq r ((e.pwrRegion r).freq.toNat - 1)) h.setFreq (by rfl))).markBelow)

theorem Device.storesOk.emergencyEnd (h : d.storesOk) : (d.emergencyEnd die).storesOk := by
  unfold Device.emergencyEnd
  dsimp only
  split
  · exact h
  · exact (h.modEmerg.raiseHub.idleFreqs.ite h.modEmerg.raiseHub).ite h

theorem Device.storesOk.pwrLimit (h : d.storesOk) : (d.pwrLimit id).storesOk :=
  h.runCmd fun _ _ h => h.complete.ite h.modPwr.evalEmergencies.complete

theorem Device.storesOk.packagePower {deci : Word} (h : d.storesOk) : (d.packagePower deci).storesOk :=
  h.modPwr.evalEmergencies

theorem Device.storesOk.hbmTempRead {temp : BitVec 8} (h : d.storesOk) : (d.hbmTempRead k temp).storesOk :=
  h.modStack.evalEmergency

/-! ### Sensors, warning and trip (R421, R422, R430, R431) -/

theorem Device.storesOk.readSensor {v : Option (BitVec 16)} (h : d.storesOk) : (d.readSensor i v).storesOk := by
  unfold Device.readSensor
  split
  · exact h
  · dsimp only
    split
    · exact h.modHlt.raiseHub
    · exact h.modHlt.raiseHub.ite h.modHlt

theorem Device.storesOk.readSensors {vs : List (Option (BitVec 16))} (h : d.storesOk) :
    (d.readSensors i vs).storesOk := by
  induction vs generalizing d i with
  | nil => exact h
  | cons v vs ih =>
    unfold Device.readSensors
    exact (ih h.readSensor).ite h

theorem Device.storesOk.evalWarn (h : d.storesOk) : (d.evalWarn die).storesOk := h.modHlt.raiseHub.ite h.modHlt

theorem Device.storesOk.trip {sensor : Nat} {t : BitVec 16} (h : d.storesOk) : (d.trip die sensor t).storesOk :=
  (((h.haltJob.modHlt.foldl fun _ _ h => h.placeRegion).foldl fun _ _ h => h.modStack).record).raiseHub

theorem Device.storesOk.sensorRead {vs : List (Option (BitVec 16))} (h : d.storesOk) :
    (d.sensorRead vs).storesOk := by
  unfold Device.sensorRead
  dsimp only
  split
  · exact (((h.modHlt.readSensors.modHlt.foldl fun _ _ h => h.evalWarn).evalEmergencies).modHlt).ite
      ((((h.modHlt.readSensors.modHlt.foldl fun _ _ h => h.evalWarn).evalEmergencies).modHlt).trip)
  · exact ((h.modHlt.readSensors.modHlt.foldl fun _ _ h => h.evalWarn).evalEmergencies).modHlt

theorem Device.storesOk.tripClear (h : d.storesOk) : d.tripClear.storesOk := by
  unfold Device.tripClear
  split
  · exact h
  · exact (h.modHlt.foldl fun _ _ h => h.modPwrRegion.placeRegion).ite h

theorem Device.storesOk.voltDroop {measured : BitVec 16} (h : d.storesOk) : (d.voltDroop r measured).storesOk :=
  (h.modPwrRegion.modPwrRegion.raiseOnce.modPwrRegion.record.raiseOnce.ite h.modPwrRegion.modPwrRegion.raiseOnce).ite
    h.modPwrRegion

/-! ### Health commands (R425, R426, R433, R437) -/

theorem Device.storesOk.hltRead (h : d.storesOk) : (d.hltRead id).storesOk := by
  unfold Device.hltRead
  refine .runCmd h fun _ _ h => ?_
  split
  · exact h.complete
  · split
    · exact h.complete
    · exact (h.foldl fun _ _ h => h.modPwrRegion).complete
    · exact h.complete
    · exact h.complete

theorem Device.storesOk.hltThresh (h : d.storesOk) : (d.hltThresh id).storesOk :=
  h.runCmd fun _ _ h => h.complete.ite h.modHlt.complete

theorem Device.storesOk.devcardLoad (h : d.storesOk) : (d.devcardLoad id).storesOk :=
  h.runCmd fun _ _ h => h.complete.ite (h.modHlt.complete.ite
    ((h.modHlt.modSec.foldl fun _ _ h => h.ite h.setFreq).complete))

theorem Device.storesOk.watchdogSet (h : d.storesOk) : (d.watchdogSet id).storesOk :=
  h.runCmd fun _ _ h => h.complete.ite ((h.foldl fun _ _ h => h.ite
    ((h.ite h.modPilot).ite ((h.ite h.modPilot).modHome))).complete)

/-! ### Inputs (R432 to R434) -/

theorem Device.storesOk.modInput {f : Input → Input} (h : d.storesOk) : (d.modInput i f).storesOk := h.modHlt

theorem Device.storesOk.wakePin {high : Bool} {held : Nat} (h : d.storesOk) : (d.wakePin high held).storesOk :=
  (h.modInput.modInput.modPwr.settle.ite h.modInput.modInput).ite h.modInput

theorem Device.storesOk.inputStuck (h : d.storesOk) : (d.inputStuck i).storesOk :=
  h.modInput.raiseHub.evalEmergencies.ite h

theorem Device.storesOk.inputClear (h : d.storesOk) : (d.inputClear id).storesOk :=
  h.runCmd fun _ _ h => h.complete.ite (h.complete.ite (h.complete.ite
    ((h.foldl fun _ _ h => h.modInput.ite h).complete)))

/-! ### PWR_STATUS (R438, R494) -/

theorem Device.storesOk.pwrStatus (h : d.storesOk) : (d.pwrStatus id).storesOk := h.runCmd fun _ _ h => h.complete

/-! ### FW_LOAD (R455 to R457) -/

theorem Device.storesOk.fwFailure {detail release : Nat} (h : d.storesOk) :
    (d.fwFailure id detail release).storesOk :=
  h.record.modSec.modHost.complete

theorem Device.storesOk.fwStart {img : List Byte} (h : d.storesOk) : (d.fwStart img).storesOk := h.modSec.modHost

theorem Device.storesOk.fwLoad (h : d.storesOk) : (d.fwLoad id).storesOk := by
  unfold Device.fwLoad
  refine h.runCmd fun ps d h => ?_
  dsimp only
  split
  · exact h.complete
  · split
    · exact h.complete
    · split
      · exact h.fwFailure
      · split
        · exact h.fwFailure
        · exact h.modSec.fwFailure.ite h.modSec.fwStart.complete

/-! ### Identity and attestation (R458 to R462) -/

theorem Device.storesOk.attest (h : d.storesOk) : (d.attest id).storesOk :=
  h.runCmd fun _ _ h => (h.same (by rfl)).complete

theorem Device.storesOk.certRead (h : d.storesOk) : (d.certRead id).storesOk :=
  h.runCmd fun _ _ h => h.complete.ite (h.complete.ite h.complete)

theorem Device.storesOk.secStatus (h : d.storesOk) : (d.secStatus id).storesOk := h.runCmd fun _ _ h => h.complete

/-! ### Clock losses (R447) -/

theorem Device.storesOk.clockLoss {region source : Nat} (h : d.storesOk) : (d.clockLoss region source).storesOk :=
  h.haltJob.record.raiseHub

theorem Device.storesOk.pllLockLoss (h : d.storesOk) : (d.pllLockLoss r).storesOk := h.modPwrRegion.clockLoss

theorem Device.storesOk.refclkLoss (h : d.storesOk) : (d.refclkLoss i).storesOk := h.modSec.modSeq.clockLoss

theorem Device.storesOk.clockRecovered (h : d.storesOk) : (d.clockRecovered src r).storesOk := by
  unfold Device.clockRecovered
  split
  · exact h.modPwrRegion
  · exact h.modSec.ite h
  · exact h.modSec.ite h

/-! ### The restart of the command processor (R448, R463) -/

theorem Device.storesOk.restarted (h : d.storesOk) : d.restarted.storesOk := h

theorem Device.storesOk.cpRestart {cause : Nat} (h : d.storesOk) : (d.cpRestart cause).storesOk :=
  h.haltJob.record.modSec.restarted

/-! ### Functions held off (R493) -/

theorem Device.storesOk.applyHeldOff (h : d.storesOk) : d.applyHeldOff.storesOk :=
  ((h.foldl fun _ _ h => h.ite h.modPwrRegion).foldl fun _ _ h => h.ite h.modStack).foldl fun _ _ h => h.ite h.modPort

/-! ### Reset (R14, R403, R448, R452, R497) -/

theorem Device.storesOk.held (h : d.storesOk) : d.held.storesOk := ⟨Mem.wf_reset, h.2.1, Mem.wf_reset⟩

theorem Device.storesOk.leaveReset (h : d.storesOk) : d.leaveReset.storesOk :=
  (h.held.same (by rfl)).modHlt.modSec.modSeq.applyHeldOff

theorem Device.storesOk.modResetPin {f : Input → Input} (h : d.storesOk) : (d.modResetPin f).storesOk := h.modInput

theorem Device.storesOk.resetAssert {held : Nat} (h : d.storesOk) : (d.resetAssert held).storesOk :=
  h.ite (h.modResetPin.ite h.modResetPin.held.modSeq)

theorem Device.storesOk.resetDeassert {held : Nat} (h : d.storesOk) : (d.resetDeassert held).storesOk :=
  h.ite (h.modResetPin.ite (h.modResetPin.leaveReset.ite h.modResetPin.modSeq))

theorem Device.storesOk.hubLeaves (h : d.storesOk) : d.hubLeaves.storesOk := h.leaveReset.ite h

theorem Device.storesOk.deviceReset (h : d.storesOk) : d.deviceReset.storesOk :=
  (h.held.modSeq.ite h.leaveReset).ite h

/-! ### Power-up (R490 to R492) -/

theorem Device.storesOk.powerStart (h : d.storesOk) : (d.powerStart m).storesOk := h.held.modSeq

theorem Device.storesOk.pwrEnAssert (h : d.storesOk) : (d.pwrEnAssert m).storesOk :=
  h.powerStart.ite (h.ite (h.powerStart.ite h.modSeq))

theorem Device.storesOk.vddAonValid (h : d.storesOk) : (d.vddAonValid m).storesOk :=
  h.ite (h.modSeq.powerStart.ite h.modSeq)

theorem Device.storesOk.diodeReady (h : d.storesOk) : (d.diodeReady i).storesOk := h.modSeq

/-! ### Power-down and faults (R447, R451, R491, R495, R496) -/

theorem Device.storesOk.pwrEnDeassert (h : d.storesOk) : d.pwrEnDeassert.storesOk := h.ite ((h.haltJob.ite h).modSeq)

theorem Device.storesOk.railOffStep (h : d.storesOk) : (d.railOffStep).storesOk := by
  unfold Device.railOffStep
  split
  · exact .ite (.modSeq ⟨Mem.wf_reset, Mem.wf_reset, Mem.wf_reset⟩) h.modSeq
  · exact h.modSeq.ite h

theorem Device.storesOk.railFault (h : d.storesOk) : (d.railFault k).storesOk :=
  h.ite ((((h.haltJob.ite h).modSeq).modSeq).ite ((((h.haltJob.ite h).modSeq).modSeq).applyHeldOff))

theorem Device.storesOk.pmbAlert {w : BitVec 16} (h : d.storesOk) : (d.pmbAlert k w).storesOk := h.railFault.ite h

theorem Device.storesOk.clockRecount {khz0 khz1 : Nat} (h : d.storesOk) : (d.clockRecount khz0 khz1).storesOk :=
  h.ite h.modSeq

end Sys2Proof.Machine
end

section
/-! SUPPORT. That every operation of Vexlink, the counter space, message channels, copies and transactions keeps the
byte stores of the hub in their canonical form. -/

namespace Sys2Proof.Machine

variable {d : Device} {reason p n a u row die e g orig c : Nat} {dest src : BitVec 18} {id : CmdId} {f : Frame}
  {b : FrameBody} {o : Outstanding} {res : PlaceResult} {t : Txn} {w : WinAt} {x : Word} {tid chart : Word64}

/-! ### Frames of this device (R338, R343) -/

theorem Device.storesOk.post (h : d.storesOk) : (d.post dest b).storesOk := h.modVxl

theorem Device.storesOk.refuseFrame (h : d.storesOk) : (d.refuseFrame f reason).storesOk := by
  unfold Device.refuseFrame
  split
  · exact h.post
  · exact h

theorem Device.storesOk.flushAux (h : d.storesOk) : (Device.flushAux p n d).storesOk := by
  induction n generalizing d with
  | zero => exact h
  | succ n ih =>
    unfold Device.flushAux
    dsimp only
    split
    · exact h
    · split
      · exact h
      · exact (ih h.modPort.refuseFrame).ite (ih h.modPort)

theorem Device.storesOk.flushPort (h : d.storesOk) : (d.flushPort p).storesOk := h.flushAux

theorem Device.storesOk.portSend (h : d.storesOk) : (d.portSend p f).storesOk := h.modPort.flushPort

theorem Device.storesOk.portDown (h : d.storesOk) : d.portDown.storesOk := h.drawWord.raiseHub

/-! ### The path of a frame that is not for this device (R335, R347) -/

theorem Device.storesOk.countRoute (h : d.storesOk) : d.countRoute.storesOk := h.modVxl

theorem Device.storesOk.countHold (h : d.storesOk) : d.countHold.storesOk := h.modVxl

/-! ### Training and retraining (R334 to R337, R366) -/

theorem Device.storesOk.portTrained {t : Training} (h : d.storesOk) : (d.portTrained p t).storesOk :=
  h.ite h.modPort.flushPort

theorem Device.storesOk.portRetrain (h : d.storesOk) : (d.portRetrain p).storesOk := h.ite h.modPort

theorem Device.storesOk.fecReport {corrected uncorrectable : Nat} (h : d.storesOk) :
    (d.fecReport p corrected uncorrectable).storesOk :=
  h.ite (h.modPort.portRetrain.ite h.modPort)

theorem Device.storesOk.retrainFor {cause : RetrainCause} (h : d.storesOk) : (d.retrainFor p cause).storesOk := by
  unfold Device.retrainFor
  split
  · exact h.portRetrain
  · exact h.portRetrain.ite h
  · exact h.fecReport.ite h

theorem Device.storesOk.retrainFail (h : d.storesOk) : (d.retrainFail p).storesOk := h.modPort.portDown

theorem Device.storesOk.retrainDone {t : Training} (h : d.storesOk) : (d.retrainDone p t).storesOk := by
  unfold Device.retrainDone
  dsimp only
  split
  · exact h
  · split
    · exact h
    · exact h.modPort.retrainFail.ite h.modPort.flushPort

theorem Device.storesOk.retrainTimeout (h : d.storesOk) : (d.retrainTimeout p).storesOk := h.retrainFail.ite h

theorem Device.storesOk.replayAll (h : d.storesOk) : (d.replayAll p).storesOk := h.ite (h.portRetrain.ite h.modPort)

theorem Device.storesOk.replay (h : d.storesOk) : (d.replay p).storesOk := h.replayAll.ite h

theorem Device.storesOk.linkTake {f : FrameHdr} (h : d.storesOk) :
    (d.linkTake p f b).2.storesOk ∧ ∀ t, (d.linkTake p f b).1 = some t → t.storesOk := by
  unfold Device.linkTake
  have hf := h.fecReport (p := p) (corrected := f.corrected) (uncorrectable := f.uncorrectable)
  dsimp only
  split
  · exact ⟨h, fun _ ht => nomatch ht⟩
  · split
    · split
      · exact ⟨hf.modPort.modPort, fun _ ht => nomatch ht⟩
      · split
        · exact ⟨hf.modPort.modPort, fun _ ht => nomatch ht⟩
        · refine ⟨hf.modPort.ite hf.modPort.modPort, fun _ ht => ?_⟩
          rw [← Option.some.inj ht]
          exact hf.modPort.ite hf.modPort.modPort
    · exact ⟨hf.modPort, fun _ ht => nomatch ht⟩

theorem Device.storesOk.linkAck {f : FrameHdr} {lseq : BitVec 12} {replay : Bool} (h : d.storesOk) :
    (d.linkAck p f lseq replay).storesOk := by
  unfold Device.linkAck
  exact h.ite (h.fecReport.ite (h.fecReport.modPort.ite
    (h.fecReport.modPort.flushPort.replayAll.ite h.fecReport.modPort.flushPort)))

theorem Device.storesOk.portOff (h : d.storesOk) : (d.portOff p).storesOk := by
  unfold Device.portOff
  refine h.ite ?_
  dsimp only
  split
  · exact h.modPort.complete
  · exact h.modPort

/-! ### Commands (R336, R343, R346, R353, R359, R367, R370) -/

theorem Device.storesOk.vxlPortConfig (h : d.storesOk) : (d.vxlPortConfig id).storesOk :=
  h.runCmd fun _ _ h => h.complete.ite (h.complete.ite (h.complete.ite h.modPort.complete))

theorem Device.storesOk.vxlPortEnable (h : d.storesOk) : (d.vxlPortEnable id).storesOk := by
  unfold Device.vxlPortEnable
  refine .runCmd h fun _ _ h => ?_
  dsimp only
  split
  · exact h.complete
  · split
    · exact h.complete
    · split
      · exact h.complete
      · split
        · exact h.complete
        · split
          · exact h.modPort.complete
          · exact h.modPort.complete
          · exact h.complete

theorem Device.storesOk.vxlPortDisable (h : d.storesOk) : (d.vxlPortDisable id).storesOk := by
  unfold Device.vxlPortDisable
  refine .runCmd h fun _ _ h => ?_
  dsimp only
  split
  · exact h.complete
  · split
    · exact h.complete
    · split
      · exact h.complete
      · exact h.modPort
      · exact h.modPort.portDown.ite h.modPort

theorem Device.storesOk.vxlSetId (h : d.storesOk) : (d.vxlSetId id).storesOk :=
  h.runCmd fun _ _ h => h.complete.ite (h.complete.ite h.modVxl.complete)

theorem Device.storesOk.vxlBearingSet (h : d.storesOk) : (d.vxlBearingSet id).storesOk :=
  h.runCmd fun _ _ h => h.complete.ite h.modVxl.complete

theorem Device.storesOk.vxlMcastSet (h : d.storesOk) : (d.vxlMcastSet id).storesOk :=
  h.runCmd fun _ _ h => h.complete.ite h.modVxl.complete

theorem Device.storesOk.vxlE2eConfig (h : d.storesOk) : (d.vxlE2eConfig id).storesOk :=
  h.runCmd fun _ _ h => h.complete.ite h.modVxl.complete

theorem Device.storesOk.vxlTickRole (h : d.storesOk) : (d.vxlTickRole id).storesOk :=
  h.runCmd fun _ _ h => h.complete.ite (h.complete.ite h.modVxl.complete)

/-! ### Registers (R371) -/

theorem Device.storesOk.vxlStatus (h : d.storesOk) : (d.vxlStatus id).storesOk := h.runCmd fun _ _ h => h.complete

/-! ### The counter space (R475) -/

theorem Device.storesOk.counterLatch (h : d.storesOk) : (d.counterLatch a).storesOk :=
  (h.modLog fun hm => hm).ite (h.hostRegLatch.ite h)

theorem Device.storesOk.counterRange (h : d.storesOk) : (d.counterRange n a).2.storesOk := by
  induction n generalizing d a with
  | zero => exact h
  | succ n ih =>
    unfold Device.counterRange
    exact ih h.counterLatch

theorem Device.storesOk.counterRead (h : d.storesOk) : (d.counterRead id).storesOk :=
  h.runCmd fun _ _ h => h.complete.ite (h.complete.ite h.counterRange.complete)

/-! ### Rows through the background port (R296, R246) -/

theorem Device.storesOk.engineRead (h : d.storesOk) : (d.engineRead u row).2.2.storesOk :=
  h.modSu.suPoison.ite h.modSu

theorem Device.storesOk.engineWrite {bs : List Byte} {poison : Bool} (h : d.storesOk) :
    (d.engineWrite u row bs poison).storesOk :=
  h.modSu

theorem Device.storesOk.engineCopy {src dst : Nat} {rows : List (Nat × Nat)} (h : d.storesOk) :
    (d.engineCopy src dst rows).storesOk := by
  induction rows generalizing d with
  | nil => exact h
  | cons r rows ih =>
    unfold Device.engineCopy
    exact ih h.engineRead.engineWrite

theorem Device.storesOk.engineRows {rows : List Nat} (h : d.storesOk) : (d.engineRows u rows).2.storesOk := by
  induction rows generalizing d with
  | nil => exact h
  | cons r rows ih =>
    unfold Device.engineRows
    exact ih h.engineRead

theorem Device.storesOk.modEp {f : Endpoint → Endpoint} (h : d.storesOk) : (d.modEp die e f).storesOk := h.modHome

theorem Device.storesOk.modRing {f : MsgRing → MsgRing} (h : d.storesOk) : (d.modRing die g f).storesOk := h.modHome

theorem Device.storesOk.engineAt {release : Bool} {k : Nat} (h : d.storesOk) : (d.engineAt die release k).storesOk :=
  h.modHome

theorem Device.storesOk.drawBytes (h : d.storesOk) : (d.drawBytes n).2.storesOk := h.same (by rfl)

/-! ### Placement, delivery and release (R302, R303) -/

theorem Device.storesOk.writeWrap (h : d.storesOk) : (d.writeWrap u row).storesOk := h.drawBytes.engineWrite

theorem Device.storesOk.placeIn {m : RingMsg} (h : d.storesOk) : (d.placeIn die g m).2.2.storesOk := by
  unfold Device.placeIn
  dsimp only
  split
  · exact h.modRing.writeWrap
  · exact h.modRing

theorem Device.storesOk.tryDeliver (h : d.storesOk) : (d.tryDeliver die g).storesOk := by
  unfold Device.tryDeliver
  dsimp only
  split
  · exact h
  · exact h.engineCopy.engineAt.modRing.engineFlag.ite h

theorem Device.storesOk.ringRelease (h : d.storesOk) : (d.ringRelease die g).storesOk :=
  h.ite (h.engineAt.engineFlag.modHome.raiseOnce.ite h.engineAt.engineFlag.modRing.tryDeliver)

/-! ### Sends (R301) -/

theorem Device.storesOk.endSend {status : Nat} (h : d.storesOk) : (d.endSend die e status).storesOk :=
  (h.modSu.modEp.ite h.modSu.modEp.engineFlag).engineFlag

theorem Device.storesOk.sendNak (h : d.storesOk) : (d.sendNak die e).storesOk :=
  h.modEp.raise.endSend.ite h.modEp.modEp

theorem Device.storesOk.ringHeader {header : List Byte} (h : d.storesOk) : (d.ringHeader die e header).2.storesOk :=
  h.drawBytes

theorem Device.storesOk.messageRows (h : d.storesOk) : (d.messageRows die e).2.storesOk := by
  unfold Device.messageRows
  have hr := h.engineRows (u := epSite die (d.ep die e).record)
    (rows := (List.range (d.ep die e).rows).map (epBase (d.ep die e).record + ·))
  dsimp only
  split
  · exact hr
  next hd _ _ _ => exact hr.ringHeader (die := die) (e := e) (header := hd)

theorem Device.storesOk.placed {toDie ring : Nat} (h : d.storesOk) :
    (d.placed die e res toDie ring row).storesOk := by
  unfold Device.placed
  dsimp only
  split
  · exact h.modEp.modHome
  · exact h.sendNak
  · exact h.endSend

theorem Device.storesOk.attemptHere (h : d.storesOk) : (d.attemptHere die e).storesOk :=
  h.placeIn.placed.ite h.modEp.modHome

theorem Device.storesOk.takeUpSend (h : d.storesOk) : (d.takeUpSend die e).2.storesOk := by
  unfold Device.takeUpSend
  dsimp only
  have hr := (Device.storesOk.foldl (l := [epSend (d.ep die e).record, epDone (d.ep die e).record,
    epFail (d.ep die e).record]) (h.engineAt (die := die) (release := false) (k := e)) fun _ f h =>
      h.engineFlag (die := die) (f := f) (v := false)).engineRead (u := epSite die (d.ep die e).record)
        (row := epBase (d.ep die e).record)
  generalize Device.engineRead _ _ _ = p at hr ⊢
  obtain ⟨b, bad, t⟩ := p
  have ht : t.storesOk := hr
  dsimp only
  split
  · exact ht.modEp.endSend
  · split
    · exact ht.modEp.endSend
    · exact ht.modEp.modEp

/-! ### Copies (R304) -/

theorem Device.storesOk.messageCopyDone (h : d.storesOk) : (d.messageCopyDone die).storesOk := by
  unfold Device.messageCopyDone
  split
  · exact h
  · exact h.ite (((((h.messageRows.foldl fun _ _ h => h.engineWrite).modHome).modRing).endSend).tryDeliver)

theorem Device.storesOk.placementReply (h : d.storesOk) : (d.placementReply die).storesOk := by
  unfold Device.placementReply
  split
  · exact h
  · exact h.ite h.modHome.placed

/-! ### Life cycles (R306) -/

theorem Device.storesOk.openMsgRing {r : List Byte} (h : d.storesOk) : (d.openMsgRing die g r).storesOk :=
  h.modRing.engineFlag.engineFlag

theorem Device.storesOk.chanOpen (h : d.storesOk) : (d.chanOpen id).storesOk := by
  unfold Device.chanOpen
  refine .runCmd h fun _ _ h => ?_
  dsimp only
  split
  · exact h.complete
  · split
    · exact h.complete
    · split
      · exact h.complete
      · split
        · exact h.modEp.complete
        · exact h.modEp.complete
        · exact h.complete

theorem Device.storesOk.ringCreate (h : d.storesOk) : (d.ringCreate id).storesOk := by
  unfold Device.ringCreate
  refine .runCmd h fun _ _ h => ?_
  dsimp only
  split
  · exact h.complete
  · split
    · exact h.complete
    · split
      · exact h.complete
      · split
        · exact h.openMsgRing.complete
        · exact h.modRing.complete
        · exact h.complete

theorem Device.storesOk.chanClose (h : d.storesOk) : (d.chanClose id).storesOk := by
  unfold Device.chanClose
  refine .runCmd h fun _ _ h => ?_
  dsimp only
  split
  · exact h.complete
  · split
    · exact h.complete
    · split
      · exact h.complete
      · exact h.modEp
      · exact h.modEp

theorem Device.storesOk.ringDestroy (h : d.storesOk) : (d.ringDestroy id).storesOk := by
  unfold Device.ringDestroy
  refine .runCmd h fun _ _ h => ?_
  dsimp only
  split
  · exact h.complete
  · split
    · exact h.complete
    · split
      · exact h.complete
      · exact h.modRing
      · exact h.modRing

theorem Device.storesOk.endpointOff (h : d.storesOk) : (d.endpointOff die e).storesOk := by
  unfold Device.endpointOff
  dsimp only
  split
  · exact h
  · split
    · refine .modEp ?_
      split
      · exact ((h.endSend.ite h).modEp).complete
      · exact (h.endSend.ite h).modEp
    · split
      · exact ((h.endSend.ite h).modEp).complete
      · exact (h.endSend.ite h).modEp

theorem Device.storesOk.ringOff (h : d.storesOk) : (d.ringOff die g).storesOk := by
  unfold Device.ringOff
  dsimp only
  split
  · exact h
  · split
    · refine .openMsgRing ?_
      split
      · exact h.modRing.complete
      · exact h.modRing
    · split
      · exact h.modRing.complete
      · exact h.modRing

theorem Device.storesOk.chanStatus (h : d.storesOk) : (d.chanStatus id).storesOk :=
  h.runCmd fun _ _ h => h.complete.ite (h.complete.ite (h.complete.ite h.complete))

/-! ### One clk of a home, and its stop at a halt (R280, R285, R295) -/

theorem Device.storesOk.flagDone {q : FlagReq} (h : d.storesOk) : (d.flagDone q).storesOk := by
  unfold Device.flagDone
  dsimp only
  split
  · refine .post ?_
    refine .modVxl ?_
    split
    · exact h.complete
    · exact h
  · split
    · exact h.complete
    · exact h

theorem Device.storesOk.homeClk (h : d.storesOk) : (d.homeClk die).storesOk :=
  (h.modHome.applyFlags.foldl fun _ _ h => h.flagDone).foldl fun _ _ h => h.flagParity

theorem Device.storesOk.flagChange (h : d.storesOk) : (d.flagChange die).storesOk := h.ite h.homeClk

theorem Device.storesOk.drainHome (h : d.storesOk) : (d.drainHome die n).storesOk := by
  induction n generalizing d with
  | zero => exact h
  | succ n ih =>
    unfold Device.drainHome
    exact h.ite (ih h.homeClk)

theorem Device.storesOk.homeStop (h : d.storesOk) : (d.homeStop die).storesOk := h.ite h.drainHome.modHome

/-! ### Originators (R350) -/

theorem Device.storesOk.nextTid (h : d.storesOk) : (d.nextTid orig).2.storesOk := h.modVxl

theorem Device.storesOk.originate {kind : TxnKind} {mk : Word64 → FrameBody} {site : Option (Nat × Nat)}
    {cmd : Option CmdId} {lasts : List Bool} {hold : Bool} (h : d.storesOk) :
    (d.originate orig dest kind mk site cmd lasts hold).storesOk :=
  h.nextTid.modVxl.ite h.nextTid.modVxl.post

/-! ### MEM_COPY and MEM_FILL (R405) -/

theorem Device.storesOk.ringWriteRange {bs : List (Byte × Bool)} (h : d.storesOk) :
    (d.ringWriteRange n a bs).storesOk := by
  induction n generalizing d a bs with
  | zero => exact h
  | succ n ih =>
    unfold Device.ringWriteRange
    exact h.ite (ih ⟨Mem.wf_writeRow _ _ _ _ h.1, h.2⟩)

theorem Device.storesOk.copyEnd (h : d.storesOk) : (d.copyEnd id).storesOk := by
  unfold Device.copyEnd
  split
  · exact h
  · exact h.complete

theorem Device.storesOk.copyFail {status : Nat} {detail : Word} (h : d.storesOk) :
    (d.copyFail id status detail).storesOk := by
  unfold Device.copyFail
  split
  · exact h
  · exact h.complete

theorem Device.storesOk.copyRead {kind : Nat} (h : d.storesOk) : (d.copyRead kind a n).2.storesOk := by
  unfold Device.copyRead
  exact .ite_snd h h.hbmRead

theorem Device.storesOk.copyPut {bs : List (Byte × Bool)} (h : d.storesOk) : (d.copyPut id bs).storesOk := by
  unfold Device.copyPut
  split
  · exact h
  · dsimp only
    split
    · exact h.dwr.modCmd
    · exact h.ringWriteRange.modCmd
    · exact h.hbmWrite.modCmd
    · exact h.modCmd.originate

theorem Device.storesOk.copyStep (h : d.storesOk) : (d.copyStep id).storesOk := by
  unfold Device.copyStep
  split
  · exact h
  · split
    · exact h
    · split
      · exact h.copyEnd
      · dsimp only
        split
        · split
          · exact h
          · exact h.modHost.sendHost
        · exact h.originate
        · exact h.copyRead.copyPut

theorem Device.storesOk.memCopy (h : d.storesOk) : (d.memCopy id).storesOk := by
  unfold Device.memCopy
  split
  · exact h
  · refine .runCmd h fun _ _ h => ?_
    dsimp only
    split
    · exact h.complete
    · exact h.copyFail.ite (h.copyStep.copyEnd.ite h.copyStep)

theorem Device.storesOk.memFill (h : d.storesOk) : (d.memFill id).storesOk := by
  unfold Device.memFill
  split
  · exact h
  · refine .runCmd h fun _ _ h => ?_
    dsimp only
    split
    · exact h.complete
    · exact (h.ringWriteRange.ite h.hbmWrite).complete

/-! ### Reads of host memory (R374, R377) -/

theorem Device.storesOk.drdFail {tag : Nat} (h : d.storesOk) : (d.drdFail tag).storesOk := by
  unfold Device.drdFail
  split
  · exact h
  · exact h.modHost.copyFail

theorem Device.storesOk.drdCpl {tag : Nat} {abort : Bool} {bs : List Byte} (h : d.storesOk) :
    (d.drdCpl tag abort bs).storesOk := by
  unfold Device.drdCpl
  split
  · exact h
  · split
    · exact h.drdFail
    · dsimp only
      split
      · exact h.modHost
      · exact h.modHost.ite (h.modHost.copyPut.ite h.modHost.copyPut.copyStep)

theorem Device.storesOk.moduleDrop {m : Nat} (h : d.storesOk) : (d.moduleDrop m).storesOk :=
  h.ite ((h.modHost.modHost.ite h.modHost.modHost.modHost).foldl fun _ _ h => h.copyFail)

/-! ### A transaction ends at its sender (R352 to R357) -/

theorem Device.storesOk.dropOut (h : d.storesOk) : (d.dropOut tid).storesOk := h.modVxl

theorem Device.storesOk.modOut {f : Outstanding → Outstanding} (h : d.storesOk) : (d.modOut tid f).storesOk :=
  h.modVxl

theorem Device.storesOk.releaseFlags (h : d.storesOk) : d.releaseFlags.storesOk := h.foldl fun _ _ h => h.modOut.post

theorem Device.storesOk.countFail (h : d.storesOk) : (d.countFail tid dest reason).storesOk := h.modVxl

theorem Device.storesOk.remoteFail (h : d.storesOk) : (d.remoteFail u c dest).storesOk := h.raiseOnceFree.modIou

theorem Device.storesOk.withholdFlags (h : d.storesOk) : (d.withholdFlags u c dest reason).storesOk :=
  h.foldl fun _ _ h => h.countFail.dropOut

theorem Device.storesOk.deliverReads (h : d.storesOk) : (d.deliverReads u c n).storesOk := by
  induction n generalizing d with
  | zero => exact h
  | succ n ih =>
    unfold Device.deliverReads
    split
    · exact h
    · split
      · exact h
      · dsimp only
        split
        · exact ih h.modCtx.dropOut
        · exact h.ite (ih (h.packIn.modCtx.dropOut.ite h.packIn.modCtx.modOut).progress)

theorem Device.storesOk.remotePlaced (h : d.storesOk) : (d.remotePlaced die e dest res row).storesOk := by
  unfold Device.remotePlaced
  split
  · exact h.sendNak
  · exact h.messageRows.modEp.originate.ite h.messageRows.modEp.originate.originate
  · exact h.endSend

theorem Device.storesOk.answerSend {o : Owed} (h : d.storesOk) : (d.answerSend die e o).storesOk := by
  unfold Device.answerSend
  split
  · exact h
  · split
    · split
      · exact h.endSend
      · exact h.remotePlaced
    · exact h.modEp

theorem Device.storesOk.payOwed (h : d.storesOk) : d.payOwed.storesOk := by
  unfold Device.payOwed
  refine h.foldl fun d a h => ?_
  refine h.foldl fun d a h => ?_
  split
  · exact h.modEp.answerSend
  · exact h

theorem Device.storesOk.txnDone (h : d.storesOk) : (d.txnDone o).storesOk := by
  unfold Device.txnDone
  dsimp only
  split
  · exact h.dropOut.ite h.dropOut.answerSend
  · split
    · exact h.dropOut.releaseFlags.modCmd.copyStep
    · exact h.dropOut.releaseFlags
  · exact h.dropOut

theorem Device.storesOk.txnFail (h : d.storesOk) : (d.txnFail o reason).storesOk := by
  unfold Device.txnFail
  dsimp only
  split
  · exact h.countFail.dropOut.copyFail
  · split
    · exact h.countFail.drawBytes.modOut.remoteFail.deliverReads
    · exact h.countFail.dropOut.remoteFail.modCtx
    · exact h.countFail.dropOut.answerSend.ite h.countFail.dropOut
    · exact h.countFail.dropOut.answerSend.ite h.countFail.dropOut
    · exact h.countFail.dropOut.remoteFail.withholdFlags.releaseFlags
    · exact h.countFail.dropOut

theorem Device.storesOk.resendOr {fail : Device → Device} (h : d.storesOk)
    (hfail : ∀ e, e.storesOk → (fail e).storesOk) : (d.resendOr o fail).storesOk :=
  .ite h.modOut.modVxl.post (hfail d h)

/-! ### Multicast at the sender (R359 to R362) -/

theorem Device.storesOk.modTransfer {f : Transfer → Transfer} (h : d.storesOk) : (d.modTransfer x f).storesOk :=
  h.modVxl

theorem Device.storesOk.endTransfer {t : Transfer} (h : d.storesOk) : (d.endTransfer t).storesOk := by
  unfold Device.endTransfer
  dsimp only
  split
  · exact h.modVxl
  · exact h.modVxl.complete

theorem Device.storesOk.pumpTransfer (h : d.storesOk) : (Device.pumpTransfer x n d).storesOk := by
  induction n generalizing d with
  | zero => exact h
  | succ n ih =>
    unfold Device.pumpTransfer
    split
    · exact h
    next t _ =>
      have ht := h.modTransfer (x := x) (f := fun _ => t.clean)
      dsimp only
      split
      · exact ht.modTransfer
      · split
        · exact ht.endTransfer
        · split
          · exact ht
          · split
            · exact ht.nextTid.modTransfer.post
            · split
              · exact ht
              · split
                · exact ht.ite (ih ht.nextTid.modTransfer.post)
                · exact ht.ite (ih ht.nextTid.hbmRead.modTransfer.post)

theorem Device.storesOk.mcastPump (h : d.storesOk) : (d.mcastPump x).storesOk := h.pumpTransfer

theorem Device.storesOk.prune {dev : BitVec 18} (h : d.storesOk) : (d.prune x dev).storesOk := by
  unfold Device.prune
  split
  · exact h
  · split
    · exact h
    · dsimp only
      refine .mcastPump ?_
      split
      · exact h.modTransfer.post.modVxl.raiseFree
      · exact h.modTransfer.post.modVxl.drawWord.raiseHub

theorem Device.storesOk.newTransfer {t : Device} {r : Transfer} (h : d.storesOk)
    (hn : d.newTransfer orig dest r = some (x, t)) : t.storesOk := by
  unfold Device.newTransfer at hn
  split at hn
  · nomatch hn
  · cases hn; exact h.modVxl.modVxl

theorem Device.storesOk.vxlMcastCopy (h : d.storesOk) : (d.vxlMcastCopy id).storesOk := by
  unfold Device.vxlMcastCopy
  refine h.runCmd fun ps d h => ?_
  dsimp only
  split
  · exact h.complete
  · split
    · exact h.complete
    · split
      · exact h.complete
      next hn => exact (h.newTransfer hn).mcastPump

/-! ### Answers that arrive (R352, R353) -/

theorem Device.storesOk.rxAck (h : d.storesOk) : (d.rxAck src tid).storesOk := by
  unfold Device.rxAck
  split
  · exact h.modTransfer.mcastPump
  · split
    · exact h.ite h.txnDone
    · exact h

theorem Device.storesOk.rxNak {xfer : Word} (h : d.storesOk) : (d.rxNak src tid reason xfer).storesOk := by
  unfold Device.rxNak
  split
  · exact h.ite h.prune
  · split
    · exact h.ite h.prune
    · split
      · exact h
      · exact h.ite ((h.resendOr fun _ h => h.txnFail).ite h.txnFail)

theorem Device.storesOk.rxGrant {queued : Bool} (h : d.storesOk) : (d.rxGrant src tid queued).storesOk := by
  unfold Device.rxGrant
  split
  · exact h.ite h.modTransfer.mcastPump
  · split
    · split
      · exact h
      · split
        · exact h.modOut
        · split
          · exact h.dropOut.modCtx
          · exact h.dropOut
    · exact h

theorem Device.storesOk.rxData (h : d.storesOk) : (d.rxData t).storesOk := by
  unfold Device.rxData
  split
  · exact h
  · split
    · exact h
    · split
      · dsimp only
        split
        · exact h.dropOut.copyPut.ite h.dropOut.copyPut.copyStep
        · exact h.dropOut.copyPut
      · exact h.modOut.deliverReads
      · exact h.dropOut

theorem Device.storesOk.rxPlaceResp (h : d.storesOk) : (d.rxPlaceResp src tid res row).storesOk := by
  unfold Device.rxPlaceResp
  split
  · split
    · exact h.dropOut.answerSend.ite h.dropOut
    · exact h
  · exact h

/-! ### Landing windows (R258 to R263) -/

theorem Device.storesOk.modWindow {f : Window → Window} (h : d.storesOk) : (d.modWindow w f).storesOk := h.modIou

theorem Device.storesOk.freeWindow (h : d.storesOk) : (d.freeWindow w).storesOk := by
  unfold Device.freeWindow
  split
  · exact h.modWindow
  · exact h.modWindow.modVxl.post

theorem Device.storesOk.landRefused (h : d.storesOk) : (d.landRefused u).storesOk := h.modIou.raiseFree

/-! ### A receiver's answers -/

theorem Device.storesOk.nakTo (h : d.storesOk) : (d.nakTo f tid reason).storesOk := h.modVxl.post

theorem Device.storesOk.ackTo (h : d.storesOk) : (d.ackTo f tid).storesOk := h.modVxl.post

theorem Device.storesOk.park (h : d.storesOk) : (d.park f).storesOk := h.modVxl

/-! ### Requests, once the source table admits them -/

theorem Device.storesOk.forwardLanding (h : d.storesOk) : (d.forwardLanding f t w row).storesOk :=
  ((h.unitSend.foldl fun _ _ h => h.unitSend).modWindow).modVxl

theorem Device.storesOk.writeWindow (h : d.storesOk) : (d.writeWindow f t).storesOk := by
  unfold Device.writeWindow
  dsimp only
  split
  · exact h.nakTo
  · split
    · exact h.nakTo
    · split
      · exact h.nakTo
      · exact h.landRefused.nakTo.ite (h.park.ite h.forwardLanding)

theorem Device.storesOk.writeRing_ (h : d.storesOk) : (d.writeRing_ f t).storesOk := by
  unfold Device.writeRing_
  dsimp only
  split
  · exact h.nakTo
  · exact h.park.ite ((((h.foldl fun _ _ h => h.engineWrite).modRing).ackTo).tryDeliver)

theorem Device.storesOk.writeFlags {off : Nat} {vals : List Bool} (h : d.storesOk) :
    (d.writeFlags p f tid off vals).storesOk :=
  h.nakTo.ite (h.nakTo.ite (h.foldl fun _ _ h => h.flagReq))

theorem Device.storesOk.carryWrite (h : d.storesOk) : (d.carryWrite p f t).storesOk := by
  unfold Device.carryWrite
  dsimp only
  split
  · split
    · exact h.nakTo
    · exact h.park
    · exact h.hbmWrite.ackTo
  · exact h.nakTo.ite (h.writeRing_.ite h.writeWindow)
  · exact h.nakTo.ite (h.nakTo.ite (h.nakTo.ite h.writeFlags))
  · exact h.nakTo

theorem Device.storesOk.carryFlag {v : Bool} (h : d.storesOk) : (d.carryFlag p f tid chart v).storesOk :=
  h.nakTo.ite (h.nakTo.ite h.writeFlags)

theorem Device.storesOk.carryCredit {rows : Nat} (h : d.storesOk) : (d.carryCredit f tid chart rows).storesOk := by
  unfold Device.carryCredit
  split
  · exact h.nakTo
  · split
    · exact h.nakTo
    · split
      · exact h.nakTo
      · split
        · exact h.nakTo
        · exact h.modWindow.modVxl.post.ite (h.nakTo.ite h.modWindow.post)

theorem Device.storesOk.carryPlace {rows : Nat} (h : d.storesOk) : (d.carryPlace f tid die g rows).storesOk :=
  h.nakTo.ite h.modHome

theorem Device.storesOk.carry (h : d.storesOk) : (d.carry p f).storesOk := by
  unfold Device.carry
  split
  · exact h.carryWrite
  · exact h.carryFlag
  · exact h.carryCredit
  · exact h.carryPlace
  · exact h

theorem Device.storesOk.answerDuplicate {done : Bool} (h : d.storesOk) : (d.answerDuplicate f tid done).storesOk := by
  unfold Device.answerDuplicate
  split
  · split
    · exact h.post
    · exact h
  · exact h.post
  · exact h.post.ite h

theorem Device.storesOk.admitFrame (h : d.storesOk) : (d.admitFrame p f tid).storesOk := by
  unfold Device.admitFrame
  split
  · exact h.modVxl.carry
  · exact h.modVxl.answerDuplicate
  · exact h.modVxl.answerDuplicate
  · exact h.modVxl.post
  · exact h.modVxl.post

theorem Device.storesOk.carryRead (h : d.storesOk) : (d.carryRead f tid chart n).storesOk := by
  unfold Device.carryRead
  dsimp only
  split
  · split
    · exact h.nakTo
    · split
      · exact h.nakTo
      · exact h.park
      · exact h.hbmRead.post
  · exact h.nakTo
  · exact h.nakTo.ite h.counterRange.post
  · exact h.nakTo

theorem Device.storesOk.rxWithdraw (h : d.storesOk) : (d.rxWithdraw tid).storesOk := (h.same (by rfl)).modVxl

theorem Device.storesOk.rxPrune (h : d.storesOk) : (d.rxPrune src x).storesOk := by
  unfold Device.rxPrune
  refine .ite (.foldl h.modVxl fun _ _ h => h.landRefused.freeWindow) ?_
  split
  · exact h.modVxl.modWindow
  · exact h.modVxl

theorem Device.storesOk.receive (h : d.storesOk) : (d.receive p f).storesOk := by
  unfold Device.receive
  split
  · exact h
  · exact h
  · exact h.rxAck
  · exact h.rxNak
  · exact h.rxGrant
  · exact h.rxPrune
  · exact h.rxPlaceResp
  · exact h.rxData
  · exact h.rxData
  · exact h.rxWithdraw
  · exact h.carryRead
  · exact h.carryRead
  · exact h.post.ite h.admitFrame
  · exact h.admitFrame
  · exact h.admitFrame
  · exact h.admitFrame

/-! ### Routing (R343, R345 to R348) -/

/-- The device behind a frame that went on its way, or did not. -/
def Sent.device : Sent → Device
  | .done d => d
  | .refused d _ => d

theorem Device.storesOk.route (h : d.storesOk) : (d.route f).device.storesOk := by
  unfold Device.route
  split
  · exact h.countRoute
  · dsimp only
    split
    · exact h.foldl fun _ _ h => h.portSend.ite h
    · split
      · exact h.portSend
      · split
        · exact h.portSend
        · split
          · exact h.portSend
          · split
            · exact h.portSend
            · exact h.countHold

theorem Device.storesOk.dispatchFrame (h : d.storesOk) : (d.dispatchFrame f).storesOk := by
  unfold Device.dispatchFrame
  split
  · split
    · exact h.rxNak
    · exact h
  · split
    · exact h.receive
    · split
      · exact h.countRoute.refuseFrame
      next b _ =>
        have hr : (if (b.getLsbD 62 && d.vxl.own f.src) = true then d.receive 12 f else d).storesOk := h.receive.ite h
        refine .ite hr ?_
        have hs := hr.route (f := f)
        split
        next heq => rw [heq] at hs; exact hs
        next heq => rw [heq] at hs; exact hs.refuseFrame

theorem Device.storesOk.pumpAux (h : d.storesOk) : (Device.pumpAux n d).storesOk := by
  induction n generalizing d with
  | zero => exact h
  | succ n ih =>
    unfold Device.pumpAux
    split
    · exact h
    · exact ih h.modVxl.dispatchFrame

theorem Device.storesOk.wake (h : d.storesOk) : d.wake.storesOk :=
  (h.releaseFlags.ite h).foldl fun _ _ h => h.mcastPump

theorem Device.storesOk.pump (h : d.storesOk) : d.pump.storesOk := h.wake.pumpAux

theorem Device.storesOk.unpark (h : d.storesOk) : d.unpark.storesOk := by
  unfold Device.unpark
  dsimp only
  refine h.modVxl.foldl fun d a h => ?_
  split
  · exact h.carryRead
  · exact h.carry

theorem Device.storesOk.frameIn {f : FrameHdr} (h : d.storesOk) : (d.frameIn p f b).storesOk := by
  unfold Device.frameIn
  have hl := h.linkTake (p := p) (f := f) (b := b)
  split
  next heq => rw [heq] at hl; exact hl.1
  next heq =>
    rw [heq] at hl
    have ht := hl.2 _ rfl
    exact ht.receive.pump.ite ((ht.receive.ite ht).pump.ite
      ((ht.receive.ite ht).countRoute.refuseFrame.pump.ite (ht.receive.ite ht).modVxl.pump))

end Sys2Proof.Machine
end

section
/-! SUPPORT. That every operation of the IOUs, the pilots, the tick and the swaps keeps the byte stores of the hub in
their canonical form. -/

namespace Sys2Proof.Machine

variable {d : Device} {u c die e p r : Nat} {id : CmdId} {residence : List Nat} {w : PackWord} {t : SwapTarget}
  {tick : Word}

/-! ### Writes of a Vexlink IOU (R351, R355 to R357) -/

theorem Device.storesOk.descTransfer {t : Device} {dest : BitVec 18} {x : Word} (h : d.storesOk)
    (hn : d.descTransfer u c dest = some (x, t)) : t.storesOk := by
  unfold Device.descTransfer at hn
  split at hn
  · cases hn; exact h
  · exact h.newTransfer hn

theorem Device.storesOk.failUnsent {dest : BitVec 18} {reason : Nat} (h : d.storesOk) :
    (d.failUnsent u c dest reason).storesOk :=
  h.countFail.remoteFail

theorem Device.storesOk.flushGroup {final : Bool} (h : d.storesOk) : (d.flushGroup u c final).storesOk := by
  unfold Device.flushGroup
  dsimp only
  split
  · exact h
  · split
    · exact h.modCtx.failUnsent
    · split
      · split
        · exact h.modCtx
        next hn =>
          have ht := h.modCtx.descTransfer hn
          split
          · exact ht.modTransfer.mcastPump
          · exact ht
      · exact h.modCtx.originate

theorem Device.storesOk.sendFlags (h : d.storesOk) : (d.sendFlags u c w).storesOk := by
  unfold Device.sendFlags
  refine h.foldl fun d i h => ?_
  dsimp only
  split
  · exact h.modVxl
  · split
    · split
      · exact h
      next hn => exact (h.descTransfer hn).modTransfer.mcastPump
    · exact h.originate

theorem Device.storesOk.askCredit (h : d.storesOk) : (d.askCredit u w).storesOk := h.ite h.modCtx.originate

theorem Device.storesOk.groupBytes {address : Nat} {bytes : List (Byte × Bool)} (h : d.storesOk) :
    (d.groupBytes u c address bytes).storesOk :=
  (h.flushGroup.ite h).modCtx

theorem Device.storesOk.vxlQueueWrite {v : Nat} {rest : List PackWord} (h : d.storesOk) :
    (d.vxlQueueWrite u v w rest).storesOk := by
  unfold Device.vxlQueueWrite
  refine h.modOutQ.ite (h.ite (h.askCredit.ite ?_))
  split
  next heq =>
    have hc := Device.storesOk.of_eq heq h.modOutQ.checkPack
    refine hc.sendFlags.ite ?_
    extract_lets bytes cut d₁
    have h₁ : d₁.storesOk := hc.groupBytes.groupBytes.ite hc.groupBytes
    exact h₁.flushGroup.ite h₁

theorem Device.storesOk.hubQueueWrite (h : d.storesOk) : (d.hubQueueWrite w).storesOk := h.ite h.ringWriteRange

theorem Device.storesOk.packingRead {v : Nat} {toGrid : Bool} (h : d.storesOk) :
    (d.packingRead u v toGrid).storesOk := by
  unfold Device.packingRead
  split
  · exact h
  · split
    · exact h.packToGrid.foldl fun _ _ h => h.deliverReads
    · split
      · exact h
      · refine .progress ?_
        split
        · exact h.modOutQ.checkPack.hbmQueueWrite
        · exact h.modOutQ.checkPack.hubQueueWrite
        · exact h.vxlQueueWrite.pump
        · exact h

/-! ### Reads (R351) -/

theorem Device.storesOk.vxlIssue (h : d.storesOk) : (d.vxlIssue u c).storesOk :=
  h.ite (h.originate.modCtx.progress.ite h.originate.modCtx.progress)

theorem Device.storesOk.streamRead (h : d.storesOk) : (d.streamRead u c).storesOk := by
  unfold Device.streamRead
  split
  · exact h
  · split
    · exact h.suRead
    · split
      · exact h
      · split
        · exact h.hbmIssue
        · exact h.hubIssue
        · exact h.vxlIssue.pump
        · exact h

/-! ### Completion (R252, R356, R362) -/

theorem Device.storesOk.closeDesc (h : d.storesOk) : (d.closeDesc u c).storesOk := by
  unfold Device.closeDesc
  split
  · exact h
  · dsimp only
    split
    · exact h.flushGroup.modTransfer.mcastPump
    · exact h.flushGroup

/-! ### Landing packets and windows (R260, R262) -/

theorem Device.storesOk.landError (h : d.storesOk) : (d.landError u).storesOk := h.modSu.raiseFree

theorem Device.storesOk.landDone {final : Bool} (h : d.storesOk) : (d.landDone u c final).storesOk := by
  unfold Device.landDone
  dsimp only
  split
  · refine .post ?_
    refine .modVxl ?_
    refine .modVxl ?_
    split
    · split
      · exact h.flagReq
      · exact h
    · exact h
  · split
    · split
      · exact h.flagReq
      · exact h
    · exact h

theorem Device.storesOk.landWord {w : Item} (h : d.storesOk) : (d.landWord u c w).storesOk := by
  unfold Device.landWord
  dsimp only
  split
  · exact h.modCtx.landError.modCtx.ite (h.modCtx.landError.ite h.modCtx.modCtx)
  · exact (h.modCtx.ite h).ite (h.pathAWrite.modCtx.landDone.modCtx.ite
      (h.pathAWrite.modCtx.landError.modCtx.ite h.pathAWrite.modCtx.modCtx))

theorem Device.storesOk.landingPacket (h : d.storesOk) : (d.landingPacket u c).storesOk := by
  unfold Device.landingPacket
  split
  · exact h
  · dsimp only
    split
    · exact h
    · exact h.landWord.popUnit.pump

theorem Device.storesOk.windowRelease {w : Nat} (h : d.storesOk) : (d.windowRelease u w).storesOk := by
  unfold Device.windowRelease
  split
  · exact h
  · exact h.ite h.flagReq.freeWindow.pump

/-! ### The message engines (R296, R301, R304, R363) -/

theorem Device.storesOk.attempt (h : d.storesOk) : (d.attempt die e).storesOk := h.modEp.originate.ite h.attemptHere

theorem Device.storesOk.chanSend (h : d.storesOk) : (d.chanSend die e).storesOk := by
  unfold Device.chanSend
  refine h.ite ?_
  split
  next heq =>
    have ht := Device.storesOk.of_eq heq h.takeUpSend
    exact ht.attempt.pump.ite ht

theorem Device.storesOk.sendRetry (h : d.storesOk) : (d.sendRetry die e).storesOk :=
  h.ite h.engineAt.modEp.attempt.pump

theorem Device.storesOk.placementRequest (h : d.storesOk) : (d.placementRequest die).storesOk := by
  unfold Device.placementRequest
  split
  · exact h
  · split
    · exact h
    · dsimp only
      split
      · exact h.modHome.engineAt.placeIn.modHome
      · exact h.modHome.engineAt.placeIn.modHome.modVxl.post.pump

theorem Device.storesOk.placementTimeout {g : Nat} (h : d.storesOk) : (d.placementTimeout die g).storesOk := by
  unfold Device.placementTimeout
  dsimp only
  split
  · exact h
  · exact h.ite h.engineWrite.modRing.tryDeliver

/-! ### Limits that run out (R347, R353 to R355, R361) -/

theorem Device.storesOk.holdExpiry (h : d.storesOk) : (d.holdExpiry p).storesOk := by
  unfold Device.holdExpiry
  split
  · exact h
  · exact h.modPort.countHold.refuseFrame.pump

theorem Device.storesOk.e2eTimeout {tid : Word64} (h : d.storesOk) : (d.e2eTimeout tid).storesOk := by
  unfold Device.e2eTimeout
  split
  · exact h
  · exact h.ite ((h.resendOr fun _ h => h.modVxl.txnFail).pump)

theorem Device.storesOk.grantLimit {tid : Word64} (h : d.storesOk) : (d.grantLimit tid).storesOk := by
  unfold Device.grantLimit
  split
  · exact h.post.txnFail.pump.ite h
  · exact h

theorem Device.storesOk.mcastLag {x : Word} {dev : BitVec 18} (h : d.storesOk) : (d.mcastLag x dev).storesOk := by
  unfold Device.mcastLag
  split
  · exact h
  · exact h.prune.pump.ite h

/-! ### The control program (R214 to R218) -/

theorem Device.storesOk.storeFail (h : d.storesOk) : (d.storeFail r).storesOk := h.modPilot.raiseFree.stopRegion

/-- An instruction of a pilot keeps the stores if its effect does. -/
theorem Device.storesOk.pilotIssue {opc : Nat} {act : Nat → Device → Device} (h : d.storesOk)
    (hact : ∀ w e, e.storesOk → (act w e).storesOk) : (d.pilotIssue r opc act).storesOk := by
  unfold Device.pilotIssue
  dsimp only
  split
  · exact h
  · split
    · exact (hact _ _ h).ite h
    · exact (hact _ _ h.modPilot).ite h
    · exact h.storeFail
    · exact h.storeFail

theorem Device.storesOk.pilotStep {f : Pilot → Pilot} (h : d.storesOk) : (d.pilotStep r f).storesOk := h.modPilot

/-! ### Summary registers (R220, R221) -/

theorem Device.storesOk.takeSummary {m : SummaryMsg} (h : d.storesOk) : (d.takeSummary r m).storesOk :=
  h.modPilot.ite h.staleReport

theorem Device.storesOk.summaryArrival (h : d.storesOk) : (d.summaryArrival r).storesOk := by
  unfold Device.summaryArrival
  split
  · exact h
  · split
    · exact h
    · exact h.modPilot.takeSummary

theorem Device.storesOk.clrs (h : d.storesOk) : (d.clrs r).storesOk := h.pilotIssue fun _ _ h => h.pilotStep

theorem Device.storesOk.pub (h : d.storesOk) : (d.pub r).storesOk :=
  h.pilotIssue fun _ _ h => (h.foldl fun _ _ h => h.modPilot.ite h).pilotStep

/-! ### Shape registers, loops and branches (R222, R223, R226, R227) -/

theorem Device.storesOk.setsh (h : d.storesOk) : (d.setsh r).storesOk :=
  h.pilotIssue fun _ _ h => (h.raiseFree.ite h).pilotStep

theorem Device.storesOk.loopp (h : d.storesOk) : (d.loopp r).storesOk :=
  h.pilotIssue fun _ _ h => ((h.raiseFree.ite h).modPilot).ite ((h.raiseFree.ite h).pilotStep)

theorem Device.storesOk.br (h : d.storesOk) : (d.br r).storesOk :=
  h.pilotIssue fun _ _ h => ((h.raiseFree.ite h).modPilot).ite ((h.raiseFree.ite h).pilotStep)

/-! ### Tokens, flags, events and waits (R224, R225, R231, R218) -/

theorem Device.storesOk.tokenOp (h : d.storesOk) : (d.tokenOp r).storesOk := h.pilotIssue fun _ _ h => h.pilotStep

theorem Device.storesOk.setf (h : d.storesOk) : (d.setf r).storesOk := h.pilotIssue fun _ _ h => h.flagReq.pilotStep

theorem Device.storesOk.userEvent (h : d.storesOk) : (d.userEvent r).storesOk :=
  h.pilotIssue fun _ _ h => h.raise.pilotStep

theorem Device.storesOk.waitf (h : d.storesOk) : (d.waitf r).storesOk := h.pilotIssue fun _ _ h => h.modPilot

theorem Device.storesOk.endWait (h : d.storesOk) : (d.endWait r).storesOk := h.modPilot

theorem Device.storesOk.waitfEnd (h : d.storesOk) : (d.waitfEnd r).storesOk := by
  unfold Device.waitfEnd
  split
  · split
    · exact h.endWait.ite h
    · exact h
  · exact h

theorem Device.storesOk.waits (h : d.storesOk) : (d.waits r).storesOk := h.pilotIssue fun _ _ h => h.modPilot

theorem Device.storesOk.waitsEnd (h : d.storesOk) : (d.waitsEnd r).storesOk := by
  unfold Device.waitsEnd
  split
  · split
    · exact h.endWait.ite h
    · exact h
  · exact h

theorem Device.storesOk.waitcOp (h : d.storesOk) : (d.waitcOp r).storesOk := h.pilotIssue fun _ _ h => h.modPilot

theorem Device.storesOk.waitcEnd (h : d.storesOk) : (d.waitcEnd r).storesOk := h.modPilot.ite h

/-! ### Lockstep (R233, R234) -/

theorem Device.storesOk.withdraw {p : Pilot} (h : d.storesOk) : (d.withdraw r p).storesOk := by
  unfold Device.withdraw
  dsimp only
  split
  · exact h.modHome.ite h
  · exact (h.foldl fun _ _ h => h.ite h.modPilot).ite h
  · exact (h.foldl fun _ _ h => h.ite h.modPilot).ite h
  · exact h

theorem Device.storesOk.backToClk (h : d.storesOk) : (d.backToClk r).storesOk := by
  unfold Device.backToClk
  split
  · exact h
  · exact h.withdraw.modPilot

theorem Device.storesOk.lockstep {groups : BitVec 8} (h : d.storesOk) : (d.lockstep r groups).storesOk :=
  h.ite h.backToClk.modPilot.record.raiseFree.stopRegion

/-! ### The start of a swap (R57, R228, R229) -/

theorem Device.storesOk.swapMismatch (h : d.storesOk) : (d.swapMismatch r).storesOk :=
  (h.foldl fun _ _ h => h.raiseFree.modPilot.ite h).haltJob

theorem Device.storesOk.trySwap (h : d.storesOk) : (d.trySwap r).storesOk := by
  unfold Device.trySwap
  split
  · exact h
  · split
    · exact h
    · dsimp only
      split
      · exact ((h.foldl fun _ _ h => h.ite h.modPilot).modPilot).ite
          (((h.foldl fun _ _ h => h.ite h.modPilot).modPilot).swapMismatch)
      · exact ((h.foldl fun _ _ h => h.ite h.modPilot).modPilot).modPilot

theorem Device.storesOk.swapOp (h : d.storesOk) : (d.swapOp r).storesOk :=
  h.pilotIssue fun _ _ h => h.modPilot.trySwap

theorem Device.storesOk.swapTarget (h : d.storesOk) : (d.swapTarget r).storesOk := by
  unfold Device.swapTarget
  dsimp only
  split
  · exact h
  · split
    · exact h
    · split
      · exact h.modPilot.swapMismatch.ite h.modPilot
      · split
        · split
          · exact h.modPilot.swapMismatch.ite h.modPilot
          · exact h.modPilot
        · exact h.modPilot.modPilot.ite h.modPilot.modPilot.modPilot

/-! ### Tick reports (R62, R64, R65) -/

theorem Device.storesOk.postReport {status last stop : Nat} (h : d.storesOk) :
    (d.postReport status last stop).storesOk :=
  (h.same (by rfl)).logEnter.postUnsolicited.modTick

theorem Device.storesOk.haltReport (h : d.storesOk) : d.haltReport.storesOk := h.modComb.postReport.ite h

/-! ### Commands (R50, R54 to R56) -/

theorem Device.storesOk.tickConfig (h : d.storesOk) : (d.tickConfig id).storesOk :=
  h.runCmd fun _ _ h => h.complete.ite (h.complete.ite (h.complete.ite (h.complete.ite h.modTick.complete)))

theorem Device.storesOk.tickStarting (h : d.storesOk) : d.tickStarting.storesOk := h.modTick.modInput.modVxl

theorem Device.storesOk.tickOff (h : d.storesOk) : d.tickOff.storesOk :=
  ((h.modTick.idleFreqs.modVxl.foldl fun _ _ h => h.complete).tickStarting).ite
    (h.modTick.idleFreqs.modVxl.foldl fun _ _ h => h.complete)

theorem Device.storesOk.tickStart (h : d.storesOk) : (d.tickStart id).storesOk :=
  h.runCmd fun _ _ h => h.complete.ite (h.complete.ite (h.complete.ite
    (h.complete.ite (h.complete.ite (h.modTick.complete.ite h.tickStarting.complete)))))

theorem Device.storesOk.tickStop (h : d.storesOk) : (d.tickStop id).storesOk := by
  unfold Device.tickStop
  refine .runCmd h fun _ _ h => ?_
  split
  · exact h.complete
  · exact h.modTick.tickOff.complete
  · exact h.modTick.tickOff.ite h.modTick
  · exact h.modTick

theorem Device.storesOk.tickStage (h : d.storesOk) : (d.tickStage id).storesOk :=
  h.runCmd fun _ _ h => h.complete.ite (h.complete.ite (h.complete.ite (h.complete.ite h.modTick.complete)))

theorem Device.storesOk.tickStatus (h : d.storesOk) : (d.tickStatus id).storesOk := h.runCmd fun _ _ h => h.complete

/-! ### Strikes (R51, R56, R62, R415, R419) -/

theorem Device.storesOk.beginTick {k : Strike} {late : Bool} (h : d.storesOk) : (d.beginTick k late).storesOk :=
  ((h.modTick.foldl fun _ _ h => h.modPilot).ungate).strikeFreqs

theorem Device.storesOk.strikeAt {time : Nat} {fallback : Bool} (h : d.storesOk) :
    (d.strikeAt time fallback).storesOk :=
  h.ite (h.modTick.modVxl.beginTick.ite (((h.modTick.modVxl.modTick.ite h.modTick.modVxl).modTick).ite
    ((h.modTick.modVxl.modTick.ite h.modTick.modVxl).modTick)))

theorem Device.storesOk.caughtUp (h : d.storesOk) : d.caughtUp.storesOk := by
  unfold Device.caughtUp
  split
  · exact h.beginTick.ite h
  · exact h

theorem Device.storesOk.sendStrikes {f : Frame} {leadPs : Int} {fallback : Bool} (h : d.storesOk) :
    (d.sendStrikes f tick leadPs fallback residence).storesOk :=
  h.foldl fun _ _ h => h.portSend.ite h

theorem Device.storesOk.ownStrike (h : d.storesOk) : d.ownStrike.2.storesOk := h.drawWord

theorem Device.storesOk.strikeOrAnnounce {time : Nat} {fallback : Bool} (h : d.storesOk) :
    (d.strikeOrAnnounce time fallback).storesOk :=
  h.ownStrike.sendStrikes.modVxl.ite h.strikeAt

theorem Device.storesOk.timerStrike (h : d.storesOk) : d.timerStrike.storesOk :=
  h.ite ((h.ite h.strikeOrAnnounce).ite (h.strikeOrAnnounce.ite h))

theorem Device.storesOk.tickInEdge (h : d.storesOk) : d.tickInEdge.storesOk :=
  h.ite (h.modInput.ite ((h.modInput.modTick.ite (h.ite h.modInput.strikeOrAnnounce)).ite
    ((h.ite h.modInput.strikeOrAnnounce).ite h.modInput)))

theorem Device.storesOk.fallback (h : d.storesOk) : d.fallback.storesOk :=
  h.ite (((h.modVxl.ite h).modTick).strikeOrAnnounce)

theorem Device.storesOk.announcedStrike (h : d.storesOk) : d.announcedStrike.storesOk := by
  unfold Device.announcedStrike
  split
  · exact h
  · exact h.ite h.modVxl.strikeAt

theorem Device.storesOk.takeStrike {f : Frame} {lead : Word} {fb : Bool} (h : d.storesOk) :
    (d.takeStrike p f tick lead fb residence).storesOk := by
  unfold Device.takeStrike
  extract_lets v ahead d₁ d₂ d₃
  have h₁ : d₁.storesOk := h.modVxl.raiseHub.ite h
  have h₂ : d₂.storesOk := h₁.countRoute.ite h₁.sendStrikes
  have h₃ : d₃.storesOk := h₂.modVxl
  exact h.ite (h.modVxl.ite (h.ite ((h₃.announcedStrike.ite h₃).ite h₂)))

theorem Device.storesOk.strikeFrame {f : FrameHdr} {lead : Word} {fb : Bool} (h : d.storesOk) :
    (d.strikeFrame p f tick lead fb residence).storesOk := by
  unfold Device.strikeFrame
  have hl := h.linkTake (p := p) (f := f) (b := .strike tick lead fb)
  split
  next heq => rw [heq] at hl; exact hl.1
  next heq => rw [heq] at hl; exact (hl.2 _ rfl).takeStrike

theorem Device.storesOk.fallbackSend (h : d.storesOk) : d.fallbackSend.storesOk :=
  h.ite h.ownStrike.sendStrikes.modVxl

/-! ### The strike at a pilot (R51, R56, R177, R222, R230, R236, R293) -/

theorem Device.storesOk.newLimits (h : d.storesOk) : (d.newLimits r).storesOk := h.modPilot.modHome

theorem Device.storesOk.pilotStrike (h : d.storesOk) : (d.pilotStrike r).storesOk := by
  unfold Device.pilotStrike
  extract_lets p n vals d₁ prog d₂ d₃ d₄ d₅ k
  have h₃ : d₃.storesOk := h.modTick.newLimits.modPilot.foldl fun _ _ h => h.ite h.modUnit
  have h₅ : d₅.storesOk := h₃.withSfus.releaseHolds
  exact h.ite (h₅.ite (h₅.ite h₅.modTick).modComb)

/-! ### Plane store (R40, R41, R444) -/

theorem Device.storesOk.loadIdle (h : d.storesOk) : (d.loadIdle r c u).storesOk := h.ite h.modSwitch

theorem Device.storesOk.planeLoadDone (h : d.storesOk) : (d.planeLoadDone r).storesOk := by
  unfold Device.planeLoadDone
  split
  · exact h
  · split
    · exact h
    · exact (h.foldl fun _ _ h => h.loadIdle.ite h).ite ((h.foldl fun _ _ h => h.loadIdle).modPilot)

/-! ### End-of-comb markers (R57, R119, R190, R255, R266) -/

theorem Device.storesOk.eocMarker (h : d.storesOk) : (d.eocMarker u).storesOk := by
  unfold Device.eocMarker
  dsimp only
  split
  · exact h.drainOut
  · refine .trySwap ?_
    refine .modPilot ?_
    split
    · exact h.drainOut.modUnit.modSu
    · exact h.drainOut.modUnit.modIou
    · exact h.drainOut.modUnit

/-! ### The issue of a swap (R57, R60, R63) -/

theorem Device.storesOk.flushSite (h : d.storesOk) : (d.flushSite u).storesOk :=
  h.ite ((((h.foldl fun _ _ h => h.staleSwitch).foldl fun _ _ h => h.staleUnit).modSwitch).modUnit)

theorem Device.storesOk.flushRegion (h : d.storesOk) : (d.flushRegion r).storesOk := h.foldl fun _ _ h => h.flushSite

theorem Device.storesOk.checkLate {w : SwapRun} (h : d.storesOk) : (d.checkLate r w).storesOk := by
  unfold Device.checkLate
  dsimp only
  split
  · exact h.raiseFree.modTick.ite h
  · exact h

theorem Device.storesOk.noteIssue (h : d.storesOk) : (d.noteIssue r t).storesOk :=
  h.ite (h.modComb.checkLate.ite h.modComb)

theorem Device.storesOk.swapIssue (h : d.storesOk) : (d.swapIssue r).storesOk := by
  unfold Device.swapIssue
  dsimp only
  split
  · exact h
  · exact h.ite h.modPilot.noteIssue

/-! ### The start of a comb in a unit (R42, R178, R182, R252, R263, R266) -/

theorem Device.storesOk.startMu (h : d.storesOk) : (d.startMu u).storesOk := h.modMu

theorem Device.storesOk.startSfu {slots : Nat → Slot → Slot} (h : d.storesOk) : (d.startSfu u slots).storesOk :=
  h.modSfu

theorem Device.storesOk.startSu (h : d.storesOk) : (d.startSu u).storesOk := h.modSu

theorem Device.storesOk.renameCtxs {m : List (Nat × Nat)} (h : d.storesOk) : (d.renameCtxs u m).storesOk := by
  unfold Device.renameCtxs
  exact h.ite (h.same (by rfl))

theorem Device.storesOk.startIou (h : d.storesOk) : (d.startIou u).storesOk := h.renameCtxs.modIou

theorem Device.storesOk.startUnit {slots : Nat → Slot → Slot} (h : d.storesOk) :
    (d.startUnit u slots).storesOk := by
  unfold Device.startUnit
  split
  · exact h.startMu
  · exact h.startSfu
  · exact h.startSu
  · exact h.startIou

/-! ### The switch clk (R42, R59, R84) -/

theorem Device.storesOk.switchSite (h : d.storesOk) : (d.switchSite u).storesOk := h.ite h.modSwitch.startUnit

theorem Device.storesOk.reloadPlanes {bad : List Nat} (h : d.storesOk) : (d.reloadPlanes r c bad).storesOk := by
  unfold Device.reloadPlanes
  dsimp only
  split
  · exact ((h.foldl fun _ _ h => h.loadIdle).modPilot).modTick
  · exact (((h.foldl fun _ _ h => h.loadIdle).modPilot).modTick).modComb

theorem Device.storesOk.endTick {last stop : Nat} (h : d.storesOk) : (d.endTick last stop).storesOk :=
  h.ite (h.postReport.tickOff.ite h.postReport)

theorem Device.storesOk.swapDone {w : SwapRun} (h : d.storesOk) : (d.swapDone w).storesOk :=
  ((h.logEnter.modComb.foldl fun _ _ h => h.ite h.modPilot).endTick).ite
    ((h.logEnter.modComb.foldl fun _ _ h => h.ite h.modPilot).markBelow)

theorem Device.storesOk.settleSwaps {n : Nat} (h : d.storesOk) : (Device.settleSwaps n d).storesOk := by
  induction n generalizing d with
  | zero => exact h
  | succ n ih =>
    unfold Device.settleSwaps
    split
    · exact h
    · exact (ih h.swapDone).ite h

theorem Device.storesOk.noteDone (h : d.storesOk) : (d.noteDone r t).storesOk := by
  unfold Device.noteDone
  split
  · exact h
  · exact h.ite h.modComb.settleSwaps

theorem Device.storesOk.applyAfter {ms : List SummaryMsg} (h : d.storesOk) : (d.applyAfter r ms).storesOk := by
  induction ms generalizing d with
  | nil => exact h
  | cons m ms ih =>
    unfold Device.applyAfter
    exact ih h.takeSummary

theorem Device.storesOk.completeSwap (h : d.storesOk) : (d.completeSwap r t).storesOk := by
  unfold Device.completeSwap
  extract_lets d₁ late d₂ e d₃ d₄ d₅
  have he : e.storesOk := h.flushRegion.modPilot.applyAfter
  have h₃ : d₃.storesOk := he.withClkPilots
  have h₄ : d₄.storesOk := h₃.foldl fun _ _ h => h.switchSite
  exact (h₄.ite h₄.releaseHolds).noteDone

theorem Device.storesOk.swapComplete (h : d.storesOk) : (d.swapComplete r).storesOk := by
  unfold Device.swapComplete
  dsimp only
  split
  · exact h
  · split
    · exact h
    · split
      · exact h.completeSwap
      · exact h.raiseFree.stopRegion.ite h.reloadPlanes

/-! ### REGION_START (R229, R418) -/

theorem Device.storesOk.loadActive {slots : Nat → Nat → Slot → Slot} (h : d.storesOk) :
    (d.loadActive r c slots).storesOk :=
  h.foldl fun _ _ h => h.ite h.modSwitch.startUnit

theorem Device.storesOk.catchUp (h : d.storesOk) : (d.catchUp r).storesOk := by
  unfold Device.catchUp
  dsimp only
  split
  · exact h.ite (.loadActive (h.same (by rfl)))
  · exact h

theorem Device.storesOk.regionStart (h : d.storesOk) : (d.regionStart r).storesOk := by
  unfold Device.regionStart
  split
  · exact h
  · exact h.startRegionClock.complete.catchUp

end Sys2Proof.Machine
end

section
/-! SUPPORT. That every operation of the comb set, passing time, the scrubbers and the start of a command keeps the
byte stores of the hub in their canonical form. -/

namespace Sys2Proof.Machine

variable {d : Device} {r u row : Nat} {id : CmdId}

/-! ### COMB_LOAD and COMB_VERIFY (R44, R430, R460, R500) -/

theorem Device.storesOk.installSet {img : List Byte} (h : d.storesOk) : (d.installSet img).storesOk :=
  h.modComb.modSec

theorem Device.storesOk.readImage {a n : Nat} (h : d.storesOk) : (d.readImage a n).2.storesOk := by
  unfold Device.readImage
  refine .ite_snd h ?_
  split
  next heq =>
    have hh := Device.storesOk.of_eq heq h.hbmRead
    refine .ite_snd hh ?_
    split
    next heq =>
      have ht := Device.storesOk.of_eq heq hh.hbmRead
      exact .ite_snd ht ht

theorem Device.storesOk.loadCmd {ps : List Byte} {install : Bool} (h : d.storesOk) :
    (d.loadCmd id ps install).storesOk := by
  unfold Device.loadCmd
  dsimp only
  split
  · exact h.complete
  · have hr := h.readImage (a := fieldAt ps 0 8) (n := fieldAt ps 8 8)
    split
    · exact hr.complete
    · split
      · exact hr.complete
      · exact (hr.installSet.ite hr).complete

theorem Device.storesOk.combLoad (h : d.storesOk) : (d.combLoad id).storesOk :=
  h.ite (h.runCmd fun _ _ h => h.complete.ite (h.complete.ite h.loadCmd))

theorem Device.storesOk.combVerify (h : d.storesOk) : (d.combVerify id).storesOk :=
  h.ite (h.runCmd fun _ _ h => h.loadCmd)

/-! ### What activation clears -/

theorem Device.storesOk.clearJob {split : BitVec 2} (h : d.storesOk) : (d.clearJob split).storesOk :=
  ((((h.same (by rfl)).foldl fun _ _ h => h.modPilot).foldl fun _ _ h => h.modHome).foldl
    fun _ _ h => h.modStack).modVxl.modTick

/-! ### What activation starts -/

theorem Device.storesOk.startRegion {entry : Nat} (h : d.storesOk) : (d.startRegion entry r).storesOk :=
  h.modPilot.loadActive

theorem Device.storesOk.activatePower (h : d.storesOk) : d.activatePower.storesOk :=
  ((h.foldl fun _ _ h => h.modPwrRegion).foldl fun _ _ h => h.placeRegion).idleFreqs

theorem Device.storesOk.jobMarker {s : CombSet} (h : d.storesOk) : (d.jobMarker s).storesOk := h.logEnter

theorem Device.storesOk.activate {s : CombSet} (h : d.storesOk) : (d.activate s).storesOk :=
  (((h.haltReport.clearJob.modComb.foldl fun _ _ h => h.modSfu).foldl fun _ _ h =>
    h.startRegion).activatePower).jobMarker

theorem Device.storesOk.combActivate (h : d.storesOk) : (d.combActivate id).storesOk := by
  unfold Device.combActivate
  refine .runCmd h fun _ _ h => ?_
  split
  · exact h.complete
  · split
    · exact h.complete
    · split
      · exact h.complete
      · exact h.complete
      · exact h.activate.complete

/-! ### COMB_UNLOAD and COMB_STATUS (R44) -/

theorem Device.storesOk.unload (h : d.storesOk) : d.unload.storesOk :=
  ((((h.foldl fun _ _ h => h.homeStop).modComb).foldl fun _ _ h => h.modStack).modSec).foldl fun _ _ h => h.placeRegion

theorem Device.storesOk.combUnload (h : d.storesOk) : (d.combUnload id).storesOk :=
  h.runCmd fun _ _ h => h.complete.ite (h.complete.ite h.unload.complete)

theorem Device.storesOk.combStatus (h : d.storesOk) : (d.combStatus id).storesOk := h.runCmd fun _ _ h => h.complete

/-! ### Counts of waiting (R72, R105) -/

theorem Device.storesOk.holdSwitch (h : d.storesOk) : (d.holdSwitch u).storesOk := h.ite (h.ite h.modSwitch)

theorem Device.storesOk.countUnit (h : d.storesOk) : (d.countUnit u).storesOk := h.ite (h.ite h.modUnit)

/-! ### Waits (R293) -/

theorem Device.storesOk.passWaits (h : d.storesOk) : (d.passWaits r).storesOk := by
  exact h.same (by rfl)

theorem Device.storesOk.longestWait (h : d.storesOk) : (d.longestWait r).storesOk := h.ite h.modHome

/-! ### A clk -/

theorem Device.storesOk.clkUnit (h : d.storesOk) : (d.clkUnit u).storesOk := by
  unfold Device.clkUnit
  dsimp only
  split
  · exact h.modUnit.modMu
  · exact h.modUnit.modSfu
  · exact h.modUnit.modSu
  · exact h.modUnit

theorem Device.storesOk.unitClk (h : d.storesOk) : (d.unitClk u).storesOk := by
  unfold Device.unitClk
  split
  · exact h
  · split
    · exact h.muFill.recvPump.drainClk.drainOut
    · exact h.recvPump.drainOut
    · exact h.drainOut

theorem Device.storesOk.clkSwitch (h : d.storesOk) : (d.clkSwitch u).storesOk := h.ite h.modSwitch

theorem Device.storesOk.regionClk (h : d.storesOk) : (d.regionClk r).storesOk := by
  unfold Device.regionClk
  extract_lets here units d₁ d₂ active held flush d₃ d₄ d₅ d₆ d₇
  have h₁ : d₁.storesOk := h.foldl fun _ _ h => h.holdSwitch
  have h₃ : d₃.storesOk := (h₁.foldl fun _ _ h => h.countUnit).modPilot
  have h₄ : d₄.storesOk := h₃.flushRegion.ite h₃
  have h₅ : d₅.storesOk := h₄.foldl fun _ _ h => h.clkSwitch
  have h₆ : d₆.storesOk := h₅.foldl fun _ _ h => h.clkUnit
  have h₇ : d₇.storesOk := h₆.withClkPilots
  exact h₇.passWaits.longestWait.foldl fun _ _ h => h.unitClk

theorem Device.storesOk.idleClk (h : d.storesOk) : (d.idleClk r).storesOk := h.passWaits.longestWait

theorem Device.storesOk.homesClk (h : d.storesOk) : d.homesClk.storesOk :=
  h.ite (h.foldl fun _ _ h => h.homeClk.ite h)

theorem Device.storesOk.deliverRings (h : d.storesOk) : d.deliverRings.storesOk :=
  h.foldl fun _ _ h => h.foldl fun _ _ h => h.tryDeliver

theorem Device.storesOk.hubClk (h : d.storesOk) : d.hubClk.storesOk :=
  (((((h.modHost.settle.announcedStrike.ite h.modHost.settle).ite
    ((h.modHost.settle.announcedStrike.ite h.modHost.settle).unpark)).homesClk).payOwed).deliverRings).pump

theorem Device.storesOk.timeStep (h : d.storesOk) : d.timeStep.storesOk :=
  (h.same (by rfl)).ite ((((h.same (by rfl)).foldl fun _ _ h => h.catchUp).foldl fun _ _ h => h.ite
    (h.regionClk.ite (h.idleClk.ite h))).hubClk)

/-! ### Row scrubbers (R273, R274) -/

theorem Device.storesOk.scrubRecord {w : RecPlace} {store : Byte} (h : d.storesOk) :
    (d.scrubRecord w store row).storesOk :=
  h.record

theorem Device.storesOk.scrubMu (h : d.storesOk) : (d.scrubMu u).storesOk := h.ite (h.modMu.scrubRecord.ite h.modMu)

theorem Device.storesOk.scrubSfu (h : d.storesOk) : (d.scrubSfu u).storesOk :=
  h.ite (h.modSfu.scrubRecord.ite h.modSfu)

theorem Device.storesOk.scrubSu (h : d.storesOk) : (d.scrubSu u).storesOk := h.ite (h.modSu.scrubRecord.ite h.modSu)

theorem Device.storesOk.scrubRing (h : d.storesOk) : d.scrubRing.storesOk :=
  h.ite ((h.same (by rfl)).scrubRecord.ite (h.same (by rfl)))

theorem Device.storesOk.scrubLog (h : d.storesOk) : (d.scrubLog).storesOk := by
  unfold Device.scrubLog
  exact h.ite (.ite (.scrubRecord ⟨h.1, h.2⟩) ⟨h.1, h.2⟩)

theorem Device.storesOk.scrubRead {w : ScrubStore} (h : d.storesOk) : (d.scrubRead w).storesOk := by
  unfold Device.scrubRead
  split
  · exact h.scrubRing
  · exact h.scrubLog
  · split
    · exact h
    · split
      · exact h.scrubMu
      · exact h.scrubSfu
      · exact h.scrubSu
      · exact h

theorem Device.storesOk.backMu (h : d.storesOk) : (d.backMu u).storesOk := by
  unfold Device.backMu
  split
  · exact h
  · exact h.ite h.modMu

theorem Device.storesOk.backSfu (h : d.storesOk) : (d.backSfu u).storesOk := by
  unfold Device.backSfu
  split
  · exact h
  · exact h.ite h.modSfu

theorem Device.storesOk.backSu (h : d.storesOk) : (d.backSu u).storesOk := by
  unfold Device.backSu
  dsimp only
  split
  · exact h
  · exact h.ite h.modSu

theorem Mem.wf_scrubPut {m : Mem} (h : m.wf = true) : ((scrubPut m row).getD m).wf = true := by
  unfold scrubPut
  split
  · exact Mem.wf_setMark row none h
  · exact h

theorem Device.storesOk.backRing (h : d.storesOk) : d.backRing.storesOk := by
  unfold Device.backRing
  split
  · exact h
  · exact ⟨Mem.wf_scrubPut h.1, h.2⟩

theorem Device.storesOk.backLog (h : d.storesOk) : d.backLog.storesOk := by
  unfold Device.backLog
  split
  · exact h
  · exact h.modLog Mem.wf_scrubPut

theorem Device.storesOk.scrubBack {w : ScrubStore} (h : d.storesOk) : (d.scrubBack w).storesOk := by
  unfold Device.scrubBack
  split
  · exact h.backRing
  · exact h.backLog
  · split
    · exact h
    · split
      · exact h.backMu
      · exact h.backSfu
      · exact h.backSu
      · exact h

/-! ### Plane scrubbers (R444, R445) -/

theorem Device.storesOk.planeRecord {sev : Nat} {w : RecPlace} {plane outcome slot : Nat} (h : d.storesOk) :
    (d.planeRecord sev w plane outcome slot row).storesOk :=
  h.record

theorem Device.storesOk.planeCorrected (h : d.storesOk) : d.planeCorrected.storesOk := h.modSec

theorem Device.storesOk.planeBroken (h : d.storesOk) : d.planeBroken.storesOk := h.modSec

theorem Device.storesOk.scrubPlane {which : Nat} (h : d.storesOk) : (d.scrubPlane u which).storesOk := by
  unfold Device.scrubPlane
  dsimp only
  split
  · exact h
  · split
    · exact h.modSwitch
    · exact h.modSwitch.modSwitch.planeCorrected.ite
        h.modSwitch.modSwitch.planeCorrected.planeRecord.raiseOnce.modTick
    · exact h.modSwitch.planeBroken.planeRecord.modSwitch.ite h.modSwitch.planeBroken.planeRecord.raiseFree.stopRegion

theorem Device.storesOk.scrubStores {idle : Bool} (h : d.storesOk) : (d.scrubStores r idle).storesOk := by
  unfold Device.scrubStores
  refine h.ite ?_
  split
  dsimp only
  split
  · exact h.modComb
  · exact h.modComb.modComb.modPilot.ite h.modComb.modComb.planeCorrected
  · exact h.modComb.planeRecord.modPilot.ite h.modComb.planeRecord.planeBroken.raise

theorem Device.storesOk.planeScrub {w : PlaneStore} (h : d.storesOk) : (d.planeScrub w).storesOk := by
  unfold Device.planeScrub
  split
  · exact h.scrubPlane.ite h
  · exact h.scrubStores.ite h
  · exact h.scrubStores.ite h

/-- The row of every opcode keeps the stores. -/
theorem Device.storesOk.rowOf {op : Nat} (h : d.storesOk) : (rowOf op id d).storesOk := by
  unfold Sys2Proof.Machine.rowOf
  split
  · exact h.hello
  · exact h.statusCmd
  · exact h.factoryMap
  · exact h.romRead
  · exact h.hringCreate
  · exact h.hringDestroy
  · exact h.eventRoute
  · exact h.devReset
  · exact h.combActivate
  · exact h.combUnload
  · exact h.combStatus
  · exact h.tickConfig
  · exact h.tickStart
  · exact h.tickStop
  · exact h.tickStage
  · exact h.tickStatus
  · exact h.flagWrite
  · exact h.barrierConfig
  · exact h.counterConfig
  · exact h.ringCreate
  · exact h.ringDestroy
  · exact h.chanOpen
  · exact h.chanClose
  · exact h.chanStatus
  · exact h.leewaySet
  · exact h.pwrStateCmd
  · exact h.pwrRegionCmd
  · exact h.pwrStatus
  · exact h.pwrLimit
  · exact h.hltRead
  · exact h.devcardLoad
  · exact h.watchdogSet
  · exact h.inputClear
  · exact h.hltThresh
  · exact h.certRead
  · exact h.secStatus
  · exact h.vxlPortConfig
  · exact h.vxlPortEnable
  · exact h.vxlPortDisable
  · exact h.vxlSetId
  · exact h.vxlBearingSet
  · exact h.vxlMcastSet
  · exact h.vxlMcastCopy
  · exact h.vxlE2eConfig
  · exact h.vxlStatus
  · exact h.vxlTickRole
  · exact h.logStream
  · exact h.counterRead
  · exact h.logStatus
  · exact h

theorem Device.storesOk.startRefused {op : Nat} {ps : List Byte} (h : d.storesOk) :
    StoresKept (d.startRefused id op ps) := by
  unfold Device.startRefused
  split
  · exact h.modCmd.complete.kept
  · exact .ite h.rowOf.kept .none

theorem Device.storesOk.begun (h : d.storesOk) : (d.begun id).storesOk := h.modCmd

theorem Device.storesOk.commandStart (h : d.storesOk) : (d.commandStart id).storesOk := by
  unfold Device.commandStart
  split
  · exact h
  · split
    · exact h
    · dsimp only
      split
      · exact h.begun.complete
      next =>
        exact h.begun.startRefused.getD h.begun

end Sys2Proof.Machine
end

section
/-! SUPPORT and PROOFS. Every command keeps the byte stores of the hub canonical, and with it every step. -/

namespace Sys2Proof.Machine

variable {s t : State} {c : Instr} {f : Device → Device}

theorem State.liftAny_storesOk (hf : ∀ {d : Device}, d.storesOk → (f d).storesOk) (hs : s.dev.storesOk)
    (h : s.liftAny f = .next t) : t.dev.storesOk :=
  Host.Outcome.next.inj h ▸ hf hs

theorem State.lift_storesOk (hf : ∀ {d : Device}, d.storesOk → (f d).storesOk) (hs : s.dev.storesOk)
    (h : s.lift f = .next t) : t.dev.storesOk :=
  State.liftAny_storesOk (fun h => (hf h).ite h) hs h

theorem State.liftIf_storesOk (hf : ∀ {d : Device}, d.storesOk → (f d).storesOk) (hs : s.dev.storesOk)
    (h : s.liftIf c f = .next t) : t.dev.storesOk := by
  rw [State.liftIf_next h]
  exact (hf hs).ite hs

theorem execDescriptorComplete_storesOk {u : SiteIx} {x : Fin 8} (hs : s.dev.storesOk)
    (h : execDescriptorComplete u x s = .next t) : t.dev.storesOk := by
  refine State.lift_storesOk (fun h => ?_) hs h
  split
  · exact (h.foldl fun _ _ h => h.closeDesc).pump.descriptorComplete.ite h
  · exact h.descriptorComplete

/-- Every command keeps the stores, whatever its operands. -/
theorem exec_storesOk (hs : s.dev.storesOk) (h : exec c s = .next t) : t.dev.storesOk :=
  match c with
  | .hwr .. => State.liftIf_storesOk (fun h => h.hwr) hs h
  | .hrd .. => State.liftIf_storesOk (fun h => h.hrd) hs h
  | .hostTimeRead .. => State.lift_storesOk (fun h => h.hrd) hs h
  | .doorbell .. => State.lift_storesOk (fun h => h.ringDoorbell) hs h
  | .cplHeadWrite .. => State.lift_storesOk (fun h => h.writeCplHead) hs h
  | .resume .. => State.lift_storesOk (fun h => h.writeCtrl) hs h
  | .registerWrite .. => State.liftIf_storesOk (fun h => h.writeHostReg) hs h
  | .drdCpl .. => State.liftIf_storesOk (fun h => h.drdCpl.pump) hs h
  | .drdTimeout .. => State.lift_storesOk (fun h => h.drdFail) hs h
  | .ucieTrain .. => State.liftIf_storesOk (fun h => h.ite h.ucieTrain) hs h
  | .ucieModuleDrop .. => State.lift_storesOk (fun h => h.moduleDrop) hs h
  | .packetTake .. => State.lift_storesOk (fun h => h.packetTake) hs h
  | .commandStart .. => State.lift_storesOk (fun h => h.commandStart) hs h
  | .completionWrite .. => State.lift_storesOk (fun h => h.completionWrite) hs h
  | .notifyIntervalEnd .. => State.lift_storesOk (fun h => h.notifyIntervalEnd) hs h
  | .hello .. => State.lift_storesOk (fun h => h.hello) hs h
  | .status .. => State.lift_storesOk (fun h => h.statusCmd) hs h
  | .factoryMap .. => State.lift_storesOk (fun h => h.factoryMap) hs h
  | .romRead .. => State.lift_storesOk (fun h => h.romRead) hs h
  | .hringCreate .. => State.lift_storesOk (fun h => h.hringCreate) hs h
  | .hringDestroy .. => State.lift_storesOk (fun h => h.hringDestroy) hs h
  | .hringOff .. => State.lift_storesOk (fun h => h.hringOff) hs h
  | .eventRoute .. => State.lift_storesOk (fun h => h.eventRoute) hs h
  | .devReset .. => State.lift_storesOk (fun h => h.devReset) hs h
  | .deviceReset .. => State.lift_storesOk (fun h => h.deviceReset) hs h
  | .memCopy .. => State.lift_storesOk (fun h => h.memCopy.pump) hs h
  | .memFill .. => State.lift_storesOk (fun h => h.memFill) hs h
  | .combLoad .. => State.lift_storesOk (fun h => h.combLoad) hs h
  | .combVerify .. => State.lift_storesOk (fun h => h.combVerify) hs h
  | .combActivate .. => State.lift_storesOk (fun h => h.combActivate) hs h
  | .combUnload .. => State.lift_storesOk (fun h => h.combUnload) hs h
  | .combStatus .. => State.lift_storesOk (fun h => h.combStatus) hs h
  | .tickConfig .. => State.lift_storesOk (fun h => h.tickConfig) hs h
  | .tickStart .. => State.lift_storesOk (fun h => h.tickStart) hs h
  | .tickStop .. => State.lift_storesOk (fun h => h.tickStop) hs h
  | .tickStage .. => State.lift_storesOk (fun h => h.tickStage) hs h
  | .tickStatus .. => State.lift_storesOk (fun h => h.tickStatus) hs h
  | .flagWrite .. => State.lift_storesOk (fun h => h.flagWrite) hs h
  | .barrierConfig .. => State.lift_storesOk (fun h => h.barrierConfig) hs h
  | .counterConfig .. => State.lift_storesOk (fun h => h.counterConfig) hs h
  | .ringCreate .. => State.lift_storesOk (fun h => h.ringCreate) hs h
  | .ringDestroy .. => State.lift_storesOk (fun h => h.ringDestroy) hs h
  | .chanOpen .. => State.lift_storesOk (fun h => h.chanOpen) hs h
  | .chanClose .. => State.lift_storesOk (fun h => h.chanClose) hs h
  | .chanStatus .. => State.lift_storesOk (fun h => h.chanStatus) hs h
  | .endpointOff .. => State.lift_storesOk (fun h => h.endpointOff) hs h
  | .ringOff .. => State.lift_storesOk (fun h => h.ringOff) hs h
  | .leewaySet .. => State.lift_storesOk (fun h => h.leewaySet) hs h
  | .pwrState .. => State.lift_storesOk (fun h => h.pwrStateCmd) hs h
  | .pwrRegion .. => State.lift_storesOk (fun h => h.pwrRegionCmd) hs h
  | .pwrStatus .. => State.lift_storesOk (fun h => h.pwrStatus) hs h
  | .pwrLimit .. => State.lift_storesOk (fun h => h.pwrLimit) hs h
  | .hltRead .. => State.lift_storesOk (fun h => h.hltRead) hs h
  | .devcardLoad .. => State.lift_storesOk (fun h => h.devcardLoad) hs h
  | .watchdogSet .. => State.lift_storesOk (fun h => h.watchdogSet) hs h
  | .inputClear .. => State.lift_storesOk (fun h => h.inputClear) hs h
  | .hltThresh .. => State.lift_storesOk (fun h => h.hltThresh) hs h
  | .fwLoad .. => State.lift_storesOk (fun h => h.fwLoad) hs h
  | .attest .. => State.lift_storesOk (fun h => h.attest) hs h
  | .certRead .. => State.lift_storesOk (fun h => h.certRead) hs h
  | .secStatus .. => State.lift_storesOk (fun h => h.secStatus) hs h
  | .vxlPortConfig .. => State.lift_storesOk (fun h => h.vxlPortConfig) hs h
  | .vxlPortEnable .. => State.lift_storesOk (fun h => h.vxlPortEnable) hs h
  | .vxlPortDisable .. => State.lift_storesOk (fun h => h.vxlPortDisable) hs h
  | .portOff .. => State.lift_storesOk (fun h => h.portOff) hs h
  | .vxlSetId .. => State.lift_storesOk (fun h => h.vxlSetId) hs h
  | .vxlBearingSet .. => State.lift_storesOk (fun h => h.vxlBearingSet) hs h
  | .vxlMcastSet .. => State.lift_storesOk (fun h => h.vxlMcastSet) hs h
  | .vxlMcastCopy .. => State.lift_storesOk (fun h => h.vxlMcastCopy.pump) hs h
  | .vxlE2eConfig .. => State.lift_storesOk (fun h => h.vxlE2eConfig) hs h
  | .vxlStatus .. => State.lift_storesOk (fun h => h.vxlStatus) hs h
  | .vxlTickRole .. => State.lift_storesOk (fun h => h.vxlTickRole) hs h
  | .logRead .. => State.lift_storesOk (fun h => h.logRead) hs h
  | .logStream .. => State.lift_storesOk (fun h => h.logStream) hs h
  | .counterRead .. => State.lift_storesOk (fun h => h.counterRead) hs h
  | .logStatus .. => State.lift_storesOk (fun h => h.logStatus) hs h
  | .tickTimerStrike .. => State.lift_storesOk (fun h => h.timerStrike) hs h
  | .tickInEdge .. => State.lift_storesOk (fun h => h.tickInEdge) hs h
  | .fallbackStrike .. => State.lift_storesOk (fun h => h.fallback) hs h
  | .pilotStrike .. => State.lift_storesOk (fun h => h.pilotStrike) hs h
  | .caughtUpTickStart .. => State.lift_storesOk (fun h => h.caughtUp) hs h
  | .masterStrike .. => State.lift_storesOk (fun h => h.announcedStrike.ite h) hs h
  | .eocMarker .. => State.lift_storesOk (fun h => h.eocMarker) hs h
  | .swapTarget .. => State.lift_storesOk (fun h => h.swapTarget) hs h
  | .swapIssue .. => State.lift_storesOk (fun h => h.swapIssue) hs h
  | .swapComplete .. => State.lift_storesOk (fun h => h.swapComplete) hs h
  | .planeLoadDone .. => State.lift_storesOk (fun h => h.planeLoadDone) hs h
  | .wordSend .. => State.lift_storesOk (fun h => h.wordSend) hs h
  | .seamArrival .. => State.lift_storesOk (fun h => h.seamArrival) hs h
  | .seamRelockDone k => State.lift_storesOk (f := fun e => { e with relock := e.relock.filter (· != k.val) }) id hs h
  | .bridgeWordArrival .. => State.lift_storesOk (fun h => h.bridgeArrival) hs h
  | .step .. => State.lift_storesOk (fun h => h.stepToken) hs h
  | .bound .. => State.lift_storesOk (fun h => h.boundToken) hs h
  | .done .. => State.lift_storesOk (fun h => h.doneToken) hs h
  | .branchTok .. => State.lift_storesOk (fun h => h.branchToken) hs h
  | .route .. => State.lift_storesOk (fun h => h.routeToken) hs h
  | .stallWatchdog .. => State.lift_storesOk (fun h => h.stallWatchdog) hs h
  | .haltReport .. => State.lift_storesOk (fun h => h.haltReport) hs h
  | .mma .. => State.lift_storesOk (fun h => h.mma) hs h
  | .vmma .. => State.lift_storesOk (fun h => h.vmma) hs h
  | .drain .. => State.lift_storesOk (fun h => h.drain) hs h
  | .fence .. => State.lift_storesOk (fun h => h.fence) hs h
  | .loop .. => State.lift_storesOk (fun h => h.muLoop) hs h
  | .vec .. => State.lift_storesOk (fun h => h.vec) hs h
  | .endOp .. => State.lift_storesOk (fun h => h.muEnd) hs h
  | .muNop .. => State.lift_storesOk (fun h => h.muNop) hs h
  | .mmaRetire .. => State.lift_storesOk (fun h => h.mmaRetire) hs h
  | .drainComplete .. => State.lift_storesOk (fun h => h.drainComplete) hs h
  | .vadd .. => State.lift_storesOk (fun h => h.laneOp) hs h
  | .vsub .. => State.lift_storesOk (fun h => h.laneOp) hs h
  | .vmul .. => State.lift_storesOk (fun h => h.laneOp) hs h
  | .vfma .. => State.lift_storesOk (fun h => h.laneOp) hs h
  | .vmax .. => State.lift_storesOk (fun h => h.laneOp) hs h
  | .vmin .. => State.lift_storesOk (fun h => h.laneOp) hs h
  | .vabs .. => State.lift_storesOk (fun h => h.laneOp) hs h
  | .vneg .. => State.lift_storesOk (fun h => h.laneOp) hs h
  | .vcmp .. => State.lift_storesOk (fun h => h.laneOp) hs h
  | .vsel .. => State.lift_storesOk (fun h => h.laneOp) hs h
  | .vmov .. => State.lift_storesOk (fun h => h.laneOp) hs h
  | .vcvt .. => State.lift_storesOk (fun h => h.laneOp) hs h
  | .vshl .. => State.lift_storesOk (fun h => h.laneOp) hs h
  | .vshr .. => State.lift_storesOk (fun h => h.laneOp) hs h
  | .viota .. => State.lift_storesOk (fun h => h.viota) hs h
  | .vbcast .. => State.lift_storesOk (fun h => h.vbcast) hs h
  | .vext .. => State.lift_storesOk (fun h => h.vext) hs h
  | .vfn .. => State.lift_storesOk (fun h => h.laneOp) hs h
  | .vred .. => State.lift_storesOk (fun h => h.vred) hs h
  | .sarg .. => State.lift_storesOk (fun h => h.sarg) hs h
  | .sop .. => State.lift_storesOk (fun h => h.sop) hs h
  | .vqnt .. => State.lift_storesOk (fun h => h.vqnt) hs h
  | .sclose .. => State.lift_storesOk (fun h => h.sclose) hs h
  | .scaleReport .. => State.lift_storesOk (fun h => h.scaleReport) hs h
  | .scaleMessage .. => State.lift_storesOk (fun h => h.scaleMessage) hs h
  | .sscale .. => State.lift_storesOk (fun h => h.sscale) hs h
  | .vbq .. => State.lift_storesOk (fun h => h.vbq) hs h
  | .vbx .. => State.lift_storesOk (fun h => h.vbx) hs h
  | .vsum .. => State.lift_storesOk (fun h => h.vsum) hs h
  | .vld .. => State.lift_storesOk (fun h => h.vld) hs h
  | .vst .. => State.lift_storesOk (fun h => h.vst) hs h
  | .sld .. => State.lift_storesOk (fun h => h.sld) hs h
  | .sst .. => State.lift_storesOk (fun h => h.sst) hs h
  | .vrecv .. => State.lift_storesOk (fun h => h.vrecv) hs h
  | .vsend .. => State.lift_storesOk (fun h => h.vsend) hs h
  | .srecv .. => State.lift_storesOk (fun h => h.srecv) hs h
  | .ssend .. => State.lift_storesOk (fun h => h.ssend) hs h
  | .sli .. => State.lift_storesOk (fun h => h.sli) hs h
  | .vloop .. => State.lift_storesOk (fun h => h.vloop) hs h
  | .setvl .. => State.lift_storesOk (fun h => h.setvl) hs h
  | .setidx .. => State.lift_storesOk (fun h => h.setidx) hs h
  | .vnop .. => State.lift_storesOk (fun h => h.vecIssue fun _ _ h => h.kept) hs h
  | .vend .. => State.lift_storesOk (fun h => h.vend) hs h
  | .setsh .. => State.lift_storesOk (fun h => h.setsh) hs h
  | .waitf .. => State.lift_storesOk (fun h => h.waitf) hs h
  | .waitfEnd .. => State.lift_storesOk (fun h => h.waitfEnd) hs h
  | .setf .. => State.lift_storesOk (fun h => h.setf) hs h
  | .waits .. => State.lift_storesOk (fun h => h.waits) hs h
  | .waitsEnd .. => State.lift_storesOk (fun h => h.waitsEnd) hs h
  | .br .. => State.lift_storesOk (fun h => h.br) hs h
  | .loopp .. => State.lift_storesOk (fun h => h.loopp) hs h
  | .token .. => State.lift_storesOk (fun h => h.tokenOp) hs h
  | .event .. => State.lift_storesOk (fun h => h.userEvent) hs h
  | .pub .. => State.lift_storesOk (fun h => h.pub) hs h
  | .clrs .. => State.lift_storesOk (fun h => h.clrs) hs h
  | .waitc .. => State.lift_storesOk (fun h => h.waitcOp) hs h
  | .waitcEnd .. => State.lift_storesOk (fun h => h.waitcEnd) hs h
  | .swap .. => State.lift_storesOk (fun h => h.swapOp) hs h
  | .pilotNop .. => State.lift_storesOk (fun h => h.pilotIssue fun _ _ h => h.pilotStep) hs h
  | .summaryArrival .. => State.lift_storesOk (fun h => h.summaryArrival) hs h
  | .lockstep .. => State.lift_storesOk (fun h => h.lockstep) hs h
  | .eventReceive .. => State.lift_storesOk (fun h => h.eventReceive) hs h
  | .flagChange .. => State.lift_storesOk (fun h => h.flagChange.pump) hs h
  | .waitWatchdog .. => State.lift_storesOk (fun h => h.waitWatchdog) hs h
  | .homeStop .. => State.lift_storesOk (fun h => h.homeStop.pump) hs h
  | .chanSend .. => State.lift_storesOk (fun h => h.chanSend) hs h
  | .sendRetry .. => State.lift_storesOk (fun h => h.sendRetry) hs h
  | .placementRequest .. => State.lift_storesOk (fun h => h.placementRequest) hs h
  | .placementReply .. => State.lift_storesOk (fun h => h.placementReply) hs h
  | .messageCopyDone .. => State.lift_storesOk (fun h => h.messageCopyDone) hs h
  | .ringRelease .. => State.lift_storesOk (fun h => h.ringRelease) hs h
  | .placementTimeout .. => State.lift_storesOk (fun h => h.placementTimeout) hs h
  | .descriptorStart .. => State.lift_storesOk (fun h => h.descriptorStart) hs h
  | .descriptorWaitEnd .. => State.lift_storesOk (fun h => h.descriptorWaitEnd) hs h
  | .descriptorFetch .. => State.lift_storesOk (fun h => h.descriptorFetch) hs h
  | .streamRead .. => State.lift_storesOk (fun h => h.streamRead) hs h
  | .streamWrite .. => State.lift_storesOk (fun h => h.streamWrite) hs h
  | .streamCopy .. => State.lift_storesOk (fun h => h.streamCopy) hs h
  | .descriptorComplete .. => execDescriptorComplete_storesOk hs h
  | .landingPacket .. => State.lift_storesOk (fun h => h.landingPacket) hs h
  | .windowRelease .. => State.lift_storesOk (fun h => h.windowRelease) hs h
  | .packingWrite .. => State.lift_storesOk (fun h => h.packingWrite) hs h
  | .packingRead .. => State.lift_storesOk (fun h => h.packingRead) hs h
  | .scrubRead .. => State.lift_storesOk (fun h => h.scrubRead) hs h
  | .scrubWriteback .. => State.lift_storesOk (fun h => h.scrubBack) hs h
  | .planeScrubRead .. => State.lift_storesOk (fun h => h.planeScrub) hs h
  | .hbmReadReturn .. => State.lift_storesOk (fun h => h.hbmReadReturn) hs h
  | .hbmWriteAccept .. => State.lift_storesOk (fun h => h.hbmWriteAccept) hs h
  | .patrolScrub .. => State.lift_storesOk (fun h => h.patrolScrub) hs h
  | .innerCountRead .. => State.lift_storesOk (fun h => h.innerCountRead) hs h
  | .hbmTempRead .. => State.lift_storesOk (fun h => h.hbmTempRead) hs h
  | .selfRefreshEntry .. => State.lift_storesOk (fun h => h.selfRefreshEntry) hs h
  | .selfRefreshExit .. => State.lift_storesOk (fun h => h.selfRefreshExit.unpark.pump) hs h
  | .hbmTrain .. => State.lift_storesOk (fun h => h.hbmTrain) hs h
  | .portTrained .. => State.lift_storesOk (fun h => h.portTrained) hs h
  | .portRetrain .. => State.lift_storesOk (fun h => h.retrainFor) hs h
  | .retrainDone .. => State.lift_storesOk (fun h => h.retrainDone) hs h
  | .retrainTimeout .. => State.lift_storesOk (fun h => h.retrainTimeout) hs h
  | .replayTimeout .. => State.lift_storesOk (fun h => h.replay) hs h
  | .linkAck .. => State.lift_storesOk (fun h => h.linkAck) hs h
  | .strike .. => State.lift_storesOk (fun h => h.strikeFrame) hs h
  | .flag .. => State.lift_storesOk (fun h => h.frameIn) hs h
  | .ack .. => State.lift_storesOk (fun h => h.frameIn) hs h
  | .nak .. => State.lift_storesOk (fun h => h.frameIn) hs h
  | .grant .. => State.lift_storesOk (fun h => h.frameIn) hs h
  | .prune .. => State.lift_storesOk (fun h => h.frameIn) hs h
  | .placeResp .. => State.lift_storesOk (fun h => h.frameIn) hs h
  | .readReq .. => State.lift_storesOk (fun h => h.frameIn) hs h
  | .creditReq .. => State.lift_storesOk (fun h => h.frameIn) hs h
  | .withdraw .. => State.lift_storesOk (fun h => h.frameIn) hs h
  | .placeReq .. => State.lift_storesOk (fun h => h.frameIn) hs h
  | .regRead .. => State.lift_storesOk (fun h => h.frameIn) hs h
  | .writeTxn .. => State.liftIf_storesOk (fun h => h.frameIn) hs h
  | .readData .. => State.liftIf_storesOk (fun h => h.frameIn) hs h
  | .regData .. => State.liftIf_storesOk (fun h => h.frameIn) hs h
  | .forwardHoldExpiry .. => State.lift_storesOk (fun h => h.holdExpiry) hs h
  | .e2eTimeout .. => State.lift_storesOk (fun h => h.e2eTimeout) hs h
  | .grantLimitExpiry .. => State.lift_storesOk (fun h => h.grantLimit) hs h
  | .mcastLagExpiry .. => State.lift_storesOk (fun h => h.mcastLag) hs h
  | .sourceEntryExpiry .. => State.lift_storesOk (fun h => h.modVxl) hs h
  | .delayMeasure .. => State.lift_storesOk (fun h => h.modPort.ite h) hs h
  | .sensorRead .. => State.lift_storesOk (fun h => h.sensorRead) hs h
  | .tripClear .. => State.lift_storesOk (fun h => h.tripClear) hs h
  | .emergencyStep .. => State.lift_storesOk (fun h => h.emergencyStep) hs h
  | .emergencyEnd .. => State.lift_storesOk (fun h => h.emergencyEnd) hs h
  | .packagePowerSample .. => State.lift_storesOk (fun h => h.packagePower) hs h
  | .voltDroop .. => State.lift_storesOk (fun h => h.voltDroop) hs h
  | .oscillatorSample .. => State.lift_storesOk (fun h => h.modPwrRegion) hs h
  | .gatingEnd .. => State.lift_storesOk (fun h => h.gatingEnd) hs h
  | .wakeComplete .. => State.lift_storesOk (fun h => h.wakeComplete) hs h
  | .regionStart .. => State.lift_storesOk (fun h => h.regionStart) hs h
  | .tickInPin .. => State.lift_storesOk (fun h => h.modInput) hs h
  | .throttleN .. => State.lift_storesOk (fun h => h.modInput.evalEmergencies) hs h
  | .wakePin .. => State.lift_storesOk (fun h => h.wakePin) hs h
  | .inputStuck .. => State.lift_storesOk (fun h => h.inputStuck) hs h
  | .resetNAssert .. => State.liftAny_storesOk (fun h => h.resetAssert) hs h
  | .resetNDeassert .. => State.liftAny_storesOk (fun h => h.resetDeassert) hs h
  | .pwrEnAssert .. => State.liftAny_storesOk (fun h => h.pwrEnAssert) hs h
  | .diodeReady .. => State.liftAny_storesOk (fun h => h.diodeReady) hs h
  | .railEnableCheck .. => State.liftAny_storesOk (fun h => h.modSeq) hs h
  | .pwrEnDeassert .. => State.liftAny_storesOk (fun h => h.pwrEnDeassert) hs h
  | .railOffStep .. => State.liftAny_storesOk (fun h => h.railOffStep) hs h
  | .railFault .. => State.liftAny_storesOk (fun h => h.railFault) hs h
  | .pmbAlert .. => State.liftAny_storesOk (fun h => h.pmbAlert) hs h
  | .clockRecount .. => State.liftAny_storesOk (fun h => h.clockRecount) hs h
  | .pllLockLoss .. => State.lift_storesOk (fun h => h.pllLockLoss) hs h
  | .refclkLoss .. => State.lift_storesOk (fun h => h.refclkLoss) hs h
  | .clockRecovered .. => State.lift_storesOk (fun h => h.clockRecovered) hs h
  | .cpLockstep .. => State.lift_storesOk (fun h => h.cpRestart) hs h
  | .cpWatchdog .. => State.lift_storesOk (fun h => h.cpRestart) hs h
  | .logEntryWrite .. => State.lift_storesOk (fun h => h.logEntryWrite) hs h
  | .logStreamRow .. => State.lift_storesOk (fun h => h.logStreamRow) hs h
  | .hubLeavesReset .. => State.liftAny_storesOk (fun h => h.hubLeaves) hs h
  | .vddAonValid .. => State.liftAny_storesOk (fun h => h.vddAonValid) hs h
  | .fallbackStrikeSend .. => State.lift_storesOk (fun h => h.fallbackSend) hs h

theorem step_idle (h : s.pending = []) : step s = .next { s with dev := s.dev.timeStep } := by
  rw [step, h]

theorem step_command {cs : List Instr} (h : s.pending = c :: cs) : step s = exec c { s with pending := cs } := by
  rw [step, h]

/-- Settles O7: an idle step and every command keep the stores, and the queue after a step is a part of the queue
before it. -/
theorem storesStayCanonical : Obligations.StoresStayCanonical := by
  unfold Obligations.StoresStayCanonical
  intro s t hstores hqueue hstep
  rcases hpending : s.pending with _ | ⟨c, cs⟩
  · rw [step_idle hpending] at hstep
    rw [← Host.Outcome.next.inj hstep]
    exact ⟨hstores.timeStep, hqueue⟩
  · rw [step_command hpending] at hstep
    refine ⟨exec_storesOk (s := { s with pending := cs }) hstores hstep, fun b hb => hqueue b ?_⟩
    rw [exec_pending hstep] at hb
    exact hpending ▸ List.mem_cons_of_mem c hb

end Sys2Proof.Machine
end

section
/-! SUPPORT and PROOFS. The host window, doorbells and what they leave: ring SRAM below 0x800000, the HOST_ block of
0x1000 bytes above it, and a window error beyond. -/

namespace Sys2Proof.Machine

variable {s : State} {d d' : Device}

/-! ### A range that R375 admits (R375) -/

/-- The range lies in one block of 256 bytes, so no admitted range leaves ring SRAM. -/
theorem hostRangeOk_below {off len : Nat} (hok : hostRangeOk off len = true) (hlt : off < 0x800000) :
    off + len ≤ ringSramBytes := by
  simp only [hostRangeOk, Bool.and_eq_true, beq_iff_eq, decide_eq_true_eq] at hok
  unfold ringSramBytes
  omega

theorem hostRangeOk_above {off len : Nat} (hok : hostRangeOk off len = true) (hge : 0x800000 ≤ off) :
    ¬ off + len ≤ ringSramBytes := by
  simp only [hostRangeOk, Bool.and_eq_true, beq_iff_eq, decide_eq_true_eq] at hok
  unfold ringSramBytes
  omega

/-! ### HWR (R376, R378, R379) -/

theorem Device.hwr_reserved {off : Nat} {bs : List Byte} (hfit : off + bs.length ≤ ringSramBytes) (hlt : off < 0x1000) :
    d.hwr off bs = d := by
  rw [Device.hwr, if_pos hfit, Device.writeRing, if_pos hlt]

theorem Device.hwr_ring {off : Nat} {bs : List Byte} (hfit : off + bs.length ≤ ringSramBytes) (hge : 0x1000 ≤ off) :
    d.hwr off bs = { d with ring := d.ring.write off bs } := by
  rw [Device.hwr, if_pos hfit, Device.writeRing, if_neg (Nat.not_lt.2 hge)]

theorem Device.hwr_register {off : Nat} {bs : List Byte} (hfit : ¬ off + bs.length ≤ ringSramBytes)
    (hge : 0x800000 ≤ off) (hlt : off < 0x801000) (hlen : bs.length = 4) :
    d.hwr off bs = d.writeHostReg (off - 0x800000) (BitVec.ofNat 32 (le bs)) := by
  rw [Device.hwr, if_neg hfit, if_pos ⟨hge, hlt, hlen⟩, hostRegBase]

theorem Device.hwr_unmapped {off : Nat} {bs : List Byte} (hfit : ¬ off + bs.length ≤ ringSramBytes)
    (hout : 0x801000 ≤ off ∨ (0x800000 ≤ off ∧ bs.length ≠ 4)) : d.hwr off bs = d.windowError := by
  have hreg : ¬(hostRegBase ≤ off ∧ off < hostRegBase + 0x1000 ∧ bs.length = 4) := by
    unfold hostRegBase
    omega
  rw [Device.hwr, if_neg hfit, if_neg hreg]

/-! ### HRD (R375, R376, R378, R379) -/

theorem Mem.any_badFlags (m : Mem) (a n : Nat) :
    (m.badFlags a n).any id = true ↔ ∃ i, i < n ∧ m.rowBad ((a + i) / 64) = true := by
  simp [Mem.badFlags]

/-- Data without a poisoned row have an empty mask. -/
theorem poisonMask_clean {flags : List Bool} (h : flags.any id = false) : poisonMask flags = 0 := by
  have hpart (k : Nat) : natOfBool (((flags.drop (64 * k)).take 64).any id) = 0 := by
    rw [List.any_eq_false.2 fun b hb => List.any_eq_false.1 h b (List.mem_of_mem_drop (List.mem_of_mem_take hb))]
    rfl
  simp only [poisonMask, hpart, Nat.zero_mul, Nat.add_zero]
  rfl

theorem Device.hrd_clean {off len tag : Nat} (hfit : off + len ≤ ringSramBytes)
    (hclean : ∀ i, i < len → d.ring.rowBad ((off + i) / 64) = false) :
    d.hrd off len tag = d.sendHost (.hrdCpl tag (d.ring.bytes off len) false 0) := by
  have hflags : (d.ring.badFlags off len).any id = false := by
    rw [← Bool.not_eq_true, Mem.any_badFlags]
    rintro ⟨i, hi, hbad⟩
    rw [hclean i hi] at hbad
    nomatch hbad
  rw [Device.hrd, if_pos hfit]
  simp only [hflags, Bool.false_eq_true, if_false, poisonMask_clean hflags]

theorem Device.hrd_poisoned {off len tag : Nat} (hfit : off + len ≤ ringSramBytes)
    (hbad : ∃ i, i < len ∧ d.ring.rowBad ((off + i) / 64) = true) :
    d.hrd off len tag =
      (d.modHost (·.setErr d.now 4)).sendHost
        (.hrdCpl tag (d.ring.bytes off len) false (poisonMask (d.ring.badFlags off len))) := by
  have hflags : (d.ring.badFlags off len).any id = true := (d.ring.any_badFlags off len).2 hbad
  rw [Device.hrd, if_pos hfit]
  simp only [hflags, if_true]
  rfl

theorem Device.hrd_register {off len tag : Nat} (hfit : ¬ off + len ≤ ringSramBytes) (hge : 0x800000 ≤ off)
    (hlt : off < 0x801000) (hlen : len = 4) :
    d.hrd off len tag = (d.hostRegLatch (off - 0x800000)).sendHost
      (.hrdCpl tag (leBytes 4 (d.hostReg (off - 0x800000))) false 0) := by
  rw [Device.hrd, if_neg hfit, if_pos ⟨hge, hlt, hlen⟩, hostRegBase]

theorem Device.hrd_unmapped {off len tag : Nat} (hfit : ¬ off + len ≤ ringSramBytes)
    (hout : 0x801000 ≤ off ∨ (0x800000 ≤ off ∧ len ≠ 4)) :
    d.hrd off len tag = d.windowError.sendHost (.hrdCpl tag (List.replicate len 0) true 0) := by
  have hreg : ¬(hostRegBase ≤ off ∧ off < hostRegBase + 0x1000 ∧ len = 4) := by
    unfold hostRegBase
    omega
  rw [Device.hrd, if_neg hfit, if_neg hreg]

/-- Only HOST_TIME_LO latches. -/
theorem Device.hostRegLatch_other {off : Nat} (h : off ≠ 0x00C) : d.hostRegLatch off = d := if_neg h

/-- Settles O8: one lemma for each part of the window. -/
theorem hostWindowAccess : Obligations.HostWindowAccess := by
  unfold Obligations.HostWindowAccess
  refine ⟨?write, ?read, ?time, fun d => ⟨d.windowError_err, d.windowError_errWindow, d.host.setErr_err d.now 4, rfl⟩⟩
  case write =>
    intro s d off bs hruns hok
    have answers {t : Device} (ht : d.hwr off bs = t) : s.answers (.hwr off bs) t :=
      State.answers_liftIf hruns rfl hok ht
    exact ⟨fun hlt => answers (Device.hwr_reserved (hostRangeOk_below hok (by omega)) hlt),
      fun hge hlt => answers (Device.hwr_ring (hostRangeOk_below hok hlt) hge),
      fun hge hlt hlen => answers (Device.hwr_register (hostRangeOk_above hok hge) hge hlt hlen),
      fun hout => answers (Device.hwr_unmapped (hostRangeOk_above hok (by omega)) hout)⟩
  case read =>
    intro s d off len tag hruns hok
    have answers {t : Device} (ht : d.hrd off len tag.val = t) : s.answers (.hrd off len tag) t :=
      State.answers_liftIf hruns rfl hok ht
    refine ⟨fun hlt hclean => answers (Device.hrd_clean (hostRangeOk_below hok hlt) hclean),
      fun hlt hbad => answers (Device.hrd_poisoned (hostRangeOk_below hok hlt) hbad),
      fun hge hlt hlen hoff => answers ?_,
      fun hout => answers (Device.hrd_unmapped (hostRangeOk_above hok (by omega)) hout)⟩
    rw [Device.hrd_register (hostRangeOk_above hok hge) hge hlt hlen, Device.hostRegLatch_other (by omega)]
  case time =>
    intro s d tag hruns
    exact State.answers_lift hruns rfl (Device.hrd_register (by decide) (by decide) (by decide) rfl)

/-! ### Doorbells (R383) -/

theorem Device.ringDoorbell_stores {q : Nat} {v : Word} (hon : (d.cmdRing q).life = .on)
    (hlt : v.toNat % 65536 < (d.cmdRing q).entries) :
    d.ringDoorbell q v = d.modCmdRing q fun r => { r with tail := BitVec.ofNat 16 (v.toNat % 65536) } :=
  if_pos ⟨hon, hlt⟩

theorem Device.ringDoorbell_refused {q : Nat} {v : Word}
    (h : (d.cmdRing q).life ≠ .on ∨ (d.cmdRing q).entries ≤ v.toNat % 65536) : d.ringDoorbell q v = d.doorbellError :=
  if_neg fun hok => h.elim (· hok.1) (Nat.not_le.2 hok.2)

/-- A doorbell that repeats the tail leaves every ring as it reads. -/
theorem Device.cmdRing_modCmdRing_tail {q : Nat} {t : BitVec 16} (h : t = (d.cmdRing q).tail) (k : Nat) :
    (d.modCmdRing q fun r => { r with tail := t }).cmdRing k = d.cmdRing k := by
  by_cases hk : k = q
  · subst hk
    rw [Device.modCmdRing_cmdRing, h]
  · rw [Device.modCmdRing_cmdRing_ne _ _ _ hk]

/-! ### Visits of command rings (R383, R390) -/

/-- A command packet's header that passes the checks of R390 and whose entries end within the ring. -/
def Header.sound (h : Header) (r : CmdRing) : Prop :=
  h.kind = 1 ∧ h.reservedZero = true ∧ h.flags / 4 % 4 = 0 ∧ h.flags < 128 ∧ h.plen ≤ 4096 ∧
    r.head.toNat + packetEntries h.plen ≤ r.entries

theorem Header.sound_passes {h : Header} {r : CmdRing} (hs : h.sound r) :
    ¬(h.kind ≠ 1 ∨ (!h.reservedZero) = true ∨ h.flags / 4 % 4 ≠ 0 ∨ 128 ≤ h.flags ∨ 4096 < h.plen ∨
      r.entries < r.head.toNat + packetEntries h.plen) := by
  obtain ⟨hkind, hzero, hflags, hhigh, hplen, hend⟩ := hs
  rintro (h | h | h | h | h | h)
  · exact h hkind
  · simp [hzero] at h
  · exact h hflags
  · omega
  · omega
  · omega

/-- The header that lies at the head of command ring `q`. -/
def Device.headHeader (d : Device) (q : Nat) : Header :=
  Header.parse (d.ring.bytes ((d.cmdRing q).base + 64 * (d.cmdRing q).head.toNat) 64)

/-- A sound packet whose last entry does not lie before the tail is no packet yet: the visit finds nothing. -/
theorem Device.visit_incomplete {q : Nat} (hsound : (d.headHeader q).sound (d.cmdRing q))
    (hshort : ((d.cmdRing q).tail.toNat + (d.cmdRing q).entries - (d.cmdRing q).head.toNat) % (d.cmdRing q).entries <
      packetEntries (d.headHeader q).plen) : d.visit q = none := by
  have hkind : (d.headHeader q).kind ≠ 4 := by
    rw [hsound.1]
    decide
  unfold Device.visit
  extract_lets r a h n
  split
  · rfl
  · exact (if_neg hkind).trans ((if_neg (Header.sound_passes hsound)).trans (if_pos hshort))

/-- A ring in which the visit finds nothing changes nothing, whatever the round has come to. -/
theorem Device.packetTake_none {q : Nat} (h : d.visit q = none) : d.packetTake q = d := by
  unfold Device.packetTake
  split
  · rfl
  · rw [h]

/-- Settles O10: the doorbell's two cases, the repeated tail, and the visit before the last entry has come. -/
theorem doorbellStoresTail : Obligations.DoorbellStoresTail := by
  unfold Obligations.DoorbellStoresTail
  intro s d q v hruns r t
  have answers {e : Device} (he : d.ringDoorbell q.val v = e) : s.answers (.doorbell q v) e :=
    State.answers_lift (f := fun d => d.ringDoorbell q.val v) hruns rfl he
  refine ⟨fun hon hlt => answers (Device.ringDoorbell_stores hon hlt), ?refused, ?again, ?incomplete⟩
  case refused =>
    exact fun h => ⟨answers (Device.ringDoorbell_refused h), d.doorbellError_err, d.doorbellError_errDoorbell, rfl⟩
  case again =>
    intro hon hlt htail
    have hsame : BitVec.ofNat 16 t = r.tail := by rw [htail, BitVec.ofNat_toNat, BitVec.setWidth_eq]
    exact ⟨_, answers (Device.ringDoorbell_stores hon hlt), Device.cmdRing_modCmdRing_tail hsame, rfl⟩
  case incomplete =>
    intro h _ _ hkind hzero hflags hhigh hplen hend hshort
    exact State.answers_lift hruns rfl
      (Device.packetTake_none (Device.visit_incomplete ⟨hkind, hzero, hflags, hhigh, hplen, hend⟩ hshort))

end Sys2Proof.Machine
end

section
/-! SUPPORT and PROOFS. A command's way through the host port: its packet is taken, it starts, it completes, and its
completion is written. -/

namespace Sys2Proof.Machine

variable {s : State} {d : Device} {q : Nat} {h : Header} {ps : List Byte} {id : CmdId} {c : Cmd}

/-! ### Changes of rings -/

theorem Device.modCmdRing_congr {f g : CmdRing → CmdRing} (hfg : f (d.cmdRing q) = g (d.cmdRing q)) :
    d.modCmdRing q f = d.modCmdRing q g := by
  simp only [Device.modCmdRing, Device.modHost, Tab.upd]
  rw [show f (d.host.cmdRings.getD q .reset) = g (d.host.cmdRings.getD q .reset) from hfg]

theorem Device.modCplRing_congr {f g : CplRing → CplRing} (hfg : f (d.cplRing q) = g (d.cplRing q)) :
    d.modCplRing q f = d.modCplRing q g := by
  simp only [Device.modCplRing, Device.modHost, Tab.upd]
  rw [show f (d.host.cplRings.getD q .reset) = g (d.host.cplRings.getD q .reset) from hfg]

theorem Device.modCplRing_modCplRing (f g : CplRing → CplRing) :
    (d.modCplRing q f).modCplRing q g = d.modCplRing q fun r => g (f r) := by
  simp [Device.modCplRing, Device.modHost, Tab.upd_upd]

/-! ### PACKET_TAKE (R390) -/

/-- The device once the head of ring `q` has passed a packet with header `h`. -/
def Device.passed (d : Device) (q : Nat) (h : Header) : Device :=
  d.modCmdRing q fun r => { r with head := r.headAfter (packetEntries h.plen) }

/-- The visit of a ring with a whole and sound packet passes the packet and sorts it. -/
theorem Device.visit_packet (hp : d.packetAt q h ps) : d.visit q = some ((d.passed q h).sortPacket q h ps) := by
  obtain ⟨hon, hheld, hblocked, hcmds, hne, hh, hkind, hzero, hflags, hhigh, hplen, hend, hwhole, hcrc, hbad, -, hps⟩ := hp
  have hsound : (d.headHeader q).sound (d.cmdRing q) := by
    rw [Device.headHeader, ← hh]
    exact ⟨hkind, hzero, hflags, hhigh, hplen, hend⟩
  have hopen : ¬((d.cmdRing q).life ≠ .on ∨ (d.cmdRing q).held = true ∨
      (d.cplRing (d.cmdRing q).cpl).blocked = true ∨ 64 ≤ d.host.cmds.length ∨ (d.cmdRing q).head = (d.cmdRing q).tail) := by
    simp only [hon, hheld, hblocked, hne, ne_eq, not_true_eq_false, Bool.false_eq_true, false_or, or_false]
    omega
  have hkind4 : (d.headHeader q).kind ≠ 4 := by
    rw [hsound.1]
    decide
  subst hh hps
  refine (if_neg hopen).trans ((if_neg hkind4).trans ((if_neg (Header.sound_passes hsound)).trans
    ((if_neg (Nat.not_lt.2 hwhole)).trans ((if_neg ?sound).trans ?sorted))))
  case sound =>
    rintro (hc | hb)
    · exact hc hcrc
    · simp [hb] at hbad
  case sorted =>
    refine congrArg some (congrArg (Device.sortPacket · q (d.headHeader q) _) (?_ : _ = d.passed q (d.headHeader q)))
    exact Device.modCmdRing_congr rfl

/-- The round of visits comes to ring `q` and goes on with the next. -/
theorem Device.packetTake_packet (hp : d.packetAt q h ps) :
    d.packetTake q = ((d.passed q h).sortPacket q h ps).modHost fun hp => { hp with nextVisit := (q + 1) % 16 } := by
  have hvisit := Device.visit_packet hp
  obtain ⟨-, -, -, -, -, -, -, -, -, -, -, -, -, -, -, hround, -⟩ := hp
  have hnone : (d.host.before q).any (fun k => (d.visit k).isSome) = false :=
    List.any_eq_false.2 fun k hk => by simp [hround k hk]
  simp only [Device.packetTake, hnone, Bool.false_eq_true, if_false, hvisit]

/-- No command in progress and no cached completion bears the packet's ring and SEQ. -/
def Device.unseen (d : Device) (q : RingIx) (seq : Word) : Prop :=
  d.findCmd ⟨q, seq⟩ = none ∧ ∀ p ∈ d.host.cache, ¬(p.ring = BitVec.ofNat 8 q.val ∧ p.seq = seq)

theorem Device.sortPacket_unseen {q : RingIx} (hnew : d.unseen q h.seq) :
    d.sortPacket q.val h ps =
      if (h.seq - (d.cmdRing q.val).next).toInt < 0 then d.refusePacket q.val h Status.seqStale
      else if 0 < (h.seq - (d.cmdRing q.val).next).toInt then d.refusePacket q.val h Status.seqGap
      else
        (d.modCmdRing q.val fun r => { r with next := r.next + 1 }).modHost fun hp =>
          { hp with cmds := hp.cmds ++
              [{ id := ⟨q, h.seq⟩, opcode := BitVec.ofNat 16 h.opcode, flags := BitVec.ofNat 8 h.flags, tag := h.tag,
                 params := ps, started := false, ran := false, posted := false, replay := 0, moved := 0,
                 poisoned := 0, front := [] }] } := by
  obtain ⟨hcmd, hcache⟩ := hnew
  have hring : Fin.ofNat 16 q.val = q := Fin.ext (Nat.mod_eq_of_lt q.isLt)
  have hfind : (d.host.cache.find? fun p => p.ring == BitVec.ofNat 8 q.val && p.seq == h.seq) = none :=
    List.find?_eq_none.2 fun p hp => by simpa using hcache p hp
  simp only [Device.sortPacket, hring, hcmd, hfind]

/-! ### COMMAND_START (R391, R392) -/

/-- A taken command that the rules of R392 and R414 let start is checked as it begins. -/
theorem Device.commandStart_may (hc : d.findCmd id = some c) (hstarted : c.started = false) (hposted : c.posted = false)
    (hmay : d.host.mayStart c = true) (hallows : d.pwr.allows c.opcode.toNat = true) :
    d.commandStart id = match d.startCheck c with
      | some st => (d.begun id).complete id st
      | none => ((d.begun id).startRefused id c.opcode.toNat c.params).getD (d.begun id) := by
  have hgo : ¬(c.started || c.posted || !d.host.mayStart c || !d.pwr.allows c.opcode.toNat) = true := by
    simp [hstarted, hposted, hmay, hallows]
  rw [Device.commandStart, hc]
  exact if_neg hgo

/-- A check of the command itself that fails completes it. -/
theorem Device.startRefused_of_refusedFor {op st : Nat} (h : d.refusedFor op ps = some st) :
    d.startRefused id op ps = some ((d.acted id).complete id st) := by
  rw [Device.startRefused, h]
  rfl

/-- Settles O11: the visit that takes the packet sorts it by its SEQ; the start runs the checks in order. -/
theorem packetsBecomeCommands : Obligations.PacketsBecomeCommands := by
  unfold Obligations.PacketsBecomeCommands
  refine ⟨?take, ?start⟩
  case take =>
    intro s d q h ps hruns hpacket hcmd hcache moved visited
    have answers {e : Device} (he : moved.sortPacket q.val h ps = e) : s.answers (.packetTake q) (visited e) := by
      refine State.answers_lift hruns rfl ((Device.packetTake_packet hpacket).trans ?_)
      rw [show d.passed q.val h = moved from rfl, he]
    have hnew : moved.unseen q h.seq := ⟨hcmd, hcache⟩
    have hnext : (moved.cmdRing q.val).next = (d.cmdRing q.val).next := by
      rw [Device.modCmdRing_cmdRing]
    refine ⟨fun heq => answers ?_, fun hlt => answers ?_, fun hgt => answers ?_⟩
    · have hzero : (h.seq - (d.cmdRing q.val).next).toInt = 0 := by simp [heq]
      rw [Device.sortPacket_unseen hnew, hnext, if_neg (by omega), if_neg (by omega)]
    · rw [Device.sortPacket_unseen hnew, hnext, if_pos hlt]
    · rw [Device.sortPacket_unseen hnew, hnext, if_neg (by omega), if_pos hgt]
  case start =>
    intro s d id c hruns hc hstarted hposted hmay hallows begun
    have hstart := Device.commandStart_may hc hstarted hposted hmay hallows
    have answers {e : Device} (he : d.commandStart id = e) : s.answers (.commandStart id) e :=
      State.answers_lift hruns rfl he
    refine ⟨fun hcheck hown => answers ?_, fun t hcheck hown => answers ?_,
      fun st _ hown => Device.startRefused_of_refusedFor hown, fun st hcheck => answers ?_⟩
    · have hown : (d.begun id).startRefused id c.opcode.toNat c.params = none := hown
      simp only [hstart, hcheck, hown, Option.getD_none]
      rfl
    · have hown : (d.begun id).startRefused id c.opcode.toNat c.params = some t := hown
      simp only [hstart, hcheck, hown, Option.getD_some]
    · simp only [hstart, hcheck]
      rfl

/-! ### Completion (R387, R388) -/

@[simp] theorem Device.queuePacket_waiting (k : Nat) (p : Packet) :
    ((d.queuePacket k p).cplRing k).waiting = (d.cplRing k).waiting ++ [p] := by
  rw [Device.queuePacket, Device.modCplRing_cplRing]

/-- Settles O12: an open command posts its packet, and one that has posted it does not complete again. -/
theorem completionWaitsInOrder : Obligations.CompletionWaitsInOrder := by
  unfold Obligations.CompletionWaitsInOrder
  intro d id c status payload detail hc hposted t
  have ht : t = (d.modCmd id fun c => { c with posted := true }).queuePacket (d.cmdRing id.ring.val).cpl
      (c.packet status detail payload) := Device.complete_open status payload detail hc hposted
  have hfind : t.findCmd id = some { c with posted := true } := by
    have hid : c.id = id := Device.findCmd_id hc
    rw [ht]
    exact Device.findCmd_modCmd (f := fun c => { c with posted := true }) hc hid
  refine ⟨?_, hfind, Device.complete_posted status payload detail hfind rfl, ?_⟩
  · rw [ht, Device.queuePacket_waiting]
    rfl
  · rw [ht]
    rfl

/-! ### Writing completions (R384 to R386, R395) -/

/-- The oldest waiting completion of a command that was not resent, once there is room for it. -/
theorem Device.completionWrite_fits {p : Packet} {rest : List Packet} (hlife : (d.cplRing q).life ≠ .off)
    (hwaiting : (d.cplRing q).waiting = p :: rest) (hroom : (d.cplRing q).hasRoom p = true) (hcache : p.cache = true)
    (hfirst : p.flags.getLsbD 2 = false) :
    d.completionWrite q =
      let written := ((d.modCplRing q fun r => { r with waiting := rest }).writePacket q p).endCommand q p
      if p.flags.getLsbD 0 then written.notify q else written := by
  simp only [Device.completionWrite, hwaiting, hlife, hroom, hcache, hfirst, Bool.not_true, Bool.false_eq_true, or_self,
    if_false, if_true]

/-- A NOTIFY that an interval held back is sent and starts the next interval. -/
theorem Device.notifyIntervalEnd_owed (hquiet : (d.cplRing q).quiet = true) (howed : (d.cplRing q).owed = true)
    (hup : d.host.linkUp = true) :
    d.notifyIntervalEnd q =
      (d.sendHost (.notify q)).modCplRing q fun r => { r with owed := false, quiet := decide (0 < r.interval) } := by
  have hstill : ((d.modCplRing q fun r => { r with quiet := false, owed := false }).cplRing q).quiet = false := by
    rw [Device.modCplRing_cplRing]
  have hlink : (d.modCplRing q fun r => { r with quiet := false, owed := false }).host.linkUp = true := hup
  simp only [Device.notifyIntervalEnd, Device.sendNotify, hquiet, howed, hstill, hlink, Bool.not_true,
    Bool.false_eq_true, if_false, if_true]
  exact Device.modCplRing_modCplRing (d := d.sendHost (.notify q)) (fun r => { r with quiet := false, owed := false })
    fun r => { r with quiet := decide (0 < r.interval) }

theorem Device.notifyIntervalEnd_free (hquiet : (d.cplRing q).quiet = true) (howed : (d.cplRing q).owed = false) :
    d.notifyIntervalEnd q = d.modCplRing q fun r => { r with quiet := false } := by
  simp only [Device.notifyIntervalEnd, hquiet, howed, Bool.not_true, Bool.false_eq_true, if_false]
  refine Device.modCplRing_congr ?_
  rw [← howed]

/-- Settles O13. -/
theorem completionIsWritten : Obligations.CompletionIsWritten := by
  unfold Obligations.CompletionIsWritten
  refine ⟨?write, ?interval⟩
  case write =>
    intro s d q p rest hruns hlife hwaiting hroom hcache hfirst
    exact State.answers_lift hruns rfl (Device.completionWrite_fits hlife hwaiting hroom hcache hfirst)
  case interval =>
    intro s d q hruns hquiet
    exact ⟨fun howed hup => State.answers_lift hruns rfl (Device.notifyIntervalEnd_owed hquiet howed hup),
      fun howed => State.answers_lift hruns rfl (Device.notifyIntervalEnd_free hquiet howed)⟩

end Sys2Proof.Machine
end

section
/-! SUPPORT and PROOFS. The modules of the host link: the notifications that leave as the link comes up, and the copies
that fail as a module drops. -/

namespace Sys2Proof.Machine

variable {s : State} {d e : Device} {q n : Nat} {id : CmdId} {c : Cmd}

/-! ### Notifications that leave as the link comes up (R374, R386) -/

/-- A completion ring that is notified: held back within its interval, else a new interval begins. -/
def CplRing.notified (r : CplRing) : CplRing :=
  if r.quiet then { r with owed := true } else { r with quiet := decide (0 < r.interval) }

theorem CplRing.notified_owed (r : CplRing) : r.notified.owed = (r.owed || r.quiet) := by
  unfold CplRing.notified
  split
  next h => simp [h]
  next h => simp [h]

theorem Device.sendNotify_quiet (hup : d.host.linkUp = true) (hquiet : (d.cplRing q).quiet = true) :
    d.sendNotify q = d.modCplRing q CplRing.notified := by
  simp only [Device.sendNotify, hup, hquiet, Bool.not_true, Bool.false_eq_true, if_false, if_true]
  exact Device.modCplRing_congr (by simp only [CplRing.notified, hquiet, if_true])

theorem Device.sendNotify_sends (hup : d.host.linkUp = true) (hquiet : (d.cplRing q).quiet = false) :
    d.sendNotify q = (d.sendHost (.notify q)).modCplRing q CplRing.notified := by
  simp only [Device.sendNotify, hup, hquiet, Bool.not_true, Bool.false_eq_true, if_false]
  refine Device.modCplRing_congr ?_
  have hsame : ((d.sendHost (.notify q)).cplRing q).quiet = false := hquiet
  simp only [CplRing.notified, hsame, Bool.false_eq_true, if_false]

theorem Device.sendNotify_frame (d : Device) (q : Nat) :
    ∃ ms rs, d.sendNotify q = { d with host := { d.host with toHost := ms, cplRings := rs } } := by
  unfold Device.sendNotify
  split
  · exact ⟨_, _, rfl⟩
  · split <;> exact ⟨_, _, rfl⟩

/-- The pending bit and the mask bit of ring `q` are set. -/
def Device.told (d : Device) (q : Nat) : Bool := d.host.irqPending.getLsbD q && d.host.irqMask.getLsbD q

/-- The notifications of the first `n` rings. -/
def Device.notifyTold (d : Device) (n : Nat) : Device :=
  (List.range n).foldl (fun d q => if d.told q then d.sendNotify q else d) d

theorem Device.notifyTold_succ (d : Device) (n : Nat) :
    d.notifyTold (n + 1) = if (d.notifyTold n).told n then (d.notifyTold n).sendNotify n else d.notifyTold n := by
  rw [Device.notifyTold, List.range_succ, List.foldl_append]
  rfl

theorem Device.notifyTold_frame (d : Device) (n : Nat) :
    ∃ ms rs, d.notifyTold n = { d with host := { d.host with toHost := ms, cplRings := rs } } := by
  induction n with
  | zero => exact ⟨_, _, rfl⟩
  | succ n ih =>
    obtain ⟨ms, rs, he⟩ := ih
    rw [Device.notifyTold_succ]
    split
    · obtain ⟨ms', rs', he'⟩ := (d.notifyTold n).sendNotify_frame n
      exact ⟨ms', rs', by rw [he', he]⟩
    · exact ⟨ms, rs, he⟩

theorem Device.notifyTold_told (d : Device) (n q : Nat) : (d.notifyTold n).told q = d.told q := by
  obtain ⟨_, _, he⟩ := d.notifyTold_frame n
  rw [he]
  rfl

theorem Device.notifyTold_linkUp (d : Device) (n : Nat) : (d.notifyTold n).host.linkUp = d.host.linkUp := by
  obtain ⟨_, _, he⟩ := d.notifyTold_frame n
  rw [he]
  rfl

theorem Device.notifyTold_cplRing (hup : d.host.linkUp = true) (n k : Nat) :
    (d.notifyTold n).cplRing k = if k < n ∧ d.told k = true then (d.cplRing k).notified else d.cplRing k := by
  induction n with
  | zero => rw [if_neg (fun h => Nat.not_lt_zero k h.1)]; rfl
  | succ n ih =>
    have hlink : (d.notifyTold n).host.linkUp = true := (d.notifyTold_linkUp n).trans hup
    rw [Device.notifyTold_succ, Device.notifyTold_told]
    by_cases hk : k = n
    · subst hk
      rw [if_neg (fun h => Nat.lt_irrefl k h.1)] at ih
      by_cases htold : d.told k = true
      · have hring : ((d.notifyTold k).sendNotify k).cplRing k = ((d.notifyTold k).cplRing k).notified := by
          cases hquiet : ((d.notifyTold k).cplRing k).quiet with
          | true => rw [Device.sendNotify_quiet hlink hquiet, Device.modCplRing_cplRing]
          | false => rw [Device.sendNotify_sends hlink hquiet, Device.modCplRing_cplRing]; rfl
        rw [if_pos htold, if_pos ⟨Nat.lt_succ_self k, htold⟩, hring, ih]
      · rw [if_neg htold, if_neg (fun h => htold h.2), ih]
    · have hother : ((d.notifyTold n).sendNotify n).cplRing k = (d.notifyTold n).cplRing k := by
        cases hquiet : ((d.notifyTold n).cplRing n).quiet with
        | true => rw [Device.sendNotify_quiet hlink hquiet, Device.modCplRing_cplRing_ne _ _ _ hk]
        | false => rw [Device.sendNotify_sends hlink hquiet, Device.modCplRing_cplRing_ne _ _ _ hk]; rfl
      have hlt : k < n + 1 ↔ k < n := by omega
      rw [apply_ite (Device.cplRing · k), hother, ite_self, ih]
      simp only [hlt]

theorem Device.notifyTold_toHost (hup : d.host.linkUp = true) (n : Nat) :
    (d.notifyTold n).host.toHost = d.host.toHost ++
      ((List.range n).filter fun k => d.told k && !(d.cplRing k).quiet).map HostMsg.notify := by
  induction n with
  | zero => exact (List.append_nil _).symm
  | succ n ih =>
    have hlink : (d.notifyTold n).host.linkUp = true := (d.notifyTold_linkUp n).trans hup
    have hring : (d.notifyTold n).cplRing n = d.cplRing n := by
      rw [Device.notifyTold_cplRing hup, if_neg (fun h => Nat.lt_irrefl n h.1)]
    rw [Device.notifyTold_succ, Device.notifyTold_told, List.range_succ, List.filter_append, List.map_append,
      ← List.append_assoc, ← ih]
    cases htold : d.told n with
    | false => simp [htold]
    | true =>
      cases hquiet : (d.cplRing n).quiet with
      | true =>
        rw [if_pos rfl, Device.sendNotify_quiet hlink (hring ▸ hquiet)]
        simp [htold, hquiet, Device.modCplRing]
      | false =>
        rw [if_pos rfl, Device.sendNotify_sends hlink (hring ▸ hquiet)]
        simp [htold, hquiet, Device.modCplRing, Device.sendHost]

/-! ### UCIE_TRAIN (R374) -/

/-- The device with a module that runs, before the notifications that this brings. -/
def Device.trained (d : Device) (m : Nat) (full : Bool) (rate partner : Nat) : Device :=
  let st : BitVec 2 := if full then 3 else 2
  d.modHost fun h =>
    { h with m0 := if m = 0 then st else h.m0, m1 := if m = 1 then st else h.m1, rate := BitVec.ofNat 4 rate,
             partner := BitVec.ofNat 4 partner }

theorem Device.trained_linkUp (d : Device) (m : Fin 2) (full : Bool) (rate partner : Nat) :
    (d.trained m.val full rate partner).host.linkUp = true := by
  have hst : 2 ≤ (if full then 3 else 2 : BitVec 2).toNat := by cases full <;> decide
  obtain hm | hm : m.val = 0 ∨ m.val = 1 := by omega
  · simp only [Device.trained, HostPort.linkUp, Device.modHost, hm, if_true, hst, decide_true, Bool.true_or]
  · simp only [Device.trained, HostPort.linkUp, Device.modHost, hm, if_true, hst, decide_true, Bool.or_true]

theorem Device.ucieTrain_eq (d : Device) (m : Nat) (full : Bool) (rate partner : Nat) :
    d.ucieTrain m full rate partner =
      if d.host.linkUp then d.trained m full rate partner else (d.trained m full rate partner).notifyTold 16 := rfl

/-- What the notifications leave of the trained device: all but the messages to the host and the completion rings. -/
theorem Device.ucieTrain_frame (d : Device) (m : Nat) (full : Bool) (rate partner : Nat) :
    ∃ ms rs, d.ucieTrain m full rate partner =
      { d with host := { (d.trained m full rate partner).host with toHost := ms, cplRings := rs } } := by
  rw [Device.ucieTrain_eq]
  split
  · exact ⟨_, _, rfl⟩
  · exact (d.trained m full rate partner).notifyTold_frame 16

theorem Device.ucieTrain_toHost (d : Device) (m : Fin 2) (full : Bool) (rate partner : Nat) :
    (d.ucieTrain m.val full rate partner).host.toHost = d.host.toHost ++
      ((List.range 16).filter fun q => !d.host.linkUp && d.told q && !(d.cplRing q).quiet).map HostMsg.notify := by
  rw [Device.ucieTrain_eq]
  split
  next hup => simp [hup, Device.trained]
  next hdown =>
    rw [Device.notifyTold_toHost (d.trained_linkUp m full rate partner), Bool.eq_false_iff.2 hdown]
    rfl

theorem Device.ucieTrain_owed (d : Device) (m : Fin 2) (full : Bool) (rate partner q : Nat) :
    ((d.ucieTrain m.val full rate partner).cplRing q).owed = ((d.cplRing q).owed ||
      (decide (q < 16) && (!d.host.linkUp && d.told q) && (d.cplRing q).quiet)) := by
  have hring : (d.trained m.val full rate partner).cplRing q = d.cplRing q := rfl
  have htold : (d.trained m.val full rate partner).told q = d.told q := rfl
  rw [Device.ucieTrain_eq]
  split
  next hup => simp [hup, hring]
  next hdown =>
    rw [Device.notifyTold_cplRing (d.trained_linkUp m full rate partner), hring, htold, Bool.eq_false_iff.2 hdown]
    split
    next h => simp [h.1, h.2, CplRing.notified_owed]
    next h =>
      have hnot : (decide (q < 16) && d.told q) = false := by simpa using h
      simp [hnot]

/-! ### A command that fails among others -/

/-- The completion of a command changes the commands and the completion rings only. -/
theorem Device.complete_frame (d : Device) (id : CmdId) (status : Nat) (payload : List Byte) (detail : Word) :
    ∃ cs rs, d.complete id status payload detail = { d with host := { d.host with cmds := cs, cplRings := rs } } := by
  unfold Device.complete
  split
  · exact ⟨_, _, rfl⟩
  · split <;> exact ⟨_, _, rfl⟩

theorem Device.copyFail_frame (d : Device) (id : CmdId) (status : Nat) (detail : Word) :
    ∃ cs rs, d.copyFail id status detail = { d with host := { d.host with cmds := cs, cplRings := rs } } := by
  unfold Device.copyFail
  split
  · exact ⟨_, _, rfl⟩
  · exact d.complete_frame id status _ detail

/-- A change of another command that keeps its id. -/
theorem Device.findCmd_modCmd_ne {j : CmdId} {f : Cmd → Cmd} (hne : j ≠ id) (hf : ∀ c, (f c).id = c.id) :
    (d.modCmd j f).findCmd id = d.findCmd id := by
  simp only [Device.findCmd, Device.modCmd, Device.modHost]
  induction d.host.cmds with
  | nil => rfl
  | cons a l ih =>
    have hbeq : ((if a.id == j then f a else a).id == id) = (a.id == id) := by
      split
      next ha =>
        have haj : a.id = j := beq_iff_eq.1 ha
        rw [hf a, haj]
      · rfl
    have hnot (ha : (a.id == id) = true) : (a.id == j) = false := by
      rw [beq_iff_eq] at ha
      simp [ha, Ne.symm hne]
    rw [List.map_cons, List.find?_cons, List.find?_cons, hbeq, ih]
    cases ha : a.id == id with
    | true => simp [hnot ha]
    | false => rfl

/-- Command `id`, once `c`, has completed, and its completion with a status waits on ring `k`. -/
def Device.completed (d : Device) (id : CmdId) (c : Cmd) (k status : Nat) : Prop :=
  d.findCmd id = some { c with posted := true } ∧
    ∃ p ∈ (d.cplRing k).waiting, p.seq = id.seq ∧ p.status = BitVec.ofNat 16 status

theorem Device.mem_waiting_queuePacket {k l : Nat} {p r : Packet} (h : p ∈ (d.cplRing k).waiting) :
    p ∈ ((d.queuePacket l r).cplRing k).waiting := by
  by_cases hk : k = l
  · subst hk
    rw [Device.queuePacket_waiting]
    exact List.mem_append_left _ h
  · rwa [Device.queuePacket, Device.modCplRing_cplRing_ne _ _ _ hk]

theorem Device.findCmd_copyFail_ne {j : CmdId} (hne : j ≠ id) (status : Nat) (detail : Word) :
    (d.copyFail j status detail).findCmd id = d.findCmd id := by
  unfold Device.copyFail Device.complete
  split
  · rfl
  · split
    · rfl
    · split
      · rfl
      · exact Device.findCmd_modCmd_ne hne fun _ => rfl

/-- A packet that waits goes on waiting as a copy fails. -/
theorem Device.mem_waiting_copyFail {j : CmdId} {k status : Nat} {detail : Word} {p : Packet}
    (h : p ∈ (d.cplRing k).waiting) : p ∈ ((d.copyFail j status detail).cplRing k).waiting := by
  unfold Device.copyFail Device.complete
  split
  · exact h
  · split
    · exact h
    · split
      · exact h
      · exact Device.mem_waiting_queuePacket h

/-- The failure of any copy leaves a completed command completed. -/
theorem Device.completed_copyFail {k st : Nat} (j : CmdId) (status : Nat) (detail : Word)
    (h : d.completed id c k st) : (d.copyFail j status detail).completed id c k st := by
  obtain ⟨hfind, p, hp, hpacket⟩ := h
  refine ⟨?_, p, Device.mem_waiting_copyFail hp, hpacket⟩
  by_cases hj : j = id
  · subst hj
    have hsame : d.copyFail j status detail = d := by
      simp only [Device.copyFail, hfind]
      exact Device.complete_posted status _ detail hfind rfl
    rw [hsame, hfind]
  · rw [Device.findCmd_copyFail_ne hj, hfind]

/-- The failure of an open copy completes it. -/
theorem Device.copyFail_completed (status : Nat) (detail : Word) (hc : d.findCmd id = some c) (hopen : c.posted = false) :
    (d.copyFail id status detail).completed id c (d.cmdRing id.ring.val).cpl status := by
  have hid : c.id = id := Device.findCmd_id hc
  simp only [Device.copyFail, hc]
  rw [Device.complete_open status _ detail hc hopen]
  refine ⟨Device.findCmd_modCmd (f := fun c => { c with posted := true }) hc hid,
    c.packet status detail c.copyReply, ?_, congrArg CmdId.seq hid, rfl⟩
  rw [Device.queuePacket_waiting]
  exact List.mem_append_right _ (List.mem_singleton_self _)

/-- Every open copy among those that fail is completed at the end. -/
theorem Device.foldl_copyFail_completed {status : Nat} {detail : Word} {ids : List CmdId} (hmem : id ∈ ids)
    (hc : d.findCmd id = some c) (hopen : c.posted = false) :
    (ids.foldl (fun d id => d.copyFail id status detail) d).completed id c (d.cmdRing id.ring.val).cpl status := by
  induction ids generalizing d with
  | nil => nomatch hmem
  | cons j ids ih =>
    rw [List.foldl_cons]
    by_cases hj : j = id
    · subst hj
      exact List.foldlRecOn ids _ (motive := fun e : Device => e.completed j c (d.cmdRing j.ring.val).cpl status)
        (Device.copyFail_completed status detail hc hopen) fun e he i _ => Device.completed_copyFail i status detail he
    · have hring : (d.copyFail j status detail).cmdRing id.ring.val = d.cmdRing id.ring.val := by
        obtain ⟨_, _, he⟩ := d.copyFail_frame j status detail
        rw [he]
        rfl
      rw [← hring]
      exact ih ((List.mem_cons.1 hmem).resolve_left (Ne.symm hj)) ((Device.findCmd_copyFail_ne hj status detail).trans hc)

theorem Device.foldl_copyFail_frame (d : Device) (status : Nat) (detail : Word) (ids : List CmdId) :
    ∃ cs rs, ids.foldl (fun d id => d.copyFail id status detail) d =
      { d with host := { d.host with cmds := cs, cplRings := rs } } :=
  List.foldlRecOn ids _ (motive := fun e : Device => ∃ cs rs, e = { d with host := { d.host with cmds := cs, cplRings := rs } })
    ⟨_, _, rfl⟩ fun e ⟨_, _, he⟩ j _ => by
      obtain ⟨cs, rs, hj⟩ := e.copyFail_frame j status detail
      exact ⟨cs, rs, by rw [hj, he]⟩

/-! ### UCIE_MODULE_DROP (R374) -/

/-- The copies to or from host memory that are moving data. -/
def HostPort.hostCopies (h : HostPort) : List CmdId :=
  (h.cmds.filter fun c => c.running && c.ran && c.opcode == 0x0201 &&
    (copySrcKind c.params == 0 || copyDstKind c.params == 0)).map (·.id)

/-- The device whose module `m` retrains, before its copies fail. -/
def Device.dropped (d : Device) (m : Nat) : Device :=
  let t := d.modHost fun h =>
    { h with m0 := if m = 0 then 1 else h.m0, m1 := if m = 1 then 1 else h.m1, retrains := satInc h.retrains,
             drds := h.drds.filter fun r => !d.host.hostCopies.contains r.cmd }
  let t := t.modHost (·.setErr t.now 8)
  if t.host.linkUp then t else t.modHost fun h => { h with rate := 0, partner := 0 }

theorem Device.moduleDrop_up {m : Nat} (hup : d.host.moduleUp m = true) :
    d.moduleDrop m = d.host.hostCopies.foldl (fun d id => d.copyFail id Status.memHostAbort 0) (d.dropped m) := by
  simp only [Device.moduleDrop, hup, Bool.not_true, Bool.false_eq_true, if_false]
  rfl

theorem HostPort.setErr_frame (h : HostPort) (now : Nat) (bits : BitVec 4) : ∃ a i f,
    h.setErr now bits = { h with err := h.err ||| bits, freshAt := a, freshIrq := i, freshErr := f } := by
  unfold HostPort.setErr HostPort.fresh
  dsimp only
  split <;> exact ⟨_, _, _, rfl⟩

/-- The retraining of a module: its state and the count, HOST_ERR.LINK, and no rate and partner without a module. -/
theorem Device.dropped_frame (d : Device) (m : Nat) : ∃ h, d.dropped m = { d with host := h } ∧
    h.m0 = (if m = 0 then 1 else d.host.m0) ∧ h.m1 = (if m = 1 then 1 else d.host.m1) ∧
    h.retrains = satInc d.host.retrains ∧ h.err = d.host.err ||| 8 ∧ h.cmds = d.host.cmds ∧
    h.cmdRings = d.host.cmdRings ∧ (h.linkUp = false → h.rate = 0 ∧ h.partner = 0) ∧
    (h.linkUp = true → h.rate = d.host.rate ∧ h.partner = d.host.partner) := by
  unfold Device.dropped
  extract_lets t u
  obtain ⟨_, _, _, herr⟩ := t.host.setErr_frame t.now 8
  have hu : u = { t with host := t.host.setErr t.now 8 } := rfl
  rw [herr] at hu
  rw [hu]
  split
  next hup =>
    refine ⟨_, rfl, rfl, rfl, rfl, rfl, rfl, rfl, fun hdown => ?_, fun _ => ⟨rfl, rfl⟩⟩
    rw [hup] at hdown
    nomatch hdown
  next hdown => exact ⟨_, rfl, rfl, rfl, rfl, rfl, rfl, rfl, fun _ => ⟨rfl, rfl⟩, fun hup => absurd hup hdown⟩

/-- A command that moves data of host memory is one of those that fail. -/
theorem HostPort.mem_hostCopies (hc : d.findCmd id = some c) (hrunning : c.running = true) (hran : c.ran = true)
    (hop : c.opcode = 0x0201) (hkind : copySrcKind c.params = 0 ∨ copyDstKind c.params = 0) :
    id ∈ d.host.hostCopies := by
  refine List.mem_map.2 ⟨c, List.mem_filter.2 ⟨List.mem_of_find?_eq_some hc, ?_⟩, Device.findCmd_id hc⟩
  simpa [hrunning, hran, hop] using hkind

/-- Settles O14: a module that trains notifies once the link is up; a module that drops fails the host copies in turn. -/
theorem ucieModules : Obligations.UcieModules := by
  unfold Obligations.UcieModules
  refine ⟨?train, ?drop⟩
  case train =>
    intro s d m full rate partner hruns hrate hpartner
    have answers {e : Device} (he : (if d.host.moduleUp m.val then d else d.ucieTrain m.val full rate.val partner.val) = e) :
        s.answers (.ucieTrain m full rate partner) e :=
      State.answers_liftIf hruns rfl (by simp [Instr.wellFormed, hrate, hpartner]) he
    refine ⟨fun hup => answers (if_pos hup), fun hdown => ?_⟩
    intro st told
    have htold (q : Nat) : told q = (!d.host.linkUp && d.told q) := Bool.and_assoc _ _ _
    obtain ⟨ms, rs, hframe⟩ := d.ucieTrain_frame m.val full rate.val partner.val
    have htoHost := d.ucieTrain_toHost m full rate.val partner.val
    have howed := d.ucieTrain_owed m full rate.val partner.val
    refine ⟨_, answers (if_neg (by simp [hdown])), ?_⟩
    rw [hframe] at htoHost howed ⊢
    have hm : (m = 0 ↔ m.val = 0) ∧ (m = 1 ↔ m.val = 1) := by omega
    refine ⟨?_, ?_, Nat.mod_eq_of_lt (by omega), Nat.mod_eq_of_lt (by omega), ?_, fun q => ?_, rfl, rfl, rfl, rfl⟩
    · simp only [hm.1]
      rfl
    · simp only [hm.2]
      rfl
    · simp only [htold]
      exact htoHost
    · rw [htold]
      exact howed q
  case drop =>
    intro s d m hruns
    have answers {e : Device} (he : d.moduleDrop m.val = e) : s.answers (.ucieModuleDrop m) e :=
      State.answers_lift hruns rfl he
    refine ⟨fun hdown => answers (if_pos (by simp [hdown])), fun hup => ⟨_, answers (Device.moduleDrop_up hup), ?_⟩⟩
    obtain ⟨h, hdropped, hm0, hm1, hretrains, herr, hcmds, hrings, hnone, hsome⟩ := d.dropped_frame m.val
    have hm : (m = 0 ↔ m.val = 0) ∧ (m = 1 ↔ m.val = 1) := by omega
    have hfail (id : CmdId) (c : Cmd) (hc : d.findCmd id = some c) (hrunning : c.running = true) (hran : c.ran = true)
        (hop : c.opcode = 0x0201) (hkind : copySrcKind c.params = 0 ∨ copyDstKind c.params = 0) :
        (d.host.hostCopies.foldl (fun d id => d.copyFail id Status.memHostAbort 0) (d.dropped m.val)).completed id c
          (d.cmdRing id.ring.val).cpl Status.memHostAbort := by
      have hfind : (d.dropped m.val).findCmd id = some c := by
        rw [Device.findCmd, hdropped, hcmds]
        exact hc
      have hring : (d.dropped m.val).cmdRing id.ring.val = d.cmdRing id.ring.val := by
        rw [Device.cmdRing, hdropped, hrings]
        rfl
      have hopen : c.posted = false := by
        simp only [Cmd.running, Bool.and_eq_true, Bool.not_eq_true'] at hrunning
        exact hrunning.2
      rw [← hring]
      exact Device.foldl_copyFail_completed (HostPort.mem_hostCopies hc hrunning hran hop hkind) hfind hopen
    obtain ⟨cs, rs, hframe⟩ := (d.dropped m.val).foldl_copyFail_frame Status.memHostAbort 0 d.host.hostCopies
    rw [hframe, hdropped] at hfail ⊢
    refine ⟨hm0.trans (by simp only [hm.1]), hm1.trans (by simp only [hm.2]), hretrains, herr, hnone, hsome, hfail, rfl⟩

end Sys2Proof.Machine
end

section
/-! SUPPORT and PROOFS. Host rings, the event route and the resets that a command asks for. -/

namespace Sys2Proof.Machine

variable {s : State} {d : Device} {id : CmdId} {ps : List Byte} {q : Nat}

/-! ### The life of a command ring (R407, R408) -/

/-- HRING_CREATE of a command ring that is OFF, over a sound area and paired with a completion ring that is ON. -/
theorem Device.hringCreate_opens (hready : d.ready id 0x0105 ps) (hkind : fieldAt ps 0 1 = 0) (hq : fieldAt ps 1 1 = q)
    (hne : q ≠ 0) (hle : q ≤ 15) (hreserved : fieldAt ps 13 3 = 0) (hmin : 128 ≤ fieldAt ps 4 4)
    (hmax : fieldAt ps 4 4 ≤ 65536) (halign : fieldAt ps 8 4 % 64 = 0)
    (harea : d.ringAreaOk false q (fieldAt ps 8 4) (fieldAt ps 4 4) = true) (hcpl : fieldAt ps 12 1 ≤ 15)
    (hpair : (d.cplRing (fieldAt ps 12 1)).life = .on) (hoff : (d.cmdRing q).life = .off) :
    d.hringCreate id = ((d.acted id).modCmdRing q (·.opened
      { entries := fieldAt ps 4 4, base := fieldAt ps 8 4, interval := fieldAt ps 2 2, cpl := fieldAt ps 12 1,
        startSeq := BitVec.ofNat 32 (fieldAt ps 16 4) })).complete id Status.ok := by
  have harea' : (d.acted id).ringAreaOk false q (fieldAt ps 8 4) (fieldAt ps 4 4) = true := harea
  have hpair' : ((d.acted id).cplRing (fieldAt ps 12 1)).life = .on := hpair
  have hoff' : ((d.acted id).cmdRing q).life = .off := hoff
  rw [Device.hringCreate, Device.runCmd_ready _ hready]
  simp [hkind, hq, hne, hreserved, halign, harea', hpair', hoff', Nat.not_lt.2 hmin, Nat.not_lt.2 hmax, Nat.not_lt.2 hcpl,
    Nat.not_lt.2 hle, Device.openRing]

/-- A valid destroy of a command ring depends on its life alone. -/
theorem Device.hringDestroy_cmd (hready : d.ready id 0x0106 ps) (hkind : fieldAt ps 0 1 = 0) (hq : fieldAt ps 1 1 = q)
    (hne : q ≠ 0) (hle : q ≤ 15) (hreserved : fieldAt ps 2 2 = 0) :
    d.hringDestroy id = match (d.cmdRing q).life with
      | .off => (d.acted id).complete id Status.ok
      | .stopping => (d.acted id).modCmdRing q fun r => { r with pending := none, destroyCmd := some id }
      | _ => (d.acted id).modCmdRing q fun r => { r with life := .stopping, destroyCmd := some id } := by
  subst hq
  rw [Device.hringDestroy, Device.runCmd_ready _ hready]
  exact (if_neg (by omega)).trans ((if_neg hne).trans (if_pos hkind))

/-- A stopping command ring reaches OFF once every other command taken from it has completed. -/
theorem Device.hringOff_destroyed (hlife : (d.cmdRing q).life = .stopping) (hcmd : (d.cmdRing q).destroyCmd = some id)
    (hpending : (d.cmdRing q).pending = none)
    (hdone : ∀ c ∈ d.host.cmds, c.id.ring.val = q → c.posted = true ∨ c.id = id) :
    d.hringOff false q = (d.modCmdRing q fun r => { r with life := .off, destroyCmd := none, pending := none }).complete id
      Status.ok := by
  have hwait : d.host.cmds.any (fun c => c.id.ring.val == q && !c.posted && (d.cmdRing q).destroyCmd != some c.id) = false := by
    refine List.any_eq_false.2 fun c hc => ?_
    simp only [Bool.and_eq_true, beq_iff_eq, Bool.not_eq_true', bne_iff_ne, hcmd, not_and]
    rintro ⟨hring, hopen⟩ hother
    rcases hdone c hc hring with h | h
    · simp [h] at hopen
    · exact hother (by rw [h])
  have hopen : ¬((d.cmdRing q).life ≠ .stopping ∨ d.host.cmds.any
      (fun c => c.id.ring.val == q && !c.posted && (d.cmdRing q).destroyCmd != some c.id) = true) := by
    simp only [hlife, hwait, ne_eq, not_true_eq_false, Bool.false_eq_true, or_self, not_false_eq_true]
  refine (if_neg Bool.false_ne_true).trans ((if_neg hopen).trans ?_)
  simp only [hcmd, hpending]

/-- Settles O16: one lemma for each command and for the stop that ends. -/
theorem hostRingLifeCycle : Obligations.HostRingLifeCycle := by
  unfold Obligations.HostRingLifeCycle
  intro s d id ps q hruns hne
  have hle : q.val ≤ 15 := by omega
  refine ⟨?create, ?destroy, ?destroyOff, ?off⟩
  case create =>
    intro hready hkind hq hreserved hmin hmax halign harea hcpl hpair hoff
    exact State.answers_lift hruns rfl
      (Device.hringCreate_opens hready hkind hq hne hle hreserved hmin hmax halign harea hcpl hpair hoff)
  case destroy =>
    intro hready hkind hq hreserved hon
    refine State.answers_lift hruns rfl ((Device.hringDestroy_cmd hready hkind hq hne hle hreserved).trans ?_)
    rw [hon]
  case destroyOff =>
    intro hready hkind hq hreserved hoff
    refine State.answers_lift hruns rfl ((Device.hringDestroy_cmd hready hkind hq hne hle hreserved).trans ?_)
    rw [hoff]
  case off =>
    intro hlife hcmd hpending hdone
    exact State.answers_lift hruns rfl
      (Device.hringOff_destroyed hlife hcmd hpending fun c hc hring => hdone c hc (Fin.ext hring))

/-! ### EVENT_ROUTE and DEV_RESET (R403, R404) -/

/-- A valid EVENT_ROUTE depends on the ring that it names. -/
theorem Device.eventRoute_eq (hready : d.ready id 0x0107 ps) (hreserved : fieldAt ps 2 2 = 0) (hmode : fieldAt ps 1 1 ≤ 2) :
    d.eventRoute id =
      if 15 < fieldAt ps 0 1 ∨ (d.cplRing (fieldAt ps 0 1)).life ≠ .on then (d.acted id).complete id Status.badRing
      else ((d.acted id).modHost fun h =>
        { h with routeMode := BitVec.ofNat 8 (fieldAt ps 1 1), routeCpl := fieldAt ps 0 1 }).complete id Status.ok := by
  rw [Device.eventRoute, Device.runCmd_ready _ hready]
  exact if_neg (by omega)

theorem Device.devReset_eq (hready : d.ready id 0x0108 ps) :
    d.devReset id = if fieldAt ps 0 4 ≠ 0x01080108 then (d.acted id).complete id Status.badParam
      else (d.acted id).complete id Status.ok := by
  rw [Device.devReset, Device.runCmd_ready _ hready]

theorem Device.endCommand_resetDue {p : Packet} (hop : p.opcode = 0x0108) (hst : p.status = BitVec.ofNat 16 Status.ok) :
    (d.endCommand q p).host.resetDue = true := by
  simp [Device.endCommand, HostPort.enterCache, Device.modCplRing, Device.modHost, hop, hst]

/-! ### DEVICE_RESET (R403, R452, R495) -/

theorem Device.foldl_heldOff_frame {f : Device → Nat → Device} (l : List Nat)
    (hf : ∀ e k, ∃ w st v, f e k = { e with pwr := w, hbmStacks := st, vxl := v }) (d : Device) :
    ∃ w st v, l.foldl f d = { d with pwr := w, hbmStacks := st, vxl := v } :=
  List.foldlRecOn l f (motive := fun e : Device => ∃ w st v, e = { d with pwr := w, hbmStacks := st, vxl := v })
    ⟨_, _, _, rfl⟩ fun e ⟨_, _, _, he⟩ k _ => by
      obtain ⟨w, st, v, hk⟩ := hf e k
      exact ⟨w, st, v, by rw [hk, he]⟩

/-- What is held off is a matter of regions, stacks and ports. -/
theorem Device.applyHeldOff_frame (d : Device) :
    ∃ w st v, d.applyHeldOff = { d with pwr := w, hbmStacks := st, vxl := v } := by
  have hregion (e : Device) (k : Nat) : ∃ w st v, (if d.seq.regionOk k then e else e.modPwrRegion k fun g =>
      { g with heldOff := true, ceiling := 0, mode := 3, freq := 0 }) = { e with pwr := w, hbmStacks := st, vxl := v } := by
    split <;> exact ⟨_, _, _, rfl⟩
  have hstack (e : Device) (k : Nat) : ∃ w st v, (if d.seq.stackOk k then e else e.modStack k fun s =>
      { s with state := 3, reads := [], writes := [] }) = { e with pwr := w, hbmStacks := st, vxl := v } := by
    split <;> exact ⟨_, _, _, rfl⟩
  have hport (e : Device) (k : Nat) : ∃ w st v, (if d.seq.portOk k then e else e.modPort k fun v =>
      if v.life = .off then v else { v with life := .off, sent := [], held := [] }) =
        { e with pwr := w, hbmStacks := st, vxl := v } := by
    split <;> exact ⟨_, _, _, rfl⟩
  unfold Device.applyHeldOff
  extract_lets q d₁ d₂
  obtain ⟨_, _, _, h₁⟩ : ∃ w st v, d₁ = { d with pwr := w, hbmStacks := st, vxl := v } := Device.foldl_heldOff_frame _ hregion d
  obtain ⟨_, _, _, h₂⟩ : ∃ w st v, d₂ = { d₁ with pwr := w, hbmStacks := st, vxl := v } := Device.foldl_heldOff_frame _ hstack d₁
  obtain ⟨w, st, v, h₃⟩ := Device.foldl_heldOff_frame (List.range 12) hport d₂
  exact ⟨w, st, v, by rw [h₃, h₂, h₁]⟩

/-- The device as it leaves reset, before what failed rails and diodes hold off: the boot loader checks the fuses, and
the inputs' filters take up their levels anew (R453, R497). -/
def Device.leaving (d : Device) : Device :=
  { d.held with
    now := 0,
    hlt := { d.held.hlt with inputs := d.held.hlt.inputs.mapAll fun _ p => { Input.reset with glitch := p.glitch } },
    sec := { d.held.sec with fuses := { d.sec.fuses with fuseOk := d.sec.fuses.crcBad.isEmpty } },
    seq := { d.seq with resetLow := false, hubHeld := false, okSince := none } }

theorem Device.leaveReset_eq (d : Device) : d.leaveReset = d.leaving.applyHeldOff := rfl

theorem Device.held_cmdRing (hq : q ≠ 0) : (d.held.cmdRing q).life = .off := by
  have hring : d.held.cmdRing q = Device.reset.cmdRing q := rfl
  rw [hring, Device.reset_cmdRing_ne hq]
  rfl

theorem Device.held_cplRing (hq : q ≠ 0) : (d.held.cplRing q).life = .off := by
  have hring : d.held.cplRing q = Device.reset.cplRing q := rfl
  rw [hring, Device.reset_cplRing_ne hq]
  rfl

/-- Settles O17. -/
theorem eventRouteAndDeviceReset : Obligations.EventRouteAndDeviceReset := by
  unfold Obligations.EventRouteAndDeviceReset
  intro s d id ps hruns
  refine ⟨?route, ?command, fun q p hop hst => Device.endCommand_resetDue hop hst, ?due, ?notDue⟩
  case route =>
    intro hready hreserved hmode q
    have hroute := Device.eventRoute_eq hready hreserved hmode
    exact ⟨fun hle hon => State.answers_lift hruns rfl (hroute.trans (if_neg fun hbad => hbad.elim (Nat.not_lt.2 hle) (· hon))),
      fun hbad => State.answers_lift hruns rfl (hroute.trans (if_pos hbad))⟩
  case command =>
    intro hready
    have hreset := Device.devReset_eq hready
    exact ⟨fun hconfirm => State.answers_lift hruns rfl (hreset.trans (if_neg (not_not.2 hconfirm))),
      fun hwrong => State.answers_lift hruns rfl (hreset.trans (if_pos hwrong))⟩
  case due =>
    intro hdue
    cases hfaulty : d.seq.faulty with
    | true =>
      have hreset : d.deviceReset = d.held.modSeq fun q => { q.again with hubHeld := true } := by
        rw [Device.deviceReset, if_pos hdue, if_pos hfaulty]
      refine ⟨_, State.answers_lift hruns rfl hreset, rfl, rfl, rfl, rfl, rfl, rfl, rfl, rfl, rfl, rfl,
        fun q hq => ⟨Device.held_cmdRing hq, Device.held_cplRing hq⟩, (nomatch ·), fun _ => ⟨?_, rfl, rfl⟩⟩
      exact Bool.and_false _
    | false =>
      obtain ⟨w, st, v, hleave⟩ := d.leaving.applyHeldOff_frame
      have hreset : d.deviceReset = d.leaving.applyHeldOff := by
        rw [Device.deviceReset, if_pos hdue, if_neg (by simp [hfaulty]), Device.leaveReset_eq]
      exact ⟨_, State.answers_lift hruns rfl (hreset.trans hleave), rfl, rfl, rfl, rfl, rfl, rfl, rfl, rfl, rfl, rfl,
        fun q hq => ⟨Device.held_cmdRing (d := d) hq, Device.held_cplRing (d := d) hq⟩, fun _ => ⟨rfl, rfl⟩,
        (nomatch ·)⟩
  case notDue =>
    intro hnot
    exact State.answers_lift hruns rfl (if_neg (by simp [hnot]))

end Sys2Proof.Machine
end

section
/-! SUPPORT and PROOFS. Copies: what MEM_FILL and MEM_COPY do once no check refuses them, and the answers of host
memory. -/

namespace Sys2Proof.Machine

variable {s : State} {d : Device} {id : CmdId} {ps : List Byte}

/-! ### Sides of a copy (R314, R329, R379) -/

theorem outsideFree_inside {a n : Nat} (hlow : 0x9000 ≤ a) (hhigh : a + n ≤ 0x800000) : outsideFree a n = false :=
  Bool.or_eq_false_iff.2 ⟨decide_eq_false (Nat.not_lt.2 hlow), decide_eq_false (Nat.not_lt.2 hhigh)⟩

theorem outsideFree_outside {a n : Nat} (h : a < 0x9000 ∨ 0x800000 < a + n) : outsideFree a n = true :=
  Bool.or_eq_true_iff.2 (h.imp decide_eq_true decide_eq_true)

theorem Device.hbmRefused_other {k a n : Nat} (h : k ≠ 2) : d.hbmRefused k a n = none := if_pos h

theorem Device.hbmRefused_inside {a n : Nat} (hbase : a < hbmBytes) (hend : a + n ≤ hbmBytes)
    (hon : d.hbmOffline a n = false) : d.hbmRefused 2 a n = none := by
  have hrange : ¬(hbmBytes < a + n ∨ hbmBytes ≤ a) := by omega
  rw [Device.hbmRefused, if_neg (by decide), if_neg hrange, if_neg (by simp [hon])]

/-! ### MEM_FILL (R405) -/

/-- MEM_FILL acts once the stacks that it needs take accesses. -/
theorem Device.memFill_ready (hready : d.ready id 0x0202 ps) (hwaits : d.copyWaits id = false) :
    d.memFill id = match (d.acted id).fillRefused ps with
      | some st => (d.acted id).complete id st
      | none =>
        (if fieldAt ps 0 1 = 1 then
            (d.acted id).ringWriteRange (fieldAt ps 16 8 + 1) (fieldAt ps 8 8) (fillBytes (sliceAt ps 24 8) (fieldAt ps 16 8))
          else (d.acted id).hbmWrite .remote (fieldAt ps 8 8) (fillBytes (sliceAt ps 24 8) (fieldAt ps 16 8))).complete id
          Status.ok (leBytes 8 (fieldAt ps 16 8) ++ leBytes 8 0) := by
  have hgo : ¬((!d.hlt.trip) = true ∧ d.copyWaits id = true) := by simp [hwaits]
  rw [Device.memFill, if_neg hgo]
  exact Device.runCmd_ready _ hready

theorem Device.fillRefused_ring (htrip : d.hlt.trip = false) (hreserved : fieldAt ps 1 7 = 0) (hkind : fieldAt ps 0 1 = 1) :
    d.fillRefused ps = if outsideFree (fieldAt ps 8 8) (fieldAt ps 16 8) then some Status.memKind else none := by
  simp [Device.fillRefused, htrip, hreserved, hkind, Device.hbmRefused_other]

theorem Device.fillRefused_hbm (htrip : d.hlt.trip = false) (hreserved : fieldAt ps 1 7 = 0) (hkind : fieldAt ps 0 1 = 2) :
    d.fillRefused ps = d.hbmRefused 2 (fieldAt ps 8 8) (fieldAt ps 16 8) := by
  simp [Device.fillRefused, htrip, hreserved, hkind]

/-! ### MEM_COPY (R374, R377, R405) -/

/-- What a MEM_COPY must satisfy for no check to refuse it. -/
structure Device.CopySound (d : Device) (ps : List Byte) : Prop where
  trip : d.hlt.trip = false
  src : copySrcKind ps ≤ 3
  dst : copyDstKind ps ≤ 3
  reserved : fieldAt ps 2 6 = 0
  short : 1 ≤ copyLen ps
  long : copyLen ps ≤ 2 ^ 40
  toHost : copyDstKind ps = 0 → copySrcKind ps ≠ 0 ∧ copySrcKind ps ≠ 3
  srcHbm : d.hbmRefused (copySrcKind ps) (copySrc ps) (copyLen ps) = none
  dstHbm : d.hbmRefused (copyDstKind ps) (copyDst ps) (copyLen ps) = none
  srcRing : copySrcKind ps = 1 → outsideFree (copySrc ps) (copyLen ps) = false
  dstRing : copyDstKind ps = 1 → outsideFree (copyDst ps) (copyLen ps) = false

theorem Device.CopySound.copyRefused (h : d.CopySound ps) : d.copyRefused ps = none := by
  have hparams : ¬(3 < copySrcKind ps ∨ 3 < copyDstKind ps ∨ fieldAt ps 2 6 ≠ 0 ∨ copyLen ps < 1 ∨ 2 ^ 40 < copyLen ps) := by
    have hsrc := h.src
    have hdst := h.dst
    have hreserved := h.reserved
    have hshort := h.short
    have hlong := h.long
    omega
  have hkinds : ¬((copyDstKind ps = 0 ∧ (copySrcKind ps = 0 ∨ copySrcKind ps = 3)) ∨
      (copySrcKind ps = 1 ∧ outsideFree (copySrc ps) (copyLen ps) = true) ∨
      (copyDstKind ps = 1 ∧ outsideFree (copyDst ps) (copyLen ps) = true)) := by
    rintro (⟨hto, hfrom⟩ | ⟨hring, hout⟩ | ⟨hring, hout⟩)
    · exact hfrom.elim (h.toHost hto).1 (h.toHost hto).2
    · simp [h.srcRing hring] at hout
    · simp [h.dstRing hring] at hout
  refine (if_neg hparams).trans ((if_neg (by simp [h.trip])).trans ((if_neg hkinds).trans ?_))
  rw [h.srcHbm, h.dstHbm]
  rfl

/-- A sound MEM_COPY takes its first step, which is the whole of a copy within the device. -/
theorem Device.memCopy_ready (hready : d.ready id 0x0201 ps) (hwaits : d.copyWaits id = false) (hsound : d.CopySound ps)
    (hlink : copySrcKind ps = 0 ∨ copyDstKind ps = 0 → d.host.linkUp = true) :
    d.memCopy id =
      if (copySrcKind ps = 1 ∨ copySrcKind ps = 2) ∧ copyDstKind ps ≠ 3 then ((d.acted id).copyStep id).copyEnd id
      else (d.acted id).copyStep id := by
  have hgo : ¬((!d.hlt.trip) = true ∧ d.copyWaits id = true) := by simp [hwaits]
  have hrefused : (d.acted id).copyRefused ps = none := hsound.copyRefused
  have hup : ¬((copySrcKind ps = 0 ∨ copyDstKind ps = 0) ∧ (!(d.acted id).host.linkUp) = true) := by
    rintro ⟨hhost, hdown⟩
    have hlink' : (d.acted id).host.linkUp = true := hlink hhost
    simp [hlink'] at hdown
  rw [Device.memCopy, if_neg hgo, Device.runCmd_ready _ hready]
  simp only [hrefused, if_neg hup]

/-! ### DRD_CPL and DRD_TIMEOUT (R377) -/

/-- The device without the read of host memory that has tag `tag`. -/
def Device.drdDone (d : Device) (tag : Nat) : Device :=
  d.modHost fun h => { h with drds := h.drds.filter (·.tag != tag) }

theorem Device.drdFail_fails {tag : Nat} {r : Drd} {c : Cmd} (hr : d.host.drds.find? (·.tag == tag) = some r)
    (hc : d.findCmd r.cmd = some c) : d.drdFail tag = (d.drdDone tag).complete r.cmd Status.memHostAbort c.copyReply := by
  have hc' : (d.drdDone tag).findCmd r.cmd = some c := hc
  rw [Device.drdFail, hr]
  show (d.drdDone tag).copyFail r.cmd Status.memHostAbort 0 = _
  rw [Device.copyFail, hc']

theorem Device.drdCpl_abort {tag : Nat} {r : Drd} (bs : List Byte) (hr : d.host.drds.find? (·.tag == tag) = some r) :
    d.drdCpl tag true bs = d.drdFail tag := by
  rw [Device.drdCpl, hr]
  exact if_pos (.inl rfl)

/-- The data of a read goes on to its copy, and the next part is read. -/
theorem Device.drdCpl_data {tag : Nat} {r : Drd} {c : Cmd} {bs : List Byte}
    (hr : d.host.drds.find? (·.tag == tag) = some r) (hc : d.findCmd r.cmd = some c) (hopen : c.posted = false)
    (hlen : bs.length = r.len) (hdst : copyDstKind c.params ≠ 3) :
    d.drdCpl tag false bs = ((d.drdDone tag).copyPut r.cmd (bs.map fun b => (b, false))).copyStep r.cmd := by
  have hc' : (d.drdDone tag).findCmd r.cmd = some c := hc
  have hwhole : ¬(false = true ∨ bs.length ≠ r.len) := by simp [hlen]
  rw [Device.drdDone] at hc' ⊢
  rw [Device.drdCpl, hr]
  refine (if_neg hwhole).trans ?_
  simp only [hc', hopen, if_neg hdst, Bool.false_eq_true, if_false]

/-- Settles O18. -/
theorem copiesMoveData : Obligations.CopiesMoveData := by
  unfold Obligations.CopiesMoveData
  refine ⟨?fill, ?copy, ?answer⟩
  case fill =>
    intro s d id ps hruns hready htrip hwaits hreserved a n bs reply
    have hfill := Device.memFill_ready hready hwaits
    refine ⟨fun hkind hlow hhigh => ?_, fun hkind hbase hend hon => ?_, fun hkind hout => ?_⟩
    · refine State.answers_lift hruns rfl (hfill.trans ?_)
      rw [Device.fillRefused_ring (d := d.acted id) htrip hreserved hkind, outsideFree_inside hlow hhigh]
      exact congrArg (Device.complete · id Status.ok reply) (if_pos hkind)
    · have hone : fieldAt ps 0 1 ≠ 1 := by omega
      refine State.answers_lift hruns rfl (hfill.trans ?_)
      rw [Device.fillRefused_hbm (d := d.acted id) htrip hreserved hkind,
        Device.hbmRefused_inside (d := d.acted id) hbase hend hon]
      exact congrArg (Device.complete · id Status.ok reply) (if_neg hone)
    · refine State.answers_lift hruns rfl (hfill.trans ?_)
      rw [Device.fillRefused_ring (d := d.acted id) htrip hreserved hkind, outsideFree_outside hout]
      rfl
  case copy =>
    intro s d id ps hruns hready htrip hwaits hsrc hdst hreserved hshort hlong htoHost hsrcHbm hdstHbm hlink hsrcRing
      hdstRing
    have hcopy := Device.memCopy_ready hready hwaits
      ⟨htrip, hsrc, hdst, hreserved, hshort, hlong, htoHost, hsrcHbm, hdstHbm, hsrcRing, hdstRing⟩ hlink
    have answers {t : Device} (ht : d.memCopy id = t) : s.answers (.memCopy id) t.pump :=
      State.answers_lift (f := fun d => (d.memCopy id).pump) hruns rfl (congrArg Device.pump ht)
    exact ⟨fun hlocal hhere => answers (hcopy.trans (if_pos ⟨hlocal, hhere⟩)),
      fun hfar => answers (hcopy.trans (if_neg (by omega)))⟩
  case answer =>
    intro s d tag r c bs hruns hr hc hopen hmax rest
    have answers {abort : Bool} {t : Device} (ht : d.drdCpl tag.val abort bs = t) :
        s.answers (.drdCpl tag abort bs) t.pump :=
      State.answers_liftIf (f := fun d => (d.drdCpl tag.val abort bs).pump) hruns rfl (decide_eq_true hmax)
        (congrArg Device.pump ht)
    exact ⟨fun hlen hdst => answers (Device.drdCpl_data hr hc hopen hlen hdst),
      answers ((Device.drdCpl_abort bs hr).trans (Device.drdFail_fails hr hc)),
      State.answers_lift (f := fun d => d.drdFail tag.val) hruns rfl (Device.drdFail_fails hr hc)⟩

end Sys2Proof.Machine
end

section
/-! SUPPORT and PROOFS. The logbook: what an entry that is written changes of it, and the commands that read, show and
stream it. -/

namespace Sys2Proof.Machine

variable {s : State} {d : Device} {id : CmdId} {ps : List Byte}

/-! ### Entries (R464 to R468) -/

@[simp] theorem length_leBytes (n v : Nat) : (leBytes n v).length = n := by
  induction n generalizing v with
  | zero => rfl
  | succ n ih => simp [leBytes, ih]

@[simp] theorem length_sliceAt (bs : List Byte) (a n : Nat) : (sliceAt bs a n).length = n := by
  simp only [sliceAt, List.length_append, List.length_replicate, List.length_take]
  omega

theorem length_logEntryBytes (k seq : Nat) (pl : List Byte) : (logEntryBytes k seq pl).length = logSize pl.length := by
  simp only [logEntryBytes, logSize, List.length_append, length_leBytes, length_sliceAt]

/-- A write of an entry: the bytes and the position move on, and entries that it overwrites are whole no longer. -/
theorem Logbook.writeEntry_frame (l : Logbook) (k : Nat) (pl : List Byte) :
    ∃ m pos n, l.writeEntry k pl =
      { l with
        mem := m, p := l.p + logSize pl.length, seq := l.seq + 1, streamPos := pos, lapped := n,
        starts := (l.starts ++ [l.p]).filter fun q => decide (l.p + logSize pl.length ≤ q + logBytes) } := by
  simp only [Logbook.writeEntry, length_logEntryBytes]
  split <;> exact ⟨_, _, _, rfl⟩

/-- An entry that fits the SRAM does not overwrite itself. -/
theorem logSize_le {n : Nat} (h : n + 32 ≤ logBytes) : logSize n ≤ logBytes := by
  unfold logSize
  omega

/-- Settles O20: by the frame of the write; an entry that fits is whole once it has been written. -/
theorem logEntryAdvancesWriter : Obligations.LogEntryAdvancesWriter := by
  unfold Obligations.LogEntryAdvancesWriter
  intro l k pl hfit t
  obtain ⟨m, pos, n, hframe⟩ := l.writeEntry_frame k pl
  have ht : t = _ := hframe
  rw [ht]
  refine ⟨rfl, rfl, ?newest, rfl, ?whole, rfl, rfl⟩
  case newest =>
    have hself : l.p + logSize pl.length ≤ l.p + logBytes := Nat.add_le_add_left (logSize_le hfit) _
    simp [List.filter_append, hself]
  case whole =>
    intro q hq
    exact of_decide_eq_true (List.mem_filter.1 hq).2

/-! ### LOG_READ and LOG_STATUS (R472, R473) -/

theorem Device.logRead_copies (hready : d.ready id 0x0A01 ps) (hoff : fieldAt ps 0 8 % 16 = 0)
    (hlen : fieldAt ps 8 8 % 16 = 0) (hmin : 16 ≤ fieldAt ps 8 8) (hmax : fieldAt ps 8 8 ≤ logBytes)
    (hold : d.log.p ≤ fieldAt ps 0 8 + logBytes) (hend : fieldAt ps 0 8 + fieldAt ps 8 8 ≤ d.log.p)
    (hup : d.host.linkUp = true) :
    d.logRead id =
      ((d.acted id).dwr (fieldAt ps 16 8) (d.log.read (fieldAt ps 0 8) (fieldAt ps 8 8))).complete id
        (if (d.log.read (fieldAt ps 0 8) (fieldAt ps 8 8)).any (·.2) then Status.hbmPoisonData else Status.ok)
        (leBytes 8 (fieldAt ps 8 8)) := by
  have hrange : ¬(fieldAt ps 0 8 % 16 ≠ 0 ∨ fieldAt ps 8 8 % 16 ≠ 0 ∨ fieldAt ps 8 8 < 16 ∨ logBytes < fieldAt ps 8 8 ∨
      fieldAt ps 0 8 + logBytes < d.log.p ∨ d.log.p < fieldAt ps 0 8 + fieldAt ps 8 8) := by omega
  have hsound : (d.acted id).logRefused ps = none := if_neg hrange
  have hlink : ¬(!(d.acted id).host.linkUp) = true := by
    rw [show (d.acted id).host.linkUp = true from hup]
    decide
  rw [Device.logRead, Device.runCmd_ready _ hready]
  simp only [hsound, if_neg hlink, Device.acted_log]
  rfl

theorem Device.logStatus_replies (hready : d.ready id 0x0A04 ps) :
    d.logStatus id = (d.acted id).complete id Status.ok
      (leBytes 8 d.log.p ++ leBytes 8 d.log.oldest ++ leBytes 8 d.log.streamPos ++ leBytes 4 d.log.dropped.toNat ++
        leBytes 1 d.log.stream.code ++ leBytes 1 0 ++ leBytes 2 d.log.lapped.toNat) := by
  rw [Device.logStatus, Device.runCmd_ready _ hready]
  rfl

/-! ### LOG_STREAM (R474) -/

/-- A LOG_STREAM that starts the stream over a sound range of a stack that takes accesses. -/
theorem Device.logStream_starts (hready : d.ready id 0x0A02 ps) (hen : fieldAt ps 0 1 = 1) (hreserved : fieldAt ps 1 7 = 0)
    (hwaits : d.hbmWaits (fieldAt ps 8 8) 1 = false) (hbase : fieldAt ps 8 8 < hbmBytes)
    (hrange : streamRangeOk (fieldAt ps 8 8) (fieldAt ps 16 8) = true)
    (hon : d.hbmOffline (fieldAt ps 8 8) (fieldAt ps 16 8) = false) (hoff : d.log.stream = .off) :
    d.logStream id =
      ((d.acted id).modLog (·.startStream (fieldAt ps 8 8) (fieldAt ps 16 8))).complete id Status.ok := by
  have hon' : (d.acted id).hbmOffline (fieldAt ps 8 8) (fieldAt ps 16 8) = false := hon
  have ⟨c, hc, _, _, _, _, hps⟩ := hready
  subst hps
  rw [Device.logStream, hc]
  refine (if_neg (by simp [hwaits])).trans ((Device.runCmd_ready _ hready).trans ?_)
  simp [hen, hreserved, Nat.not_le.2 hbase, hrange, hon', hoff]

/-- A LOG_STREAM that stops a stream that is ON. -/
theorem Device.logStream_stops (hready : d.ready id 0x0A02 ps) (hhead : ps.headD 0 = 0) (hen : fieldAt ps 0 1 = 0)
    (hreserved : fieldAt ps 1 7 = 0) (hon : d.log.stream = .on) :
    d.logStream id = (d.acted id).modLog fun l => { l with stream := .stopping, streamCmd := some id } := by
  have ⟨c, hc, _, _, _, _, hps⟩ := hready
  subst hps
  rw [Device.logStream, hc]
  have hgo : ¬(c.params.headD 0 = 1 ∧ d.hbmWaits (fieldAt c.params 8 8) 1 = true) := by
    rw [hhead]
    exact fun h => absurd h.1 (by decide)
  refine (if_neg hgo).trans ((Device.runCmd_ready _ hready).trans ?_)
  simp [hen, hreserved, hon]

/-! ### LOG_ENTRY_WRITE and LOG_STREAM_ROW (R466, R467, R474) -/

theorem Device.logEntryWrite_writes {e : LogItem} {rest : List LogItem} (hqueue : d.log.queue = e :: rest)
    (hmarked : d.log.unmarked = 0) :
    d.logEntryWrite = d.modLog fun l => { l with queue := rest }.writeEntry e.kind e.payload := by
  obtain ⟨m, pos, n, hframe⟩ := Logbook.writeEntry_frame { d.log with queue := rest } e.kind e.payload
  have hsame : (d.modLog fun l => { l with queue := rest }.writeEntry e.kind e.payload).log.unmarked = 0 :=
    (congrArg Logbook.unmarked hframe).trans hmarked
  rw [Device.logEntryWrite, hqueue]
  exact if_neg fun h => h.1 hsame

/-- A stream that is ON copies what is left of the next whole row. -/
theorem Device.logStreamRow_copies (hon : d.log.stream = .on) (hstack : (d.stack (stackOf d.log.streamBase)).state = 1)
    (hrow : d.log.streamPos + (64 - d.log.streamPos % 64) ≤ d.log.p) :
    d.logStreamRow =
      (d.hbmWriteBurst (d.log.streamBase + d.log.streamPos % d.log.streamLen)
        ((d.log.read d.log.streamPos (64 - d.log.streamPos % 64)).map (·.1))
        ((d.log.read d.log.streamPos (64 - d.log.streamPos % 64)).any (·.2)) .patrol).modLog fun l =>
          { l with streamPos := d.log.streamPos + (64 - d.log.streamPos % 64) } := by
  have hgo : ¬((d.log.stream ≠ .on ∧ d.log.stream ≠ .stopping) ∨ (d.stack (stackOf d.log.streamBase)).state ≠ 1) := by
    simp [hon, hstack]
  rw [Device.logStreamRow]
  exact (if_neg hgo).trans (if_pos hrow)

/-- Settles O19. -/
theorem logbookActs : Obligations.LogbookActs := by
  unfold Obligations.LogbookActs
  refine ⟨?commands, ?events⟩
  case commands =>
    intro s d id ps hruns
    refine ⟨fun hready hoff hlen hmin hmax hold hend hup => ?_, fun hready => ?_,
      fun hready hen hreserved hwaits hbase hrange hon hoff => ?_, fun hready hhead hen hreserved hon => ?_⟩
    · exact State.answers_lift hruns rfl (Device.logRead_copies hready hoff hlen hmin hmax hold hend hup)
    · exact State.answers_lift hruns rfl (Device.logStatus_replies hready)
    · exact State.answers_lift hruns rfl (Device.logStream_starts hready hen hreserved hwaits hbase hrange hon hoff)
    · exact State.answers_lift hruns rfl (Device.logStream_stops hready hhead hen hreserved hon)
  case events =>
    intro s d hruns
    exact ⟨fun e rest hqueue hmarked => State.answers_lift hruns rfl (Device.logEntryWrite_writes hqueue hmarked),
      fun hon hstack hrow => State.answers_lift hruns rfl (Device.logStreamRow_copies hon hstack hrow)⟩

end Sys2Proof.Machine
end

section
/-! SUPPORT and PROOFS. The monitors of temperature, power and voltage, the end of gating and of a wake, and the filtered
input pins. -/

namespace Sys2Proof.Machine

variable {s : State} {d : Device}

/-! ### SENSOR_READ and TRIP_CLEAR (R421, R422, R426, R430) -/

/-- The device once a sensor read has evaluated maxima, warnings and emergencies, before a trip. -/
def Device.sensed (d : Device) (vs : List (Option (BitVec 16))) : Device :=
  let read := ((d.modHlt (·.takeThresh)).readSensors 0 vs).modHlt fun h =>
    (List.range 5).foldl (fun h die => h.evalMax die) h
  let eval := ((List.range 4).foldl (fun d die => d.evalWarn die) read).evalEmergencies
  eval.modHlt fun h =>
    { h with coolSince := if h.allCool then (match h.coolSince with | some t => some t | none => some eval.now) else none }

theorem Device.sensorRead_calm {vs : List (Option (BitVec 16))}
    (h : (d.sensed vs).hlt.tripping = none ∨ (d.sensed vs).hlt.trip = true) : d.sensorRead vs = d.sensed vs := by
  unfold Device.sensorRead
  extract_lets read₀ read all eval cool
  have hcool : cool = d.sensed vs := rfl
  clear_value cool
  subst hcool
  split
  next heq =>
    rw [heq] at h
    exact if_pos (h.resolve_left (Option.some_ne_none _))
  next => rfl

/-- The first sensor at or above T_TRIP trips the device, unless it has tripped. -/
theorem Device.sensorRead_trips {vs : List (Option (BitVec 16))} {i : Nat} {t : BitVec 16}
    (hsensor : (d.sensed vs).hlt.tripping = some (i, t)) (htrip : (d.sensed vs).hlt.trip = false) :
    d.sensorRead vs = (d.sensed vs).trip (sensorPlace i).1 (sensorPlace i).2 t := by
  unfold Device.sensorRead
  extract_lets read₀ read all eval cool
  have hcool : cool = d.sensed vs := rfl
  clear_value cool
  subst hcool
  rw [hsensor]
  exact if_neg (by rw [htrip]; decide)

theorem Device.tripClear_clears {t : Nat} (htrip : d.hlt.trip = true) (hcool : d.hlt.coolSince = some t)
    (hlong : t + ns 100000000 ≤ d.now) :
    d.tripClear = (List.range 8).foldl (fun d r =>
      (d.modPwrRegion r fun g => { g with halted := false }).placeRegion d.pwr.state.toNat r)
      (d.modHlt fun h => { h with trip := false }) := by
  rw [Device.tripClear, hcool]
  exact if_pos ⟨htrip, hlong⟩

/-! ### The thermal emergency (R427 to R429) -/

theorem Device.emergencyEnd_ends {die t : Nat} (hclear : (d.emergency die).clearSince = some t)
    (hholds : (d.emergency die).holds = true) (hlong : t + ns 1000000 ≤ d.now) :
    d.emergencyEnd die =
      let ended := (d.modEmerg die fun e => { e with holds := false }).raiseHub 0xFF 0x72 (BitVec.ofNat 32 die)
      if d.tick.life = .off then ended.idleFreqs else ended := by
  simp only [Device.emergencyEnd, hclear]
  exact if_pos ⟨hholds, hlong⟩

/-! ### VOLT_DROOP (R423) -/

/-- A droop beyond the warning threshold counts, and is recorded where it reaches the limit. -/
theorem Device.voltDroop_eq (d : Device) (r : Nat) (measured : BitVec 16) :
    d.voltDroop r measured =
      let v : BitVec 16 := BitVec.ofNat 16 (measured.toNat + d.droopTrim r).toNat
      let set := d.setpoint r (d.pwrRegion r).freq.toNat
      let kept := d.modPwrRegion r fun g => { g with lowest := if v.toNat < g.lowest.toNat then v else g.lowest }
      let warned := (kept.modPwrRegion r fun g => { g with droopWarn := satInc g.droopWarn }).raiseOnce r 0x74 (v.setWidth 32)
      if d.hlt.droopWarn.toNat + v.toNat < set then
        if d.hlt.droopLimit.toNat + v.toNat ≤ set then
          ((warned.modPwrRegion r fun g => { g with droopLimit := satInc g.droopLimit }).record 8 1 (warned.atRegion r)
            (leBytes 2 v.toNat ++ leBytes 2 set)).raiseOnce r 0x75 (v.setWidth 32)
        else warned
      else kept := rfl

/-! ### Power states and pins (R411 to R418, R432 to R434) -/

theorem Device.gatingEnd_ungates (hidle : d.idleOk = false) (hstate : d.pwr.state = 1) (hwake : d.pwr.wakeTo = none) :
    d.gatingEnd = d.enterState 0 := by
  rw [Device.gatingEnd, if_neg (by simp [hidle]), Device.ungate, if_pos ⟨hstate, hwake⟩]

theorem Device.wakeComplete_enters {t : BitVec 3} (h : d.pwr.wakeTo = some t) :
    d.wakeComplete = (d.enterState t.toNat).settle := by
  rw [Device.wakeComplete, h]

@[simp] theorem Device.modInput_input (i : Nat) (f : Input → Input) : (d.modInput i f).input i = f (d.input i) :=
  Tab.getD_upd_self _ _ _ _

/-- What WAKE does depends on the edge that its filter leaves. -/
theorem Device.wakePin_eq (d : Device) (high : Bool) (held : Nat) :
    d.wakePin high held =
      let driven := d.modInput 2 fun p => p.drive 2 high held d.now
      let woken := driven.modInput 2 fun p => { p with edge := false }
      if ((d.input 2).drive 2 high held d.now).edge then
        if 2 ≤ d.pwr.target.toNat then (woken.modPwr fun p => { p with target := 1 }).settle else woken
      else driven := by
  rw [Device.wakePin, Device.modInput_input]
  rfl

theorem Device.inputStuck_latches {i : Nat} (hlevel : (d.input i).level = true) (hstuck : (d.input i).stuck = false)
    (hlong : (d.input i).since + ns (inputStuckNs i) < d.now) :
    d.inputStuck i = ((d.modInput i fun p => { p with stuck := true, edge := false }).raiseHub 0xFF 0x76
      (BitVec.ofNat 32 i)).evalEmergencies :=
  if_pos (by simp [hlevel, hstuck, hlong])

/-! ### The filter of an input (R432) -/

variable {p : Input} {i held now : Nat} {a : Bool}

theorem Input.drive_same (h : a = p.level) : p.drive i a held now = p := if_pos h

theorem Input.drive_glitch (hne : a ≠ p.level) (hshort : held < 50) :
    p.drive i a held now = { p with glitch := satInc p.glitch } := by
  rw [Input.drive, if_neg hne, if_pos hshort]

theorem Input.drive_low (ha : a = false) (hlevel : p.level = true) (hlong : 50 ≤ held) :
    p.drive i a held now = { p with level := false, since := now, edge := false } := by
  subst ha
  rw [Input.drive, if_neg (by simp [hlevel]), if_neg (Nat.not_lt.2 hlong)]
  rfl

/-- An assertion that lasts 50 ns is ignored within the interval after the last accepted one, and accepted otherwise. -/
theorem Input.drive_high (ha : a = true) (hlevel : p.level = false) (hlong : 50 ≤ held) :
    p.drive i a held now =
      match p.lastAssert with
      | some t =>
        if now < t + ns (inputInterval i) then
          { p with level := true, since := now, ignored := true, rate := satInc p.rate }
        else { p with level := true, since := now, ignored := false, lastAssert := some now, edge := !p.stuck }
      | none => { p with level := true, since := now, ignored := false, lastAssert := some now, edge := !p.stuck } := by
  subst ha
  rw [Input.drive, if_neg (by simp [hlevel]), if_neg (Nat.not_lt.2 hlong)]
  rfl

theorem Input.drive_accepted (ha : a = true) (hlevel : p.level = false) (hlong : 50 ≤ held)
    (hlast : ∀ t, p.lastAssert = some t → t + ns (inputInterval i) ≤ now) :
    p.drive i a held now =
      { p with level := true, since := now, ignored := false, lastAssert := some now, edge := !p.stuck } := by
  rw [Input.drive_high ha hlevel hlong]
  split
  next t ht => exact if_neg (Nat.not_lt.2 (hlast t ht))
  next => rfl

theorem Input.drive_ignored {t : Nat} (ha : a = true) (hlevel : p.level = false) (hlong : 50 ≤ held)
    (hlast : p.lastAssert = some t) (hsoon : now < t + ns (inputInterval i)) :
    p.drive i a held now = { p with level := true, since := now, ignored := true, rate := satInc p.rate } := by
  rw [Input.drive_high ha hlevel hlong, hlast]
  exact if_pos hsoon

/-- Settles O34. -/
theorem monitorsAndPins : Obligations.MonitorsAndPins := by
  unfold Obligations.MonitorsAndPins
  refine ⟨?monitors, ?pins⟩
  case monitors =>
    intro s d hruns
    refine ⟨fun vs => ?sensors, ?clear, ?step, ?ends, fun w => ?power, fun r measured => ?droop, fun r n => ?oscillator,
      fun k t => ?hbm⟩
    case sensors =>
      exact ⟨fun hcalm => State.answers_lift hruns rfl (Device.sensorRead_calm hcalm),
        fun i t hsensor htrip => State.answers_lift hruns rfl (Device.sensorRead_trips hsensor htrip)⟩
    case clear =>
      intro t htrip hcool hlong
      exact State.answers_lift hruns rfl (Device.tripClear_clears htrip hcool hlong)
    case step =>
      intro die htriggers
      exact State.answers_lift hruns rfl (if_neg htriggers)
    case ends =>
      intro die t hclear hholds hlong
      exact State.answers_lift hruns rfl (Device.emergencyEnd_ends hclear hholds hlong)
    case power => exact State.answers_lift hruns rfl rfl
    case droop =>
      have hdroop := d.voltDroop_eq r.val measured
      exact ⟨fun hsmall => State.answers_lift hruns rfl (hdroop.trans (if_neg (Nat.not_lt.2 hsmall))),
        fun hwarn hlimit => State.answers_lift hruns rfl
          (hdroop.trans ((if_pos hwarn).trans (if_neg (Nat.not_le.2 hlimit)))),
        fun hwarn hlimit => State.answers_lift hruns rfl (hdroop.trans ((if_pos hwarn).trans (if_pos hlimit)))⟩
    case oscillator =>
      exact State.answers_lift (f := fun d => d.modPwrRegion r.val fun g => { g with oscillator := n }) hruns rfl rfl
    case hbm => exact State.answers_lift hruns rfl rfl
  case pins =>
    intro s d hruns
    refine ⟨?gating, ?wake, fun high held => ?pin, fun i => ?stuck, fun p i held now a => ?filter⟩
    case gating =>
      intro hidle hstate hwake
      exact State.answers_lift hruns rfl (Device.gatingEnd_ungates hidle hstate hwake)
    case wake => exact fun t hwake => State.answers_lift hruns rfl (Device.wakeComplete_enters hwake)
    case pin =>
      have hpin := d.wakePin_eq high held
      exact ⟨State.answers_lift (f := fun d => d.modInput 0 fun p => p.drive 0 high held d.now) hruns rfl rfl,
        State.answers_lift (f := fun d => (d.modInput 1 fun p => p.drive 1 high held d.now).evalEmergencies) hruns rfl rfl,
        fun hedge => State.answers_lift hruns rfl (hpin.trans (if_neg (by simp [hedge]))),
        fun hedge => State.answers_lift hruns rfl (hpin.trans (if_pos hedge))⟩
    case stuck =>
      intro hlevel hstuck hlong
      exact State.answers_lift hruns rfl (Device.inputStuck_latches hlevel hstuck hlong)
    case filter =>
      refine ⟨Input.drive_same, Input.drive_glitch, fun ha hlevel hlong => ?_, fun ha hlevel hlong hlast => ?_,
        fun ha hlevel hlong ⟨t, hlast, hsoon⟩ => ?_⟩
      · rw [Input.drive_low ha hlevel hlong]
        exact ⟨rfl, rfl⟩
      · rw [Input.drive_accepted ha hlevel hlong hlast]
        exact ⟨rfl, rfl, rfl⟩
      · rw [Input.drive_ignored ha hlevel hlong hlast hsoon]
        exact ⟨rfl, rfl, rfl⟩

end Sys2Proof.Machine
end

section
/-! SUPPORT and PROOFS. Firmware loads, attestation, lost clocks, and what the restart of the command processor keeps. -/

namespace Sys2Proof.Machine

variable {s : State} {d : Device} {id : CmdId} {ps : List Byte}

/-! ### FW_LOAD (R453, R456) -/

/-- The fuses that an image leaves, and whether every bit that it blew read back. -/
def Fuses.committed (f : Fuses) (img : List Byte) : Fuses × Bool :=
  if (fieldAt img 6 2).testBit 2 then f.commit (fieldAt img 0x0C 4) else (f, true)

/-- FW_LOAD at a loader, of a range that R456 allows: the rows, then the image, then the rollback bits. -/
theorem Device.fwLoad_checks {off len : Nat} (hready : d.ready id 0x0801 ps) (hloader : d.host.loader ≠ 2)
    (hoff : fieldAt ps 0 4 = off) (hlen : fieldAt ps 4 4 = len) (halign : off % 64 = 0) (hmin : 320 ≤ len)
    (hmax : len ≤ 0x600000) (hlow : 0x9000 ≤ off) (hhigh : off + len ≤ 0x800000) :
    d.fwLoad id =
      let img := d.ring.bytes off len
      let t := d.acted id
      if d.ring.rangeBad off len then t.fwFailure id 7 (fieldAt img 8 4)
      else
        match imageCheck d.sec.fuses img with
        | some k => t.fwFailure id k (fieldAt img 8 4)
        | none =>
          let c := d.sec.fuses.committed img
          let t := t.modSec fun x => { x with fuses := c.1 }
          if !c.2 then t.fwFailure id 6 (fieldAt img 8 4)
          else (t.fwStart img).complete id Status.ok (leBytes 4 (fieldAt img 8 4) ++ leBytes 4 c.1.rollback) := by
  subst hoff hlen
  have hparams : ¬(fieldAt ps 0 4 % 64 ≠ 0 ∨ fieldAt ps 4 4 < 320 ∨ 0x600000 < fieldAt ps 4 4 ∨ fieldAt ps 0 4 < 0x9000 ∨
      ringSramBytes < fieldAt ps 0 4 + fieldAt ps 4 4) := by
    unfold ringSramBytes
    omega
  rw [Device.fwLoad, Device.runCmd_ready _ hready]
  exact (if_neg hloader).trans (if_neg hparams)

/-! ### ATTEST, CERT_READ and SEC_STATUS (R458 to R462) -/

/-- Acting does not change what the command reports. -/
theorem Device.cmdFront_acted (hready : d.ready id 0x0802 ps) : (d.acted id).cmdFront id = d.cmdFront id := by
  obtain ⟨c, hc, -⟩ := hready
  have hid : c.id = id := Device.findCmd_id hc
  have hacted : (d.acted id).findCmd id = some { c with ran := true } :=
    Device.findCmd_modCmd (f := fun c => { c with ran := true }) hc hid
  rw [Device.cmdFront, Device.cmdFront, hc, hacted]
  rfl

/-- The bytes of a signed report. -/
def Device.signed (d : Device) (front : List Byte) : List Byte :=
  let sig := ecdsaSign (sha256Nat front) d.sec.fuses.signKey (Config.signNonce d.free).toNat
  front ++ beBytes 32 sig.1 ++ beBytes 32 sig.2

theorem Device.attest_signs (hready : d.ready id 0x0802 ps) :
    d.attest id = { d.acted id with free := d.free + 1 }.complete id Status.ok (d.signed (d.cmdFront id)) := by
  rw [Device.attest, Device.runCmd_ready _ hready, Device.cmdFront_acted hready]
  rfl

theorem Device.certRead_reads (hready : d.ready id 0x0803 ps) (hreserved : fieldAt ps 1 3 = 0) (hcert : fieldAt ps 0 1 ≤ 2)
    (hoff : fieldAt ps 4 4 < (d.sec.fuses.certs.getD (fieldAt ps 0 1) []).length) :
    d.certRead id =
      let cert := d.sec.fuses.certs.getD (fieldAt ps 0 1) []
      let off := fieldAt ps 4 4
      (d.acted id).complete id Status.ok
        (leBytes 2 cert.length ++ leBytes 2 (min 4092 (cert.length - off)) ++
          (cert.drop off).take (min 4092 (cert.length - off))) := by
  rw [Device.certRead, Device.runCmd_ready _ hready]
  refine (if_neg (not_not.2 hreserved)).trans (if_neg ?_)
  exact fun h => h.elim (Nat.not_lt.2 hcert) (Nat.not_le.2 hoff)

theorem Device.secStatus_replies (hready : d.ready id 0x0804 ps) :
    d.secStatus id = (d.acted id).complete id Status.ok
      (leBytes 4 d.sec.release.toNat ++ leBytes 4 d.sec.fuses.rollback ++ leBytes 2 d.sec.flags.toNat ++
        leBytes 1 (natOfBool d.sec.fuses.fuseOk + 2 * natOfBool d.sec.fuses.testLock) ++ leBytes 1 0 ++
        leBytes 4 d.sec.records.toNat) := by
  rw [Device.secStatus, Device.runCmd_ready _ hready]
  rfl

/-! ### The restart of the command processor (R448, R463) -/

/-- The halt of the job changes pilots, power, the comb, the tick, and the commands and completions of the host port. -/
theorem Device.haltJob_frame (d : Device) (region cause : Nat) : ∃ p w c t cs rs, d.haltJob region cause =
    { d with pilots := p, pwr := w, comb := c, tick := t, host := { d.host with cmds := cs, cplRings := rs } } := by
  obtain ⟨p, w, hstop⟩ := d.stopAll_eq cause
  unfold Device.haltJob
  rw [hstop]
  dsimp only
  split
  · unfold Device.haltTick
    dsimp only
    generalize List.map _ _ = ids
    generalize hstart : Device.modTick _ _ = e
    obtain ⟨cs, rs, hfold⟩ : ∃ cs rs, ids.foldl (fun d id => d.complete id Status.ok) e =
        { e with host := { e.host with cmds := cs, cplRings := rs } } :=
      List.foldlRecOn ids _
        (motive := fun t : Device => ∃ cs rs, t = { e with host := { e.host with cmds := cs, cplRings := rs } })
        ⟨_, _, rfl⟩ fun t ⟨_, _, ht⟩ j _ => by
          obtain ⟨cs, rs, hj⟩ := t.complete_frame j Status.ok [] 0
          exact ⟨cs, rs, by rw [hj, ht]⟩
    rw [hfold, ← hstart]
    exact ⟨_, _, _, _, cs, rs, rfl⟩
  · exact ⟨_, _, _, _, _, _, rfl⟩

theorem Logbook.enter_p (l : Logbook) (e : LogItem) : (l.enter e).p = l.p := by
  unfold Logbook.enter
  split <;> rfl

/-- A change of every entry that keeps a part of it, read at any index. -/
theorem Tab.getD_mapAll {α β : Type} (t : Tab α) (f : Nat → α → α) (part : α → β) (hf : ∀ k a, part (f k a) = part a)
    (i : Nat) (x : α) : part ((t.mapAll f).getD i x) = part (t.getD i x) := by
  induction t with
  | nil => rfl
  | cons q t ih =>
    obtain ⟨k, a⟩ := q
    simp only [Tab.mapAll, List.map_cons, Tab.getD] at ih ⊢
    split
    · exact hf k a
    · exact ih

/-- What the hub hardware has done before the restart leaves all that the restart keeps. -/
theorem Device.cpRestart_frame (cause : Nat) (d : Device) : ∃ e : Device, d.cpRestart cause = e.restarted ∧
    e.ring = d.ring ∧ e.hbm = d.hbm ∧ e.seq = d.seq ∧ e.sec.fuses = d.sec.fuses ∧ e.host.toHost = d.host.toHost ∧
    e.host.cmdRings = d.host.cmdRings ∧ e.log.p = d.log.p ∧ e.log.mem = d.log.mem := by
  obtain ⟨p, w, c, t, cs, rs, hhalt⟩ := d.haltJob_frame 0xFF 10
  unfold Device.cpRestart
  rw [hhalt]
  refine ⟨_, rfl, rfl, rfl, rfl, ?_, rfl, rfl, Logbook.enter_p _ _, Logbook.enter_mem _ _⟩
  dsimp only [Device.modSec]
  split <;> rfl

theorem Device.restarted_cmdRing (d : Device) (q : Nat) :
    (d.restarted.cmdRing q).base = (d.cmdRing q).base ∧ (d.restarted.cmdRing q).head = (d.cmdRing q).head ∧
      (d.restarted.cmdRing q).tail = (d.cmdRing q).tail ∧ (d.restarted.cmdRing q).next = (d.cmdRing q).next := by
  have keeps {β : Type} (part : CmdRing → β) (hpart : ∀ r : CmdRing, part { r with destroyCmd := none } = part r) :
      part (d.restarted.cmdRing q) = part (d.cmdRing q) :=
    Tab.getD_mapAll d.host.cmdRings (fun _ r => { r with destroyCmd := none }) part (fun _ r => hpart r) q .reset
  exact ⟨keeps _ fun _ => rfl, keeps _ fun _ => rfl, keeps _ fun _ => rfl, keeps _ fun _ => rfl⟩

/-- Settles O35. -/
theorem securityAndRestart : Obligations.SecurityAndRestart := by
  unfold Obligations.SecurityAndRestart
  refine ⟨?commands, ?clocks⟩
  case commands =>
    intro s d id ps hruns
    refine ⟨?load, fun hready => ?attest, ?cert, fun hready => ?status⟩
    case load =>
      intro off len img hready hloader halign hmin hmax hlow hhigh
      have hload := Device.fwLoad_checks hready hloader rfl rfl halign hmin hmax hlow hhigh
      have hclean (h : d.ring.rangeBad off len = false) : ¬ d.ring.rangeBad off len = true := by simp [h]
      refine ⟨?sound, ?poisoned, ?unsound⟩
      case sound =>
        intro hgood himage c blown
        have hstart := hload.trans (if_neg (hclean hgood))
        rw [himage] at hstart
        exact ⟨fun hread => State.answers_lift hruns rfl (hstart.trans (if_neg (show ¬(!c.2) = true by simp [hread]))),
          fun hweak => State.answers_lift hruns rfl (hstart.trans (if_pos (show (!c.2) = true by simp [hweak])))⟩
      case poisoned => exact fun hbad => State.answers_lift hruns rfl (hload.trans (if_pos hbad))
      case unsound =>
        intro k hgood himage
        have hfail := hload.trans (if_neg (hclean hgood))
        rw [himage] at hfail
        exact State.answers_lift hruns rfl hfail
    case attest => exact State.answers_lift hruns rfl (Device.attest_signs hready)
    case cert =>
      intro hready hreserved hcert cert off hoff
      exact State.answers_lift hruns rfl (Device.certRead_reads hready hreserved hcert hoff)
    case status => exact State.answers_lift hruns rfl (Device.secStatus_replies hready)
  case clocks =>
    intro s d hruns
    refine ⟨fun r => ?pll, ?ref0, ?ref1, fun r => ?pllGood, fun r hgood => ?good0, fun r hgood => ?good1, ?restart⟩
    case pll => exact State.answers_lift hruns rfl rfl
    case ref0 => exact State.answers_lift (f := Device.refclkLoss 0) hruns rfl rfl
    case ref1 => exact State.answers_lift (f := Device.refclkLoss 1) hruns rfl rfl
    case pllGood => exact State.answers_lift (f := Device.clockRecovered 0 r.val) hruns rfl rfl
    case good0 => exact State.answers_lift (f := Device.clockRecovered 1 r.val) hruns rfl (if_pos hgood)
    case good1 => exact State.answers_lift (f := Device.clockRecovered 2 r.val) hruns rfl (if_pos hgood)
    case restart =>
      have restarts (cause : Nat) (c : Instr) (hexec : exec c s = s.lift (Device.cpRestart cause)) :
          ∃ t, s.answers c t ∧ t.host.loader = 1 ∧ t.host.version = 0 ∧ t.host.cmds = [] ∧ t.ring = d.ring ∧
            t.hbm = d.hbm ∧ t.comb.state = .empty ∧ t.tick.life = .off ∧ t.sec.restarted = true ∧ t.sec.release = 0 ∧
            t.seq = d.seq ∧ t.sec.fuses = d.sec.fuses ∧ t.host.toHost = d.host.toHost ∧
            (∀ q, (t.cmdRing q).base = (d.cmdRing q).base ∧ (t.cmdRing q).head = (d.cmdRing q).head ∧
              (t.cmdRing q).tail = (d.cmdRing q).tail ∧ (t.cmdRing q).next = (d.cmdRing q).next) ∧
            t.log.p = d.log.p ∧ t.log.mem = d.log.mem := by
        obtain ⟨e, hrestart, hring, hhbm, hseq, hfuses, hhost, hrings, hp, hmem⟩ := d.cpRestart_frame cause
        refine ⟨_, State.answers_lift hruns hexec hrestart, rfl, rfl, rfl, hring, hhbm, rfl, rfl, rfl, rfl, hseq, hfuses,
          hhost, fun q => ?_, hp, hmem⟩
        have hcmdRing : e.cmdRing q = d.cmdRing q := by rw [Device.cmdRing, hrings, Device.cmdRing]
        rw [← hcmdRing]
        exact e.restarted_cmdRing q
      rintro c (rfl | rfl)
      · exact restarts 1 _ rfl
      · exact restarts 0 _ rfl

end Sys2Proof.Machine
end

section
/-! SUPPORT and PROOFS. The power sequencer and RESET_N. -/

namespace Sys2Proof.Machine

variable {s : State} {d : Device}

/-! ### Power-up (R490 to R492) -/

theorem Device.pwrEnAssert_eq (m : PowerUp) (hen : d.seq.pwrEn = false) (hrerun : d.seq.rerun = false)
    (hst : d.seq.status = 0) :
    d.pwrEnAssert m = if d.seq.aonValid then d.powerStart m else d.modSeq fun q => { q with pwrEn := true } := by
  simp [Device.pwrEnAssert, hen, hrerun, hst]

theorem Device.vddAonValid_starts (m : PowerUp) (haon : d.seq.aonValid = false) (hen : d.seq.pwrEn = true)
    (hst : d.seq.status = 0) :
    d.vddAonValid m = (d.modSeq fun q => { q with aonValid := true }).powerStart m :=
  (if_neg (by simp [haon])).trans (if_pos ⟨hen, hst⟩)

theorem Device.diodeReady_advances {k : Nat} {rest : List (Nat ⊕ Nat)} (hplan : d.seq.plan = .inl k :: rest)
    (hst : d.seq.status = 4) :
    d.diodeReady k = d.modSeq fun q => { q with plan := rest }.advance d.now := by
  simp [Device.diodeReady, Device.modSeq, hplan, hst]

/-- The check of the rail that was enabled last. -/
theorem Sequencer.enableCheck_eq {q : Sequencer} {k : Nat} (ok : Bool) (now : Nat) (hk : q.checking = some k) :
    q.enableCheck k ok now =
      if ok then { q with railsOn := q.railsOn ||| BitVec.ofNat 19 (2 ^ k) }.advance now
      else if k ≤ 1 then
        { q with railsWindow := q.railsWindow ||| BitVec.ofNat 19 (2 ^ k), railsOn := 0, checking := none, plan := [],
                 status := 0xC }
      else { q with railsWindow := q.railsWindow ||| BitVec.ofNat 19 (2 ^ k) }.advance now :=
  if_neg (not_not.2 hk)

theorem Sequencer.advance_done {q : Sequencer} (now : Nat) (hplan : q.plan = []) :
    q.advance now = { q with checking := none, pwrOk := true, okSince := some now, status := q.doneCode } := by
  simp [Sequencer.advance, hplan]

/-- CLOCK_RECOUNT once PWR_OK is up: the code is that of the clocks counted. -/
theorem Device.clockRecount_eq (khz0 khz1 : Nat) (hok : d.seq.pwrOk = true) :
    d.clockRecount khz0 khz1 =
      let q := { d.seq with ref0 := (clockInputs khz0 khz1).1, ref1 := (clockInputs khz0 khz1).2.1,
                            swapped := (clockInputs khz0 khz1).2.2 }
      { d with seq := { q with status := q.doneCode } } :=
  if_neg (by simp [hok])

/-! ### Power-down and faults (R495, R496) -/

/-- RAIL_OFF_STEP turns off the next rail; after the last the device is as reset leaves it, with HBM gone too. -/
theorem Device.railOffStep_eq {k : Nat} {rest : List Nat} (hplan : d.seq.offPlan = k :: rest) :
    d.railOffStep =
      let t := d.modSeq fun q => { q with railsOn := q.railsOn &&& ~~~(BitVec.ofNat 19 (2 ^ k)), offPlan := rest }
      if rest = [] then
        ({ t.held with hbm := .reset }).modSeq fun q =>
          if q.status = 0xE then { q with status := 0, hubHeld := true } else q
      else t := by
  rw [Device.railOffStep, hplan]

theorem Device.pwrEnDeassert_starts (hen : d.seq.pwrEn = true) :
    d.pwrEnDeassert = (if d.up then d.haltJob 0xFF 10 else d).modSeq fun q =>
      { q with pwrEn := false, pwrOk := false, status := 0xE, checking := none, plan := [], rerun := false,
               offPlan := downOrder.filter q.on } :=
  if_neg (by simp [hen])

theorem getLsbD_and_not_bit (v : BitVec 19) (k : Nat) : (v &&& ~~~(BitVec.ofNat 19 (2 ^ k))).getLsbD k = false := by
  by_cases hk : k < 19
  · have hbit : (BitVec.ofNat 19 (2 ^ k)).getLsbD k = true := by
      rw [BitVec.getLsbD_ofNat, Nat.testBit_two_pow_self, Bool.and_true, decide_eq_true hk]
    rw [BitVec.getLsbD_and, BitVec.getLsbD_not, hbit, Bool.not_true, Bool.and_false, Bool.and_false]
  · exact BitVec.getLsbD_of_ge _ _ (by omega)

theorem Device.haltJob_seq (d : Device) (region cause : Nat) : (d.haltJob region cause).seq = d.seq := by
  obtain ⟨_, _, _, _, _, _, hhalt⟩ := d.haltJob_frame region cause
  rw [hhalt]

theorem Device.applyHeldOff_seq (d : Device) : d.applyHeldOff.seq = d.seq := by
  obtain ⟨_, _, _, hheld⟩ := d.applyHeldOff_frame
  rw [hheld]

/-- A rail that leaves its window is off. -/
theorem Device.railFault_off {k : Nat} (hon : d.seq.on k = true) : (d.railFault k).seq.on k = false := by
  have hclear (v : BitVec 19) := getLsbD_and_not_bit v k
  rw [Device.railFault, if_neg (by simp [hon])]
  extract_lets e bit f
  have hf : f.seq.on k = false := hclear _
  by_cases hk : k ≤ 1
  · rw [if_pos hk]
    exact hf
  · rw [if_neg hk, Device.applyHeldOff_seq]
    dsimp only [Device.modSeq]
    split
    · exact hf
    · exact hf

/-! ### RESET_N (R432, R452, R495, R497) -/

theorem Sequencer.cleared_resetLow (q : Sequencer) : q.cleared.resetLow = q.resetLow := by
  unfold Sequencer.cleared
  split
  · rfl
  · split <;> rfl

theorem Device.up_of_resetLow (h : d.seq.resetLow = true) : d.up = false := by simp [Device.up, h]

theorem Device.up_of_hubHeld (h : d.seq.hubHeld = true) : d.up = false := by simp [Device.up, h]

theorem Device.resetAssert_glitch {held : Nat} (hlevel : (d.input 3).level = false) (hheld : held < 50) :
    d.resetAssert held = d.modInput 3 fun p => { p with glitch := satInc p.glitch } :=
  (if_neg (by simp [hlevel])).trans (if_pos hheld)

theorem Device.hubLeaves_held (hheld : d.seq.hubHeld = true) (hlow : d.seq.resetLow = false)
    (hok : d.okLongEnough = true) : d.hubLeaves = d.leaveReset :=
  if_pos ⟨hheld, by simp [hlow], hok⟩

/-- An assertion of RESET_N that passes the filter. -/
theorem Device.resetAssert_accepted {held : Nat} (hlevel : (d.input 3).level = false) (hheld : 50 ≤ held) :
    d.resetAssert held = (d.modInput 3 fun p => { p with level := true, since := d.now }).held.modSeq fun q =>
      { q with resetLow := true }.cleared :=
  (if_neg (by simp [hlevel])).trans (if_neg (Nat.not_lt.2 hheld))

theorem Device.resetDeassert_eq (held : Nat) (hlevel : (d.input 3).level = true) :
    d.resetDeassert held =
      if held < 50 then d.modInput 3 fun p => { p with glitch := satInc p.glitch }
      else
        let t := d.modInput 3 fun p => { p with level := false, since := d.now, glitch := 0 }
        if t.okLongEnough then t.leaveReset else t.modSeq fun q => { q with resetLow := false, hubHeld := true } :=
  if_neg (by simp [hlevel])

/-- As the hub leaves reset, the filters of the inputs start from the level that is not asserted. -/
theorem Device.leaving_input (d : Device) (i : Nat) : (d.leaving.input i).level = false := by
  rcases Tab.getD_eq_or_mem d.leaving.hlt.inputs i .reset with h | h
  · exact congrArg Input.level h
  · obtain ⟨e, -, he⟩ := List.mem_map.1 h
    exact (congrArg (fun e : Nat × Input => e.2.level) he).symm

theorem Device.leaving_up (h0 : d.seq.railsOn.getLsbD 0 = true) (h1 : d.seq.railsOn.getLsbD 1 = true) :
    d.leaving.up = true := by
  simp [Device.up, Device.leaving, h0, h1]

/-- Settles O36. -/
theorem sequencerAndResetPin : Obligations.SequencerAndResetPin := by
  unfold Obligations.SequencerAndResetPin
  refine ⟨?sequencer, ?pin⟩
  case sequencer =>
    intro s d
    refine ⟨?start, ?waits, ?aon, ?diode, ?check, fun q hplan => ?done, ?deassert, ?offStep, ?lastOff, ?recount,
      fun k w => ⟨State.answers_any rfl rfl, State.answers_any rfl rfl⟩, fun k hon => Device.railFault_off hon⟩
    case start =>
      intro m hen hrerun hst haon
      exact State.answers_any rfl ((Device.pwrEnAssert_eq m hen hrerun hst).trans (if_pos haon))
    case waits =>
      intro m hen hrerun hst haon
      exact State.answers_any rfl ((Device.pwrEnAssert_eq m hen hrerun hst).trans (if_neg (by simp [haon])))
    case aon => exact fun m haon hen hst => State.answers_any rfl (Device.vddAonValid_starts m haon hen hst)
    case diode => exact fun i rest hplan hst => State.answers_any rfl (Device.diodeReady_advances hplan hst)
    case check =>
      intro k hk
      have hcheck (ok : Bool) := Sequencer.enableCheck_eq ok d.now hk
      have answers (ok : Bool) (q : Sequencer) (hq : d.seq.enableCheck k.val ok d.now = q) :
          s.answers (.railEnableCheck k ok) { d with seq := q } :=
        State.answers_any (f := fun d => d.modSeq fun q => q.enableCheck k.val ok d.now) rfl (by rw [← hq]; rfl)
      exact ⟨answers true _ (hcheck true),
        fun hhigh => answers false _ ((hcheck false).trans (if_neg (Nat.not_le.2 hhigh))),
        fun hlow => answers false _ ((hcheck false).trans (if_pos hlow))⟩
    case done =>
      rw [Sequencer.advance_done d.now hplan]
      exact ⟨rfl, rfl, rfl⟩
    case deassert => exact fun hen => State.answers_any rfl (Device.pwrEnDeassert_starts hen)
    case offStep =>
      exact fun k k' rest hplan =>
        State.answers_any rfl ((Device.railOffStep_eq hplan).trans (if_neg (List.cons_ne_nil _ _)))
    case lastOff =>
      intro k hplan
      refine ⟨_, State.answers_any rfl ((Device.railOffStep_eq hplan).trans (if_pos rfl)), ?_, rfl, ?_, fun hst => ?_, rfl,
        rfl⟩
      · dsimp only [Device.modSeq, Device.held]
        split <;> rfl
      · dsimp only [Device.modSeq, Device.held]
        split <;> rfl
      · dsimp only [Device.modSeq, Device.held]
        rw [if_pos hst]
        exact ⟨rfl, Device.up_of_hubHeld rfl⟩
    case recount =>
      intro khz0 khz1 hok
      exact ⟨_, State.answers_any rfl (Device.clockRecount_eq khz0 khz1 hok), rfl, rfl, rfl, rfl⟩
  case pin =>
    intro s held d
    refine ⟨?glitch, ?assert, ?deassert, ?glitchHigh, ?holds, ?leaves⟩
    case glitch =>
      exact fun hlevel hshort => State.answers_any rfl (Device.resetAssert_glitch hlevel hshort)
    case assert =>
      intro hlevel hheld
      exact ⟨_, State.answers_any rfl (Device.resetAssert_accepted hlevel hheld),
        Device.up_of_resetLow (Sequencer.cleared_resetLow _), Sequencer.cleared_resetLow _, rfl, rfl, rfl, rfl, rfl⟩
    case deassert =>
      intro hlevel hheld hok h0 h1
      obtain ⟨w, st, v, hleave⟩ :=
        (d.modInput 3 fun p => { p with level := false, since := d.now, glitch := 0 }).leaving.applyHeldOff_frame
      refine ⟨_, State.answers_any rfl ((Device.resetDeassert_eq held hlevel).trans ((if_neg (Nat.not_lt.2 hheld)).trans
        ((if_pos hok).trans hleave))), Device.leaving_up h0 h1, rfl, rfl, rfl, rfl, rfl, rfl, Device.leaving_input _ 3⟩
    case glitchHigh =>
      exact fun hlevel hshort => State.answers_any rfl ((Device.resetDeassert_eq held hlevel).trans (if_pos hshort))
    case holds =>
      intro hlevel hheld hok
      exact State.answers_any rfl ((Device.resetDeassert_eq held hlevel).trans ((if_neg (Nat.not_lt.2 hheld)).trans
        (if_neg (by rw [Bool.not_eq_true]; exact hok))))
    case leaves =>
      exact fun hheld hlow hok => State.answers_any rfl (Device.hubLeaves_held hheld hlow hok)

end Sys2Proof.Machine
end

section
/-! SUPPORT and PROOFS. The Vexlink commands, each on parameters that its rules allow. -/

namespace Sys2Proof.Machine

variable {s : State} {d : Device} {id : CmdId} {ps : List Byte}

/-! ### Ports (R336) -/

section
variable (hp : fieldAt ps 0 1 ≤ 11)
include hp

theorem Device.vxlPortConfig_stores (hready : d.ready id 0x0901 ps) (hmodes : 1 ≤ fieldAt ps 1 1)
    (hmodes' : fieldAt ps 1 1 ≤ 7) (hvers : 1 ≤ fieldAt ps 2 1) (hvers' : fieldAt ps 2 1 ≤ 3)
    (hwidth : fieldAt ps 3 1 = 1 ∨ fieldAt ps 3 1 = 2 ∨ fieldAt ps 3 1 = 4) (hoff : (d.port (fieldAt ps 0 1)).life = .off) :
    d.vxlPortConfig id = ((d.acted id).modPort (fieldAt ps 0 1) fun v =>
      { v with modes := BitVec.ofNat 3 (fieldAt ps 1 1), versions := BitVec.ofNat 2 (fieldAt ps 2 1),
               minWidth := fieldAt ps 3 1 }).complete id Status.ok := by
  have hrange : ¬(fieldAt ps 1 1 = 0 ∨ 7 < fieldAt ps 1 1 ∨ fieldAt ps 2 1 = 0 ∨ 3 < fieldAt ps 2 1 ∨
      ¬(fieldAt ps 3 1 = 1 ∨ fieldAt ps 3 1 = 2 ∨ fieldAt ps 3 1 = 4)) := by omega
  rw [Device.vxlPortConfig, Device.runCmd_ready _ hready]
  exact (if_neg (Nat.not_lt.2 hp)).trans ((if_neg hrange).trans (if_neg (not_not.2 hoff)))

/-- VXL_PORT_ENABLE with its reserved bytes 0 asks for the device's number, then for the port's rails. -/
theorem Device.vxlPortEnable_eq (hready : d.ready id 0x0902 ps) (hreserved : fieldAt ps 1 3 = 0) :
    d.vxlPortEnable id =
      if !d.vxl.valid then (d.acted id).complete id Status.vxlNoId
      else if !d.seq.portOk (fieldAt ps 0 1) then (d.acted id).complete id Status.vxlState
      else match (d.port (fieldAt ps 0 1)).life with
        | .off => ((d.acted id).modPort (fieldAt ps 0 1) fun v => { v with life := .starting }).complete id Status.ok
        | .stopping =>
          ((d.acted id).modPort (fieldAt ps 0 1) fun v => { v with pendingEnable := true }).complete id
            Status.acceptedPending
        | _ => (d.acted id).complete id Status.vxlState := by
  rw [Device.vxlPortEnable, Device.runCmd_ready _ hready]
  exact (if_neg (Nat.not_lt.2 hp)).trans (if_neg (not_not.2 hreserved))

theorem Device.vxlPortDisable_eq (hready : d.ready id 0x0903 ps) (hreserved : fieldAt ps 1 3 = 0) :
    d.vxlPortDisable id =
      match (d.port (fieldAt ps 0 1)).life with
      | .off => (d.acted id).complete id Status.ok
      | .stopping =>
        (d.acted id).modPort (fieldAt ps 0 1) fun v => { v with pendingEnable := false, disableCmd := some id }
      | life =>
        let stop := (d.acted id).modPort (fieldAt ps 0 1) fun v => { v with life := .stopping, disableCmd := some id }
        if life = .on then stop.portDown else stop := by
  rw [Device.vxlPortDisable, Device.runCmd_ready _ hready]
  exact (if_neg (Nat.not_lt.2 hp)).trans (if_neg (not_not.2 hreserved))

end

/-! ### Numbers, bearings and groups (R343, R346, R359) -/

theorem Device.vxlSetId_stores (hready : d.ready id 0x0904 ps) (hn : fieldAt ps 0 4 < 2 ^ 18)
    (hoff : ∀ q, q < 12 → (d.port q).life = .off) :
    d.vxlSetId id = ((d.acted id).modVxl fun v =>
      { v with valid := true, device := BitVec.ofNat 18 (fieldAt ps 0 4) }).complete id Status.ok := by
  have hports : ¬((List.range 12).any fun p => decide ((d.port p).life ≠ .off)) = true := by
    simpa using hoff
  rw [Device.vxlSetId, Device.runCmd_ready _ hready]
  exact (if_neg (Nat.not_le.2 hn)).trans (if_neg hports)

theorem Device.vxlBearingSet_stores (hready : d.ready id 0x0905 ps) (hmin : 1 ≤ fieldAt ps 2 2)
    (hmax : fieldAt ps 2 2 ≤ 64) (hend : fieldAt ps 0 2 + fieldAt ps 2 2 ≤ 1024) (hreserved : fieldAt ps 4 4 = 0)
    (hentries : ∀ e ∈ bearingEntries ps, bearingOk e.2 = true)
    (hdistinct : bearingsDistinct ((bearingEntries ps).foldl (fun t e => t.put e.1 e.2) d.vxl.bearings) = true) :
    d.vxlBearingSet id = ((d.acted id).modVxl fun v =>
      { v with bearings := (bearingEntries ps).foldl (fun t e => t.put e.1 e.2) d.vxl.bearings }).complete id
        Status.ok := by
  have hall : (bearingEntries ps).all (fun e => bearingOk e.2) = true := List.all_eq_true.2 hentries
  rw [Device.vxlBearingSet, Device.runCmd_ready _ hready]
  refine if_neg ?_
  rintro (h | h | h | h | h | h)
  · omega
  · omega
  · omega
  · exact h hreserved
  · simp [hall] at h
  · exact Bool.false_ne_true ((Bool.not_eq_eq_eq_not.1 h).symm.trans hdistinct)

theorem Device.vxlMcastSet_stores (hready : d.ready id 0x0906 ps) (hgroup : fieldAt ps 0 1 ≤ 15)
    (hmax : fieldAt ps 1 1 ≤ 64) (hreserved : fieldAt ps 2 2 = 0) (halias : fieldAt ps 4 4 < 2 ^ 18)
    (hdevs : ∀ k, k < fieldAt ps 1 1 → fieldAt ps (8 + 4 * k) 4 < 2 ^ 18) :
    d.vxlMcastSet id = ((d.acted id).modVxl fun v =>
      { v with groups := v.groups.put (fieldAt ps 0 1) (BitVec.ofNat 18 (fieldAt ps 4 4),
          (List.range (fieldAt ps 1 1)).map fun k => BitVec.ofNat 18 (fieldAt ps (8 + 4 * k) 4)) }).complete id
      Status.ok := by
  have hin : ((List.range (fieldAt ps 1 1)).map fun k => fieldAt ps (8 + 4 * k) 4).any
      (fun x => decide (2 ^ 18 ≤ x)) = false := by
    rw [List.any_map, List.any_eq_false]
    intro k hk
    have := hdevs k (List.mem_range.1 hk)
    simpa using this
  have hok : ¬(15 < fieldAt ps 0 1 ∨ 64 < fieldAt ps 1 1 ∨ fieldAt ps 2 2 ≠ 0 ∨ 2 ^ 18 ≤ fieldAt ps 4 4 ∨
      ((List.range (fieldAt ps 1 1)).map fun k => fieldAt ps (8 + 4 * k) 4).any (fun x => decide (2 ^ 18 ≤ x)) = true) := by
    rintro (h | h | h | h | h)
    · omega
    · omega
    · exact h hreserved
    · omega
    · exact Bool.false_ne_true (hin.symm.trans h)
  rw [Device.vxlMcastSet, Device.runCmd_ready _ hready]
  refine (if_neg hok).trans ?_
  rw [List.map_map]
  rfl

/-- VXL_MCAST_COPY of a source that HBM has, to a group's alias, starts a transfer. -/
theorem Device.vxlMcastCopy_starts {x : Word} {d' : Device} (hready : d.ready id 0x0907 ps) (hvalid : d.vxl.valid = true)
    (hsrc : d.hbmRefused 2 (fieldAt ps 0 8) (fieldAt ps 16 8) = none)
    (hnew : (d.acted id).newTransfer 28 (BitVec.ofNat 18 (chartDevice (BitVec.ofNat 64 (fieldAt ps 8 8))))
      { Transfer.blank with src := fieldAt ps 0 8, dst := BitVec.ofNat 64 (fieldAt ps 8 8), len := fieldAt ps 16 8,
                            closed := true, cmd := some id } = some (x, d')) :
    d.vxlMcastCopy id = d'.mcastPump x := by
  have hvalid' : (d.acted id).vxl.valid = true := hvalid
  have hsrc' : (d.acted id).hbmRefused 2 (fieldAt ps 0 8) (fieldAt ps 16 8) = none := hsrc
  rw [Device.vxlMcastCopy, Device.runCmd_ready _ hready]
  simp only [hvalid', hsrc', hnew, Bool.not_true, Bool.false_eq_true, if_false]

/-! ### Limits and the tick's role (R353, R367) -/

theorem Device.vxlE2eConfig_stores (hready : d.ready id 0x0908 ps) (hreserved : bitsNat (fieldAt ps 0 4) 9 8 = 0)
    (hlag : 5 ≤ bitsNat (fieldAt ps 0 4) 29 20) (hlag' : bitsNat (fieldAt ps 0 4) 29 20 ≤ 1000)
    (hgrant : 1 ≤ bitsNat (fieldAt ps 0 4) 19 10) (hgrant' : bitsNat (fieldAt ps 0 4) 19 10 ≤ 1000)
    (htmo : 10 ≤ bitsNat (fieldAt ps 0 4) 7 0) (htmo' : bitsNat (fieldAt ps 0 4) 7 0 ≤ 200) :
    d.vxlE2eConfig id = ((d.acted id).modVxl fun v =>
      { v with retries := BitVec.ofNat 2 (bitsNat (fieldAt ps 0 4) 31 30),
               mcastLag := BitVec.ofNat 10 (bitsNat (fieldAt ps 0 4) 29 20),
               grantLimit := BitVec.ofNat 10 (bitsNat (fieldAt ps 0 4) 19 10),
               timeout := BitVec.ofNat 8 (bitsNat (fieldAt ps 0 4) 7 0) }).complete id Status.ok := by
  rw [Device.vxlE2eConfig, Device.runCmd_ready _ hready]
  exact if_neg (by omega)

theorem Device.vxlTickRole_stores (hready : d.ready id 0x090A ps) (hrole : fieldAt ps 0 1 ≤ 2)
    (hup : fieldAt ps 1 1 ≤ 11 ∨ (fieldAt ps 1 1 = 15 ∧ fieldAt ps 0 1 ≠ 2)) (hdown : fieldAt ps 2 2 < 2 ^ 12)
    (hlead : fieldAt ps 0 1 = 1 → 1000 ≤ fieldAt ps 4 4 ∧ fieldAt ps 4 4 ≤ 100000) (hoff : d.tick.life = .off) :
    d.vxlTickRole id = ((d.acted id).modVxl fun v =>
      { v with role := BitVec.ofNat 2 (fieldAt ps 0 1), up := BitVec.ofNat 4 (fieldAt ps 1 1),
               down := BitVec.ofNat 12 (fieldAt ps 2 2), lead := BitVec.ofNat 32 (fieldAt ps 4 4) }).complete id
      Status.ok := by
  rw [Device.vxlTickRole, Device.runCmd_ready _ hready]
  exact (if_neg (by omega)).trans (if_neg (not_not.2 hoff))

/-- Settles O37: one lemma for each command. -/
theorem vexlinkCommands : Obligations.VexlinkCommands := by
  unfold Obligations.VexlinkCommands
  intro s d id ps hruns p
  refine ⟨?config, ?enable, ?noId, ?disable, ?setId, ?bearings, ?groups, ?copy, ?limits, fun hready => ?status, ?role⟩
  case config =>
    exact fun hready hp hm hm' hv hv' hw hoff =>
      State.answers_lift hruns rfl (Device.vxlPortConfig_stores hp hready hm hm' hv hv' hw hoff)
  case enable =>
    intro hready hp hreserved hvalid hrails
    have henable := (Device.vxlPortEnable_eq hp hready hreserved).trans
      ((if_neg (by simp [hvalid])).trans (if_neg (by rw [hrails]; exact Bool.false_ne_true)))
    refine ⟨fun hoff => ?_, fun hstopping => ?_, fun hother => ?_⟩
    · rw [hoff] at henable
      exact State.answers_lift hruns rfl henable
    · rw [hstopping] at henable
      exact State.answers_lift hruns rfl henable
    · rcases hother with hstarting | hon
      · rw [hstarting] at henable
        exact State.answers_lift hruns rfl henable
      · rw [hon] at henable
        exact State.answers_lift hruns rfl henable
  case noId =>
    exact fun hready hp hreserved hvalid =>
      State.answers_lift hruns rfl ((Device.vxlPortEnable_eq hp hready hreserved).trans (if_pos (by simp [hvalid])))
  case disable =>
    intro hready hp hreserved stop
    have hdisable := Device.vxlPortDisable_eq hp hready hreserved
    refine ⟨fun hlife => ?_, fun hlife => ?_, fun hlife => ?_, fun hlife => ?_⟩ <;> rw [hlife] at hdisable
    · exact State.answers_lift hruns rfl (hdisable.trans (if_neg nofun))
    · exact State.answers_lift hruns rfl (hdisable.trans (if_pos rfl))
    · exact State.answers_lift hruns rfl hdisable
    · exact State.answers_lift hruns rfl hdisable
  case setId => exact fun hready hn hoff => State.answers_lift hruns rfl (Device.vxlSetId_stores hready hn hoff)
  case bearings =>
    exact fun hready hmin hmax hend hreserved hentries hdistinct =>
      State.answers_lift hruns rfl (Device.vxlBearingSet_stores hready hmin hmax hend hreserved hentries hdistinct)
  case groups =>
    exact fun hready hgroup hmax hreserved halias hdevs =>
      State.answers_lift hruns rfl (Device.vxlMcastSet_stores hready hgroup hmax hreserved halias hdevs)
  case copy =>
    exact fun x d' hready hvalid hsrc hnew =>
      State.answers_lift (f := fun d => (d.vxlMcastCopy id).pump) hruns rfl
        (congrArg Device.pump (Device.vxlMcastCopy_starts hready hvalid hsrc hnew))
  case limits =>
    exact fun hready hreserved hlag hlag' hgrant hgrant' htmo htmo' =>
      State.answers_lift hruns rfl (Device.vxlE2eConfig_stores hready hreserved hlag hlag' hgrant hgrant' htmo htmo')
  case status => exact State.answers_row hruns hready rfl rfl
  case role =>
    exact fun hready hrole hup hdown hlead hoff =>
      State.answers_lift hruns rfl (Device.vxlTickRole_stores hready hrole hup hdown hlead hoff)

end Sys2Proof.Machine
end

section
/-! SUPPORT and PROOFS. Vexlink ports and the link layer: training, retraining, acknowledgement and replay, and what
becomes of every frame that arrives. -/

namespace Sys2Proof.Machine

variable {s : State} {d : Device} {p : Nat} {h : FrameHdr} {b : FrameBody}

/-! ### Training and retraining (R334, R336, R337) -/

/-- Nothing leaves a port that is not usable. -/
theorem Device.flushPort_unusable (hport : (d.port p).usable = false) : d.flushPort p = d := by
  unfold Device.flushPort
  cases ((d.port p).held.map fun f => f.body.flits).sum with
  | zero => rfl
  | succ fuel => exact if_pos (by simp [hport])

theorem Device.portTrained_on {t : Training} {v : VxlPort} (hlife : (d.port p).life = .starting)
    (htrained : (d.port p).trained t = some v) :
    d.portTrained p t = (d.modPort p fun _ =>
      { v with life := .on, retrain := false, txSeq := 0, rxSeq := 0, sent := [], tries := 0, rxPart := none }).flushPort
        p := by
  have hmod : (d.modPort p fun v =>
      match v.trained t with
      | none => { v with good := t.good, version := if versionOf (v.versions &&& t.versions) = 0 then 0 else v.version }
      | some v => { v with life := .on, retrain := false, txSeq := 0, rxSeq := 0, sent := [], tries := 0, rxPart := none }) =
      d.modPort p fun _ =>
        { v with life := .on, retrain := false, txSeq := 0, rxSeq := 0, sent := [], tries := 0, rxPart := none } := by
    have hv : ((d.vxl.ports.getD p .reset).trained t) = some v := htrained
    simp only [Device.modPort, Device.modVxl, Tab.upd, hv]
  exact (if_neg (not_not.2 hlife)).trans (congrArg (Device.flushPort · p) hmod)

/-- A training that fails starts again. -/
theorem Device.portTrained_again {t : Training} (hlife : (d.port p).life = .starting)
    (htrained : (d.port p).trained t = none) : ((d.portTrained p t).port p).life = .starting := by
  rw [Device.portTrained, if_neg (not_not.2 hlife), Device.flushPort_unusable]
  all_goals simp only [Device.modPort_port, htrained, VxlPort.usable, hlife]
  rfl

theorem Device.portRetrain_begins (hlife : (d.port p).life = .on) (hretrain : (d.port p).retrain = false) :
    d.portRetrain p = d.modPort p fun v => { v with retrain := true, retrains := satInc v.retrains } :=
  if_neg (by simp [hlife, hretrain])

/-- More than 1,000 uncorrectable codewords in one report make a port retrain. -/
theorem Device.fecReport_retrains {n : Nat} (hlife : (d.port p).life = .on) (hretrain : (d.port p).retrain = false)
    (hn : 1000 < n) :
    ((d.fecReport p 0 n).port p).retrain = true ∧
      ((d.fecReport p 0 n).port p).retrains = satInc (d.port p).retrains ∧
      ((d.fecReport p 0 n).port p).uncorr = satAdd (d.port p).uncorr n := by
  unfold Device.fecReport
  rw [if_neg (by omega)]
  extract_lets e
  have hport : e.port p =
      { d.port p with
        corr := satAdd (d.port p).corr (((d.port p).corrSum + 0) / 1024), corrSum := ((d.port p).corrSum + 0) % 1024,
        uncorr := satAdd (d.port p).uncorr n,
        fecTimes := ((d.port p).fecTimes.filter fun e => decide (d.now ≤ e.1 + 24000000)) ++ [(d.now, n)] } :=
    Device.modPort_port _ _ _
  have hmany : 1000 < ((e.port p).fecTimes.map (·.2)).sum := by
    simp only [hport, List.map_append, List.sum_append, List.map_cons, List.map_nil, List.sum_cons, List.sum_nil]
    omega
  rw [if_pos hmany, Device.portRetrain_begins (by rw [hport]; exact hlife) (by rw [hport]; exact hretrain),
    Device.modPort_port, hport]
  exact ⟨rfl, rfl, rfl⟩

/-- A port that retrains and trains again depends on the width that it finds. -/
theorem Device.retrainDone_eq {t : Training} {w : VxlPort} (hlife : (d.port p).life = .on)
    (hretrain : (d.port p).retrain = true) (htrained : (d.port p).trained t = some w) :
    d.retrainDone p t =
      if widthLanes w.width.toNat < (d.port p).minWidth then (d.modPort p fun _ => w).retrainFail p
      else (d.modPort p fun _ =>
        { w with retrain := false, replays := satAdd w.replays w.sent.length, tries := 0, fecTimes := [] }).flushPort p := by
  refine (if_neg (by simp [hlife, hretrain])).trans ?_
  rw [htrained]

/-! ### Acknowledgement and replay (R338) -/

theorem Device.replayAll_eq (d : Device) (p : Nat) :
    d.replayAll p =
      if (d.port p).sent = [] then d
      else if 16 ≤ (d.port p).tries then d.portRetrain p
      else d.modPort p fun v => { v with replays := satAdd v.replays v.sent.length, tries := v.tries + 1 } := by
  by_cases hsent : (d.port p).sent = []
  · exact (if_pos (by simp [hsent])).trans (if_pos hsent).symm
  · exact (if_neg (by simp [hsent])).trans (if_neg hsent).symm

/-- A LINK_ACK that arrives sound. -/
theorem Device.linkAck_acks (lseq : BitVec 12) (replay : Bool) (htakes : (d.port p).takes = true) (hgood : h.good = true)
    (huncorrectable : h.uncorrectable = 0) (hcorrected : h.corrected = 0) (hreserved : h.reserved = false) :
    d.linkAck p h lseq replay =
      let left := ackFrames lseq (d.port p).sent
      let t := (d.modPort p fun v =>
        { v with sent := left, tries := if left.length = v.sent.length then v.tries else 0 }).flushPort p
      if replay then t.replayAll p else t := by
  have hfec : d.fecReport p h.corrected h.uncorrectable = d := if_pos ⟨hcorrected, huncorrectable⟩
  unfold Device.linkAck
  rw [hfec]
  exact (if_neg (by simp [htakes])).trans
    ((if_neg (by simp [hgood, huncorrectable])).trans (if_neg (by simp [hreserved])))

theorem Device.portOff_ends {id : CmdId} (hlife : (d.port p).life = .stopping) (hcmd : (d.port p).disableCmd = some id) :
    d.portOff p =
      (d.modPort p fun v =>
        { v with life := if v.pendingEnable then .starting else .off, pendingEnable := false, disableCmd := none,
                 sent := [], tries := 0, rxPart := none, retrain := false, version := 0, rate := 0,
                 width := 0 }).complete id Status.ok := by
  refine (if_neg (not_not.2 hlife)).trans ?_
  rw [hcmd]

/-! ### Frames that arrive (R338, R339, R345 to R347) -/

theorem Device.linkTake_deaf (h : FrameHdr) (b : FrameBody) (htakes : (d.port p).takes = false) :
    d.linkTake p h b = (none, d) :=
  if_pos (by simp [htakes])

/-- A frame that fails a check is answered with a replay request. -/
theorem Device.linkTake_bad (htakes : (d.port p).takes = true)
    (hbad : h.good = false ∨ h.uncorrectable ≠ 0 ∨ h.lseq ≠ (d.port p).rxSeq ∨
      (d.port p).follows (flitsOf h b).1 b = false) :
    d.linkTake p h b = (none, (d.fecReport p h.corrected h.uncorrectable).modPort p fun v =>
      { v with acks := v.acks ++ [(v.rxSeq - 1, true)] }) := by
  have hfails : ¬(h.good && h.uncorrectable == 0 && h.lseq == (d.port p).rxSeq &&
      (d.port p).follows (flitsOf h b).1 b) = true := by
    simp only [Bool.and_eq_true, beq_iff_eq]
    rintro ⟨⟨⟨h1, h2⟩, h3⟩, h4⟩
    rcases hbad with h | h | h | h
    · exact Bool.false_ne_true (h.symm.trans h1)
    · exact h h2
    · exact h h3
    · exact Bool.false_ne_true (h.symm.trans h4)
  exact (if_neg (by simp [htakes])).trans (if_neg hfails)

/-- A frame that passes the checks: a reserved TYPE is counted, and part of a transaction is kept. -/
theorem Device.linkTake_ok (hok : d.linkOk p h b) :
    d.linkTake p h b =
      if h.reserved then (none, (d.flitsTaken p h b).modPort p fun v => { v with bad := satInc v.bad })
      else if (flitsOf h b).1 + (flitsOf h b).2 < b.flits then
        (none, (d.flitsTaken p h b).modPort p fun v => { v with
            rxPart := some ((flitsOf h b).1 + (flitsOf h b).2, b) })
      else (some (d.heard p h b), d.heard p h b) := by
  obtain ⟨htakes, hgood, huncorrectable, hlseq, hfollows⟩ := hok
  have hpass : (h.good && h.uncorrectable == 0 && h.lseq == (d.port p).rxSeq &&
      (d.port p).follows (flitsOf h b).1 b) = true := by
    simp only [hgood, huncorrectable, hlseq, hfollows, beq_self_eq_true, Bool.and_true]
  exact (if_neg (by simp [htakes])).trans (if_pos hpass)

/-- A STRIKE comes as its own command. -/
theorem exec_strikeFrame {c : Instr} {p : PortIx} {tick lead : Word} {fb : Bool}
    (hframe : linkFrame c = some (p, h, .strike tick lead fb)) (s : State) :
    ∃ residence, exec c s = s.lift (Device.strikeFrame p.val h tick lead fb residence) := by
  unfold linkFrame at hframe
  split at hframe <;> cases hframe
  exact ⟨_, rfl⟩

/-- A frame that the link layer does not hand on ends there, whatever its kind. -/
theorem State.answers_notTaken {c : Instr} {p : PortIx} {t : Device} (hruns : s.runs d)
    (hframe : linkFrame c = some (p, h, b)) (hwf : c.wellFormed = true) (htake : d.linkTake p.val h b = (none, t)) :
    s.answers c t := by
  by_cases hstrike : ∃ tick lead fb, b = .strike tick lead fb
  · obtain ⟨tick, lead, fb, rfl⟩ := hstrike
    obtain ⟨residence, hexec⟩ := exec_strikeFrame hframe s
    refine State.answers_lift hruns hexec ?_
    rw [Device.strikeFrame, htake]
  · have hin : d.frameIn p.val h b = t := by rw [Device.frameIn, htake]
    rcases exec_linkFrame hframe (fun tick lead fb hb => hstrike ⟨tick, lead, fb, hb⟩) s with hexec | hexec
    · exact State.answers_lift hruns hexec hin
    · exact State.answers_liftIf hruns hexec hwf hin

/-- A frame for another device goes on with one hop less, or is refused with none left. -/
theorem Device.frameIn_onward (hhears : d.hears p h b) (hown : d.vxl.own h.dest = false)
    (halias : d.localAlias h.dest = false) :
    d.frameIn p h b =
      let f : Frame := { flit := 0, time := d.now, hops := h.hops, dest := h.dest, src := h.src, lseq := 0, body := b }
      let a := d.heard p h b
      if h.hops = 0 then (a.countRoute.refuseFrame f Nak.unreachable).pump
      else (a.modVxl fun v => { v with outbox := v.outbox ++ [{ f with hops := f.hops - 1 }] }).pump := by
  obtain ⟨g, hheard⟩ := d.heard_eq p h b
  have hown' : (d.modPort p g).vxl.own h.dest = false := hown
  have halias' : (d.modPort p g).localAlias h.dest = false := halias
  unfold Device.frameIn
  rw [Device.linkTake_hears hhears]
  simp only [hheard, Device.modPort_now]
  refine (if_neg (by rw [hown']; exact Bool.false_ne_true)).trans ?_
  refine (if_neg ?_).trans ?_
  · rw [halias']
    cases (d.modPort p g).vxl.lookup h.dest.toNat <;> simp
  · rw [halias']
    rfl

/-- Settles O38: what each command does at a port, then what the link layer makes of a frame. -/
theorem linkLayer : Obligations.LinkLayer := by
  unfold Obligations.LinkLayer
  refine ⟨?ports, ?frames⟩
  case ports =>
    intro s d p hruns
    refine ⟨?trained, ?again, ?retrain, ?fec, ?done, ?timeout, fun husable => ?replay, ?ack, ?off, ?delay⟩
    case trained =>
      exact fun t v hlife htrained => State.answers_lift hruns rfl (Device.portTrained_on hlife htrained)
    case again =>
      exact fun t hlife htrained =>
        ⟨_, State.answers_lift hruns rfl rfl, Device.portTrained_again hlife htrained⟩
    case retrain =>
      rintro c (rfl | ⟨rfl, htries⟩) hlife hretrain
      · exact State.answers_lift (f := Device.retrainFor p.val .lostLock) hruns rfl
          (Device.portRetrain_begins hlife hretrain)
      · exact State.answers_lift (f := Device.retrainFor p.val .replaysFailed) hruns rfl
          ((if_pos htries).trans (Device.portRetrain_begins hlife hretrain))
    case fec =>
      exact fun n hlife hretrain hn =>
        ⟨_, State.answers_lift (f := Device.retrainFor p.val (.fecErrors n)) hruns rfl (if_pos hlife),
          Device.fecReport_retrains hlife hretrain hn⟩
    case done =>
      intro t w hlife hretrain htrained
      have hdone := Device.retrainDone_eq hlife hretrain htrained
      exact ⟨fun hwide => State.answers_lift hruns rfl (hdone.trans (if_neg (Nat.not_lt.2 hwide))),
        fun hnarrow => State.answers_lift hruns rfl (hdone.trans (if_pos hnarrow))⟩
    case timeout =>
      exact fun hlife hretrain => State.answers_lift hruns rfl (if_pos ⟨hlife, hretrain⟩)
    case replay =>
      have hreplay : d.replay p.val = _ := (if_pos husable).trans (d.replayAll_eq p.val)
      obtain ⟨hlife, hretrain⟩ : (d.port p.val).life = .on ∧ (d.port p.val).retrain = false := by
        simpa [VxlPort.usable] using husable
      exact ⟨fun hnone => State.answers_lift hruns rfl (hreplay.trans (if_pos hnone)),
        fun hsome hfew => State.answers_lift hruns rfl
          (hreplay.trans ((if_neg hsome).trans (if_neg (Nat.not_le.2 hfew)))),
        fun hsome hmany => State.answers_lift hruns rfl
          (hreplay.trans ((if_neg hsome).trans ((if_pos hmany).trans (Device.portRetrain_begins hlife hretrain))))⟩
    case ack =>
      intro h lseq htakes hgood huncorrectable hcorrected hreserved left t
      have hack (replay : Bool) :=
        Device.linkAck_acks lseq replay htakes hgood huncorrectable hcorrected hreserved
      exact ⟨State.answers_lift hruns rfl (hack false), State.answers_lift hruns rfl (hack true)⟩
    case off => exact fun id hlife hcmd => State.answers_lift hruns rfl (Device.portOff_ends hlife hcmd)
    case delay =>
      exact fun ps hlife => State.answers_lift
        (f := fun d => if (d.port p.val).life = .on then d.modPort p.val fun v => { v with delay := ps } else d)
        hruns rfl (if_pos hlife)
  case frames =>
    intro s d c p h b hruns hframe hwf
    have notTaken {t : Device} := State.answers_notTaken (t := t) hruns hframe hwf
    refine ⟨fun hdeaf => notTaken (Device.linkTake_deaf h b hdeaf),
      fun htakes hbad => notTaken (Device.linkTake_bad htakes hbad),
      fun hok hreserved => notTaken ((Device.linkTake_ok hok).trans (if_pos hreserved)),
      fun hok hreserved hpart => notTaken
        ((Device.linkTake_ok hok).trans ((if_neg (by simp [hreserved])).trans (if_pos hpart))), ?onward⟩
    case onward =>
      intro hhears hstrike hown halias f a
      have hin := Device.frameIn_onward hhears hown halias
      have answers {t : Device} (ht : d.frameIn p.val h b = t) : s.answers c t := by
        rcases exec_linkFrame hframe hstrike s with hexec | hexec
        · exact State.answers_lift hruns hexec ht
        · exact State.answers_liftIf hruns hexec hwf ht
      exact ⟨fun hlast => answers (hin.trans (if_pos hlast)), fun hmore => answers (hin.trans (if_neg hmore))⟩

end Sys2Proof.Machine
end

section
/-! SUPPORT and PROOFS. Answers of another device: what each does with the transaction, transfer or copy that waits for
it. -/

namespace Sys2Proof.Machine

variable {s : State} {d : Device} {src : BitVec 18} {tid : Word64} {o : Outstanding} {t : Transfer}

/-! ### A port that takes an answer leaves what waits for it (R338) -/

section
variable (d : Device) (p : Nat) (h : FrameHdr) (b : FrameBody)

theorem Device.heard_running : (d.heard p h b).vxl.running = d.vxl.running := by
  obtain ⟨f, hf⟩ := d.heard_eq p h b
  rw [hf]
  rfl

theorem Device.heard_transferOf (tid : Word64) : (d.heard p h b).transferOf tid = d.transferOf tid := by
  rw [Device.transferOf, Device.heard_running, Device.transferOf]

theorem Device.heard_findOut (tid : Word64) : (d.heard p h b).findOut tid = d.findOut tid := by
  obtain ⟨f, hf⟩ := d.heard_eq p h b
  rw [hf]
  rfl

theorem Device.heard_findCmd (id : CmdId) : (d.heard p h b).findCmd id = d.findCmd id := by
  obtain ⟨f, hf⟩ := d.heard_eq p h b
  rw [hf]
  rfl

theorem Device.heard_ep (die e : Nat) : (d.heard p h b).ep die e = d.ep die e := by
  obtain ⟨f, hf⟩ := d.heard_eq p h b
  rw [hf]
  rfl

theorem Device.heard_engineFree (die : Nat) : (d.heard p h b).engineFree die = d.engineFree die := by
  obtain ⟨f, hf⟩ := d.heard_eq p h b
  rw [hf]
  rfl

theorem Device.heard_engineReaches (u : Nat) : (d.heard p h b).engineReaches u = d.engineReaches u := by
  obtain ⟨f, hf⟩ := d.heard_eq p h b
  rw [hf]
  rfl

end

/-! ### Acknowledgements and NAKs (R352, R353, R357, R361) -/

theorem Device.rxAck_txn (hnone : d.transferOf tid = none) (hout : d.findOut tid = some o) (hread : o.kind ≠ .read)
    (hcredit : o.kind ≠ .credit) (hsent : o.waiting = false) : d.rxAck src tid = d.txnDone o := by
  simp [Device.rxAck, hnone, hout, hread, hcredit, hsent]

theorem Device.rxAck_transfer (htransfer : d.transferOf tid = some t) :
    d.rxAck src tid =
      (d.modTransfer t.xfer fun t =>
        { t with sent := t.sent.map fun q =>
            if q.2.1 == tid && !q.2.2.contains src then (q.1, q.2.1, src :: q.2.2) else q }).mcastPump t.xfer := by
  rw [Device.rxAck, htransfer]

/-- A NAK of a transaction that has been sent and has no data yet. -/
theorem Device.rxNak_txn (reason : Nat)
    (hnone : (d.vxl.running.find? fun t => t.credit == some tid || t.sent.any fun q => q.2.1 == tid) = none)
    (hout : d.findOut tid = some o) (hsent : o.waiting = false) (hdata : o.data = none) :
    d.rxNak src tid reason 0 =
      if nakResends reason then d.resendOr o fun d => d.txnFail o reason else d.txnFail o reason := by
  simp [Device.rxNak, hnone, hout, hsent, hdata]

theorem Device.rxNak_transfer (reason : Nat)
    (htransfer : (d.vxl.running.find? fun t => t.credit == some tid || t.sent.any fun q => q.2.1 == tid) = some t) :
    d.rxNak src tid reason 0 = if nakResends reason then d else d.prune t.xfer src := by
  simp only [Device.rxNak, htransfer, ne_eq, not_true_eq_false, if_false]

theorem Device.resendOr_resends (fail : Device → Device) (hleft : o.resends < o.retries) :
    d.resendOr o fail =
      ((d.modOut o.tid fun o => { o with resends := o.resends + 1 }).modVxl fun v =>
        { v with resends := satInc v.resends }).post o.dest o.frame :=
  if_pos hleft

theorem Device.resendOr_fails (fail : Device → Device) (hnone : o.retries ≤ o.resends) : d.resendOr o fail = fail d :=
  if_neg (Nat.not_lt.2 hnone)

/-! ### GRANT (R355) -/

section
variable (hnone : (d.vxl.running.find? fun t => t.credit == some tid) = none) (hout : d.findOut tid = some o)
  (hcredit : o.kind = .credit)
include hnone hout hcredit

theorem Device.rxGrant_opens {u c : Nat} (hsite : o.site = some (u, c)) :
    d.rxGrant src tid false = (d.dropOut tid).modCtx u c fun k => { k with credit := 2 } := by
  simp [Device.rxGrant, hnone, hout, hcredit, hsite]

theorem Device.rxGrant_queues : d.rxGrant src tid true = d.modOut tid fun o => { o with queued := true } := by
  simp [Device.rxGrant, hnone, hout, hcredit]

end

/-! ### Placements (R295, R363) -/

/-- The result of a placement reaches its engine, or is owed to it. -/
theorem Device.rxPlaceResp_eq {die e : Nat} (res : PlaceResult) (row : Nat) (hout : d.findOut tid = some o)
    (hplacement : o.kind = .placement die e) (hwaits : (d.ep die e).waitReply = true) (howed : (d.ep die e).owed = none) :
    d.rxPlaceResp src tid res row =
      if d.engineFree die && d.engineReaches (epSite die (d.ep die e).record) then
        (d.dropOut tid).remotePlaced die e src res row
      else (d.dropOut tid).modEp die e fun x => { x with owed := some (.placed src res row) } := by
  have hep : (d.dropOut tid).ep die e = d.ep die e := rfl
  simp only [Device.rxPlaceResp, hout, hplacement, hep, hwaits, if_true, Device.answerSend, howed, Option.isSome_none,
    Bool.false_eq_true, if_false]
  rfl

/-! ### Data (R352, R354, R357, R405) -/

theorem Device.originate_findCmd (d : Device) (orig : Nat) (dest : BitVec 18) (kind : TxnKind)
    (mk : Word64 → FrameBody) (site : Option (Nat × Nat)) (cmd : Option CmdId) (lasts : List Bool) (hold : Bool)
    (id : CmdId) : (d.originate orig dest kind mk site cmd lasts hold).findCmd id = d.findCmd id := by
  unfold Device.originate Device.nextTid
  dsimp only
  split <;> rfl

/-- A part of a copy that goes on to another device leaves the command with its parameters. -/
theorem Device.copyPut_remote {id : CmdId} {c : Cmd} (bs : List (Byte × Bool)) (hfind : d.findCmd id = some c)
    (hdst : copyDstKind c.params = 3) :
    ∃ c', (d.copyPut id bs).findCmd id = some c' ∧ c'.params = c.params := by
  simp only [Device.copyPut, hfind, hdst, Device.originate_findCmd]
  have hid : c.id = id := Device.findCmd_id hfind
  exact ⟨_, Device.findCmd_modCmd hfind hid, rfl⟩

section
variable {x : Txn} (hout : d.findOut x.tid = some o) (hread : o.kind = .read) (hdata : o.data = none)
  (hlen : x.data.length = o.frame.asked)
include hout hread hdata hlen

/-- Data of a read for the grid wait for the reads before it. -/
theorem Device.rxData_grid {u c : Nat} (hcmd : o.cmd = none) (hsite : o.site = some (u, c)) :
    d.rxData x = (d.modOut o.tid fun o => { o with data := some (txnBytes x) }).deliverReads u c 64 := by
  simp [Device.rxData, hout, hread, hdata, hlen, hcmd, hsite]

theorem Device.rxData_copy {id : CmdId} {c : Cmd} (hcmd : o.cmd = some id) (hfind : d.findCmd id = some c)
    (hdst : copyDstKind c.params = 3) : d.rxData x = (d.dropOut o.tid).copyPut id (txnBytes x) := by
  obtain ⟨c', hfind', hparams⟩ := Device.copyPut_remote (d := d.dropOut o.tid) (txnBytes x) hfind hdst
  simp [Device.rxData, hout, hread, hdata, hlen, hcmd, hfind', hparams, hdst]

end

/-- Settles O40: what reaches the sender is received there, and each answer has its lemma. -/
theorem answersReachTheirSender : Obligations.AnswersReachTheirSender := by
  unfold Obligations.AnswersReachTheirSender
  intro s d p h hruns hhere
  refine ⟨?ack, ?nak, ?nakMulticast, ?grant, ?placeResp, ?data⟩
  case ack =>
    intro tid hhears a
    have received {t : Device} (ht : a.rxAck h.src tid = t) : s.answers (.ack p h tid) t.pump :=
      State.answers_receive hruns hhere rfl rfl hhears nofun ht
    refine ⟨fun o hnone hout hread hcredit hsent => ?_, fun t htransfer => ?_⟩
    · exact received (Device.rxAck_txn ((d.heard_transferOf _ _ _ _).trans hnone)
        ((d.heard_findOut _ _ _ _).trans hout) hread hcredit hsent)
    · exact received (Device.rxAck_transfer ((d.heard_transferOf _ _ _ _).trans htransfer))
  case nak =>
    intro tid reason hhears a
    have received {t : Device} (ht : a.rxNak h.src tid reason.toNat 0 = t) : s.answers (.nak p h tid reason 0) t.pump :=
      State.answers_receive hruns hhere rfl rfl hhears nofun ht
    have hrunning : a.vxl.running = d.vxl.running := d.heard_running _ _ _
    refine ⟨fun o hnone hout hsent hdata => ?_, fun t htransfer => ?_⟩
    · have hnak := Device.rxNak_txn (d := a) (src := h.src) reason.toNat (by rw [hrunning]; exact hnone)
        ((d.heard_findOut _ _ _ _).trans hout) hsent hdata
      refine ⟨fun hresends hleft => ?_, fun hfails => ?_⟩
      · exact received (hnak.trans ((if_pos hresends).trans (Device.resendOr_resends _ hleft)))
      · by_cases hresends : nakResends reason.toNat = true
        · have hout : o.retries ≤ o.resends := hfails.resolve_left (by simp [hresends])
          exact received (hnak.trans ((if_pos hresends).trans (Device.resendOr_fails _ hout)))
        · exact received (hnak.trans (if_neg hresends))
    · exact received (Device.rxNak_transfer _ (by rw [hrunning]; exact htransfer))
  case nakMulticast =>
    exact fun tid reason x hhears hx => State.answers_receive hruns hhere rfl rfl hhears nofun (if_pos hx)
  case grant =>
    intro tid o hnone hout hcredit
    refine ⟨fun u c hsite hhears => ?_, fun hhears => ?_⟩
    · exact State.answers_receive hruns hhere rfl rfl hhears nofun
        (Device.rxGrant_opens (by rw [Device.heard_running]; exact hnone) ((d.heard_findOut _ _ _ _).trans hout)
          hcredit hsite)
    · exact State.answers_receive hruns hhere rfl rfl hhears nofun
        (Device.rxGrant_queues (by rw [Device.heard_running]; exact hnone) ((d.heard_findOut _ _ _ _).trans hout)
          hcredit)
  case placeResp =>
    intro tid o die e res row hhears hout hplacement hwaits howed a
    have hep : a.ep die e = d.ep die e := d.heard_ep _ _ _ _ _
    have hplace := Device.rxPlaceResp_eq (d := a) (src := h.src) res row.toNat ((d.heard_findOut _ _ _ _).trans hout)
      hplacement (by rw [hep]; exact hwaits) (by rw [hep]; exact howed)
    rw [hep, Device.heard_engineFree, Device.heard_engineReaches] at hplace
    have received {t : Device} (ht : a.rxPlaceResp h.src tid res row.toNat = t) :
        s.answers (.placeResp p h tid res row) t.pump :=
      State.answers_receive hruns hhere rfl rfl hhears nofun ht
    refine ⟨fun hfree hreaches => ?_, fun hbusy => ?_⟩
    · exact received (hplace.trans (if_pos (by rw [hfree, hreaches]; rfl)))
    · refine received (hplace.trans (if_neg ?_))
      rw [Bool.and_eq_true]
      rintro ⟨hfree, hreaches⟩
      rcases hbusy with hbusy | hbusy
      · exact Bool.false_ne_true (hbusy.symm.trans hfree)
      · exact Bool.false_ne_true (hbusy.symm.trans hreaches)
  case data =>
    intro t o hout hread hdata hlen
    have hout' (b : FrameBody) : (d.heard p.val h b).findOut t.tid = some o := (d.heard_findOut _ _ _ _).trans hout
    refine ⟨fun u c hcmd hsite => ⟨fun hwf hhears => ?_, fun hwf hhears => ?_⟩, fun id c hcmd hfind hdst hwf hhears => ?_⟩
    · exact State.answers_receive hruns hhere rfl hwf hhears nofun
        (Device.rxData_grid (hout' _) hread hdata hlen hcmd hsite)
    · exact State.answers_receive hruns hhere rfl hwf hhears nofun
        (Device.rxData_grid (hout' _) hread hdata hlen hcmd hsite)
    · exact State.answers_receive hruns hhere rfl hwf hhears nofun
        (Device.rxData_copy (hout' _) hread hdata hlen hcmd ((d.heard_findCmd _ _ _ _).trans hfind) hdst)

end Sys2Proof.Machine
end

section
/-! SUPPORT and PROOFS. Limits that run out, and what a member of a swarm does with a STRIKE. -/

namespace Sys2Proof.Machine

variable {s : State} {d : Device} {tid : Word64} {o : Outstanding} {t : Transfer} {p : Nat} {f : Frame}

/-! ### Limits (R347, R353, R355, R361) -/

theorem Device.holdExpiry_refuses (hheld : ((d.port p).held.find? fun f => f.flit == 0) = some f) :
    d.holdExpiry p =
      ((d.modPort p fun v => { v with held := v.held.erase f }).countHold.refuseFrame f Nak.unreachable).pump := by
  rw [Device.holdExpiry, hheld]

/-- A transaction that has been sent and has no answer is resent, or fails. -/
theorem Device.e2eTimeout_eq (hout : d.findOut tid = some o) (hsent : o.waiting = false) (hqueued : o.queued = false)
    (hdata : o.data = none) :
    d.e2eTimeout tid =
      (d.resendOr o fun d => (d.modVxl fun v => { v with timeouts := satInc v.timeouts }).txnFail o Nak.timeout).pump := by
  simp [Device.e2eTimeout, hout, hsent, hqueued, hdata]

theorem Device.grantLimit_withdraws (hout : d.findOut tid = some o) (hcredit : o.kind = .credit) :
    d.grantLimit tid = ((d.post o.dest (.withdraw tid)).txnFail o Nak.noGrant).pump := by
  simp [Device.grantLimit, hout, hcredit]

/-- A receiver for which alone a transfer waits is pruned. -/
theorem Device.mcastLag_prunes {x : Word} {dev : BitVec 18} (htransfer : d.findTransfer x = some t)
    (hwaits : t.clean.waitsFor ≠ []) (halone : ∀ r ∈ t.clean.waitsFor, r = dev) :
    d.mcastLag x dev = (d.prune x dev).pump := by
  obtain ⟨r, hr⟩ := List.exists_mem_of_ne_nil _ hwaits
  have hmem : dev ∈ t.clean.waitsFor := halone r hr ▸ hr
  have hall : (t.clean.waitsFor.contains dev && t.clean.waitsFor.all (· == dev)) = true := by
    simpa [hmem] using halone
  rw [Device.mcastLag, htransfer]
  exact if_pos hall

/-! ### What a port sends is a matter of Vexlink alone (R338, R341, R366) -/

theorem Device.refuseFrame_frame (d : Device) (f : Frame) (reason : Nat) :
    ∃ v, d.refuseFrame f reason = { d with vxl := v } := by
  unfold Device.refuseFrame
  split <;> exact ⟨_, rfl⟩

theorem Device.flushAux_frame (p fuel : Nat) (d : Device) : ∃ v, Device.flushAux p fuel d = { d with vxl := v } := by
  induction fuel generalizing d with
  | zero => exact ⟨_, rfl⟩
  | succ fuel ih =>
    unfold Device.flushAux
    dsimp only
    split
    · exact ⟨_, rfl⟩
    · split
      · exact ⟨_, rfl⟩
      · next f _ =>
        split
        · obtain ⟨_, hrefuse⟩ := (d.modPort p fun v => { v with held := v.held.erase f }).refuseFrame_frame f 7
          obtain ⟨v, hflush⟩ := ih ((d.modPort p fun v => { v with held := v.held.erase f }).refuseFrame f 7)
          exact ⟨v, hflush.trans (by rw [hrefuse]; rfl)⟩
        · exact ih _

theorem Device.portSend_frame (d : Device) (p : Nat) (f : Frame) : ∃ v, d.portSend p f = { d with vxl := v } :=
  Device.flushAux_frame _ _ _

theorem Device.sendStrikes_frame (d : Device) (f : Frame) (tick : Word) (leadPs : Int) (fb : Bool)
    (residence : List Nat) : ∃ v, d.sendStrikes f tick leadPs fb residence = { d with vxl := v } := by
  unfold Device.sendStrikes
  refine List.foldlRecOn (motive := fun e : Device => ∃ v, e = { d with vxl := v }) _ _ ⟨_, rfl⟩ ?_
  rintro e ⟨v, rfl⟩ k -
  split
  · exact Device.portSend_frame _ _ _
  · exact ⟨_, rfl⟩

/-! ### STRIKE at a member (R366 to R369) -/

/-- A strike's way on to the ports of the DOWN mask, or its end with no hop left. -/
def Device.forwardStrike (d : Device) (f : Frame) (tick : Word) (leadPs : Int) (fb : Bool) (residence : List Nat) :
    Device :=
  if f.hops = 0 then d.countRoute
  else d.sendStrikes { f with hops := f.hops - 1 } tick leadPs fb residence

theorem Device.forwardStrike_frame (d : Device) (f : Frame) (tick : Word) (leadPs : Int) (fb : Bool)
    (residence : List Nat) : ∃ v, d.forwardStrike f tick leadPs fb residence = { d with vxl := v } := by
  unfold Device.forwardStrike
  split
  · exact ⟨_, rfl⟩
  · exact Device.sendStrikes_frame _ _ _ _ _ _

/-- A strike becomes known, to be taken at `time`. -/
def Device.announce (d : Device) (tick : Word) (time : Nat) (fb : Bool) : Device :=
  d.modVxl fun v => { v with announced := v.announced ++ [(tick.toNat, time, fb)] }

/-- A device that strikes, or will, for a tick that is not known yet. -/
structure Device.MemberStrikes (d : Device) (p : Nat) (tick : Word) : Prop where
  role : d.vxl.role = 2
  port : p = d.vxl.up.toNat
  fresh : (d.vxl.struckNos.contains tick || d.vxl.announced.any fun e => e.1 == tick.toNat) = false
  source : d.tick.cfg.source = .swarm
  configured : d.tick.configured = true
  life : d.tick.life = .starting ∨ d.tick.life = .on

section
variable {tick lead : Word} {fb : Bool} {residence : List Nat}

theorem Device.takeStrike_ignored (hrole : d.vxl.role = 2)
    (hother : p ≠ d.vxl.up.toNat ∨
      (d.vxl.struckNos.contains tick || d.vxl.announced.any fun e => e.1 == tick.toNat) = true) :
    d.takeStrike p f tick lead fb residence = d.modVxl fun v => { v with ignored := satInc v.ignored } := by
  rw [Bool.or_eq_true] at hother
  exact (if_neg (not_not.2 hrole)).trans (if_pos hother)

/-- What a member makes of a strike that it takes: it warns of one that comes late, sends it on, and announces it. -/
theorem Device.takeStrike_taken (hmember : d.MemberStrikes p tick) :
    d.takeStrike p f tick lead fb residence =
      let e := if lead.toInt < 0 then (d.modVxl fun v => { v with late := satInc v.late }).raiseHub 0xFF 0x63 lead else d
      let t := (e.forwardStrike f tick (1000 * lead.toInt) fb residence).announce tick (d.now + ns lead.toInt.toNat) fb
      if lead.toInt ≤ 0 then t.announcedStrike else t := by
  obtain ⟨hrole, hport, hfresh, hsource, hconfigured, hlife⟩ := hmember
  rw [Bool.or_eq_false_iff] at hfresh
  obtain ⟨hstruck, hannounced⟩ := hfresh
  unfold Device.takeStrike
  extract_lets v ahead e g
  have he : e.now = d.now ∧ e.tick = d.tick := by
    dsimp only [e]
    split <;> exact ⟨rfl, rfl⟩
  obtain ⟨w, hg⟩ : ∃ w, g = { e with vxl := w } := e.forwardStrike_frame f tick (1000 * ahead) fb residence
  have hgnow : g.now = d.now := by rw [hg]; exact he.1
  have hglife : g.tick.life = .starting ∨ g.tick.life = .on := by
    rw [hg]
    exact he.2 ▸ hlife
  refine (if_neg (not_not.2 hrole)).trans ((if_neg ?_).trans ((if_neg ?_).trans ((if_pos hglife).trans ?_)))
  · rintro (h | h | h)
    · exact h hport
    · exact Bool.false_ne_true (hstruck.symm.trans h)
    · exact Bool.false_ne_true (hannounced.symm.trans h)
  · simp [hsource, hconfigured]
  · exact congrArg (fun now =>
      let t := g.announce tick (now + ns ahead.toNat) fb
      if ahead ≤ 0 then t.announcedStrike else t) hgnow

end

theorem Device.heard_now (d : Device) (q : Nat) (h : FrameHdr) (b : FrameBody) : (d.heard q h b).now = d.now := by
  obtain ⟨g, hg⟩ := d.heard_eq q h b
  rw [hg]
  rfl

/-- What a member knows of the swarm is no part of the port that hears a strike. -/
theorem Device.MemberStrikes.heard {tick : Word} (hmember : d.MemberStrikes p tick) (q : Nat) (h : FrameHdr)
    (b : FrameBody) : (d.heard q h b).MemberStrikes p tick := by
  obtain ⟨g, hg⟩ := d.heard_eq q h b
  obtain ⟨hrole, hport, hfresh, hsource, hconfigured, hlife⟩ := hmember
  rw [hg]
  exact ⟨hrole, hport, hfresh, hsource, hconfigured, hlife⟩

theorem Device.strikeFrame_takes {h : FrameHdr} {tick lead : Word} {fb : Bool} (residence : List Nat)
    (hhears : d.hears p h (.strike tick lead fb)) :
    d.strikeFrame p h tick lead fb residence =
      (d.heard p h (.strike tick lead fb)).takeStrike p
        { flit := 0, time := d.now, hops := h.hops, dest := h.dest, src := h.src, lseq := 0, body := .strike tick lead fb }
        tick lead fb residence := by
  obtain ⟨g, hg⟩ := d.heard_eq p h (.strike tick lead fb)
  unfold Device.strikeFrame
  rw [Device.linkTake_hears hhears]
  simp only [hg, Device.modPort_now]

/-- Settles O41: one lemma for each limit, and the cases of a strike. -/
theorem limitsAndStrikes : Obligations.LimitsAndStrikes := by
  unfold Obligations.LimitsAndStrikes
  intro s d hruns
  refine ⟨?held, ?timeout, ?grant, ?lag, fun dev orig => ?source, ?strike⟩
  case held => exact fun p f hheld => State.answers_lift hruns rfl (Device.holdExpiry_refuses hheld)
  case timeout =>
    intro tid o hout hsent hqueued hdata
    have htimeout := Device.e2eTimeout_eq hout hsent hqueued hdata
    exact ⟨fun hleft => State.answers_lift hruns rfl
        (htimeout.trans (congrArg Device.pump (Device.resendOr_resends _ hleft))),
      fun hnone => State.answers_lift hruns rfl
        (htimeout.trans (congrArg Device.pump (Device.resendOr_fails _ hnone)))⟩
  case grant =>
    exact fun tid o hout hcredit => State.answers_lift hruns rfl (Device.grantLimit_withdraws hout hcredit)
  case lag =>
    exact fun x dev t htransfer hwaits halone =>
      State.answers_lift hruns rfl (Device.mcastLag_prunes htransfer hwaits halone)
  case source =>
    exact State.answers_lift
      (f := fun d => d.modVxl fun v => { v with src := v.src.filter fun e => !(e.device == dev && e.orig == orig) })
      hruns rfl rfl
  case strike =>
    intro p h tick lead fb residence hhears a known f onward
    have htakes := Device.strikeFrame_takes residence hhears
    have answers {t : Device} (ht : a.takeStrike p.val
        { flit := 0, time := d.now, hops := h.hops, dest := h.dest, src := h.src, lseq := 0, body := .strike tick lead fb }
        tick lead fb residence = t) : s.answers (.strike p h tick lead fb residence) t :=
      State.answers_lift hruns rfl (htakes.trans ht)
    obtain ⟨g, hg⟩ : ∃ g, a = d.modPort p.val g := d.heard_eq _ _ _
    have hvxl : a.vxl.role = d.vxl.role ∧ a.vxl.up = d.vxl.up ∧ a.vxl.struckNos = d.vxl.struckNos ∧
        a.vxl.announced = d.vxl.announced := by
      rw [hg]
      exact ⟨rfl, rfl, rfl, rfl⟩
    obtain ⟨harole, haup, hastruck, haannounced⟩ := hvxl
    refine ⟨fun hrole => ?other, fun hrole hignored => ?ignored, fun hrole hport hfresh hsource hconfigured hlife => ?taken⟩
    case other => exact answers (if_pos (by rw [harole]; exact hrole))
    case ignored =>
      exact answers (Device.takeStrike_ignored (by rw [harole]; exact hrole)
        (by rw [haup, hastruck, haannounced]; exact hignored))
    case taken =>
      have hmember : d.MemberStrikes p.val tick := ⟨hrole, hport, hfresh, hsource, hconfigured, hlife⟩
      have htaken := Device.takeStrike_taken (lead := lead) (fb := fb) (residence := residence)
        (f := { flit := 0, time := d.now, hops := h.hops, dest := h.dest, src := h.src, lseq := 0,
                body := .strike tick lead fb })
        (hmember.heard p.val h (.strike tick lead fb))
      rw [Device.heard_now] at htaken
      refine ⟨fun hahead => ?_, fun hlate => ?_⟩
      · rw [if_neg (by omega), if_neg (by omega)] at htaken
        exact answers htaken
      · rw [if_pos hlate, if_pos (by omega), Int.toNat_of_nonpos (by omega)] at htaken
        exact answers htaken

end Sys2Proof.Machine
end
